-- ==== Sys2Proof/Word.lean ====
section
/-! DEFINITION. The word types of the HT-3 model: bit vectors for what the manual treats as bits (R6), bounded
indices for the units it numbers (R13, R14). -/

namespace Sys2Proof

abbrev Byte := BitVec 8
abbrev W16 := BitVec 16
abbrev W32 := BitVec 32
abbrev W64 := BitVec 64
/-- 256 B: a vector register, a local line, a flit payload (R38, R153). -/
abbrev Line := BitVec 2048
/-- 64 B: a scratchpad granule, a scale line (R169). -/
abbrev Gran := BitVec 512

abbrev CoreIx := Fin 144
abbrev CtxIx := Fin 4
abbrev SecIx := Fin 12
abbrev SReg := Fin 32
abbrev AReg := Fin 16
abbrev SlotIx := Fin 16

end Sys2Proof
end

