-- ==== Sys2Proof/Syntax.lean ====
section
/-! DEFINITION. The commands of the block: one constructor of `Instr` for each row of spec/opcode_table.json, with
the operands the row's step needs. What the device itself holds is in State; what arrives from outside (a bus
response, a packet, a sensor value, a finding of the physical world) is an operand. -/

namespace Sys2Proof

/-- The n of a K-format instruction: an immediate, or S[rs][15:0] when SRC = 1 (Encoding table of chapter 06). -/
inductive NOp where
  | imm (n : W16)
  | reg (rs : SReg)
deriving DecidableEq, Repr

/-- A requester of BAR0 accesses (R407). -/
inductive Req where
  | host | mgmt | fw
deriving DecidableEq, Repr

/-- The two mailbox paths (R395). -/
inductive Path where
  | host | mgmt
deriving DecidableEq, Repr

/-- The two Girth lanes and stations: 0 outer, 1 inner (R38, R44). -/
inductive Lane where
  | outer | inner
deriving DecidableEq, Repr

/-- The two sides of a core on the side channel and the neighbour wires (R177). -/
inductive Side where
  | up | down
deriving DecidableEq, Repr

/-- What a read of a checked word finds: in stacked memory (R287), in the scratchpad (R172). -/
inductive Ecc where
  | clean | corrected | uncorrectable
deriving DecidableEq, Repr

/-- What a read of more than one checked word finds: a byte address in each word with an error, and the error. Words not listed
are clean. -/
abbrev Finds := List (Nat × Ecc)

/-- The five MMA shapes (R77). -/
inductive Shape where
  | f | h | q | n | s
deriving DecidableEq, Repr

/-- The fields of an M-slot instruction (R138). `xb` holds COLSEL in MMA.N. -/
structure MFields where
  acc : Bool
  keep : Bool
  ends : Bool
  chain : Bool
  dest : BitVec 3
  lg : BitVec 13
  xa : Fin 8
  xb : Fin 8
  la : Fin 16
  dn : BitVec 5
  xu : BitVec 2
  au : Bool
  du : Bool
deriving DecidableEq, Repr

/-- The fields of a GINJ (R144): `nf` 0 means 4,096. -/
structure GinjFields where
  tr : Fin 8
  trans : Bool
  fp32 : Bool
  ba : Fin 16
  au : Bool
  nf : BitVec 12
  xu : BitVec 2
deriving DecidableEq, Repr

/-- The fields of a GCAP (R144); SINK is the row GCAP.S. -/
structure GcapFields where
  station : Lane
  ba : Fin 16
  au : Bool
  cs : Bool
  chk : Bool
  tr : Fin 8
deriving DecidableEq, Repr

/-- The target of a TSIG (R151). -/
inductive TsigTarget where
  | own | up | down
deriving DecidableEq, Repr

/-- The fields TRSET and TRADD name (R152). -/
inductive TrField where
  | tile | kblock | stream | injector | format | control
deriving DecidableEq, Repr

/-- The 64 B header of a Hyfalon link packet but for its link field, and its payload (R323). `rest` is bytes 63:60. -/
structure Packet where
  ptype : Byte
  pflags : Byte
  len : W16
  dest : W32
  src : W32
  tag : W16
  ver : Byte
  reason : Byte
  addr : W64
  deadline : W32
  step : W32
  coll : W16
  epoch : Byte
  orig : Byte
  segno : W32
  arg : W64
  payload : List Byte
  rest : W32 := 0
deriving DecidableEq, Repr

/-- What a frame bears for its hop alone (R323, R326): the link field with number, ACK, RETRY and the credits of class 0 and class 1 that
it returns (31 bits, whose division the manual does not give: DESIGN CHOICE, log 112), and HCRC. Of a received frame, `good` says that FEC
has corrected every symbol error, and `corr` in how many codewords. -/
structure FrameLink where
  lseq : W16
  ack : W16
  retry : Bool
  good : Bool
  corr : W32
  credit0 : BitVec 16 := 0
  credit1 : BitVec 15 := 0
  hcrc : W32 := 0
deriving DecidableEq, Repr

/-- A frame as it comes over a link: what it bears for its hop, and its packet. -/
structure Frame where
  link : FrameLink
  pkt : Packet
deriving DecidableEq, Repr

/-- A partner's MGMT capability frame (R328): its address, the highest version it speaks, whether its lanes run at 400 Gb/s, and its
feature bits, in the order of the table: SEG1K, DEADLINE, EPOCH, residence-time correction, MIRROR (DESIGN CHOICE, log 112). -/
structure Caps where
  src : W32
  version : Byte
  rate400 : Bool
  feats : BitVec 5
deriving DecidableEq, Repr

/-- One index that another rank routes to this device (R272): source rank, list entry, bag, position k, row, and
for WSUM its weight. -/
structure RoutedIx where
  rank : Nat
  entry : Nat
  bag : Nat
  k : Nat
  row : Nat
  weight : W32
deriving DecidableEq, Repr

/-- A partial bag travelling between ranks (R273, R274). -/
structure Partial where
  rank : Nat
  entry : Nat
  bag : Nat
  vals : List W32
  args : List Nat
  poison : Bool
deriving DecidableEq, Repr

/-- One gradient row routed to its owner (R277). -/
structure GradRow where
  rank : Nat
  entry : Nat
  bag : Nat
  k : Nat
  row : Nat
  vals : List W32
  poison : Bool
deriving DecidableEq, Repr

/-- The contribution of one member of a group to the units this device owns (R331), or the shard it owns (R333),
as FP32 words or raw words in element order, with its poison by 64 B granule. -/
structure Contribution where
  rank : Nat
  step : W32
  vals : List W32
  poison : List Bool
deriving DecidableEq, Repr

/-- A collective that times out (R335): the member that is missing, and what has arrived of the others: the routed indices or gradient
rows of a LOOKUP, the partials of an EXCHANGE, the contributions or shards of a REDUCE or GATHER. -/
structure Arrived where
  missing : W32
  routed : List RoutedIx
  grads : List GradRow
  parts : List Partial
  peers : List Contribution
deriving DecidableEq, Repr

/-- A candidate of a time-master election: FT_CTRL.PRIO, identity number, MASTER_ELIGIBLE, and the tree the
election builds seen from this device: its depth and upstream port if that candidate wins (R24, R26). -/
structure Candidate where
  prio : Byte
  idn : W64
  eligible : Bool
  depth : Byte
  port : Fin 8
deriving DecidableEq, Repr

/-- What the boot ROM finds in one firmware slot (R387): whether the signature verifies, the versions, the SM3 digests of the image and of
its coefficient table, and the task-signing keys that it carries (R366, R393). -/
structure FwImage where
  valid : Bool
  svn : W16
  build : Byte
  minor : Byte
  major : Byte
  digest : BitVec 256 := 0
  coef : BitVec 256 := 0
  keys : List (BitVec 512) := []
deriving DecidableEq, Repr

/-- What is fixed at manufacture: in fuses the identity number, the stepping B0, SIGNED_TASKS, the minimum SVN and the private identity
key; in flash the device certificate chain (R386, R387, R391, R393). -/
structure Fuses where
  idn : W64
  b0 : Bool
  signedTasks : Bool
  minSvn : W16
  idKey : BitVec 256 := 0
  chain : List Byte := []
deriving DecidableEq, Repr

/-- What a companion's completion entry says of a descriptor (R258): STATUS and SKIPPED. -/
structure RhReport where
  status : Byte
  skipped : W32
deriving DecidableEq, Repr

/-- How the host commits HDM decoder 0 (R305): the host physical address of the window, and its interleave. -/
structure HdmDecoder where
  base : W64
  ways : Nat
  gran : Nat
deriving DecidableEq, Repr

/-- One request of another device's or the host's agents to stacked memory through a port. -/
structure ExtReq where
  write : Bool
  addr : W64
  bytes : List Byte
  len : Nat
  poison : Bool
deriving DecidableEq, Repr

/-- An answer to a slow-tier request (R304). -/
inductive SlowAnswer where
  | data (bytes : List Byte) (poison : Bool)
  | done
  | error
deriving DecidableEq, Repr

/-- The kinds of SPDM exchange the manual describes (R392). -/
inductive Spdm where
  | measurements (version : Nat)
  | certificate
  | session (id : W64) (authenticated : Bool)
  | ideKey (inSession : Bool)
deriving DecidableEq, Repr

/-- The steps of a PLDM firmware update (R394, R401). -/
inductive FwUpdate where
  | start (svn : W16)
  | finish (img : FwImage)
  | fail (svn : W16)
deriving DecidableEq, Repr

/-- The commands, in the order of spec/opcode_table.json. -/
inductive Instr where
  -- control instructions of context k of core c (R107)
  | add (c : CoreIx) (k : CtxIx) (rd ra rb : SReg)
  | sub (c : CoreIx) (k : CtxIx) (rd ra rb : SReg)
  | and (c : CoreIx) (k : CtxIx) (rd ra rb : SReg)
  | or (c : CoreIx) (k : CtxIx) (rd ra rb : SReg)
  | xor (c : CoreIx) (k : CtxIx) (rd ra rb : SReg)
  | shl (c : CoreIx) (k : CtxIx) (rd ra rb : SReg)
  | shr (c : CoreIx) (k : CtxIx) (rd ra rb : SReg)
  | sra (c : CoreIx) (k : CtxIx) (rd ra rb : SReg)
  | slt (c : CoreIx) (k : CtxIx) (rd ra rb : SReg)
  | sltu (c : CoreIx) (k : CtxIx) (rd ra rb : SReg)
  | min (c : CoreIx) (k : CtxIx) (rd ra rb : SReg)
  | max (c : CoreIx) (k : CtxIx) (rd ra rb : SReg)
  | mul (c : CoreIx) (k : CtxIx) (rd ra rb : SReg)
  | addi (c : CoreIx) (k : CtxIx) (rd ra : SReg) (imm : W16)
  | andi (c : CoreIx) (k : CtxIx) (rd ra : SReg) (imm : W16)
  | ori (c : CoreIx) (k : CtxIx) (rd ra : SReg) (imm : W16)
  | xori (c : CoreIx) (k : CtxIx) (rd ra : SReg) (imm : W16)
  | movz (c : CoreIx) (k : CtxIx) (rd : SReg) (imm : W16) (h : Fin 4)
  | movk (c : CoreIx) (k : CtxIx) (rd : SReg) (imm : W16) (h : Fin 4)
  | ld (c : CoreIx) (k : CtxIx) (rd : SReg) (ad : AReg) (imm : W16)
  | ldBankRead (c : CoreIx) (k : CtxIx) (found : Ecc)
  | st (c : CoreIx) (k : CtxIx) (rs : SReg) (ad : AReg) (imm : W16)
  | mova (c : CoreIx) (k : CtxIx) (ad : AReg) (ra : SReg)
  | adda (c : CoreIx) (k : CtxIx) (ad ad2 : AReg) (imm : W16)
  | movs (c : CoreIx) (k : CtxIx) (rd : SReg) (ad : AReg)
  | beq (c : CoreIx) (k : CtxIx) (ra rb : SReg) (off : W16)
  | bne (c : CoreIx) (k : CtxIx) (ra rb : SReg) (off : W16)
  | blt (c : CoreIx) (k : CtxIx) (ra rb : SReg) (off : W16)
  | bge (c : CoreIx) (k : CtxIx) (ra rb : SReg) (off : W16)
  | bltu (c : CoreIx) (k : CtxIx) (ra rb : SReg) (off : W16)
  | bgeu (c : CoreIx) (k : CtxIx) (ra rb : SReg) (off : W16)
  | jal (c : CoreIx) (k : CtxIx) (rd : SReg) (imm : W16)
  | jr (c : CoreIx) (k : CtxIx) (ra : SReg)
  | sig (c : CoreIx) (k : CtxIx) (ctr : Byte) (n : NOp)
  | sigUp (c : CoreIx) (k : CtxIx) (ctr : Byte) (n : NOp)
  | sigDn (c : CoreIx) (k : CtxIx) (ctr : Byte) (n : NOp)
  | sigC (c : CoreIx) (k : CtxIx) (ra rb : SReg) (ctr : Byte)
  | gsigAdd (c : CoreIx) (k : CtxIx) (ra rb : SReg)
  | gsigArm (c : CoreIx) (k : CtxIx) (ra rb : SReg)
  | gsigArmAt (c : CoreIx) (k : CtxIx) (ra rb : SReg)
  | gsigDisarm (c : CoreIx) (k : CtxIx) (ra rb : SReg)
  | wait (c : CoreIx) (k : CtxIx) (ctr : Byte) (n : NOp)
  | take (c : CoreIx) (k : CtxIx) (ctr : Byte) (n : NOp)
  | ctrrd (c : CoreIx) (k : CtxIx) (rd : SReg) (ctr : W16)
  | launch (c : CoreIx) (k : CtxIx) (blk : BitVec 12) (ctr : Byte)
  | launchSeg (c : CoreIx) (k : CtxIx) (blk : BitVec 12) (ctr : Byte)
  | launchAt (c : CoreIx) (k : CtxIx) (blk : BitVec 12) (ctr : Byte) (rf : SReg)
  | scfg (c : CoreIx) (k : CtxIx) (slot : Fin 32) (ad : AReg)
  | scfgDescriptorRead (c : CoreIx) (k : CtxIx) (found : Finds)
  | swait (c : CoreIx) (k : CtxIx) (slot : Fin 32)
  | swap (c : CoreIx) (k : CtxIx) (slot : Fin 32)
  | sclose (c : CoreIx) (k : CtxIx) (slot : Fin 32)
  | wopen (c : CoreIx) (k : CtxIx) (w : Fin 8) (ad : AReg)
  | wopenDescriptorRead (c : CoreIx) (k : CtxIx) (found : Finds)
  | wclose (c : CoreIx) (k : CtxIx) (w : Fin 8)
  | cmdwait (c : CoreIx) (k : CtxIx) (rd : SReg)
  | cmdrd (c : CoreIx) (k : CtxIx) (rd : SReg) (i : Fin 8)
  | cmddone (c : CoreIx) (k : CtxIx) (imm : W16)
  | ftrd (c : CoreIx) (k : CtxIx) (rd : SReg)
  | srset (c : CoreIx) (k : CtxIx) (ra rb : SReg)
  | vflg (c : CoreIx) (k : CtxIx) (rd : SReg) (imm : W16)
  | yield (c : CoreIx) (k : CtxIx)
  | nop (c : CoreIx) (k : CtxIx)
  | halt (c : CoreIx) (k : CtxIx)
  | trap (c : CoreIx) (k : CtxIx) (imm : W16)
  | trapReturn (c : CoreIx) (k : CtxIx)
  | illegal (c : CoreIx) (k : CtxIx) (word : W32)
  | contextWake (c : CoreIx) (k : CtxIx)
  | counterSignalApply (c : CoreIx) (ctr : Byte)
  | counterOverflowReport (c : CoreIx)
  -- M slot of the running block of core c (R138)
  | mnop (c : CoreIx)
  | mmaF (c : CoreIx) (m : MFields)
  | mmaH (c : CoreIx) (m : MFields)
  | mmaQ (c : CoreIx) (m : MFields)
  | mmaN (c : CoreIx) (m : MFields)
  | mmaS (c : CoreIx) (m : MFields)
  | kgroupConsume (c : CoreIx) (found : Finds)
  | tileBoundary (c : CoreIx)
  | drainRow (c : CoreIx)
  -- T slot (R144)
  | tnop (c : CoreIx)
  | ginj (c : CoreIx) (g : GinjFields)
  | flitInject (c : CoreIx) (lane : Lane) (found : Finds)
  | flitHop (lane : Lane) (c : CoreIx) (upset : BitVec 2608)
  | gcap (c : CoreIx) (g : GcapFields)
  | gcapS (c : CoreIx) (g : GcapFields)
  | gcapWrite (c : CoreIx)
  | gsink (c : CoreIx) (station : Lane)
  | tsig (c : CoreIx) (target : TsigTarget) (ctr : Byte) (n : W16)
  | trset (c : CoreIx) (tr : Fin 8) (field : TrField) (imm : BitVec 12)
  | tradd (c : CoreIx) (tr : Fin 8) (field : TrField) (imm : BitVec 12)
  | baadd (c : CoreIx) (ba : Fin 16) (imm : W16)
  | loop (c : CoreIx) (len : BitVec 12) (count : W16)
  -- V slot (R154, R155)
  | vnop (c : CoreIx)
  | vadd (c : CoreIx) (vd va vb : Fin 32) (bf : Bool)
  | vsub (c : CoreIx) (vd va vb : Fin 32) (bf : Bool)
  | vmul (c : CoreIx) (vd va vb : Fin 32) (bf : Bool)
  | vfma (c : CoreIx) (vd va vb vc : Fin 32) (bf : Bool)
  | vmin (c : CoreIx) (vd va vb : Fin 32) (bf : Bool)
  | vmax (c : CoreIx) (vd va vb : Fin 32) (bf : Bool)
  | vabs (c : CoreIx) (vd va : Fin 32) (bf : Bool)
  | vneg (c : CoreIx) (vd va : Fin 32) (bf : Bool)
  | vmov (c : CoreIx) (vd va : Fin 32)
  | vcmp (c : CoreIx) (vd va vb : Fin 32) (bf : Bool) (rel : BitVec 2)
  | vsel (c : CoreIx) (vd va vb vc : Fin 32) (bf : Bool)
  | vand (c : CoreIx) (vd va vb : Fin 32)
  | vor (c : CoreIx) (vd va vb : Fin 32)
  | vxor (c : CoreIx) (vd va vb : Fin 32)
  | vrcp (c : CoreIx) (vd va : Fin 32)
  | vsqrt (c : CoreIx) (vd va : Fin 32)
  | vrsqrt (c : CoreIx) (vd va : Fin 32)
  | vexp2 (c : CoreIx) (vd va : Fin 32)
  | vlog2 (c : CoreIx) (vd va : Fin 32)
  | vtanh (c : CoreIx) (vd va : Fin 32)
  | vsigm (c : CoreIx) (vd va : Fin 32)
  | vcvt (c : CoreIx) (vd va : Fin 32) (fmt : BitVec 4) (sr sat : Bool)
  | vext (c : CoreIx) (vd va : Fin 32) (fmt : BitVec 4)
  | vred (c : CoreIx) (vd va : Fin 32)
  | vbs (c : CoreIx) (vd : Fin 32) (tr : Fin 8)
  | vld (c : CoreIx) (vd : Fin 32) (ba : Fin 16) (au : Bool) (off : BitVec 14) (found : Finds)
  | vst (c : CoreIx) (vs : Fin 32) (ba : Fin 16) (au : Bool) (off : BitVec 14)
  | vectorResultWrite (c : CoreIx)
  -- launches and the duty pattern
  | localBlockStart (c : CoreIx)
  | segmentArrival (c : CoreIx)
  | segmentLaunchStart (c : CoreIx)
  | timedLaunchStart (c : CoreIx)
  | blockComplete (c : CoreIx)
  | dutyBeat (sec : SecIx)
  | segmentRest (sec : SecIx)
  -- scratchpad and windows
  | spCorrectionWriteback (c : CoreIx)
  | segmentClearDone (c : CoreIx) (seg : Fin 6)
  | windowWriteArrival (c : CoreIx) (side : Side)
  | windowGranuleWrite (c : CoreIx) (side : Side)
  | windowFaultReturn (c : CoreIx)
  | closeNoticeArrival (c : CoreIx)
  | drainMarkerSend (c : CoreIx) (side : Side)
  | windowClosed (c : CoreIx) (w : Fin 8)
  -- streams
  | streamRequestIssue (c : CoreIx) (slot : Fin 32)
  | streamReadResponse (c : CoreIx) (slot : Fin 32)
  | streamHalfRead (c : CoreIx) (slot : Fin 32) (found : Finds)
  | streamWriteAck (c : CoreIx) (slot : Fin 32)
  | streamCloseDone (c : CoreIx) (slot : Fin 32)
  | rtDeadlineMiss (c : CoreIx) (slot : Fin 32)
  | stashTimeout (t : SlotIx)
  -- stack ports
  | stackPortRequest (p : SecIx)
  | stackRequestServe (p : SecIx) (chan : Fin 64) (found : Finds)
  | dramReadReturn (p : SecIx)
  | combineEntryClose (p : SecIx)
  | recordPartArrival (p : SecIx) (found : Finds)
  | recordAssemblyTimeout (p : SecIx)
  | refresh (p : SecIx) (bank : Nat) (waiting : Bool)
  | scrubRead (p : SecIx) (found : Ecc)
  | stackTempSample (p : SecIx) (celsius : Byte)
  -- global counters
  | globalSignalApply (g : Fin 4096)
  | barrierReleaseApply (g : Fin 4096)
  | timedRelease (g : Fin 4096)
  -- tasks
  | submissionFetch (q : Fin 8) (entry : BitVec 512)
  | taskLoadDone (t : SlotIx)
  | taskLaunch (t : SlotIx)
  | taskEnd (t : SlotIx)
  | taskHaltDone (t : SlotIx)
  | quantumExpiry (t : SlotIx)
  | preemptSave (t : SlotIx)
  | taskResume (t : SlotIx)
  | reservationLead (r : Fin 16)
  | reservationStart (r : Fin 16)
  -- command lists
  | entryPost (t : SlotIx)
  | entryComplete (t : SlotIx) (q : W32)
  | fwd (t : SlotIx) (q : W32)
  | bwd (t : SlotIx) (q : W32)
  | update (t : SlotIx) (q : W32)
  | lookupForward (t : SlotIx) (q : W32) (routed : List RoutedIx)
  | lookupBackward (t : SlotIx) (q : W32) (routed : List GradRow)
  | exchange (t : SlotIx) (q : W32) (parts : List Partial)
  | reduce (t : SlotIx) (q : W32) (peers : List Contribution)
  | gather (t : SlotIx) (q : W32) (peers : List Contribution)
  | gatherBarrier (t : SlotIx) (q : W32) (arrived : List Nat)
  | snapshot (t : SlotIx) (q : W32)
  | snapshotRestore (t : SlotIx) (q : W32) (homeOk bag0Ok bag1Ok : Bool)
  | rfence (t : SlotIx) (q : W32)
  | run (t : SlotIx) (q : W32)
  | endEntry (t : SlotIx) (q : W32)
  | mark (t : SlotIx) (q : W32)
  | pipecfg (t : SlotIx) (q : W32)
  -- mirror and collective engines
  | snapshotCapture
  | snapshotCommit (home : Bool) (digest : BitVec 256)
  | restoreSeedWrite
  | restoreSeedTimeout
  | verifyReplay (peerLoss : Option W32)
  | intervalCompute (costNum costDen : Nat) (gaps : List Nat) (base : W32)
  | collTimeout (t : SlotIx) (q : W32) (late : Arrived)
  | collResend
  -- link packets and ports
  | idle (p : Fin 8) (f : Frame)
  | write (p : Fin 8) (k : Packet)
  | read (p : Fin 8) (k : Packet)
  | resp (p : Fin 8) (k : Packet)
  | signal (p : Fin 8) (k : Packet)
  | coll (p : Fin 8) (k : Packet)
  | tsync (p : Fin 8) (k : Packet)
  | mirror (p : Fin 8) (k : Packet)
  | mgmt (p : Fin 8) (k : Packet)
  | nak (p : Fin 8) (k : Packet)
  | packetForward (p : Fin 8) (k : Packet)
  | linkFrameReceive (p : Fin 8) (l : FrameLink) (k : Packet)
  | linkReplay (p : Fin 8) (ack : W16)
  | linkRetrain (p : Fin 8) (ok : Bool)
  | portTrainingDone (p : Fin 8) (lanes : Byte)
  | linkNegotiation (p : Fin 8) (caps : Caps)
  | remoteTimeout (tag : W16)
  -- fabric time
  | tsyncExchange (p : Fin 8) (roundTrip : Nat) (offset : Int)
  | upstreamLoss
  | masterElection (others : List Candidate)
  | timeLock (offset : Int)
  | ftStepApply
  | ftReplicaCorrect
  | trimOutOfRange (trim : W32)
  | holdoverTick
  -- power, clocks and temperature
  | controlWindow (core dram rest leakage : Nat)
  | packageSensorRead (watts : Nat) (mean10ms : Nat)
  | marginReport (r : Fin 29) (slack : Byte)
  | calibration (r : Fin 29)
  | droopStretch (p : SecIx) (ns : Nat)
  | lostLock (r : Fin 29)
  | crossingMarginLoss (sec : SecIx)
  | junctionTemp (r : Fin 29) (celsius : Byte)
  | energyIntegrate (microjoules : Nat)
  -- event recorder
  | eventQueue
  | eventWrite
  | rateWindow
  | logArm (r : Req)
  | logFreeze (r : Req)
  | logUnfreeze (r : Req)
  -- mailbox
  | getVersion (p : Path)
  | setVersion (p : Path) (v : W32)
  | quiesce (p : Path) (waitUs : W32)
  | quiesceApply
  | reserve (p : Path) (slot : W32) (sectors : W32) (ftStart ftEnd : W64)
  | unreserve (p : Path) (n : W32)
  | setQuantum (p : Path) (frames : W32)
  | selfTest (p : Path) (sectors kind : W32)
  | selfTestRun (n : Nat) (failing : BitVec 144)
  | selfTestTimeout (n : Nat)
  | testResult (p : Path) (n : W32)
  | setSignedMode (p : Path)
  | commitSvn (p : Path)
  | logRead (p : Path) (first count : W32)
  | mgmtRead32 (off : W32)
  | mgmtWrite32 (off data : W32)
  | mgmtRead64 (off : W32)
  -- staging and registers with a row of their own
  | cfgCommit (r : Req)
  | cfgApply (unit : Fin 36)
  | tagCheckWrite (r : Req) (v : Bool)
  | ftAcquire (r : Req)
  | taskRelease (r : Req) (t : SlotIx)
  | taskAbort (r : Req) (t : SlotIx)
  | cmdTailWrite (r : Req) (t : SlotIx) (v : W32)
  | sqDoorbell (r : Req) (q : Fin 8) (v : W32)
  | cqDoorbell (r : Req) (q : Fin 8) (v : W32)
  | queueEnable (r : Req)
  | tdpCapWrite (r : Req) (v : W32)
  | voltOffsetWrite (r : Req) (v : W32)
  | portEnable (r : Req) (v : W32)
  | lowHalfRead (r : Req) (off : W32)
  | readClear (r : Req) (off : W32) (size : Nat)
  | registerWrite (r : Req) (off : W32) (size : Nat) (v : W64)
  -- CXL
  | hostMemRequest (x : ExtReq)
  | bisnpResponse (line : W64)
  | uioPeerRequest (x : ExtReq)
  | cxlResponse (id : Nat) (a : SlowAnswer)
  | cxlTimeout (id : Nat)
  | slowLatMeasure (cache uio : W16)
  | cxlLinkUp (width : Nat) (rate flit : BitVec 2)
  | rhaorCompletion (comp : Fin 8) (tag : W16) (report : RhReport)
  | rhaorTimeout (comp : Fin 8) (tag : Fin 32)
  -- resets and bring-up
  | perstN
  | hotReset
  | flr
  | cxlReset (memClr : Bool)
  | powerUp (a b : FwImage) (f : Fuses)
  | stackInitDone
  | firmwareUpdate (u : FwUpdate)
  | spdmMessage (m : Spdm)
  | reservationEnd (r : Fin 16)
  | quiesceTimeout
  | hostSnoop (line : W64)
  | hdmDecoderCommit (commit : Option HdmDecoder)
  | cacheEnable (on : Bool)
  | msixVectorUnmask (v : Byte)
  | cdatTableAccess (discovery : Bool)
  | powerRemoval
deriving DecidableEq, Repr

end Sys2Proof
end

