-- ==== Sys2Proof/Config.lean ====
section
/-! DEFINITION. The free values of the model: constants without a body, so that nothing can be proved of a value the
manual leaves open (log 2), and the addresses the sequencer allocates where it likes (log 8). -/

namespace Sys2Proof

/-- A value the manual leaves open: `n` is the machine's own counter of such values. -/
opaque Config.free (w : Nat) (n : Nat) : BitVec w

/-- Which NaN code of FP16 a conversion of NaN gives: the mantissa less one (R82, R95; log 16). -/
opaque Config.fp16Nan : Fin 1023

/-- Which of the NaN codes 0x7D to 0x7F of E5M2 a vector conversion of NaN gives (R82, R95; log 16). -/
opaque Config.e5m2Nan : Fin 3

/-- Where the sequencer allocates a task's save area (R125), by task slot and image address. -/
opaque Config.saveArea (slot : SlotIx) (image : W64) : W64

/-- Where the sequencer allocates a task's stash pool (R232). -/
opaque Config.stashPool (slot : SlotIx) (image : W64) : W64

/-- Where firmware allocates a device's saddlebag regions (R338): 0 the home bag, 1 the guest bag. -/
opaque Config.saddleRegion (which : Nat) : W64

/-- Where the sequencer places a task's completion ring (R225). -/
opaque Config.completionRing (slot : SlotIx) (image : W64) : W64

/-- Whether an allocation of this many bytes fits the memory that firmware has left (R121, DRAM). -/
opaque Config.allocFits (bytes : Nat) (n : Nat) : Bool

/-- Whether an SM2 signature over the SM3 digest of these bytes verifies against a public key (R393; log 9). -/
opaque Config.sm2Verifies (key : BitVec 512) (covered signature : List Byte) : Bool

/-- The public key of an SM2 private key (R391; log 9). -/
opaque Config.sm2Public (key : BitVec 256) : BitVec 512

/-- The SM3 digest of the boot ROM, and the hashes of task-signing keys (R392; log 9). -/
opaque Config.romDigest : BitVec 256
opaque Config.keyHash (key : BitVec 512) : BitVec 256

/-- The coefficient of an activity class (R366) in femtojoules at 0.80 V: of the fleet-wide table, or of the part's fused worst-case
ones. -/
opaque Config.coef (fused : Bool) (kind : Nat) : Nat

/-- The 64 B units of one class that a partner grants a port when it comes UP (R326; log 112). -/
opaque Config.linkCredits : Nat

/-- The layout of a MGMT capability frame: byte `i` of its 64 B payload (R328; log 112). -/
opaque Config.capByte (c : Caps) (i : Nat) : BitVec 8

end Sys2Proof
end

