-- ==== Sys2Proof/Machine/State.lean ====
section
/-! DEFINITION. The state of the HT-3 as plain data: every register, memory, queue, counter, mode and pin the manual
names, grouped by the unit that holds it, the queue of waiting commands, the reasons a step can stop, and the state
right after reset. No field has a function type. -/

namespace Sys2Proof.Machine

/-- A sparse table: (key, value) pairs in rising key order, no entry equal to the table's default value (which the
operations of Ops.lean take as an argument). With bytes it is a memory of `Host.Cell`. -/
abbrev Tbl (α : Type) := List (Nat × α)

/-- A byte memory in canonical form; an unlisted byte reads 0 (R386 for stacked memory, R174 for a scratchpad). -/
abbrev Mem := List Host.Cell

/-! ### Control engine -/

/-- Context states (Registers of chapter 06). -/
inductive CtxState where
  | idle | ready | waiting | halted | faulted
deriving DecidableEq, Repr

/-- Wait causes (R110). -/
inductive WaitKind where
  | counter | stream | launch | command | hold
deriving DecidableEq, Repr

/-- An interlock stall of a context whose descriptor read is still to be made (R178, R190). -/
inductive Stall where
  | none
  | scfg (slot : Fin 32) (addr : Nat) (pc : BitVec 13)
  | wopen (w : Fin 8) (addr : Nat) (pc : BitVec 13)
deriving DecidableEq, Repr

/-- The scratchpad range of the descriptor: 48 B of a stream (R188), 32 B of a window (R178). -/
def Stall.range : Stall → Option (Nat × Nat)
  | .none => Option.none
  | .scfg _ a _ => some (a, 48)
  | .wopen _ a _ => some (a, 32)

/-- An LD whose bank read is still to be made (R108): its register (S0 discards), byte address, PC and issue cycle. -/
structure LdPend where
  rd : SReg
  addr : Nat
  pc : BitVec 13
  issued : Nat
deriving DecidableEq, Repr

/-- A context of a core (table "Each context holds", R103 to R117). `ready` holds for each scalar register the
first cycle in which a dependent instruction may issue (R103). `pcReady` is the
first cycle in which the next instruction may issue after a taken branch (R107), `wakeAt` the cycle a served wait
ends (R104), `stallAt` the issue cycle of a SCFG or WOPEN that stalls, `vflagsAt` one more than the cycle in which VFLAGS bits were last set, with those bits (R9). -/
structure Ctx where
  s : Vector W64 32
  ad : Vector (BitVec 22) 16
  pc : BitVec 13
  st : CtxState
  kind : WaitKind
  waitObj : Byte
  waitN : W16
  wakeAt : Option Nat
  waitRd : SReg
  vflags : BitVec 4
  vflagsAt : Nat × BitVec 4
  seed : W64
  sctr : W64
  faulted : Bool
  cause : Byte
  info : W16
  faultPc : BitVec 13
  faultCount : W32
  faultAt : Option Nat
  ready : Vector Nat 32
  pcReady : Nat
  lds : List LdPend
  stall : Stall
  stallAt : Nat
  cur : Option W32
  queued : List W32
deriving DecidableEq, Repr

/-- One waiter of a counter's queue (R208). -/
structure Waiter where
  ctx : CtxIx
  n : W16
deriving DecidableEq, Repr

/-- A core counter (R204, R208). `appliedAt` is one more than the cycle increments were last applied in (R206). -/
structure Counter where
  value : W16
  limit : W16
  queue : List Waiter
  appliedAt : Nat
deriving DecidableEq, Repr

/-- Counter registers of a core that are not per counter (R207, R211). -/
structure CtrRegs where
  drift : Bool
  driftAt : Nat
  driftCtr : Byte
  driftValue : W16
  driftCount : BitVec 9
  ovfDiscards : W32
deriving DecidableEq, Repr

/-! ### Timed engine -/

/-- The three launch forms (R112, R125). -/
inductive LaunchForm where
  | local_ | seg | at_
deriving DecidableEq, Repr

/-- A pending launch: blk, ctr, launching context and the copies of AD0 to AD15 and S24 to S31 (R111). `beat` is
the beat a LAUNCH.AT resolved to (R36), `arrived` the send cycle of a LAUNCH.SEG's arrival (R112). -/
structure Launch where
  blk : BitVec 12
  ctr : Byte
  ctx : CtxIx
  pc : BitVec 13
  form : LaunchForm
  ft : W64
  beat : Nat
  issued : Nat
  arrived : Option Nat
  digest : W16
  ads : Vector (BitVec 22) 16
  trs : Vector W64 8
deriving DecidableEq, Repr

/-- A flit: payload, scale field, tag and the 21 parity bits (R38, R43, R63). -/
structure Flit where
  payload : Line
  scales : Gran
  tag : BitVec 48
  parity : BitVec 21
deriving DecidableEq, Repr

/-- A flit on the Girth: at the station of `core` on `lane` in enabled cycle `at_` of that core's sector, and on
its hop after it. `absorbed` marks a flit taken off the lane in that cycle, which its readers still see (R57). -/
structure OnGirth where
  lane : Lane
  core : CoreIx
  at_ : Nat
  absorbed : Bool
  flit : Flit
deriving DecidableEq, Repr

/-- A vector register: 256 B and one poison bit for each 64 B quarter (R153). -/
structure VReg where
  bits : Line
  poison : BitVec 4
deriving DecidableEq, Repr

/-- A vector result on its way to its register: due at the end of block cycle `due` (R156). -/
structure VRes where
  vd : Fin 32
  due : Nat
  issued : Nat
  val : VReg
  flags : BitVec 4
deriving DecidableEq, Repr

/-- A feeder job: a GINJ in progress (R145, R146). `buf` holds the source bytes read so far and `bufPoison` the
poisoned source granules. -/
structure Feed where
  issued : Nat
  trans : Bool
  fp32 : Bool
  tagReg : W64
  base : BitVec 22
  scaleBase : BitVec 22
  nf : Nat
  placed : Nat
  buf : Mem
  bufPoison : List Nat
deriving DecidableEq, Repr

/-- One k-group as a cell array consumes it: the local lines (one, or two in MMA.Q) and the travelling payloads of
stations X0 and X1, with their poison. -/
structure KGroup where
  l0 : Line
  l1 : Line
  x0 : Line
  x1 : Line
  poison : Bool
deriving DecidableEq, Repr

/-- A local line read from the scratchpad and not yet consumed (R68), with the granules that were read. -/
structure LocalLine where
  t : Nat
  l0 : Line
  l1 : Line
  poison : Bool
  grans : List Nat
deriving DecidableEq, Repr

/-- A scale line read for a k-block (R68), with its granule where it was read. -/
structure ScaleLine where
  b : Nat
  line : Gran
  poison : Bool
  gran : Option Nat
deriving DecidableEq, Repr

/-- An MMA on an array: what R140 latches at issue, and its progress. `t` counts consumed k-groups, `cut` is the
cycle from which its successor cut it (R141), `pois` and `dpois` mark its accumulator and its drain as poisoned by a
fault (R80), `closed` says its tile boundary is past (R71). -/
structure Mma where
  shape : Shape
  f : MFields
  x0 : W64
  x1 : W64
  issued : Nat
  base : BitVec 22
  base1 : BitVec 22
  scale : BitVec 22
  drains : Vector (BitVec 22) 4
  t : Nat
  lines : List LocalLine
  scaleLines : List ScaleLine
  xs0 : Gran
  xs1 : Gran
  kbuf : List KGroup
  cut : Option Nat
  pois : Bool
  dpois : Bool
  closed : Bool
deriving DecidableEq, Repr

/-- A drain in progress: the window of R75, what R74 names, and the tile as its boundary left it (R71). `cleared` says that a
later START has cleared its accumulator, so that a mark set since belongs to the new tile (R76). -/
structure Drain where
  shape : Shape
  acc : Bool
  dest : BitVec 3
  dn : BitVec 5
  bases : Vector (BitVec 22) 4
  entry : Nat
  lg : Nat
  row : Nat
  rows : Nat
  poison : Bool
  cleared : Bool
  vals : Tbl W32
deriving DecidableEq, Repr

/-- A write a block performs at a fixed cycle: GCAP payload and scales (R149), VST (R159). -/
structure BlockWrite where
  due : Nat
  agent : Nat
  issued : Nat
  part : Nat
  addr : Nat
  line : Line
  len : Nat
  poison : BitVec 4
deriving DecidableEq, Repr

/-- A loop body in progress (R135). -/
structure LoopFrame where
  first : BitVec 12
  last : BitVec 12
  left : Nat
deriving DecidableEq, Repr

/-- An update of a block address or tag register, made at the end of its issue cycle (R134). -/
inductive RegUpd where
  | baAdd (r : Fin 16) (n : Nat)
  | trSet (r : Fin 8) (field : TrField) (v : BitVec 12)
  | trAdd (r : Fin 8) (field : TrField) (v : BitVec 12)
  | kblock (r : Fin 8) (n : Nat)
  | nextTile (r : Fin 8)
deriving DecidableEq, Repr

/-- The running block of a core (R132, R133) and what it has met so far (R61, R80, R161, R162, R151). `start` is
the sector's enabled-cycle count at block cycle 0, `ends` holds accumulator, entry, depth and shape of the ENDing MMAs
issued, `tsigAt` one more than the core cycle its last TSIG was applied in (R164). -/
structure Block where
  blk : BitVec 12
  ctr : Byte
  ctx : CtxIx
  pc : BitVec 13
  start : Nat
  bundle : BitVec 12
  issuing : Bool
  loops : List LoopFrame
  mUsed : Option Nat
  tUsed : Option Nat
  vUsed : Option Nat
  ba : Vector (BitVec 22) 16
  tr : Vector W64 8
  updM : List RegUpd
  updT : List RegUpd
  updV : List RegUpd
  v : Vector VReg 31
  seed : W64
  sctr : W64
  flags : BitVec 4
  vres : List VRes
  writes : List BlockWrite
  feeds : List Feed
  mmas : List Mma
  drains : List Drain
  drn : Option (Nat × VReg)
  lastEvent : Nat
  ends : List (Bool × Nat × Nat × Shape)
  tagSeen : Bool
  girthFault : Option (Nat × W16)
  arrayFault : Option W16
  bankFault : Option W16
  addrFault : Option W16
  tsigFaults : List (Byte × W16)
  tsigAt : Nat
deriving DecidableEq, Repr

/-! ### Array, Girth, scratchpad -/

/-- Accumulator states (table under R69). -/
inductive AccState where
  | empty | open_ | draining | done
deriving DecidableEq, Repr

/-- The array's accumulators (R69, R76, R81). Element (i, j) of A is key 64 i + j of `a`. Here and below a field `fooAt`
beside a bit `foo` that a write of 1 clears is one more than the cycle the device last set it in (R9). -/
structure ArrayState where
  a : Tbl W32
  b : Tbl W32
  stA : AccState
  stB : AccState
  poisonA : Bool
  poisonB : Bool
  shape : Shape
  fmt : BitVec 4
  tileK : Nat
  fault : Bool
  faultAt : Nat
  reason : BitVec 4
  faultAcc : Bool
  faultCycle : W32
  faultCount : W32
  issue : W64
  useful : W64
deriving DecidableEq, Repr

/-- Per-core Girth registers (Registers of chapter 03). -/
structure GirthRegs where
  tagCheck : Bool
  tagFault : Bool
  tagFaultAt : Nat
  slotFault : Bool
  slotFaultAt : Nat
  reason : BitVec 4
  faultCycle : W32
  expect : BitVec 48
  observed : BitVec 48
  lane : Bool
  empty : Bool
  mismatch : W32
deriving DecidableEq, Repr

/-- Per-core timed-engine registers (Registers of chapter 07). -/
structure TimedRegs where
  fault : Bool
  faultAt : Nat
  bank : BitVec 5
  loser : BitVec 3
  faultCycle : W32
  conflicts : W32
  bundle : BitVec 12
  depth : BitVec 3
  digest : W16
  blockCycles : W32
deriving DecidableEq, Repr

/-- A use of a bank in the current cycle: by a block agent (code of R161) or by background access (code 8). `part` numbers the
ranges of one access, so that two parts at one address differ (R161). -/
structure BankUse where
  bank : Nat
  agent : Nat
  issued : Nat
  addr : Nat
  part : Nat
deriving DecidableEq, Repr

/-- A scratchpad write of the current cycle, with its agent code (8 for background access), its issue cycle and its part of the
access; it is performed at the cycle's end and visible from the next (R161, R163). -/
structure SpWrite where
  addr : Nat
  bytes : List Byte
  poison : Bool
  agent : Nat
  issued : Nat
  part : Nat
deriving DecidableEq, Repr

/-- A core's scratchpad (R169 to R176). `clearAt` is the cycle a power-up clear of a segment ends. -/
structure Scratchpad where
  mem : Mem
  poison : Tbl Bool
  staged : List SpWrite
  stores : List SpWrite
  uses : List BankUse
  corrections : List Nat
  powered : BitVec 6
  clearing : BitVec 6
  clearAt : Vector Nat 6
  corrCount : W32
  uncorrCount : W32
deriving DecidableEq, Repr

/-! ### Windows and streams -/

inductive WinState where
  | closed | open_ | closing
deriving DecidableEq, Repr

/-- A window of a core (R178, R183). `openAt` and `closingAt` are the cycles from which it shows OPEN and CLOSING, `noticeAt` the cycle the close notice reaches the writers, `markers` the sides
whose drain marker is awaited, `closeAt` the cycle the close completes. -/
structure Window where
  st : WinState
  base : Nat
  len : Nat
  writer : BitVec 2
  epoch : Byte
  ctr : Byte
  doneCtr : Byte
  sigN : W16
  opener : CtxIx
  pc : BitVec 13
  openAt : Nat
  closingAt : Nat
  noticeAt : Nat
  markers : List Side
  closeAt : Option Nat
  writes : W32
  rejects : W32
deriving DecidableEq, Repr

/-- A granule that a WINDOW stream has read and that has not left its port (R170, R180, R182): slot and context, what the write
names, the row by the number of its first granule in the pattern, the granule's place in its row, and the first cycle in which it
may leave. -/
structure PortGran where
  slot : Fin 32
  ctx : CtxIx
  pc : BitVec 13
  win : Fin 8
  epoch : Byte
  offset : Int
  row : Nat
  ix : Nat
  count : Nat
  data : Gran
  poison : Bool
  ready : Nat
deriving DecidableEq, Repr

/-- A granule on the side channel or in the owner's buffer: the cycle it left its writer (R180). -/
structure WinGran where
  left : Nat
  data : Gran
  poison : Bool
deriving DecidableEq, Repr

/-- One window write on the side channel (R179, R180): the writer's slot and its context, what it names, the cycles its first
and its last granule so far left, how many granules have left and how many are done with, and the owner's judgement with what it
took from the window then: base, CTR, SIG_N and opener (R180, R181). -/
structure WinWrite where
  slot : Fin 32
  ctx : CtxIx
  pc : BitVec 13
  win : Fin 8
  epoch : Byte
  offset : Int
  count : Nat
  first : Nat
  lastAt : Nat
  sent : Nat
  past : Nat
  grans : List WinGran
  judged : Option Bool
  base : Nat
  ctr : Byte
  sigN : W16
  opener : CtxIx
  opc : BitVec 13
deriving DecidableEq, Repr

/-- A window fault on its way back to a writer (R179, R186). -/
structure WinReturn where
  ctx : CtxIx
  pc : BitVec 13
  info : W16
  due : Nat
deriving DecidableEq, Repr

/-- A close notice on its way to a writer (R183): due cycle, the side of the writer the owner lies on, window, epoch. -/
structure CloseNotice where
  due : Nat
  owner : Side
  win : Fin 8
  epoch : Byte
deriving DecidableEq, Repr

/-- Window registers of a core as owner (Registers of chapter 08). -/
structure WinRegs where
  fault : Bool
  faultAt : Nat
  reason : BitVec 4
  num : BitVec 3
  side : Bool
  offset : W16
deriving DecidableEq, Repr

/-- A stream descriptor (R188). -/
structure SDesc where
  kind : Byte
  rt : Bool
  ctrA : Byte
  ctrB : Byte
  endCtr : Byte
  wtarget : Byte
  wepoch : Byte
  addr : W64
  rowG : Nat
  cnt0 : Nat
  cnt1 : Nat
  cnt2 : Nat
  str0 : W32
  str1 : W32
  str2 : W32
  spBase : Nat
  halfG : Nat
  t0 : W32
  t1 : W32
deriving DecidableEq, Repr

inductive SlotState where
  | unconfigured | active | closing
deriving DecidableEq, Repr

/-- A write request that a stream has read from its half and not yet issued (R191): fill, device address, data, poison
by granule, whether it ends its row, and the first cycle in which its data is there (R170). -/
structure OutReq where
  fill : Nat
  addr : Nat
  bytes : List Byte
  poison : List Bool
  rowEnd : Bool
  ready : Nat
deriving DecidableEq, Repr

/-- A stream slot (R187, R191 to R195). `rel` holds, by fill, one more than the FT of its effective release; `lastRel` the FT of
the last release to take effect; `nrel` the fills released for WRITE and WINDOW; `row` and `off` where the next READ request starts; `readG` the granules read from
halves; `landed` the bytes landed, acknowledged or sent, by fill; `dls` one more than the deadline fixed for a fill;
`judged` the real-time fills whose deadline is past; `restored` the FT of a restore. -/
structure Stream where
  st : SlotState
  d : SDesc
  ctx : CtxIx
  pc : BitVec 13
  cur : Bool
  pendA : Bool
  pendB : Bool
  tCfg : Nat
  since : Nat
  rel : Tbl Nat
  nrel : Nat
  row : Nat
  lastRel : Nat
  off : Nat
  rows : Nat
  readG : Nat
  outbox : List OutReq
  outR : Nat
  outW : Nat
  landed : Tbl Nat
  dls : Tbl Nat
  fills : Nat
  missed : Bool
  judged : Nat
  restored : Option Nat
  closeAt : Option Nat
  missCount : W32
  lateCount : W32
  errCount : W32
deriving DecidableEq, Repr

/-- Everything one core holds (table "The parts of a core"). `wb` keys are slot x 4096 + row x 64 + column;
`serveDue` are the counters whose wait queue a fault has changed, to be served in step 3 of the cycle (R206);
`barred` are the windows whose close notice this core has received as a writer, by the side of their owner (R184);
`sentUp`, `sentDown` and `lastReq` are one more than the cycle of the last granule sent and the last request issued, `lastRead` the
same of the last read of a half, with its slot, by the path it was read for (R170); `portUp` and `portDown` hold the granules read for the upstream and the downstream
side channel; `landAt` is one more than the cycle of the last arrival of read data, with the bytes that arrived in it (R15);
`fillsDue` are the fills whose last granule becomes visible or has left with the next cycle (R191);
`faultsDue` are the faults of a completed block, which reach their context in the next cycle (R114). -/
structure Core where
  ctx : Vector Ctx 4
  lastIssue : Option (Nat × CtxIx)
  yielded : Option CtxIx
  slot : Option SlotIx
  control : Tbl W32
  blocks : Tbl (BitVec 128)
  counters : Vector Counter 256
  ctrRegs : CtrRegs
  pend : Option Launch
  blk : Option Block
  timed : TimedRegs
  array : ArrayState
  wb : Tbl W32
  wbPoison : W32
  epoch : BitVec 2
  girth : GirthRegs
  serveDue : List Byte
  sp : Scratchpad
  qsat : W32
  qnan : W32
  streams : Vector Stream 32
  windows : Vector Window 8
  fromUp : List WinWrite
  fromDown : List WinWrite
  winRegs : WinRegs
  notices : List CloseNotice
  barred : List (Side × Fin 8 × Byte)
  markersDue : List (Side × Fin 8 × Nat)
  sentUp : Nat
  sentDown : Nat
  lastReq : Nat
  lastRead : Vector (Nat × Fin 32) 3
  portUp : List PortGran
  portDown : List PortGran
  landAt : Nat × Nat
  fillsDue : List (Fin 32 × Nat)
  returns : List WinReturn
  faultsDue : List (CtxIx × Byte × W16 × BitVec 13)

deriving DecidableEq, Repr

/-! ### Signals -/

/-- An increment on its way to a core counter: due cycle, SOURCE code of R210, whether a block's TSIG
sent it, the context its overflow is reported to, and the stream slot and half whose fill it signals (R191). -/
structure CtrInc where
  core : CoreIx
  ctr : Byte
  n : Nat
  due : Nat
  source : BitVec 3
  tsig : Bool
  fcore : CoreIx
  fctx : CtxIx
  fpc : BitVec 13
  half : Option (Fin 32 × Bool) := none
deriving DecidableEq, Repr

/-- An overflow report on its way to a signalling context (R210). -/
structure OvfReport where
  core : CoreIx
  ctx : CtxIx
  pc : BitVec 13
  info : W16
  due : Nat
deriving DecidableEq, Repr

/-- What reaches the hub for a global counter: what a GSIG does (R214), an ADD of another device with the packet and the port it came
by (R215), or the ADD of the barrier collective of an entry (R333). -/
inductive GOp where
  | packet (p : Fin 8) (k : Packet)
  | barrier (t : SlotIx) (q : W32)
  | add (n : Nat)
  | arm (expect : BitVec 24) (rctr : Byte) (timed rearm : Bool)
  | armAt (ft : W64)
  | disarm
deriving DecidableEq, Repr

/-- A GSIG on its way to the hub, 19 cc after issue (R214); `src` is the destination of one for another device. -/
structure GSig where
  g : Fin 4096
  op : GOp
  due : Nat
  core : CoreIx
  ctx : CtxIx
  pc : BitVec 13
  src : Option W32
deriving DecidableEq, Repr

/-- When a release falls (R216 to R219): an immediate one in the cycle it is due, a timed one from the cycle since which its barrier is
complete and its release FT known. -/
inductive ReleaseKind where
  | immediate (due : Nat)
  | timed (since : Nat)
deriving DecidableEq, Repr

/-- A release scheduled or kept (R216 to R219), with what its arming gave: RCTR, the arming context, and the FT of a timed one once an
ARM_AT has given it. `past` says that the counter has been armed anew since. -/
structure Release where
  kind : ReleaseKind
  rctr : Byte
  armer : CoreIx × CtxIx × BitVec 13
  ft : Option W64
  past : Bool
deriving DecidableEq, Repr

/-- A global counter (R213, R216). `armer` is the arming context, `doneAt` and `sumAt` one more than the hub cycle its barrier last
completed in and its increments were last summed in (R215). -/
structure GCounter where
  value : BitVec 24
  armed : Bool
  timed : Bool
  rearm : Bool
  ftSet : Bool
  expect : BitVec 24
  rctr : Byte
  relFt : W64
  releases : List Release
  armer : CoreIx × CtxIx × BitVec 13
  doneAt : Nat
  sumAt : Nat
  holder : Option SlotIx
deriving DecidableEq, Repr

/-- Device-wide counter registers (Registers of chapter 10). -/
structure GRegs where
  dropped : W32
  govf : W32
  releases : W32
deriving DecidableEq, Repr

/-! ### Memory requests -/

/-- Who made a request to the device address space. `engine` is an engine, a kernel or the sequencer, by the key of its run, on
behalf of a task; `record` the hub's write of a completion record, with the interrupt that follows it (R225). -/
inductive Agent where
  | stream (c : CoreIx) (slot : Fin 32)
  | host
  | peer
  | remote (src : W32) (tag : W16)
  | engine (key : Nat) (t : Option SlotIx)
  | record (t : SlotIx) (intr : Bool)
deriving DecidableEq, Repr

/-- The aperture a record write comes through (R251, R281). -/
inductive Alias where
  | param | table
deriving DecidableEq, Repr

/-- A request of at most 256 B (R197). `addr` is the device address as sent, `gran` the first granule's number in
the stream's pattern, `due` the first cycle in which it can have reached its port over the bulk network (R15). -/
structure MemReq where
  id : Nat
  agent : Agent
  write : Bool
  addr : Nat
  len : Nat
  gran : Nat
  data : List Byte
  poison : List Bool
  rt : Bool
  deadline : W32
  snooped : Bool
  due : Nat
deriving DecidableEq, Repr

/-- A response on its way back to a stream (R201, R203), with the cycle in which it reaches its core and the numbers of its granules
that are still to land (R171). -/
structure MemResp where
  req : MemReq
  data : List Byte
  poison : List Bool
  failed : Bool
  due : Nat
  left : List Nat
deriving DecidableEq, Repr

/-- A range of stacked memory whose bytes are free values: a working area whose layout the manual does not give (R269, log 114). -/
structure Loose where
  base : Nat
  len : Nat
  salt : Nat
deriving DecidableEq, Repr

/-- The memory accesses of an engine, a kernel or the sequencer in the course of one piece of work (log 7): what its reads have
brought (device address, bytes, whether poisoned), the requests in flight by number with the address each asks, and whether the work
is over and only its writes are unanswered (`done`). `rows` says of the reads of table rows which engine and local row each belongs to (R275). -/
structure EngRun where
  key : Nat
  t : Option SlotIx
  got : List (Nat × List Byte × Bool)
  ids : List (Nat × Nat)
  done : Bool
  rows : List (Nat × Nat × Nat) := []
deriving DecidableEq, Repr

/-- The work of an engine while a command evaluates it: the run it belongs to, the reads it lacks and the writes it makes, each with
its device address, in order. `row` is the lookup engine and local row being read, `rows` those of the reads it lacks, and `again`
the reads of rows that were read before and are read once more (R275). No state between commands holds one. -/
structure Probe where
  key : Nat
  got : List (Nat × List Byte × Bool)
  want : List (Nat × Nat)
  wrote : List (Nat × List Byte × Bool)
  row : Option (Nat × Nat) := none
  rows : List ((Nat × Nat) × Nat × Nat) := []
  again : List (Nat × Nat) := []
deriving DecidableEq, Repr

/-- A read access of a stack port to one 256 B granule: a combining entry (R201), or a read alone, which has `alone`.
`members` holds the reads still to be answered, the opening one first, `deadline` the earliest of all. `open_` says
reads may still join, `opened` is the port cycle of the opening read. `hot` says a member is real-time. -/
structure Combine where
  id : Nat
  gran : Nat
  members : List MemReq
  alone : Bool
  open_ : Bool
  opened : Nat
  hot : Bool
  deadline : W32
  served : Bool
  returned : Bool
  data : List Byte
  poison : List Bool
deriving DecidableEq, Repr

/-- A request queued on a channel (a read stands for its combining entry), how often it has been passed over
(R199), and the FT of its arrival. A record write is queued like any other (R251). -/
structure Queued where
  req : MemReq
  passed : Nat
  came : Nat
deriving DecidableEq, Repr

/-- A record in assembly (R251): direct address of its first byte, the parts received as (offset in the record, bytes),
the writes that wait for its judgement, the port cycle of the last part, and the writer. -/
structure RecordAsm where
  addr : Nat
  kind : Alias
  pieces : List (Nat × List Byte)
  poison : Bool
  waiting : List MemReq
  at_ : Nat
  who : Agent
deriving DecidableEq, Repr

/-- A stack port with its memory controller (chapters 09, 12, 14). `postponed` counts postponed refreshes of a
bank, `refreshAt` is the FT of its last due refresh (R292). `scrub` is the scrubber's next word; its pass at `scrubHours` began at `scrubFrom` (R290). -/
structure Port where
  entries : List Combine
  queue : List Queued
  records : List RecordAsm
  combined : W32
  combineFull : W32
  rtPromoted : W32
  forced : W32
  skew : W32
  adopt : W32
  poisonDiscard : W32
  partialDiscard : W32
  skewLatched : Bool
  skewLatchedAt : Nat
  skewAddr : W64
  skewStored : W32
  skewIncoming : W32
  temp : Byte
  tempMax : Byte
  refresh2x : Bool
  throttle : Bool
  dramThrottle : Bool
  marginHalf : Bool
  marginAlarm : Bool
  ce : W32
  ue : W32
  poisonWrites : W32
  poisonReads : W32
  ueLatched : Bool
  ueLatchedAt : Nat
  ueChannel : BitVec 6
  ueAddr : W64
  scrubPasses : W32
  scrub : Nat
  postponed : Tbl Nat
  refreshAt : Tbl Nat
  refreshes : Nat
  scrubHours : Nat
  scrubFrom : Int
deriving DecidableEq, Repr

/-- A row of gradients summed in a coalescer: its key (table, local row), FP32 sum row and poison (R278). -/
structure CoRow where
  table : Nat
  lrow : Nat
  vals : List W32
  poison : Bool
deriving DecidableEq, Repr

/-- A lookup engine (chapter 13). `co` is the coalescer by slot (R278), `runs` the runs written out (R279). -/
structure LkEngine where
  rows : W64
  merged : W32
  indexErr : W32
  poison : W32
  coRuns : W16
  coPeak : BitVec 17
  co : List (Nat × CoRow)
  runs : List (List CoRow)
deriving DecidableEq, Repr

/-- What the lookup path keeps in a WORK area: the partials between LOOKUP and EXCHANGE, the argmax of MAX bags, the
coalesced gradients by (table, local row), and the tables left incomplete (R269, R272, R279). -/
structure LkWork where
  slot : SlotIx
  q : W32
  parts : List Partial
  args : List (Nat × Nat × List Nat)
  status : Byte
  nth : Nat
  words : Vector W64 8
  grads : List CoRow
  incomplete : List Nat
deriving DecidableEq, Repr

/-! ### Tasks -/

inductive TaskState where
  | free | loading | ready | running | preempting | preempted | ending | done | faulted
deriving DecidableEq, Repr

/-- The HXB header (R119). -/
structure Header where
  magic : W32
  fmtMinor : Byte
  fmtMajor : Byte
  hci3 : Byte
  profile : Byte
  flags : W32
  segSectors : Nat
  segCount : Nat
  spMask : Byte
  contexts : Byte
  wbMask : W32
  windows : Nat
  streams : Nat
  counters : Nat
  globals : Nat
  maxBlock : W32
  stashBytes : W64
  saddleBytes : W64
  seedBase : W64
  entry : Vector W16 4
  faultHandler : W16
  ctrLen : Nat
  ctrOff : W64
  ctrlOff : W64
  ctrlLen : Nat
  blockLen : Nat
  blockOff : W64
  cmdOff : W64
  cmdLen : W64
  sigOff : W64
  sigLen : Nat
deriving DecidableEq, Repr

/-- A counter-table entry (R120). -/
structure CtrEntry where
  core : Byte
  ctr : Byte
  initial : W16
  limit : W16
  final : W16
deriving DecidableEq, Repr

/-- A report of one context for a posted entry (R224, R225). -/
structure Report where
  core : CoreIx
  ctx : CtxIx
  status : Byte
  misses : Nat
deriving DecidableEq, Repr

/-- One entry of a section list (R341): KIND, ADDR, LEN and whether its zero bytes are zero. -/
structure Section where
  kind : Nat
  addr : Nat
  len : Nat
  ok : Bool
deriving DecidableEq, Repr

/-- A posted command entry (R223, R225), the cycle and the order of its posting. `delivered` once its row has carried it to its executors, `status` once
an engine, the sequencer or a kernel has answered for all of them. `nth` counts the LOOKUP entries posted before (R334);
`list` is the section list of a SNAPSHOT as the sequencer read it (R226, R341). -/
structure Posted where
  q : W32
  words : Vector W64 8
  delivered : Bool
  expected : Nat
  reports : List Report
  status : Option Byte
  finished : Bool
  postedAt : Nat
  order : Nat
  nth : Nat
  rhaor : Bool
  list : List Section := []
deriving DecidableEq, Repr

/-- A hosted stage of pipelined mode (R228 to R231): passes of the step posted, passes taken since PIPECFG, and the passes
taken and not posted. -/
structure Stage where
  configured : Bool
  phase : BitVec 2
  warmup : Nat
  mbStep : Nat
  fwds : Nat
  bwds : Nat
  fwdTaken : Nat
  bwdTaken : Nat
  fwdQ : List W32
  bwdQ : List W32
deriving DecidableEq, Repr

/-- A task's command list (R220, R225, Registers of chapter 11). `got` is the entry at `head` once it has been read, with
its poison, and `gotList` the section list that it names; `ripe` are the entries whose conditions but NOT_BEFORE have held at a beat (R223); `waitingQ` holds the words of the passes a stage has taken and not posted (R230). -/
structure CmdList where
  tail : W32
  head : W32
  done : W32
  stopped : Bool
  n : Nat
  cmplBase : W64
  lastStatus : Byte
  posted : List Posted
  waitingQ : List (W32 × Vector W64 8)
  stage0 : Stage
  stage1 : Stage
  lookups : Nat
  rhaorErr : Bool
  got : Option (Bool × Vector W64 8)
  gotList : List Section
  ripe : List W32
deriving DecidableEq, Repr

/-- A stash write held for want of a page (R234). -/
structure HeldWrite where
  req : MemReq
  sid : Nat
  since : Nat
deriving DecidableEq, Repr

/-- A task's stash (R232 to R234): pages as (sid, page index, direct address), pool size in pages, free list; `freedAt` is when a page
was last freed. -/
structure Stash where
  pool : Nat
  base : W64
  pages : List (Nat × Nat × Nat)
  hwm : BitVec 24
  ovf : List (Nat × Nat × Nat)
  ovfBase : W64
  ovfLimit : BitVec 24
  held : List HeldWrite
  ovfNoted : Bool
  freedAt : Nat
deriving DecidableEq, Repr

/-- The save record of one core (R125). -/
structure SaveRec where
  core : CoreIx
  ctx : Vector Ctx 4
  counters : Vector Counter 256
  streams : Vector Stream 32
  windows : Vector Window 8
  barred : List (Side × Fin 8 × Byte)
  array : ArrayState
  pend : Option Launch
deriving DecidableEq, Repr

/-- A task slot (R121 to R127). `queue` is none for a task that firmware submitted; `autoRelease` marks one that a reset aborted,
to be released when it becomes FAULTED (R314); `loaded` says that its images are in its cores' memories (R18, R130). -/
structure Task where
  st : TaskState
  hdr : Header
  image : W64
  queue : Option (Fin 8)
  user : W32
  vector : W16
  noAccept : Bool
  gctrFirst : Nat
  sectors : BitVec 12
  segs : List SecIx
  reason : Byte
  halting : Option Byte
  haltAt : Nat
  hold : Bool
  started : Bool
  pinned : Bool
  ctrTable : List CtrEntry
  cmd : CmdList
  stash : Stash
  saved : List SaveRec
  saveBase : W64
  quantumEnd : Nat
  endStep : Nat
  scrubUntil : Nat
  autoRelease : Bool
  loaded : Bool
deriving DecidableEq, Repr

/-- A serving reservation (R127, R396). -/
structure Resv where
  task : SlotIx
  sectors : BitVec 12
  start : W64
  stop : W64
  leadDone : Bool
  active : Bool
deriving DecidableEq, Repr

/-! ### Host attachment -/

/-- A completion entry (R313). -/
structure Completion where
  user : W32
  kind : Byte
  slot : Byte
  reason : Byte
  vector : W16
deriving DecidableEq, Repr

/-- A submission queue (R310, R313). -/
structure Queue where
  sqBase : W64
  cqBase : W64
  sqSize : BitVec 13
  cqSize : BitVec 13
  enable : Bool
  full : Bool
  error : Bool
  errorAt : Nat
  sqTail : BitVec 12
  cqHead : BitVec 12
  sqHead : BitVec 12
  cqTail : BitVec 12
  phase : Bool
  fullCount : W32
  held : List Completion
deriving DecidableEq, Repr

/-- An outstanding tag of a companion (R256, R258): its task, the cycle its descriptor was sent in, and the descriptor's RSTEP. -/
structure RhTag where
  tag : Nat
  task : SlotIx
  at_ : Nat
  rstep : W32
deriving DecidableEq, Repr

/-- A Rhaor companion (R256, R258). `ring` is the place of the next completion entry in its ring. -/
structure Rhaor where
  enable : Bool
  versionOk : Bool
  queue : W64
  cmpl : W64
  tags : List RhTag
  ring : Nat
  errCount : W32
  stray : W32
  timeout : W16
deriving DecidableEq, Repr

/-- A slow-tier request in progress (R300, R301): the request, the messages of it still unanswered, what its reads have brought, and
whether any of them failed. -/
structure SlowReq where
  req : MemReq
  left : List Nat
  got : List (Nat × List Byte × Bool)
  failed : Bool
deriving DecidableEq, Repr

/-- The CXL port (chapter 15). `filter` is the snoop filter, oldest line first; `snoops` are the outstanding
back-invalidations with the request that waits, `outstanding` the slow-tier messages sent, each with its cycle, `waiting` those that
wait for room (R302), `slow` the requests they belong to. The window lies at host physical address `hpaBase`, interleaved `ways` ways
at a granularity of `gran` bytes (R305). `inReset` lasts from a hot reset until the link is up (R315). -/
structure Cxl where
  linkUp : Bool
  width : BitVec 5
  rate : BitVec 3
  flit : BitVec 2
  cacheEn : Bool
  memEn : Bool
  uioEn : Bool
  biEn : Bool
  ide : Bool
  memActive : Bool
  hdmBase : BitVec 11
  hdmSize : BitVec 9
  slowLat : W16
  uioLat : W16
  timeout : W16
  cacheErr : W32
  uioErr : W32
  poisonOut : W32
  bisnp : W32
  sfEvict : W32
  masked : Tbl Bool
  pendingBits : Tbl Bool
  filter : List Nat
  snoops : List (Nat × Bool × MemReq)
  outstanding : List (MemReq × Nat)
  waiting : List MemReq
  slow : List SlowReq
  hpaBase : W64
  ways : Nat
  gran : Nat
  inReset : Bool
deriving DecidableEq, Repr

/-! ### Links, collectives, mirror -/

inductive PortState where
  | down | training | negotiating | up | retraining | failed
deriving DecidableEq, Repr

/-- What a successful training of a port stores in SPI flash (R390): the device's own address and the partner's then, and the
equalisation settings. -/
structure LinkSeeds where
  own : W32
  partner : W32
  settings : W64
deriving DecidableEq, Repr

/-- A link port (chapter 16). `feats` and `rate400` are what both ends named (R328), `credit0` and `credit1` the 64 B units that the
partner's buffers still take by class (R326), `waiting` what waits for room, each packet with the port on which it arrived, and
`fromSeeds` says that the training began from stored seeds (R390). -/
structure LinkPort where
  enable : Bool
  st : PortState
  version : BitVec 2
  width : BitVec 2
  hlMax2 : Bool
  lanesOk : Byte
  fecCorr : W32
  retryCount : W32
  retrains : W16
  nakSent : W32
  nakRcvd : W32
  viol : Bool
  violAt : Nat
  violReason : Byte
  violType : Byte
  violSrc : W32
  txNext : W16
  rxNext : W16
  replay : List (W16 × Packet)
  waiting : List (Packet × Option (Fin 8))
  attempts : Nat
  trainFails : Nat
  violTimes : List Nat
  violRetrains : List Nat
  seeds : Option LinkSeeds
  fromSeeds : Bool
  feats : BitVec 5
  rate400 : Bool
  credit0 : Nat
  credit1 : Nat
deriving DecidableEq, Repr

/-- A group of the group table (R330). -/
structure Group where
  origin : BitVec 24
  valid : Bool
  extent : BitVec 24
deriving DecidableEq, Repr

/-- A COLL segment held or refused with BUSY (R335). -/
structure HeldColl where
  port : Fin 8
  pkt : Packet
  at_ : Nat
deriving DecidableEq, Repr

inductive BagState where
  | empty | filling | committed
deriving DecidableEq, Repr

/-- A snapshot entry in progress (R342 to R346): its slots, whether the home slot's trailer has been sent, what has committed, the MIRROR requests unanswered, whether the
saddlebag's trailer has been sent, the length of what the digest covers, and that digest once it is known, and the parts not yet read (address, length, offset in the
slot). `tags` keeps the MIRROR requests with the cycle each left, `seg` is the number of the next segment. -/
structure SnapRun where
  slot : SlotIx
  q : W32
  step : W32
  captured : Bool
  captureFt : Nat
  homeSlot : Bool
  bagSlot : Bool
  homeSent : Bool
  homeDone : Bool
  bagDone : Bool
  bagFailed : Bool
  trailerSent : Bool
  tags : List (W16 × Nat)
  seg : Nat
  total : Nat
  unread : List (Nat × Nat × Nat)
  digest : Option (BitVec 256) := none
deriving DecidableEq, Repr

/-- A restore that waits to write its seeds (R349), and what the digest check found (R353). -/
structure RestoreRun where
  slot : SlotIx
  q : W32
  step : W32
  lastWrite : Nat
  seeds : List (CoreIx × CtxIx × W64 × W64)
  lossRing : W64
  digestOk : Bool
deriving DecidableEq, Repr

/-- A replay verification that waits (R352): `ready` once the UPDATE of `step` has completed. -/
structure VerifyRun where
  slot : SlotIx
  step : W32
  ring : W64
  ready : Bool
  digestOk : Bool
deriving DecidableEq, Repr

/-- The mirror engine (chapter 17). `bag0Step` and `bag1Step` are the steps of this device's snapshots committed on its
partner. `saddle` is the SADDLEBAG_BYTES for which the regions were last allocated, `fresh` and `guestFresh` say that the task which holds
them has not yet restored or taken a snapshot, and that no MIRROR segment has come (R339, R350; log 20). The rest is what the interval's cost is measured from
(R348): the moment and STEP of the last UPDATE, whether a snapshot was captured since, how long the last 8 steps without one took,
newest first, and the last step with one. -/
structure Mirror where
  partner : BitVec 24
  guest : BitVec 24
  partnerBag : W64
  guestBag : W64
  homeBag : W64
  home0 : BagState
  home1 : BagState
  guest0 : BagState
  guest1 : BagState
  home0Step : W32
  home1Step : W32
  guest0Step : W32
  guest1Step : W32
  owner : Option SlotIx
  interval : BitVec 24
  base : W32
  verifyResult : BitVec 2
  snapPrior : W32
  lastCopy : W32
  heldNs : W32
  take : Option SnapRun
  restore : Option RestoreRun
  bag0Step : Option W32
  bag1Step : Option W32
  verify : Option VerifyRun
  fresh : Bool
  guestFresh : Bool
  saddle : Nat
  lastUpdate : Option Nat
  lastStep : W32
  tookNow : Bool
  plain : List Nat
  snapTime : Nat
deriving DecidableEq, Repr

/-- A MIRROR segment whose bytes are being written to the guest region: its run, the device and tag to answer, and the slot and step
that the write of a trailer commits (R340, R344). -/
structure BagAck where
  key : Nat
  src : W32
  tag : W16
  commit : Option (Bool × W32)
deriving DecidableEq, Repr

/-- The links' device-wide state (chapter 16). `remote` holds the outstanding remote requests by tag, `fetching` the tags
of those that read granules which they will write in part (R324), `skewed` the collectives of
which a segment came with another STEP, and its source (R255), `acks` the MIRROR segments still to be answered. -/
structure Links where
  coord : BitVec 24
  dims : BitVec 24
  groups : Vector Group 16
  remote : List (W16 × MemReq × Nat)
  fetching : List W16
  nextTag : W16
  held : List HeldColl
  resend : List HeldColl
  skewed : List (W16 × W32)
  acks : List BagAck
deriving DecidableEq, Repr

/-! ### Time, power, recorder, management -/

/-- States of time (table before R32). -/
inductive TimeState where
  | free | acquiring | locked | holdover
deriving DecidableEq, Repr

/-- Fabric time (chapter 02). FT is `gridFt` plus 20 x `cycle` / (beats per frame) ns, and a frame starts at every multiple of
32 x (beats per frame) of `cycle`. `stepped` is the sum of the steps FT has made, the model's own, so that FT less `stepped` is
time that has passed (`nsNow`, log 116). `ahead` is how far the master's time lay ahead at the last measurement, in units of 1/16 ns, of which
`offset` holds the low 32 bits (R33). By it `holdAt` is when ERR_BOUND last grew (R32) and `lastSync` when the last
time-sync packet came (R24). -/
structure Time where
  cycle : Nat
  gridFt : Int
  st : TimeState
  stepPending : Bool
  isMaster : Bool
  depth : Byte
  errBound : W16
  prio : Byte
  eligible : Bool
  offset : W32
  trim : W32
  lateCount : W32
  upstream : BitVec 4
  holdLimit : W16
  holdNoted : Bool
  holdAt : Nat
  lastSync : Nat
  stepped : Int
  ahead : Int
deriving DecidableEq, Repr

/-- A clock region (REGION_SEL, chapter 18). `lost` counts the port cycles lost to past stretches, `slow` is the last stretch: when it
began, its length in ns, and the port cycles it loses in all (R358). -/
structure Region where
  locked : Bool
  lostLock : Bool
  lostLockAt : Nat
  tjWarned : Bool
  tjHot : Bool
  temp : Byte
  marginMin : Byte
  warnTh : Byte
  alarmTh : Byte
  warnCount : W32
  alarmCount : W32
  stretchCount : W32
  stretchNs : W32
  lost : Nat
  slow : Nat × Nat × Nat
  warnNoted : Option Nat
  calibrated : Option Nat
deriving DecidableEq, Repr

/-- Issue-rate state of one sector (R362, R363, R371). `beat` is the beat the level was last fixed for, `rampFrom` the
cycle in which the cinch ramp of the sector's segment began, `levelSum` and `levelCount` sum the levels applied in the control window (R367),
`quietFrom` the later of the last k-group and the last
ramp's end, `marginUntil` the control window before which the margin limit holds, `refused` the refusal of segment
launches after a lost lock. -/
structure Duty where
  dEff : Nat
  cause : BitVec 3
  enabled : Bool
  beat : Nat
  ecyc : Nat
  sectorLim : Nat
  stackLim : Nat
  tjLim : Nat
  marginUntil : Nat
  rested : Bool
  rampFrom : Option Nat
  quietFrom : Nat
  refused : Bool
  levelSum : Nat
  levelCount : Nat
deriving DecidableEq, Repr

/-- Device-wide power and clock state (chapter 18). `lastPower`, `lastStatic`, `lastSum` and `lastCount` are the figures of the
last control window, `levelSum` and `levelCount` sum the duty levels applied in this one, `winDone` is the last window
boundary acted on (R365, R367). -/
structure Power where
  coreStep : BitVec 3
  nextCoreStep : BitVec 3
  quadStep : BitVec 2
  nextQuadStep : BitVec 2
  hubStep : Bool
  nextHubStep : Bool
  mode : Bool
  modeNext : Bool
  coefLoaded : Bool
  fusedCoef : Bool
  dCap : Nat
  tdpCap : BitVec 11
  tdpNext : BitVec 11
  powerModel : W16
  powerMeas : W16
  lastPower : Nat
  lastStatic : Nat
  lastSum : Nat
  lastCount : Nat
  levelSum : Nat
  levelCount : Nat
  winDone : Nat
  energy : W64
  voltOffset : BitVec 5
  clamped : Bool
  clampedAt : Nat
  vcore : BitVec 10
  vto : BitVec 10
  railAt : Nat
  tjWarn : Byte
  shutdownCause : BitVec 3
  shutdown : Bool
  thermtripN : Bool
  guardCount : W32
  detBreaks : W32
  guardUntil : Nat
  ftStep : W64
deriving DecidableEq, Repr

/-- What has been counted in the current control window (R366), for one sector or, in the last place, for the hub and the I/O ring:
k-groups by class of format (2, 4 or 8 elements wide), vector instructions and special functions, issues of the control and timed
engines, flit-hops, scratchpad bank accesses, bulk-network and stack-port bytes, DRAM activates, lookup rows, link and CXL bytes, and
bytes of the collective and mirror engines. -/
structure Activity where
  kgroup2 : Nat
  kgroup4 : Nat
  kgroup8 : Nat
  vectors : Nat
  specials : Nat
  issues : Nat
  hops : Nat
  banks : Nat
  bulk : Nat
  port : Nat
  activates : Nat
  rows : Nat
  link : Nat
  cxl : Nat
  engine : Nat
deriving DecidableEq, Repr

/-- An event on its way to the log (R376); until it is in the queue `hub` is the hub cycle of its capture (R380, R383). -/
structure Event where
  ft : Nat
  code : W16
  sev : BitVec 2
  tst : TimeState
  unit : Byte
  arg0 : W64
  arg1 : W32
  arg2 : W32
  summary : Bool
  held : Bool
  seq : W32
  hub : Nat := 0
deriving DecidableEq, Repr

/-- The suppressed events of one code in a window (R381). -/
structure Suppressed where
  count : Nat
  sev : BitVec 2
  unit : Byte
  first : Nat
  last : Nat
deriving DecidableEq, Repr

/-- The event recorder (chapter 19). Buckets of codes not listed hold `fullTokens`, `burstNow` is the RL_BURST in force (R382), and
`frozeAt` and `thawedAt` are the hub cycles of the last write that froze it and of the last that ended a freeze (R383). -/
structure Recorder where
  arriving : List Event
  queue : List Event
  held : List Event
  summaries : List Event
  log : Tbl Event
  filled : Nat
  nextSeq : W32
  dropCount : W32
  queueDrop : W32
  suppressed : W32
  freezeCount : W32
  armRefused : Bool
  armRefusedAt : Nat
  rlWindow : W16
  rlRate : Byte
  rlBurst : Byte
  buckets : Tbl Nat
  fullTokens : Nat
  supp : Tbl Suppressed
  boundary : Nat
  window : Nat
  /-- The hub cycle of the last write, and one; 0 before the first (R383). -/
  wroteAt : Nat
  burstNow : Nat
  frozeAt : Nat
  thawedAt : Nat
deriving DecidableEq, Repr

/-- One requester's own copies (R408). The latch is the low half's offset and the high half's value (R7). -/
structure ReqCopy where
  coreSel : Byte
  stackSel : BitVec 4
  lkupSel : BitVec 4
  portSel : BitVec 3
  regionSel : BitVec 5
  queueSel : BitVec 3
  gctrSel : BitVec 12
  rhSel : BitVec 3
  unitSel : BitVec 6
  ctxSel : BitVec 2
  sregIdx : BitVec 5
  srCtx : BitVec 2
  winSel : BitVec 3
  streamSel : BitVec 5
  ctrSel : Byte
  freeze : Bool
  latch : Option (Nat × W32)
deriving DecidableEq, Repr

/-- The staged registers, one 32-bit word each (R398). -/
structure Staged where
  arb : W32
  policy : W32
  horizon : W32
  scrub : W32
  memHorizon : W32
  skew : W32
  mirror : W32
  nextInterval : W32
  nextBase : W32
  express : W32
  epoch : W32
  timeouts : W32
  collLo : W32
  collHi : W32
deriving DecidableEq, Repr

/-- Staging (R398): shadow, pending set, and the set and epoch each of the 36 units has in force. -/
structure Staging where
  shadow : Staged
  pendingSet : Staged
  received : Option (Nat × Nat)
  epoch : W16
  unit : Vector Staged 36
  reached : Vector W16 36
  profileLock : Bool
  profileInForce : Bool
deriving DecidableEq, Repr

/-- A mailbox path's registers (R395, R397). -/
structure Mailbox where
  opcode : Byte
  argLen : BitVec 13
  busy : Bool
  status : Byte
  version : Byte
  resultLen : BitVec 13
  data : Tbl W32
deriving DecidableEq, Repr

/-- A mailbox command that waits for the executor (R395). -/
structure MbWait where
  path : Path
  op : Byte
  len : Nat
  args : List W32
deriving DecidableEq, Repr

/-- QUIESCE in progress (R399): the FT at which WAIT_US elapses, the tasks it holds, the FT from which its changes may be
applied once its conditions hold (step 4; the rail of a rising core step slews first, R355) with the core step that will be applied, and once the held tasks may be restored
(steps 4 and 6) the status it will complete with. -/
structure Quiesce where
  path : Path
  deadline : Nat
  held : List SlotIx
  readyAt : Option Nat
  step : BitVec 3
  restoring : Option Byte
deriving DecidableEq, Repr

/-- A self-test request (R400): state 0 queued, 1 passed, 2 failed, 3 timed out; `path` where the command waits for it. -/
structure SelfTest where
  id : Nat
  sectors : BitVec 12
  kind : BitVec 2
  since : Nat
  st : BitVec 2
  failing : BitVec 144
  path : Option Path
deriving DecidableEq, Repr

inductive FwState where
  | booting | ready | recovery
deriving DecidableEq, Repr

/-- The security block and firmware (chapter 20). `fused` says the fuses have been read (R386), `updated` the slot whose new image
waits to be activated (R394); `digest`, `coef` and `taskKeys` are of the running image (R392, R393), `idKey` the private identity key and
`chain` the device certificate chain (R391). -/
structure Security where
  fw : FwState
  signedFuse : Bool
  signedMode : Bool
  fwSlot : Bool
  svn : W16
  minSvn : W16
  build : Byte
  minor : Byte
  major : Byte
  digest : BitVec 256
  coef : BitVec 256
  taskKeys : List (BitVec 512)
  flashA : FwImage
  flashB : FwImage
  idn : W64
  idKey : BitVec 256
  chain : List Byte
  stepping : Bool
  sessions : List W64
  gaps : List Nat
  updating : Bool
  updated : Option Bool
  fused : Bool
  tests : List SelfTest
  testCount : Nat
  quantum : Nat
deriving DecidableEq, Repr

/-- The protocols of the DOE mailbox (R298). -/
inductive DoeProtocol where
  | discovery | cdatAccess | spdm | securedSpdm
deriving DecidableEq, Repr

/-- The CDAT structures of R298: one DSMAS over a DPA range, DSLBIS latencies in ns and bandwidths in GB/s. -/
inductive CdatEntry where
  | dsmas (base bytes : Nat)
  | readLatency (ns : Nat)
  | writeLatency (ns : Nat)
  | readBandwidth (gbs : Nat)
  | writeBandwidth (gbs : Nat)
deriving DecidableEq, Repr

/-- The measurement blocks of R392, 1 to 6: digests of the boot ROM, of the running image with its SVN, of the coefficient table and
of the task-signing keys; the fuse configuration; the stepping and whether profile 3.1 is accepted. -/
structure Measured where
  rom : BitVec 256
  image : BitVec 256
  svn : W16
  signedFuse : Bool
  signedMode : Bool
  minSvn : W16
  coef : BitVec 256
  keys : List (BitVec 256)
  stepping : Bool
  profile31 : Bool
deriving DecidableEq, Repr

/-- The device certificate (R391): it binds the public identity key to the identity number; the chain roots it in a certificate
authority. -/
structure DevCert where
  idn : W64
  key : BitVec 512
  chain : List Byte
deriving DecidableEq, Repr

/-- What the device sends out. An MCTP register-access response carries KIND 0x02, a status, the offset and the data (R407); a mailbox
response the status, RESULT_LEN and the result of R395. -/
inductive OutMsg where
  | msix (v : Byte)
  | completion (q : Fin 8) (index : Nat) (phase : Bool) (sqHead : Nat) (e : Completion)
  | readData (r : Req) (v : W64)
  | mctp (kind status : Byte) (off : W32) (data : W64)
  | mailbox (p : Path) (status : Byte) (len : Nat) (result : List W32)
  | packet (p : Fin 8) (l : FrameLink) (k : Packet)
  | hop (p : Fin 8) (l : FrameLink)
  | cxl (r : MemReq)
  | bisnp (line : Nat) (inv : Bool)
  | hostData (bytes : List Byte) (poison : Bool)
  | hostAck
  | unsupported
  | snoopResp (line : W64)
  | doeProtocols (ps : List DoeProtocol)
  | cdat (es : List CdatEntry)
  | spdm (ok : Bool) (version : Nat)
  | measured (m : Measured)
  | certificate (c : DevCert)
  | logEntries (es : List Event)
  | rhaor (comp : Fin 8) (tag : Nat)
deriving DecidableEq, Repr

/-! ### The whole machine -/

/-- The state of one HT-3. `pending` is the queue of commands, first in first out. `freeCtr` is the model's own
counter that feeds the free values of Config (log 2); `submit` is a fetched submission whose image is being read, with its queue. -/
structure State where
  pending : List Instr
  out : List OutMsg
  freeCtr : Nat
  cores : Vector Core 144
  flits : List OnGirth
  buckleNext : BitVec 12
  buckle : BitVec 12
  xingAlarm : BitVec 12
  incs : List CtrInc
  reports : List OvfReport
  gsigs : List GSig
  gctr : Tbl GCounter
  gregs : GRegs
  fabric : List MemReq
  resps : List MemResp
  runs : List EngRun
  probe : Option Probe
  nextId : Nat
  dram : Mem
  dramPoison : Tbl Bool
  loose : List Loose
  ports : Vector Port 12
  lookup : Vector LkEngine 12
  lkWork : List LkWork
  tasks : Vector Task 16
  resv : Vector (Option Resv) 16
  queues : Vector Queue 8
  rrQueue : Fin 8
  submit : Option (Fin 8 × BitVec 512)
  stashTimeout : W16
  rhaor : Vector Rhaor 8
  cxl : Cxl
  links : Vector LinkPort 8
  net : Links
  mir : Mirror
  time : Time
  regions : Vector Region 29
  duty : Vector Duty 12
  power : Power
  act : Vector Activity 13
  recorder : Recorder
  reqHost : ReqCopy
  reqMgmt : ReqCopy
  reqFw : ReqCopy
  staging : Staging
  mbHost : Mailbox
  mbMgmt : Mailbox
  mbQueue : List MbWait
  stTimeout : W32
  quiesce : Option Quiesce
  sec : Security
deriving DecidableEq, Repr

/-- Why a step stops with a fault. The manual reports every error of the device in the device's own state, so no
command raises one. -/
inductive Fault where
  /-- Raised by no command (safe). -/
  | noFault
deriving DecidableEq, Repr

/-- Why a step has no meaning. -/
inductive Refusal where
  /-- A command whose meaning is not written yet (safe). -/
  | notModelled (mnemonic : String)
deriving DecidableEq, Repr

/-! ### Reset -/

def Ctx.reset : Ctx :=
  { s := Vector.replicate 32 0, ad := Vector.replicate 16 0, pc := 0, st := .idle, kind := .counter, waitObj := 0,
    waitN := 0, wakeAt := none, waitRd := 0, vflags := 0, vflagsAt := (0, 0), seed := 0, sctr := 0, faulted := false,
    cause := 0, info := 0, faultPc := 0, faultCount := 0, faultAt := none,
    ready := Vector.replicate 32 0, pcReady := 0, lds := [], stall := .none, stallAt := 0,
    cur := none, queued := [] }

def Counter.reset : Counter := { value := 0, limit := 0xFFFF, queue := [], appliedAt := 0 }

def CtrRegs.reset : CtrRegs := { drift := false, driftAt := 0, driftCtr := 0, driftValue := 0, driftCount := 0, ovfDiscards := 0 }

def ArrayState.reset : ArrayState :=
  { a := [], b := [], stA := .empty, stB := .empty, poisonA := false, poisonB := false, shape := .f, fmt := 0,
    tileK := 0, fault := false, faultAt := 0, reason := 0, faultAcc := false, faultCycle := 0, faultCount := 0, issue := 0,
    useful := 0 }

def GirthRegs.reset : GirthRegs :=
  { tagCheck := true, tagFault := false, tagFaultAt := 0, slotFault := false, slotFaultAt := 0, reason := 0, faultCycle := 0, expect := 0,
    observed := 0, lane := false, empty := false, mismatch := 0 }

def TimedRegs.reset : TimedRegs :=
  { fault := false, faultAt := 0, bank := 0, loser := 0, faultCycle := 0, conflicts := 0,
    bundle := 0, depth := 0, digest := 0, blockCycles := 0 }

def Scratchpad.reset : Scratchpad :=
  { mem := [], poison := [], staged := [], stores := [], uses := [], corrections := [], powered := 0, clearing := 0,
    clearAt := Vector.replicate 6 0, corrCount := 0, uncorrCount := 0 }

def Window.reset : Window :=
  { st := .closed, base := 0, len := 0, writer := 0, epoch := 0, ctr := 0, doneCtr := 0, sigN := 0, opener := 0,
    pc := 0, openAt := 0, closingAt := 0, noticeAt := 0, markers := [], closeAt := none, writes := 0, rejects := 0 }

def WinRegs.reset : WinRegs := { fault := false, faultAt := 0, reason := 0, num := 0, side := false, offset := 0 }

def SDesc.reset : SDesc :=
  { kind := 0, rt := false, ctrA := 0, ctrB := 0, endCtr := 0, wtarget := 0, wepoch := 0, addr := 0, rowG := 0,
    cnt0 := 0, cnt1 := 0, cnt2 := 0, str0 := 0, str1 := 0, str2 := 0, spBase := 0, halfG := 0, t0 := 0, t1 := 0 }

def Stream.reset : Stream :=
  { st := .unconfigured, d := SDesc.reset, ctx := 0, pc := 0, cur := false, pendA := false, pendB := false,
    tCfg := 0, since := 0, rel := [], nrel := 0, lastRel := 0, row := 0, off := 0, rows := 0, readG := 0, outbox := [], outR := 0,
    outW := 0, landed := [], dls := [], fills := 0, missed := false, judged := 0, restored := none, closeAt := none,
    missCount := 0, lateCount := 0, errCount := 0 }

def Core.reset : Core :=
  { ctx := Vector.replicate 4 Ctx.reset, lastIssue := none, yielded := none, slot := none, control := [],
    blocks := [], counters := Vector.replicate 256 Counter.reset, ctrRegs := CtrRegs.reset, pend := none,
    blk := none, timed := TimedRegs.reset, array := ArrayState.reset, wb := [], wbPoison := 0, epoch := 0,
    girth := GirthRegs.reset, serveDue := [], sp := Scratchpad.reset, qsat := 0, qnan := 0,
    streams := Vector.replicate 32 Stream.reset, windows := Vector.replicate 8 Window.reset, fromUp := [],
    fromDown := [], winRegs := WinRegs.reset, notices := [], barred := [],
    markersDue := [], sentUp := 0, sentDown := 0, lastReq := 0, lastRead := Vector.replicate 3 (0, 31), portUp := [], portDown := [],
    landAt := (0, 0), fillsDue := [], returns := [], faultsDue := [] }

def GCounter.reset : GCounter :=
  { value := 0, armed := false, timed := false, rearm := false, ftSet := false, expect := 0, rctr := 0, relFt := 0,
    releases := [], armer := (0, 0, 0), doneAt := 0, sumAt := 0, holder := none }

def Port.reset : Port :=
  { entries := [], queue := [], records := [], combined := 0, combineFull := 0, rtPromoted := 0,
    forced := 0, skew := 0, adopt := 0, poisonDiscard := 0, partialDiscard := 0, skewLatched := false, skewLatchedAt := 0, skewAddr := 0,
    skewStored := 0, skewIncoming := 0, temp := 0, tempMax := 0, refresh2x := false, throttle := false,
    dramThrottle := false, marginHalf := false, marginAlarm := false, ce := 0, ue := 0, poisonWrites := 0, poisonReads := 0,
    ueLatched := false, ueLatchedAt := 0, ueChannel := 0, ueAddr := 0, scrubPasses := 0, scrub := 0, postponed := [], refreshAt := [], refreshes := 0, scrubHours := 0, scrubFrom := 0 }

def LkEngine.reset : LkEngine :=
  { rows := 0, merged := 0, indexErr := 0, poison := 0, coRuns := 0, coPeak := 0, co := [],
    runs := [] }

def Header.reset : Header :=
  { magic := 0, fmtMinor := 0, fmtMajor := 0, hci3 := 0, profile := 0, flags := 0, segSectors := 0, segCount := 0,
    spMask := 0, contexts := 0, wbMask := 0, windows := 0, streams := 0, counters := 0, globals := 0, maxBlock := 0,
    stashBytes := 0, saddleBytes := 0, seedBase := 0, entry := Vector.replicate 4 0, faultHandler := 0, ctrLen := 0,
    ctrOff := 0, ctrlOff := 0, ctrlLen := 0, blockLen := 0, blockOff := 0, cmdOff := 0, cmdLen := 0, sigOff := 0,
    sigLen := 0 }

def Stage.reset : Stage :=
  { configured := false, phase := 0, warmup := 0, mbStep := 0, fwds := 0, bwds := 0, fwdTaken := 0, bwdTaken := 0, fwdQ := [], bwdQ := [] }

def CmdList.reset : CmdList :=
  { tail := 0, head := 0, done := 0, stopped := false, n := 0, cmplBase := 0, lastStatus := 0, posted := [],
    waitingQ := [], stage0 := Stage.reset, stage1 := Stage.reset, lookups := 0, rhaorErr := false,
    got := none, gotList := [], ripe := [] }

def Stash.reset : Stash :=
  { pool := 0, base := 0, pages := [], hwm := 0, ovf := [], ovfBase := 0, ovfLimit := 0, held := [],
    ovfNoted := false, freedAt := 0 }

def Task.reset : Task :=
  { st := .free, hdr := Header.reset, image := 0, queue := none, user := 0, vector := 0, noAccept := false,
    gctrFirst := 0, sectors := 0, segs := [], reason := 0, halting := none, haltAt := 0, hold := false, started := false,
    pinned := false, ctrTable := [], cmd := CmdList.reset, stash := Stash.reset, saved := [], saveBase := 0,
    quantumEnd := 0, endStep := 0, scrubUntil := 0, autoRelease := false, loaded := false }

def Queue.reset : Queue :=
  { sqBase := 0, cqBase := 0, sqSize := 0, cqSize := 0, enable := false, full := false, error := false, errorAt := 0, sqTail := 0,
    cqHead := 0, sqHead := 0, cqTail := 0, phase := true, fullCount := 0, held := [] }

def Rhaor.reset : Rhaor :=
  { enable := false, versionOk := false, queue := 0, cmpl := 0, tags := [], ring := 0, errCount := 0, stray := 0,
    timeout := 0x2710 }

def Cxl.reset : Cxl :=
  { linkUp := false, width := 0, rate := 0, flit := 0, cacheEn := false, memEn := false, uioEn := false,
    biEn := false, ide := false, memActive := false, hdmBase := 0, hdmSize := 0, slowLat := 0, uioLat := 0, timeout := 0x3E8,
    cacheErr := 0, uioErr := 0, poisonOut := 0, bisnp := 0, sfEvict := 0, masked := [], pendingBits := [],
    filter := [], snoops := [], outstanding := [], waiting := [], slow := [], hpaBase := 0, ways := 1, gran := 256, inReset := false }

def LinkPort.reset : LinkPort :=
  { enable := false, st := .down, version := 0, width := 0, hlMax2 := false, lanesOk := 0, fecCorr := 0,
    retryCount := 0, retrains := 0, nakSent := 0, nakRcvd := 0, viol := false, violAt := 0, violReason := 0, violType := 0,
    violSrc := 0, txNext := 0, rxNext := 0, replay := [], waiting := [], attempts := 0, trainFails := 0, violTimes := [],
    violRetrains := [], seeds := none, fromSeeds := false, feats := 0, rate400 := false, credit0 := 0, credit1 := 0 }

def Group.reset : Group := { origin := 0, valid := false, extent := 0 }

def Links.reset : Links :=
  { coord := 0, dims := 0x010101, groups := Vector.replicate 16 Group.reset, remote := [], fetching := [], nextTag := 0, held := [],
    resend := [], skewed := [], acks := [] }

def Mirror.reset : Mirror :=
  { partner := 0, guest := 0, partnerBag := 0, guestBag := 0, homeBag := 0, home0 := .empty, home1 := .empty,
    guest0 := .empty, guest1 := .empty, home0Step := 0, home1Step := 0, guest0Step := 0, guest1Step := 0,
    owner := none, interval := 0, base := 0, verifyResult := 0, snapPrior := 0x30D40, lastCopy := 0, heldNs := 0,
    bag0Step := none, bag1Step := none, take := none, restore := none, verify := none, fresh := false, guestFresh := false,
    saddle := 0, lastUpdate := none, lastStep := 0, tookNow := false, plain := [], snapTime := 0 }

def Time.reset : Time :=
  { cycle := 0, gridFt := 0, st := .free, stepPending := false, isMaster := false, depth := 0,
    errBound := 0xFFFF, prio := 0x80, eligible := true, offset := 0, trim := 0, lateCount := 0, upstream := 0xF,
    holdLimit := 0xC8, holdNoted := false, holdAt := 0, lastSync := 0, stepped := 0, ahead := 0 }

def Region.reset : Region :=
  { locked := false, lostLock := false, lostLockAt := 0, tjWarned := false, tjHot := false, temp := 0, marginMin := 0xFF, warnTh := 0x14,
    alarmTh := 0x08, warnCount := 0, alarmCount := 0, stretchCount := 0, stretchNs := 0, lost := 0, slow := (0, 0, 0), warnNoted := none,
    calibrated := none }

def Duty.reset : Duty :=
  { dEff := 16, cause := 0, enabled := true, beat := 0, ecyc := 0, sectorLim := 16, stackLim := 16, tjLim := 16,
    marginUntil := 0, rested := true, rampFrom := none, quietFrom := 0,
    refused := false, levelSum := 0, levelCount := 0 }

def Power.reset : Power :=
  { coreStep := 3, nextCoreStep := 3, quadStep := 2, nextQuadStep := 2, hubStep := true, nextHubStep := true,
    mode := false, modeNext := false, coefLoaded := false, fusedCoef := true, dCap := 16, tdpCap := 0x258,
    tdpNext := 0x258, powerModel := 0, powerMeas := 0, lastPower := 0, lastStatic := 0, lastSum := 16,
    lastCount := 1, levelSum := 0, levelCount := 0, winDone := 0, energy := 0, voltOffset := 0,
    clamped := false, clampedAt := 0, vcore := 0x2D0, vto := 0x2D0, railAt := 0, tjWarn := 0x5F, shutdownCause := 0, shutdown := false, thermtripN := true,
    guardCount := 0, detBreaks := 0, guardUntil := 0, ftStep := 0 }

def Activity.reset : Activity :=
  { kgroup2 := 0, kgroup4 := 0, kgroup8 := 0, vectors := 0, specials := 0, issues := 0, hops := 0, banks := 0, bulk := 0, port := 0,
    activates := 0, rows := 0, link := 0, cxl := 0, engine := 0 }

def Recorder.reset : Recorder :=
  { arriving := [], queue := [], held := [], summaries := [], log := [], filled := 0, nextSeq := 0, dropCount := 0,
    queueDrop := 0, suppressed := 0, freezeCount := 0, armRefused := false, armRefusedAt := 0, rlWindow := 0x2710, rlRate := 4,
    rlBurst := 0x10, buckets := [], fullTokens := 16, supp := [], boundary := 10000000, window := 10000000,
    wroteAt := 0, burstNow := 16, frozeAt := 0, thawedAt := 0 }

def ReqCopy.reset : ReqCopy :=
  { coreSel := 0, stackSel := 0, lkupSel := 0, portSel := 0, regionSel := 0, queueSel := 0, gctrSel := 0, rhSel := 0,
    unitSel := 0, ctxSel := 0, sregIdx := 0, srCtx := 0, winSel := 0, streamSel := 0, ctrSel := 0, freeze := false,
    latch := none }

def Staged.reset : Staged :=
  { arb := 0x1003E8, policy := 0, horizon := 0x7D0, scrub := 0x18, memHorizon := 0x7D0, skew := 0, mirror := 0x64,
    nextInterval := 0, nextBase := 0, express := 0, epoch := 0x07D01000, timeouts := 0x271003E8, collLo := 0,
    collHi := 0 }

def Staging.reset : Staging :=
  { shadow := Staged.reset, pendingSet := Staged.reset, received := none, epoch := 0,
    unit := Vector.replicate 36 Staged.reset, reached := Vector.replicate 36 0, profileLock := false,
    profileInForce := false }

def Mailbox.reset : Mailbox :=
  { opcode := 0, argLen := 0, busy := false, status := 0, version := 1, resultLen := 0, data := [] }

def noImage : FwImage := { valid := false, svn := 0, build := 0, minor := 0, major := 0 }

def Security.reset : Security :=
  { fw := .booting, signedFuse := false, signedMode := false, fwSlot := false, svn := 0, minSvn := 0, build := 0,
    minor := 0, major := 0, digest := 0, coef := 0, taskKeys := [], idKey := 0, chain := [], flashA := noImage, flashB := noImage, idn := 0, stepping := false, sessions := [],
    gaps := [], updating := false, updated := none, fused := false, tests := [], testCount := 0, quantum := 79 }

/-- The machine right after its hub leaves reset (stage 0 of R386): every register at the reset value its table
gives, nothing placed, no command waiting. Registers without a reset value in the manual: log 3. -/
def State.reset : State :=
  { pending := [], out := [], freeCtr := 0, cores := Vector.replicate 144 Core.reset, flits := [], buckleNext := 0,
    buckle := 0, xingAlarm := 0, incs := [], reports := [], gsigs := [], gctr := [],
    gregs := { dropped := 0, govf := 0, releases := 0 }, fabric := [], resps := [], runs := [], probe := none, nextId := 0, dram := [], loose := [],
    dramPoison := [], ports := Vector.replicate 12 Port.reset, lookup := Vector.replicate 12 LkEngine.reset,
    lkWork := [], tasks := Vector.replicate 16 Task.reset, resv := Vector.replicate 16 none,
    queues := Vector.replicate 8 Queue.reset, rrQueue := 7, submit := none, stashTimeout := 0x3E8,
    rhaor := Vector.replicate 8 Rhaor.reset, cxl := Cxl.reset, links := Vector.replicate 8 LinkPort.reset,
    net := Links.reset, mir := Mirror.reset, time := Time.reset, regions := Vector.replicate 29 Region.reset,
    duty := Vector.replicate 12 Duty.reset, power := Power.reset, act := Vector.replicate 13 Activity.reset,
    recorder := Recorder.reset, reqHost := ReqCopy.reset,
    reqMgmt := ReqCopy.reset, reqFw := ReqCopy.reset, staging := Staging.reset, mbHost := Mailbox.reset,
    mbMgmt := Mailbox.reset, mbQueue := [], stTimeout := 0x2710, quiesce := none, sec := Security.reset }

end Sys2Proof.Machine
end

