-- ==== Sys2Proof/Machine/Ops.lean ====
section
/-! DEFINITION. The named operations over the state: sparse tables and memories, cores and contexts, time, events,
context faults (R116, R117) and the return from them, and core counters (R204 to R210). -/

namespace Sys2Proof.Machine

/-- What a command answers. -/
abbrev Out := Host.Outcome State Fault Refusal

/-! ### Sparse tables and memories -/

section Tables
variable {α : Type} [DecidableEq α]

/-- The value a table holds under a key; `d` where it lists none. -/
def tget (d : α) : Tbl α → Nat → α
  | [], _ => d
  | (a, v) :: r, k => if a = k then v else tget d r k

/-- Sets a key, keeping the canonical form: keys rising, no entry equal to the default. -/
def tset (d : α) : Tbl α → Nat → α → Tbl α
  | [], k, v => if v = d then [] else [(k, v)]
  | (a, w) :: r, k, v =>
    if k < a then (if v = d then (a, w) :: r else (k, v) :: (a, w) :: r)
    else if k = a then (if v = d then r else (k, v) :: r)
    else (a, w) :: tset d r k v

/-- Every key of a table is above `b`, the keys rise, and no entry is the default. -/
def twfFrom (d : α) : Nat → Tbl α → Bool
  | _, [] => true
  | b, (a, v) :: r => decide (b ≤ a) && decide (v ≠ d) && twfFrom d (a + 1) r

/-- The canonical form of a table. -/
def twf (d : α) (t : Tbl α) : Bool := twfFrom d 0 t

end Tables

/-- The canonical form of a byte memory, whose unlisted bytes read 0. -/
def Memory.wf (m : Mem) : Bool := twf 0 m

/-- One byte of a memory. -/
def readByte (m : Mem) (a : Nat) : Byte := tget 0 m a

/-- `n` bytes from address `a`. -/
def readBytes (m : Mem) (a n : Nat) : List Byte := (List.range n).map fun i => readByte m (a + i)

/-- Writes bytes at ascending addresses. -/
def writeBytes (m : Mem) (a : Nat) : List Byte → Mem
  | [] => m
  | b :: bs => writeBytes (tset 0 m a b) (a + 1) bs

/-- The unsigned number that bytes spell, least significant first (R6). -/
def leNat : List Byte → Nat
  | [] => 0
  | b :: bs => b.toNat + 256 * leNat bs

/-- `n` bytes of a number, least significant first (R6). -/
def natLe : Nat → Nat → List Byte
  | 0, _ => []
  | n + 1, v => BitVec.ofNat 8 v :: natLe n (v / 256)

/-- A little-endian field of `n` bytes at offset `o` of a byte list. -/
def field (bs : List Byte) (o n : Nat) : Nat := leNat ((bs.drop o).take n)

/-- The first `n` bytes of a list, padded with zeros. -/
def padTo (n : Nat) (bs : List Byte) : List Byte := (bs ++ List.replicate n 0).take n

/-- Marks or unmarks granules `g` to `g + n - 1` of a poison table. -/
def setPoison (t : Tbl Bool) (g : Nat) (v : Bool) : Nat → Tbl Bool
  | 0 => t
  | n + 1 => setPoison (tset false t g v) (g + 1) v n

/-- Saturating counters of the register map: one more, or `n` more, never above 2^32 - 1. -/
def satAdd (c : W32) (n : Nat) : W32 := if c.toNat + n < 2 ^ 32 then BitVec.ofNat 32 (c.toNat + n) else 0xFFFFFFFF
def satInc (c : W32) : W32 := satAdd c 1

/-- Bit `i` of a vector as a `Bool`. -/
def bit {n : Nat} (x : BitVec n) (i : Nat) : Bool := x.getLsbD i

/-- Sets or clears bit `i`. -/
def setBit {n : Nat} (x : BitVec n) (i : Nat) (v : Bool) : BitVec n :=
  if v then x ||| BitVec.ofNat n (2 ^ i) else x &&& ~~~ BitVec.ofNat n (2 ^ i)

def b2n (b : Bool) : Nat := if b then 1 else 0

/-- A 64-bit word with its low or high half replaced (R7). -/
def setLo (x : W64) (v : W32) : W64 := BitVec.ofNat 64 (x.toNat / 2 ^ 32 * 2 ^ 32 + v.toNat)
def setHi (x : W64) (v : W32) : W64 := BitVec.ofNat 64 (v.toNat * 2 ^ 32 + x.toNat % 2 ^ 32)
def loW (x : W64) : W32 := BitVec.ofNat 32 x.toNat
def hiW (x : W64) : W32 := BitVec.ofNat 32 (x.toNat / 2 ^ 32)

/-! ### Access to cores, contexts, tasks -/

def modCore (s : State) (c : CoreIx) (f : Core → Core) : State := { s with cores := s.cores.set c (f s.cores[c]) }

def Core.modCtx (x : Core) (k : CtxIx) (f : Ctx → Ctx) : Core := { x with ctx := x.ctx.set k (f x.ctx[k]) }

def modCtx (s : State) (c : CoreIx) (k : CtxIx) (f : Ctx → Ctx) : State := modCore s c fun x => x.modCtx k f

/-- A counter number names a counter of its core. -/
def ctrIx (n : Byte) : Fin 256 := n.toFin

def Core.counter (x : Core) (n : Byte) : Counter := x.counters[ctrIx n]

def Core.modCounter (x : Core) (n : Byte) (f : Counter → Counter) : Core :=
  { x with counters := x.counters.set (ctrIx n) (f x.counters[ctrIx n]) }

def Core.modStream (x : Core) (i : Fin 32) (f : Stream → Stream) : Core :=
  { x with streams := x.streams.set i (f x.streams[i]) }

def Core.modWindow (x : Core) (i : Fin 8) (f : Window → Window) : Core :=
  { x with windows := x.windows.set i (f x.windows[i]) }

def Core.modBlk (x : Core) (f : Block → Block) : Core := { x with blk := x.blk.map f }

def Core.modSp (x : Core) (f : Scratchpad → Scratchpad) : Core := { x with sp := f x.sp }

def modTask (s : State) (t : SlotIx) (f : Task → Task) : State := { s with tasks := s.tasks.set t (f s.tasks[t]) }

def modCmd (s : State) (t : SlotIx) (f : CmdList → CmdList) : State := modTask s t fun x => { x with cmd := f x.cmd }

def modPort (s : State) (p : SecIx) (f : Port → Port) : State := { s with ports := s.ports.set p (f s.ports[p]) }

def modLink (s : State) (p : Fin 8) (f : LinkPort → LinkPort) : State := { s with links := s.links.set p (f s.links[p]) }

def modDuty (s : State) (p : SecIx) (f : Duty → Duty) : State := { s with duty := s.duty.set p (f s.duty[p]) }

def modRegion (s : State) (r : Fin 29) (f : Region → Region) : State := { s with regions := s.regions.set r (f s.regions[r]) }

def modQueue (s : State) (q : Fin 8) (f : Queue → Queue) : State := { s with queues := s.queues.set q (f s.queues[q]) }

/-- The sector of a core (R13). -/
def sectorOf (c : CoreIx) : SecIx := ⟨c.val / 12, by omega⟩

/-- The neighbour the outer lane comes from, and the one it goes to (R38). -/
def upCore (c : CoreIx) : CoreIx := ⟨(c.val + 143) % 144, by omega⟩
def downCore (c : CoreIx) : CoreIx := ⟨(c.val + 1) % 144, by omega⟩

/-- Whether a closed buckle lies between core `c` and core `c + 1` (R46). -/
def buckleBelow (s : State) (c : CoreIx) : Bool := c.val % 12 == 11 && bit s.buckle (c.val / 12)

/-- A header's FLAGS bit (table under R119). -/
def Header.flag (h : Header) (i : Nat) : Bool := bit h.flags i

/-- The task that runs on a core. -/
def taskOn (s : State) (c : CoreIx) : Option (SlotIx × Task) :=
  match s.cores[c].slot with
  | none => none
  | some t => some (t, s.tasks[t])

/-- A task whose contexts issue: RUNNING, not held for preemption or by a halt. -/
def Task.issues (t : Task) : Bool := t.st == .running && !t.hold && t.halting.isNone

/-- The sectors of a segment that starts at `f`. -/
def segSectors (f : SecIx) (n : Nat) : List SecIx := (List.range n).map fun i => ⟨(f.val + i) % 12, by omega⟩

/-- The cores of a sector in ascending number. -/
def sectorCores (p : SecIx) : List CoreIx := (List.range 12).map fun i => ⟨(12 * p.val + i) % 144, by omega⟩

/-- The cores of a task, in segment order from the first core of the first segment (R105). -/
def Task.cores (t : Task) : List CoreIx := t.segs.flatMap fun f => (segSectors f t.hdr.segSectors).flatMap sectorCores

/-- Whether a core lies in the task's segments. -/
def Task.hasCore (t : Task) (c : CoreIx) : Bool := bit t.sectors (sectorOf c).val

/-- The cores of the segment of a task that holds core `c`. -/
def Task.segmentOf (t : Task) (c : CoreIx) : List CoreIx :=
  match t.segs.find? fun f => (segSectors f t.hdr.segSectors).contains (sectorOf c) with
  | none => []
  | some f => (segSectors f t.hdr.segSectors).flatMap sectorCores

/-- Applies `f` to every core that runs task `t`. -/
def mapTaskCores (s : State) (t : SlotIx) (f : Core → Core) : State :=
  { s with cores := s.cores.map fun x => if x.slot = some t then f x else x }

/-- Takes the next free value of the machine. -/
def nextFree (s : State) : Nat × State := (s.freeCtr, { s with freeCtr := s.freeCtr + 1 })

/-- Activity of the current control window (R366) by its place: a sector, or 12 for the hub and the I/O ring. -/
def actAdd (p : Fin 13) (f : Activity → Activity) (s : State) : State := { s with act := s.act.set p (f s.act[p]) }

/-- The place of a sector's activity. -/
def actOf (p : SecIx) : Fin 13 := ⟨p.val, by omega⟩

def emit (s : State) (m : OutMsg) : State := { s with out := s.out ++ [m] }

/-! ### Fabric time (R23, R29) -/

/-- Beats per frame of a core step code (table before R29). -/
def bpf (step : BitVec 3) : Nat := 21 + 3 * step.toNat

/-- The time FT in units of 1 / (beats per frame) ns, exact at a core cycle. -/
def ftScaled (s : State) : Nat := (s.time.gridFt * (bpf s.power.coreStep : Int) + 20 * (s.time.cycle : Int)).toNat

/-- FT in whole nanoseconds. -/
def ftNow (s : State) : Nat := ftScaled s / bpf s.power.coreStep

/-- Nanoseconds counted since the reset: FT without the steps that it made (log 116). -/
def nsNow (s : State) : Nat := ((ftNow s : Int) - s.time.stepped).toNat

/-- The number of the hub cycle, of 1.00 or 0.80 GHz (R354), in which a time lies, counted over FT. -/
def hubCycleOf (s : State) (scaled : Nat) : Nat := scaled * (if s.power.hubStep then 5 else 4) / (5 * bpf s.power.coreStep)

/-- The number of the current hub cycle. -/
def hubCycle (s : State) : Nat := hubCycleOf s (ftScaled s)

/-- The current core cycle is the last that begins in its hub cycle: what reached the hub in that hub cycle is there (R215; log 101). -/
def hubEnds (s : State) : Bool := hubCycleOf s (ftScaled s + 20) != hubCycle s

/-- The number of the current beat of the grid, and whether the current cycle starts it. -/
def beatNow (s : State) : Nat := s.time.cycle / 32
def atBeat (s : State) : Bool := s.time.cycle % 32 == 0

/-- The first beat that begins at or after an FT (R36). Beat j of the grid begins at 640 j / bpf ns. -/
def beatAt (s : State) (ft : Nat) : Nat := (((ft : Int) - s.time.gridFt).toNat * bpf s.power.coreStep + 639) / 640

/-- FT in whole ns at which a beat begins. -/
def beatFt (s : State) (j : Nat) : Nat := (s.time.gridFt + (640 * j / bpf s.power.coreStep : Nat)).toNat

/-- A cycle that starts a frame. -/
def atFrame (s : State) : Bool := s.time.cycle % (32 * bpf s.power.coreStep) == 0

/-- Cycles that cover at least `ns` nanoseconds. -/
def ccOf (s : State) (ns : Nat) : Nat := (ns * bpf s.power.coreStep + 19) / 20

/-- A LAUNCH.AT resolves to the first beat that starts at or after its stated FT (R36). -/
def Launch.resolve (s : State) (l : Launch) : Launch := if l.form = .at_ then { l with beat := beatAt s l.ft.toNat } else l

/-- A pending LAUNCH.AT is resolved anew where the grid changes. FT becomes `ft` and the core step `step`: the grid of frames begins anew at an FT multiple of 640 (R29, R31, R33). Cycle
numbers never go back. -/
def rebase (ft : Nat) (step : BitVec 3) (s : State) : State :=
  let frame := 32 * bpf step
  let k := (s.time.cycle + frame - 1) / frame
  let cyc := k * frame + ft % 640 * bpf step / 20
  let s := { s with time := { s.time with cycle := cyc, gridFt := ((ft - ft % 640 : Nat) : Int) - 640 * (k : Int) }
                    power := { s.power with coreStep := step } }
  { s with cores := s.cores.map fun x => { x with pend := x.pend.map (Launch.resolve s) } }

/-- A task is active: its contexts run or its state is being saved or released. -/
def taskActive (s : State) : Bool :=
  s.tasks.any fun t => t.st == .running || t.st == .preempting || t.st == .ending

/-! ### Events (R376) -/

/-- A unit records an event: it is on its way to the recorder with the FT and time state of its capture. -/
def record (s : State) (code : Nat) (sev : BitVec 2) (unit : Nat) (a0 : Nat) (a1 : Nat) (a2 : Nat) : State :=
  { s with recorder := { s.recorder with
      arriving := s.recorder.arriving ++
        [{ ft := ftNow s, code := BitVec.ofNat 16 code, sev := sev, tst := s.time.st, unit := BitVec.ofNat 8 unit,
           arg0 := BitVec.ofNat 64 a0, arg1 := BitVec.ofNat 32 a1, arg2 := BitVec.ofNat 32 a2, summary := false,
           held := false, seq := 0, hub := hubCycle s }] } }

/-- Severities of R376. -/
abbrev info : BitVec 2 := 0
abbrev notice : BitVec 2 := 1
abbrev error : BitVec 2 := 2
abbrev fatal : BitVec 2 := 3

/-! ### Context faults (R116 to R118) -/

/-- A task stops at a halting fault or abort with REASON `r`: its contexts hold at once, pending launches are
discarded, and a task being preempted completes its save first (R117, R118). A fault in the cycle of an abort
(reason 0x80) gives the reason. -/
def haltTask (t : SlotIx) (r : Byte) (s : State) : State :=
  let x := s.tasks[t]
  match x.halting with
  | some old =>
    if x.haltAt = s.time.cycle && old = 0x80 then modTask s t fun x => { x with halting := some r } else s
  | none =>
    let s := modTask s t fun x => { x with halting := some r, haltAt := s.time.cycle }
    if x.hold then s
    else mapTaskCores s t fun c =>
      { c with pend := none,
               ctx := c.ctx.map fun k => if k.st = .ready then { k with st := .waiting, kind := .hold } else k }

/-- Takes a context out of every counter's wait queue; the queues it leaves are served in step 3 of R206. -/
def Core.unqueue (x : Core) (k : CtxIx) : Core :=
  { x with counters := x.counters.map fun q => { q with queue := q.queue.filter fun w => w.ctx ≠ k }
           serveDue := x.serveDue ++ (List.finRange 256).filterMap fun i =>
             if x.counters[i].queue.any (fun w => w.ctx = k) then some (BitVec.ofNat 8 i.val) else none }

/-- What a latched fault leaves in the context (R116, and R117 for a handler entry at `h`); a branch of the same cycle does not hold the
handler up. -/
def Ctx.latch (x : Ctx) (cause : Byte) (inf : W16) (pc : BitVec 13) (now : Nat) (h : Option (BitVec 13)) (held : Bool) :
    Ctx :=
  let x := { x with faulted := true, cause := cause, info := inf, faultPc := pc, faultAt := some now, wakeAt := none,
                    stall := .none, pcReady := 0 }
  match h with
  | none => { x with st := .faulted }
  | some a =>
    { x with s := (x.s.set 31 (BitVec.ofNat 64 (cause.toNat * 2 ^ 16 + pc.toNat))).set 30 (inf.setWidth 64),
             ready := (x.ready.set 31 (now + 1)).set 30 (now + 1), pc := a,
             lds := x.lds.map fun l => if l.rd = 30 || l.rd = 31 then { l with rd := 0 } else l
             st := if held then .waiting else .ready, kind := if held then .hold else x.kind }

/-- A fault reaches context `k` of core `c` (R116). While a cause is latched a later fault only counts, and halts the
task (R117); in the cycle of the latch the lowest cause is the latched one. -/
def faultCtx (c : CoreIx) (k : CtxIx) (cause : Byte) (inf : W16) (pc : BitVec 13) (s : State) : State :=
  let x := s.cores[c].ctx[k]
  let now := s.time.cycle
  let t := taskOn s c
  let notify := match t with
    | some (_, T) => T.hdr.flag 6
    | none => false
  let held := match t with
    | some (_, T) => !T.issues
    | none => false
  let h := match t with
    | some (_, T) => if notify then some (T.hdr.faultHandler.setWidth 13) else none
    | none => none
  let s := modCtx s c k fun x => { x with faultCount := satInc x.faultCount }
  let halt := fun s : State => match t with
    | some (i, _) => haltTask i (0x80 + cause) s
    | none => s
  if x.faulted && x.faultAt ≠ some now then
    if notify then halt (modCore s c fun y => (y.unqueue k).modCtx k fun x => { x with st := .faulted }) else s
  else if x.faulted then
    if cause.toNat < x.cause.toNat then
      let s := modCtx s c k fun x => x.latch cause inf pc now h held
      let s := match t with
        | some (i, T) => if !notify && T.haltAt = now then modTask s i fun T => { T with halting := some (0x80 + cause) } else s
        | none => s
      { s with recorder := { s.recorder with arriving := s.recorder.arriving.map fun e =>
          if e.code = 0x1000 + x.cause.setWidth 16 && e.unit.toNat = c.val && e.arg2.toNat = k.val && e.ft = ftNow s then
            { e with code := 0x1000 + cause.setWidth 16, arg0 := pc.setWidth 64, arg1 := inf.setWidth 32 }
          else e } }
    else s
  else
    let s := modCore s c fun y => (y.unqueue k).modCtx k fun x => x.latch cause inf pc now h held
    let s := record s (0x1000 + cause.toNat) error c.val pc.toNat inf.toNat k.val
    if notify then s else halt s

/-- TRAP 0xFFFF in a notified handler: the latch is cleared and the context goes on at S31[12:0] + 1 (R117). -/
def returnFromFault (c : CoreIx) (k : CtxIx) (s : State) : State :=
  modCtx s c k fun x =>
    { x with faulted := false, cause := 0, info := 0, faultPc := 0, faultAt := none, pc := x.s[31].setWidth 13 + 1 }

/-- A context fault at issue: FAULT_PC is the context's PC (R116). -/
def faultNow (c : CoreIx) (k : CtxIx) (cause : Byte) (inf : W16) (s : State) : State :=
  faultCtx c k cause inf (s.cores[c].ctx[k].pc) s

/-! ### Core counters (R204 to R210) -/

/-- Serves a wait queue from its head: what is left of the value and the queue, and the contexts served (R208). -/
def serveQueue : Nat → List Waiter → Nat × List Waiter × List CtxIx
  | v, [] => (v, [], [])
  | v, w :: ws =>
    if w.n.toNat ≤ v then
      let r := serveQueue (v - w.n.toNat) ws
      (r.1, r.2.1, w.ctx :: r.2.2)
    else (v, w :: ws, [])

/-- Serves the queue of a counter in the current cycle: each context served wakes 5 cc later (R208). -/
def serveCounter (c : CoreIx) (n : Byte) (s : State) : State :=
  let q := s.cores[c].counter n
  let r := serveQueue q.value.toNat q.queue
  let s := modCore s c fun x => x.modCounter n fun q => { q with value := BitVec.ofNat 16 r.1, queue := r.2.1 }
  r.2.2.foldl (fun s k => modCtx s c k fun x => { x with wakeAt := some (s.time.cycle + 5) }) s

def pushInc (s : State) (i : CtrInc) : State := { s with incs := s.incs ++ [i] }

/-- An increment of a counter of the core itself, applied after `d` cycles. -/
def signalOwn (s : State) (c : CoreIx) (n : Byte) (amt d : Nat) (src : BitVec 3) (k : CtxIx) (pc : BitVec 13) : State :=
  pushInc s { core := c, ctr := n, n := amt, due := s.time.cycle + d, source := src, tsig := false, fcore := c,
              fctx := k, fpc := pc }

/-- The information word of a core-counter fault (R210). -/
def ctrInfo (n : Byte) (src : BitVec 3) (range : BitVec 2) : W16 :=
  BitVec.ofNat 16 (n.toNat + src.toNat * 2 ^ 8 + range.toNat * 2 ^ 11)

/-- The information word of a global-counter fault (R210). -/
def gctrInfo (g : Fin 4096) (range : BitVec 2) : W16 := BitVec.ofNat 16 (0x8000 + g.val + range.toNat * 2 ^ 12)

/-- The report of one discarded increment to its source (R210). -/
def reportOverflow (i : CtrInc) (s : State) : State :=
  let inf := ctrInfo i.ctr i.source 0
  if i.tsig then
    modCore s i.fcore fun x => x.modBlk fun b =>
      { b with tsigFaults := b.tsigFaults ++ [(0x08, inf)] }
  else if i.source = 2 || i.source = 3 || i.source = 4 then
    { s with reports := s.reports ++ [{ core := i.fcore, ctx := i.fctx, pc := i.fpc, info := inf, due := s.time.cycle }] }
  else faultCtx i.fcore i.fctx 0x08 inf i.fpc s

/-- Whether an increment is one that reaches counter `n` of core `c` in the current cycle. -/
def CtrInc.hits (i : CtrInc) (c : CoreIx) (n : Byte) (now : Nat) : Bool := i.core = c && i.ctr = n && i.due ≤ now

/-- Whether a counter has its step of R206 still to make in the current cycle: increments that are due, or a queue to serve. -/
def counterDue (s : State) (c : CoreIx) (n : Byte) : Bool :=
  (s.cores[c].counter n).appliedAt != s.time.cycle + 1 && ((s.incs.any fun i => i.hits c n s.time.cycle) || s.cores[c].serveDue.contains n)

/-- Steps 2 and 3 of R206 at one counter: the increments due are summed, checked (R207) and applied, and the queue
is served. -/
def applyCounter (c : CoreIx) (n : Byte) (s : State) : State :=
  let now := s.time.cycle
  let due := s.incs.filter fun i => i.hits c n now
  if !counterDue s c n then s
  else
    let sum := due.foldl (fun a i => a + i.n) 0
    let q := s.cores[c].counter n
    let s := { s with incs := s.incs.filter fun i => !i.hits c n now }
    let s := modCore s c fun x =>
      { x.modCounter n (fun q => { q with appliedAt := now + 1 }) with serveDue := x.serveDue.filter (· ≠ n) }
    let s := due.foldl (fun s i =>
      if i.tsig then modCore s i.fcore fun x => x.modBlk fun b => { b with tsigAt := now + 1 } else s) s
    if q.value.toNat + sum ≤ q.limit.toNat then
      serveCounter c n (modCore s c fun x => x.modCounter n fun q => { q with value := BitVec.ofNat 16 (q.value.toNat + sum) })
    else
      let s := modCore s c fun x => { x with ctrRegs := { x.ctrRegs with ovfDiscards := satAdd x.ctrRegs.ovfDiscards due.length } }
      let s := record s 0x1301 error c.val 0 n.toNat (q.value.toNat + (min sum 0xFFFF) * 2 ^ 16)
      due.foldl (fun s i => reportOverflow i s) (serveCounter c n s)

end Sys2Proof.Machine
end

