-- ==== Sys2Proof/Machine/Encode.lean ====
section
/-! DEFINITION. The encodings of the instructions that a core fetches itself: control words (chapter 06, R106, R107),
and the M, T and V slots of a bundle (R131, R138, R144, R154). An instruction command acts only where control or block
memory holds its encoding. -/

namespace Sys2Proof.Machine

/-- Format R: rd [25:21], ra [20:16], rb [15:11], fn [10:0]. -/
def encR (op rd ra rb fn : Nat) : W32 := BitVec.ofNat 32 (op * 2 ^ 26 + rd * 2 ^ 21 + ra * 2 ^ 16 + rb * 2 ^ 11 + fn)

/-- Formats I and B: two register fields and a 16-bit immediate. -/
def encI (op a b : Nat) (imm : W16) : W32 := BitVec.ofNat 32 (op * 2 ^ 26 + a * 2 ^ 21 + b * 2 ^ 16 + imm.toNat)

/-- Format K: ctr [25:18], SRC [17], n or rs. -/
def encK (op : Nat) (ctr : Byte) : NOp → W32
  | .imm n => BitVec.ofNat 32 (op * 2 ^ 26 + ctr.toNat * 2 ^ 18 + n.toNat)
  | .reg rs => BitVec.ofNat 32 (op * 2 ^ 26 + ctr.toNat * 2 ^ 18 + 2 ^ 17 + rs.val)

/-- Format L: blk [25:14], ctr [13:6], rf [5:1]. -/
def encL (op : Nat) (blk : BitVec 12) (ctr : Byte) (rf : Nat) : W32 :=
  BitVec.ofNat 32 (op * 2 ^ 26 + blk.toNat * 2 ^ 14 + ctr.toNat * 2 ^ 6 + rf * 2)

/-- The opcodes whose format is R with fn 0 or a counter, I with register constraints, and so on: whether a word is
one that the table of R107 lists with its zero-valued fields zero (R106). -/
def ctlLegal (w : W32) : Bool :=
  let n := w.toNat
  let op := n / 2 ^ 26
  let rd := n / 2 ^ 21 % 32
  let ra := n / 2 ^ 16 % 32
  let fn := n % 2 ^ 11
  let imm := n % 2 ^ 16
  let kfmt := n / 2 ^ 16 % 2 == 0 && (n / 2 ^ 17 % 2 == 0 || imm / 32 == 0)
  match op with
  | 0x00 => fn ≤ 0x0B || fn == 0x10
  | 0x01 | 0x02 | 0x03 | 0x04 => true
  | 0x05 | 0x06 => ra < 4
  | 0x08 | 0x09 => ra < 16
  | 0x0A => rd < 16 && imm == 0
  | 0x0B => rd < 16 && ra < 16
  | 0x0C => ra < 16 && imm == 0
  | 0x10 | 0x11 | 0x12 | 0x13 | 0x14 | 0x15 => true
  | 0x16 => ra == 0
  | 0x17 => rd == 0 && imm == 0
  | 0x18 | 0x19 | 0x1A | 0x1D | 0x1E => kfmt
  | 0x1B => rd == 0 && fn < 256
  | 0x1C | 0x31 => rd == 0 && fn == 0
  | 0x1F => ra == 0
  | 0x20 | 0x21 => n % 64 == 0
  | 0x22 => n % 2 == 0
  | 0x24 => ra < 16 && imm == 0
  | 0x25 | 0x26 | 0x27 | 0x29 | 0x2C | 0x2E | 0x30 | 0x32 | 0x3B => true
  | 0x28 => ra < 16 && imm == 0
  | 0x2D => imm < 8
  | 0x38 | 0x39 | 0x3A => n % 2 ^ 26 == 0
  | _ => false

/-- The M slot of an MMA (R138). -/
def encM (op : Nat) (m : MFields) : BitVec 44 :=
  BitVec.ofNat 44 (op * 2 ^ 40 + b2n m.acc * 2 ^ 39 + b2n m.keep * 2 ^ 38 + b2n m.ends * 2 ^ 37 + b2n m.chain * 2 ^ 36
    + m.dest.toNat * 2 ^ 33 + m.lg.toNat * 2 ^ 20 + m.xa.val * 2 ^ 17 + m.xb.val * 2 ^ 14 + m.la.val * 2 ^ 10
    + m.dn.toNat * 2 ^ 5 + m.xu.toNat * 2 ^ 3 + b2n m.au * 4 + b2n m.du * 2)

/-- The instruction an M slot encodes (R138). -/
def decM (w : BitVec 44) : Option (Shape × MFields) :=
  let n := w.toNat
  let m : MFields :=
    { acc := n.testBit 39, keep := n.testBit 38, ends := n.testBit 37, chain := n.testBit 36, dest := BitVec.ofNat 3 (n / 2 ^ 33)
      lg := BitVec.ofNat 13 (n / 2 ^ 20), xa := ⟨n / 2 ^ 17 % 8, by omega⟩, xb := ⟨n / 2 ^ 14 % 8, by omega⟩
      la := ⟨n / 2 ^ 10 % 16, by omega⟩, dn := BitVec.ofNat 5 (n / 2 ^ 5), xu := BitVec.ofNat 2 (n / 2 ^ 3)
      au := n.testBit 2, du := n.testBit 1 }
  match n / 2 ^ 40 with
  | 1 => some (.f, m)
  | 2 => some (.h, m)
  | 3 => some (.q, m)
  | 4 => some (.n, m)
  | 5 => some (.s, m)
  | _ => none

/-- The opcode of a shape in the M slot (R138). -/
def shapeOp : Shape → Nat
  | .f => 1
  | .h => 2
  | .q => 3
  | .n => 4
  | .s => 5

/-- A T slot: the opcode in [39:35] and the fields below it (R144). -/
def encT (op fields : Nat) : BitVec 40 := BitVec.ofNat 40 (op * 2 ^ 35 + fields)

def encGinj (g : GinjFields) : BitVec 40 :=
  encT 1 (g.tr.val * 2 ^ 32 + b2n g.trans * 2 ^ 31 + b2n g.fp32 * 2 ^ 30 + g.ba.val * 2 ^ 26 + b2n g.au * 2 ^ 25
    + g.nf.toNat * 2 ^ 13 + g.xu.toNat * 2 ^ 11)

/-- The GINJ a T slot encodes (R144). -/
def decGinj (w : BitVec 40) : Option GinjFields :=
  let n := w.toNat
  if n / 2 ^ 35 = 1 then
    some { tr := ⟨n / 2 ^ 32 % 8, by omega⟩, trans := n.testBit 31, fp32 := n.testBit 30, ba := ⟨n / 2 ^ 26 % 16, by omega⟩
           au := n.testBit 25, nf := BitVec.ofNat 12 (n / 2 ^ 13), xu := BitVec.ofNat 2 (n / 2 ^ 11) }
  else none

def laneN : Lane → Nat
  | .outer => 0
  | .inner => 1

def encGcap (g : GcapFields) (sink : Bool) : BitVec 40 :=
  encT 2 (laneN g.station * 2 ^ 34 + g.ba.val * 2 ^ 30 + b2n g.au * 2 ^ 29 + b2n g.cs * 2 ^ 28 + b2n sink * 2 ^ 27
    + b2n g.chk * 2 ^ 26 + g.tr.val * 2 ^ 23)

def targetN : TsigTarget → Nat
  | .own => 0
  | .up => 1
  | .down => 2

def fieldN : TrField → Nat
  | .tile => 0
  | .kblock => 1
  | .stream => 2
  | .injector => 3
  | .format => 4
  | .control => 5

def encTr (op : Nat) (tr : Fin 8) (f : TrField) (imm : BitVec 12) : BitVec 40 :=
  encT op (tr.val * 2 ^ 32 + fieldN f * 2 ^ 29 + imm.toNat * 2 ^ 17)

/-- The register form of a V slot (R154). -/
def encV (op vd va vb vc : Nat) (bf : Bool) (aux : Nat) : BitVec 40 :=
  BitVec.ofNat 40 (op * 2 ^ 34 + vd * 2 ^ 29 + va * 2 ^ 24 + vb * 2 ^ 19 + vc * 2 ^ 14 + b2n bf * 2 ^ 13 + aux)

/-- The memory form of a V slot (R154). -/
def encVmem (op vd : Nat) (ba : Fin 16) (au : Bool) (off : BitVec 14) : BitVec 40 :=
  BitVec.ofNat 40 (op * 2 ^ 34 + vd * 2 ^ 29 + ba.val * 2 ^ 25 + b2n au * 2 ^ 24 + off.toNat * 2 ^ 10)

/-- What control memory holds where nothing was loaded (R412). -/
abbrev ctlFill : W32 := 0xFC000000

/-- What block memory holds where nothing was loaded: the empty bundle with BEND = 1 (R130). -/
abbrev blkFill : BitVec 128 := BitVec.ofNat 128 (2 ^ 127)

def Core.ctlWord (x : Core) (pc : BitVec 13) : W32 := tget ctlFill x.control pc.toNat

def Core.bundle (x : Core) (n : BitVec 12) : BitVec 128 := tget blkFill x.blocks n.toNat

/-- The slots of a bundle (R131). -/
def slotM (b : BitVec 128) : BitVec 44 := b.extractLsb' 80 44
def slotT (b : BitVec 128) : BitVec 40 := b.extractLsb' 40 40
def slotV (b : BitVec 128) : BitVec 40 := b.extractLsb' 0 40
def bend (b : BitVec 128) : Bool := bit b 127


/-! ### Frames of the links (R323) -/

/-- One bit, and one byte, of CRC-32C: the reflected polynomial 0x82F63B78 (PRESUMED: what the name stands for, log 112). -/
def crc32cBit (r : Nat) : Nat := if r % 2 = 1 then (r / 2) ^^^ 0x82F63B78 else r / 2
def crc32cByte (r : Nat) (b : Byte) : Nat := (List.range 8).foldl (fun r _ => crc32cBit r) (r ^^^ b.toNat)

def crc32c (bs : List Byte) : W32 := BitVec.ofNat 32 (bs.foldl crc32cByte 0xFFFFFFFF ^^^ 0xFFFFFFFF)

/-- The link field: LSEQ, ACK, RETRY and the credits. -/
def linkWord (l : FrameLink) : Nat :=
  l.lseq.toNat + 2 ^ 16 * l.ack.toNat + 2 ^ 32 * b2n l.retry + 2 ^ 33 * l.credit0.toNat + 2 ^ 49 * l.credit1.toNat

/-- Bytes 0 to 55 of a frame, and its payload. -/
def frameBytes (l : FrameLink) (k : Packet) : List Byte :=
  [k.ptype, k.pflags] ++ natLe 2 k.len.toNat ++ natLe 4 k.dest.toNat ++ natLe 4 k.src.toNat ++ natLe 2 k.tag.toNat ++ [k.ver, k.reason]
  ++ natLe 8 k.addr.toNat ++ natLe 4 k.deadline.toNat ++ natLe 4 k.step.toNat ++ natLe 2 k.coll.toNat ++ [k.epoch, k.orig]
  ++ natLe 4 k.segno.toNat ++ natLe 8 k.arg.toNat ++ natLe 8 (linkWord l) ++ k.payload

/-- HCRC of a frame. -/
def hcrcOf (l : FrameLink) (k : Packet) : W32 := crc32c (frameBytes l k)

/-- A frame is good: FEC has left no error, and HCRC is that of its bytes (R326). -/
def frameGood (l : FrameLink) (k : Packet) : Bool := l.good && l.hcrc == hcrcOf l k

/-- The link field with its HCRC. -/
def sealFrame (l : FrameLink) (k : Packet) : FrameLink := { l with hcrc := hcrcOf l k }

/-- CLASS0 of a packet (R325), and the 64 B units that its frame takes (R326). -/
def classZero (k : Packet) : Bool := bit k.pflags 1
def frameUnits (k : Packet) : Nat := 1 + (k.payload.length + 63) / 64

end Sys2Proof.Machine
end

