-- ==== Sys2Proof/Machine/Operands.lean ====
section
/-! DEFINITION. Operand forms: the issue of a control instruction (R103), scalar results, scratchpad addresses and
banks (R169, R170), formats (R42), tag registers (R142), the scheduled scratchpad accesses of a block (R161), and the
descriptors and headers that instructions and the sequencer read (R119, R178, R188). -/

namespace Sys2Proof.Machine

/-! ### Issue of control instructions -/

/-- The interlock of R103 for one source register: its producer has reached its result latency. -/
def Ctx.srcReady (y : Ctx) (now : Nat) (r : SReg) : Bool :=
  r.val == 0 || (decide (y.ready[r] ≤ now) && !y.lds.any fun l => l.rd == r)

/-- Whether a context could be selected in this cycle (R103, R117). -/
def selectable (s : State) (y : Ctx) : Bool :=
  y.st == .ready && y.stall == .none && y.faultAt != some s.time.cycle && decide (y.pcReady ≤ s.time.cycle)

/-- The registers a launch copies and so reads (R103, R111). -/
def launchSrcs : List SReg := [24, 25, 26, 27, 28, 29, 30, 31]

/-- Whether TRAP 0xFFFF returns from a handler: a latched fault in a task that asks for notification (R117). -/
def trapReturns (s : State) (c : CoreIx) (k : CtxIx) : Bool :=
  s.cores[c].ctx[k].faulted && match taskOn s c with
    | some (_, T) => T.hdr.flag 6
    | none => false

/-- The registers that the instruction with word `w` reads (R103, R107); an illegal word reads none. `returns` says that TRAP 0xFFFF
would return. -/
def wordSrcs (returns : Bool) (w : W32) : List SReg :=
  let n := w.toNat
  let f := fun o : Nat => (⟨n / 2 ^ o % 32, by omega⟩ : SReg)
  if !ctlLegal w then []
  else match n / 2 ^ 26 with
    | 0x00 => [f 16, f 11]
    | 0x01 | 0x02 | 0x03 | 0x04 | 0x0A | 0x17 => [f 16]
    | 0x06 | 0x09 => [f 21]
    | 0x10 | 0x11 | 0x12 | 0x13 | 0x14 | 0x15 => [f 21, f 16]
    | 0x18 | 0x19 | 0x1A | 0x1D | 0x1E => if n / 2 ^ 17 % 2 = 1 then [f 0] else []
    | 0x1B | 0x1C | 0x31 => [f 16, f 11]
    | 0x20 | 0x21 => launchSrcs
    | 0x22 => f 1 :: launchSrcs
    | 0x3B => if returns && n % 2 ^ 16 == 0xFFFF then [31] else []
    | _ => []

/-- Whether a context may be selected in this cycle: READY, not stalled, and its next instruction's sources ready (R103). -/
def pickable (s : State) (c : CoreIx) (k : CtxIx) : Bool :=
  let y := s.cores[c].ctx[k]
  selectable s y && (wordSrcs (trapReturns s c k) (s.cores[c].ctlWord y.pc)).all (y.srcReady s.time.cycle)

/-- The contexts in the order of selection, from the one after the context that issued last (R103). -/
def issueOrder (x : Core) : List CtxIx :=
  let f := match x.lastIssue with
    | some (_, k) => k.val + 1
    | none => 0
  (List.range 4).map fun i => ⟨(f + i) % 4, by omega⟩

/-- A waiting context of a core wakes in this cycle, and takes part in its selection (R103, R208). -/
def wakeDue (x : Core) (now : Nat) : Bool := (List.finRange 4).any fun k => x.ctx[k].st == .waiting && match x.ctx[k].wakeAt with
  | some w => decide (w ≤ now)
  | none => false

/-- The context that the selection of R103 gives in this cycle; none where the core has issued, its task does not run, a context is
still to wake, or no context may issue. After a YIELD another READY context goes first. -/
def nextIssuer (s : State) (c : CoreIx) : Option CtxIx :=
  let x := s.cores[c]
  let runs := match taskOn s c with
    | some (_, T) => T.issues
    | none => false
  let fresh := match x.lastIssue with
    | some (n, _) => n != s.time.cycle
    | none => true
  let passed := fun k : CtxIx => x.yielded == some k && (List.finRange 4).any fun j => j != k && selectable s x.ctx[j]
  if runs && fresh && !wakeDue x s.time.cycle then (issueOrder x).find? fun k => pickable s c k && !passed k else none

/-- Whether context `k` of core `c` may issue, in this cycle, the instruction whose word is `w` outside its don't-care
bits `dc`, with sources `srcs`: it is the context that the selection of R103 gives, and its sources are ready. -/
def issueOk (s : State) (c : CoreIx) (k : CtxIx) (w dc : W32) (srcs : List SReg) : Bool :=
  let x := s.cores[c]
  let y := x.ctx[k]
  nextIssuer s c == some k
  && (x.ctlWord y.pc &&& ~~~dc) == w
  && srcs.all (y.srcReady s.time.cycle)

/-- Notes the issue of this cycle (R103). -/
def noteIssue (c : CoreIx) (k : CtxIx) (s : State) : State :=
  modCore s c fun x => { x with lastIssue := some (s.time.cycle, k), yielded := none }

/-- An instruction issues and execution goes on at `pc`. -/
def retireTo (c : CoreIx) (k : CtxIx) (pc : BitVec 13) (s : State) : State :=
  noteIssue c k (modCtx s c k fun y => { y with pc := pc })

/-- An instruction issues and execution goes on at the next word. -/
def retire (c : CoreIx) (k : CtxIx) (s : State) : State := retireTo c k (s.cores[c].ctx[k].pc + 1) s

/-- An instruction issues into a fault; FAULT_PC is its own PC (R116). -/
def retireFault (c : CoreIx) (k : CtxIx) (cause : Byte) (inf : W16) (s : State) : State :=
  noteIssue c k (faultNow c k cause inf s)

/-- A command for an instruction: its effect `f` when it may issue now, no effect otherwise (log 1). -/
def issue (c : CoreIx) (k : CtxIx) (w dc : W32) (srcs : List SReg) (s : State) (f : State → State) : Out :=
  .next (if issueOk s c k w dc srcs then f s else s)

/-- A scalar register as an instruction reads it: S0 reads 0. -/
def Ctx.sget (y : Ctx) (r : SReg) : W64 := if r.val = 0 then 0 else y.s[r]

def sreg (s : State) (c : CoreIx) (k : CtxIx) (r : SReg) : W64 := s.cores[c].ctx[k].sget r

/-- Writes a scalar register with the result latency of R107: S0 discards, and a pending LD of the same register is
superseded (log 5). -/
def Ctx.sset (y : Ctx) (r : SReg) (v : W64) (ready : Nat) : Ctx :=
  if r.val = 0 then y
  else { y with s := y.s.set r v, ready := y.ready.set r ready,
                lds := y.lds.map fun l => if l.rd = r then { l with rd := 0 } else l }

/-- A jump taken: the next instruction of the context may issue 2 cc after it (R107). -/
def jumpTo (c : CoreIx) (k : CtxIx) (pc : BitVec 13) (s : State) : State :=
  retireTo c k pc (modCtx s c k fun y => { y with pcReady := s.time.cycle + 2 })

/-- The information word of a fault for which the manual gives none: a free value (log 2). -/
def withFreeInfo (s : State) (f : W16 → State → State) : State :=
  f (Config.free 16 s.freeCtr) { s with freeCtr := s.freeCtr + 1 }

/-- A context begins to wait (R110); the object and amount of a wait that has none are free (log 2). -/
def waitOn (c : CoreIx) (k : CtxIx) (kind : WaitKind) (obj : Option (Byte × W16)) (s : State) : State :=
  let on := obj.getD (Config.free 8 s.freeCtr, Config.free 16 (s.freeCtr + 1))
  let s := if obj.isNone then { s with freeCtr := s.freeCtr + 2 } else s
  noteIssue c k (modCtx s c k fun y => { y with st := .waiting, kind := kind, waitObj := on.1, waitN := on.2 })

/-- A scalar result: write, then go on at the next word. -/
def result (c : CoreIx) (k : CtxIx) (rd : SReg) (v : W64) (lat : Nat) (s : State) : State :=
  retire c k (modCtx s c k fun y => y.sset rd v (s.time.cycle + lat))

/-- The n of a K-format instruction. -/
def nval (s : State) (c : CoreIx) (k : CtxIx) : NOp → W16
  | .imm n => n
  | .reg rs => (sreg s c k rs).setWidth 16

def nsrc : NOp → List SReg
  | .imm _ => []
  | .reg rs => [rs]

/-- A counter number below the header's COUNTERS (R109). -/
def ctrHeld (s : State) (c : CoreIx) (n : Nat) : Bool :=
  match taskOn s c with
  | some (_, T) => decide (n < T.hdr.counters)
  | none => false

/-! ### Scratchpad addresses (R169, R170, R176) -/

/-- The bank of a byte address below 0x30_0000 (R169). -/
def bankOf (a : Nat) : Nat :=
  let j := a % 2 ^ 19 / 64
  if a / 2 ^ 19 ≤ 3 then j % 16 else 16 + j % 8

/-- Whether `n` bytes at `a` lie below 0x30_0000 in power segments of the mask, none being cleared. -/
def spInMask (mask : Byte) (clearing : BitVec 6) (a n : Nat) : Bool :=
  decide (a + n ≤ 0x300000) && (List.range 6).all fun i =>
    !(decide (a / 2 ^ 19 ≤ i) && decide (i ≤ (a + n - 1) / 2 ^ 19)) || (bit mask i && !bit clearing i)

/-- Whether the running task of core `c` holds the range. -/
def spHeld (s : State) (c : CoreIx) (a n : Nat) : Bool :=
  match taskOn s c with
  | some (_, T) => spInMask T.hdr.spMask s.cores[c].sp.clearing a n
  | none => false

/-- The granules a range touches. -/
def granules (a n : Nat) : List Nat := (List.range ((a % 64 + n + 63) / 64)).map fun i => a / 64 + i

/-- Whether any granule of a range is marked poisoned (R173). -/
def spPoisoned (x : Core) (a n : Nat) : Bool := (granules a n).any fun g => tget false x.sp.poison g

def align64 (a : BitVec 22) : Nat := a.toNat / 64 * 64

/-- Sign extension to an integer. -/
def sx {n : Nat} (x : BitVec n) : Int := x.toInt

/-- A 22-bit scratchpad address plus an integer, modulo 2^22. -/
def adAdd (a : BitVec 22) (d : Int) : BitVec 22 := BitVec.ofInt 22 (a.toNat + d)

/-- Performs a scratchpad write at once: bytes and poison marks as R173 gives. -/
def spCommit (sp : Scratchpad) (a : Nat) (bs : List Byte) (poison : Bool) : Scratchpad :=
  { sp with
    mem := writeBytes sp.mem a bs
    poison := (granules a bs.length).foldl (fun t g =>
      let whole := decide (a ≤ 64 * g) && decide (64 * g + 64 ≤ a + bs.length)
      tset false t g (poison || (!whole && tget false t g))) sp.poison }

/-! ### Formats and tag registers -/

/-- k-group width g and flits per k-block f of a format code (R42, R414). -/
def fmtG (fmt : Nat) : Nat := if fmt ≤ 1 then 2 else if fmt = 8 then 8 else 4
def fmtF (fmt : Nat) : Nat := if fmt ≤ 1 then 16 else if fmt = 8 then 4 else 8

/-- The MX formats, with block scales (R42). -/
def isMx (fmt : Nat) : Bool := decide (4 ≤ fmt) && decide (fmt ≤ 9)

def isReserved (fmt : Nat) : Bool := decide (10 ≤ fmt)

/-- Element width in bits (R82); a reserved code reads as 8 (R147). -/
def elemBits (fmt : Nat) : Nat := if fmt ≤ 1 then 16 else if fmt = 6 || fmt = 7 then 6 else if fmt = 8 then 4 else 8

/-- Fields of a tag register or tag (R43, R142). -/
def trInjector (t : W64) : Nat := t.toNat / 2 ^ 40 % 256
def trStream (t : W64) : Nat := t.toNat / 2 ^ 34 % 64
def trTile (t : W64) : Nat := t.toNat / 2 ^ 22 % 4096
def trKblock (t : W64) : Nat := t.toNat / 2 ^ 10 % 4096
def trFormat (t : W64) : Nat := t.toNat / 2 ^ 6 % 16
def trAny (t : W64) : Bool := bit t 48
def trPrev (t : W64) : Bool := bit t 49
def trLane (t : W64) : Lane := if bit t 50 then .inner else .outer
def trEnds (t : W64) : Bool := bit t 51

/-- Replaces `w` bits of a tag register from bit `o`. -/
def trPut (t : W64) (o w v : Nat) : W64 :=
  BitVec.ofNat 64 (t.toNat / 2 ^ (o + w) * 2 ^ (o + w) + v % 2 ^ w * 2 ^ o + t.toNat % 2 ^ o)

/-- Where each named field lies: offset and width (R152). -/
def trSpan : TrField → Nat × Nat
  | .tile => (22, 12)
  | .kblock => (10, 12)
  | .stream => (34, 6)
  | .injector => (40, 8)
  | .format => (6, 4)
  | .control => (48, 4)

/-! ### The running block -/

/-- Whether the timed engine of core `c` advances in the current cycle (R132). -/
def timedEnabled (s : State) (c : CoreIx) : Bool :=
  s.duty[sectorOf c].enabled && s.duty[sectorOf c].beat == beatNow s

/-- The enabled-cycle count of a core's sector. -/
def ecyc (s : State) (c : CoreIx) : Nat := s.duty[sectorOf c].ecyc

/-- The running block of a core and the current block cycle, in an enabled cycle of the block. -/
def blockNow (s : State) (c : CoreIx) : Option (Block × Nat) :=
  match s.cores[c].blk with
  | none => none
  | some b => if timedEnabled s c && decide (b.start ≤ ecyc s c) then some (b, ecyc s c - b.start) else none

/-- The bundle a block issues in the current cycle, where it is still issuing. -/
def bundleNow (s : State) (c : CoreIx) : Option (Block × Nat × BitVec 128) :=
  match blockNow s c with
  | none => none
  | some (b, t) => if b.issuing then some (b, t, s.cores[c].bundle b.bundle) else none

/-- Fill skew S of a shape (R77). -/
def skew : Shape → Nat
  | .f => 126
  | .h => 94
  | .q => 62
  | .n => 78
  | .s => 70

/-- Drain rows n_d of a shape (R77). -/
def drainRows : Shape → Nat
  | .s => 8
  | _ => 64

/-- Cycles from e + L to the delivery of row 0 (R77). -/
def drainLead : Shape → Nat
  | .f => 68
  | .h => 36
  | .q => 36
  | .n => 20
  | .s => 68

/-- Active cells of a shape. -/
def activeCells : Shape → Nat
  | .n => 1024
  | .s => 512
  | _ => 4096

/-- Entry cycle of an MMA (R68). -/
def Mma.entry (m : Mma) : Nat := m.issued + 6

def Mma.fmt (m : Mma) : Nat := trFormat m.x0

/-- The scratchpad ranges of local line `t` (R139). -/
def Mma.lineAt (m : Mma) (t : Nat) : List (Nat × Nat) :=
  match m.shape with
  | .q => [((align64 m.base + 256 * t) % 2 ^ 22, 128), ((align64 m.base1 + 256 * t) % 2 ^ 22, 128)]
  | .s => [((align64 m.base + 256 * t) % 2 ^ 22, 32)]
  | _ => [((align64 m.base + 256 * t) % 2 ^ 22, 256)]

/-- The scratchpad address of scale line `b`. -/
def Mma.scaleAt (m : Mma) (b : Nat) : Nat := (align64 m.scale + 64 * b) % 2 ^ 22

/-- The block cycle in which scale line `b` is read (R68). -/
def Mma.scaleCycle (m : Mma) (b : Nat) : Nat :=
  let f := fmtF m.fmt
  let touch := fun x => (m.lineAt x).any fun r => (granules r.1 r.2).any fun g => bankOf (64 * g) == bankOf (m.scaleAt b)
  match (List.range f).find? fun i => !(decide (f * b + i < m.f.lg.toNat) && touch (f * b + i)) with
  | some i => m.issued + f * b + i
  | none => m.issued + f * b

/-- Whether an MMA still runs at cycle `t`, not cut by a successor (R141). -/
def Mma.live (m : Mma) (t : Nat) : Bool :=
  match m.cut with
  | none => true
  | some c => decide (t < c)

/-- The local line an MMA reads at block cycle `t`. -/
def Mma.lineNow (m : Mma) (t : Nat) : Option Nat :=
  if decide (m.issued ≤ t) && decide (t < m.issued + m.f.lg.toNat) && m.live t then some (t - m.issued) else none

/-- The scale lines an MMA reads at block cycle `t`. -/
def Mma.scalesNow (m : Mma) (t : Nat) : List Nat :=
  if isMx m.fmt && m.live t then
    let f := fmtF m.fmt
    if m.issued ≤ t then
      [(t - m.issued) / f].filter fun b => decide (b * f < m.f.lg.toNat) && m.scaleCycle b == t
    else []
  else []

/-- The scratchpad ranges a drain writes with its row `r` to SP (R74, R77, R139). Row numbers run over n_d; in MMA.Q
rows 0 to 31 are NW and NE, rows 32 to 63 SW and SE. -/
def Drain.rowAt (d : Drain) (r : Nat) : List (Nat × Nat) :=
  match d.shape with
  | .h => [((align64 d.bases[0] + 128 * r) % 2 ^ 22, 128), ((align64 d.bases[1] + 128 * r) % 2 ^ 22, 128)]
  | .q =>
    if r < 32 then [((align64 d.bases[0] + 128 * r) % 2 ^ 22, 128), ((align64 d.bases[1] + 128 * r) % 2 ^ 22, 128)]
    else [((align64 d.bases[2] + 128 * (r - 32)) % 2 ^ 22, 128), ((align64 d.bases[3] + 128 * (r - 32)) % 2 ^ 22, 128)]
  | .n => [((align64 d.bases[0] + 64 * r) % 2 ^ 22, 64)]
  | _ => [((align64 d.bases[0] + 256 * r) % 2 ^ 22, 256)]

/-- The block cycle in which a drain delivers row `r` (R77). -/
def Drain.rowCycle (d : Drain) (r : Nat) : Nat := d.entry + d.lg + drainLead d.shape + r

/-- Bytes per new-k line of a transposed source square (R146). -/
def sqLine (fp32 : Bool) (fmt : Nat) : Nat := if fp32 then 256 else (64 * elemBits fmt / 8 + 63) / 64 * 64

/-- What R147 leaves of a GINJ: a poisoned path. -/
def ginjBad (fp32 : Bool) (fmt : Nat) : Bool := isReserved fmt || (fp32 && decide (fmt ≤ 1))

/-- g and f of a feeder job (R147). -/
def feedG (fp32 : Bool) (fmt : Nat) : Nat := if ginjBad fp32 fmt then 4 else fmtG fmt
def feedF (fp32 : Bool) (fmt : Nat) : Nat := if ginjBad fp32 fmt then 8 else fmtF fmt

/-- The element width a narrow source is read at. -/
def feedFmt (fp32 : Bool) (fmt : Nat) : Nat := if ginjBad fp32 fmt then 2 else fmt

/-- Latency and rate of a feeder job (R53, R147). -/
def feederTiming (trans fp32 : Bool) (fmt : Nat) : Nat × Nat :=
  let half := if fmt = 8 then 2 else 1
  match trans, fp32 with
  | false, false => (8, 1)
  | false, true => (12, half)
  | true, true => (28, half)
  | true, false => if isMx fmt then (28, half) else (24, 1)

/-- New-k elements of square `q` that lie within NF (R145). -/
def sqElems (g nf q : Nat) : Nat := min 64 (g * nf - 64 * q)

/-- 64 B columns of a square read for `n` elements (R145, R146). -/
def sqCols (fp32 : Bool) (fmt n : Nat) : Nat := (n * (if fp32 then 32 else elemBits fmt) / 8 + 63) / 64

/-- The bytes a feeder job reads from its element source (R145). -/
def feedBytes (trans fp32 : Bool) (fmt nf : Nat) : Nat :=
  let g := feedG fp32 fmt
  let sf := feedFmt fp32 fmt
  if trans then
    (List.range ((g * nf + 63) / 64)).foldl (fun a q => a + 4096 * sqCols fp32 sf (sqElems g nf q)) 0
  else if fp32 then 256 * g * nf else 256 * nf

/-- The scale bytes a feeder job reads (R146, R147). -/
def feedScaleBytes (trans fp32 : Bool) (fmt nf : Nat) : Nat :=
  if fp32 || !isMx fmt then 0
  else if trans then 128 * ((fmtG fmt * nf + 63) / 64) else 64 * ((nf + fmtF fmt - 1) / fmtF fmt)

/-- Byte `n` of the element bytes in read order, as an offset from BA[r] (R146). -/
def feedOrder (trans fp32 : Bool) (fmt n : Nat) : Nat :=
  if !trans then n
  else
    let sf := feedFmt fp32 fmt
    let full := sqCols fp32 sf 64
    let q := n / (4096 * full)
    let r := n % (4096 * full)
    64 * sqLine fp32 sf * q + sqLine fp32 sf * (r % 4096 / 64) + 64 * (r / 4096) + r % 64

/-- The 64 B granule ranges a feeder job reads in its `j`-th cycle: elements, then scales (R146). -/
def Feed.readsAt (f : Feed) (j : Nat) : List (Nat × Nat) :=
  let fmt := trFormat f.tagReg
  let rate := if f.fp32 then 1024 else 256
  let total := feedBytes f.trans f.fp32 fmt f.nf
  let elems := (List.range (rate / 64)).filterMap fun i =>
    let n := rate * j + 64 * i
    if n < total then some ((align64 f.base + feedOrder f.trans f.fp32 fmt n) % 2 ^ 22, 64) else none
  let scales :=
    if f.fp32 || !isMx fmt then []
    else if f.trans then
      let sq := 16 * sqCols false fmt 64
      if j % sq = 0 && decide (j / sq < (fmtG fmt * f.nf + 63) / 64) then
        let a := align64 f.scaleBase + 128 * (j / sq)
        [(a % 2 ^ 22, 64), ((a + 64) % 2 ^ 22, 64)]
      else []
    else if j % fmtF fmt = 0 && decide (j < f.nf) then [((align64 f.scaleBase + 64 * (j / fmtF fmt)) % 2 ^ 22, 64)]
    else []
  elems ++ scales

def Feed.lane (f : Feed) : Lane := trLane f.tagReg

/-- Agent code of a feeder job (table under Scratchpad access and bank conflicts). -/
def Feed.agent (f : Feed) : Nat := 3 + laneN f.lane

/-- Block cycle in which flit `i` of a job is placed (R145). -/
def Feed.placeAt (f : Feed) (i : Nat) : Nat :=
  let lr := feederTiming f.trans f.fp32 (trFormat f.tagReg)
  let rate := if ginjBad f.fp32 (trFormat f.tagReg) then 1 else lr.2
  f.issued + lr.1 + rate * i

/-! ### Bank accesses of a cycle (R161) -/

/-- The bank uses of one range of an access, its `part`. -/
def useOf (agent issued part : Nat) (r : Nat × Nat) : List BankUse :=
  (granules r.1 r.2).map fun g => { bank := bankOf (64 * g), agent := agent, issued := issued, addr := 64 * g, part := part }

/-- The bank uses of an access with these ranges. -/
def usesOf (agent issued : Nat) (rs : List (Nat × Nat)) : List BankUse :=
  (rs.zip (List.range rs.length)).flatMap fun q => useOf agent issued q.2 q.1

/-- Sign extension of a V-slot offset and the address of VLD and VST (R159). -/
def vAddr (b : BitVec 22) (off : BitVec 14) : Nat := (BitVec.ofInt 22 (align64 b + 256 * off.toInt)).toNat

/-- The VLD in the V slot of the current bundle, where it has not issued yet: its address. -/
def vldPending (s : State) (c : CoreIx) : List BankUse :=
  match bundleNow s c with
  | none => []
  | some (b, t, w) =>
    let v := slotV w
    if v.toNat / 2 ^ 34 = 0x1C && b.vUsed != some t then
      useOf 5 t 0 (vAddr b.ba[(⟨v.toNat / 2 ^ 25 % 16, by omega⟩ : Fin 16)] (v.extractLsb' 10 14), 256)
    else []

/-- The local, scale and drain registers of a shape (R139). -/
def scaleReg (sh : Shape) (la : Fin 16) : Fin 16 := if sh = .q then la + 2 else la + 1

/-- The MMA a command issues at block cycle `t`: everything R140 latches. -/
def mkMma (b : Block) (t : Nat) (sh : Shape) (m : MFields) : Mma :=
  let d : Fin 16 := ⟨m.dn.toNat % 16, by omega⟩
  { shape := sh, f := m, x0 := b.tr[m.xa], x1 := b.tr[m.xb], issued := t, base := b.ba[m.la], base1 := b.ba[m.la + 1],
    scale := b.ba[scaleReg sh m.la], drains := #v[b.ba[d], b.ba[d + 1], b.ba[d + 2], b.ba[d + 3]], t := 0, lines := [],
    scaleLines := [], xs0 := 0, xs1 := 0, kbuf := [], cut := none, pois := false, dpois := false, closed := false }

def regNext (r : Fin 16) : Fin 16 := r + 1

/-- NF of a GINJ: 0 means 4,096. -/
def nfOf (n : BitVec 12) : Nat := if n = 0 then 4096 else n.toNat

/-- The feeder job of a GINJ issued at block cycle `t` (R145). -/
def mkFeed (b : Block) (t : Nat) (g : GinjFields) : Feed :=
  { issued := t, trans := g.trans, fp32 := g.fp32, tagReg := b.tr[g.tr], base := b.ba[g.ba],
    scaleBase := b.ba[regNext g.ba], nf := nfOf g.nf, placed := 0, buf := [], bufPoison := [] }

/-- The MMA of the current bundle where it has not issued yet (R140). -/
def mmaPending (s : State) (c : CoreIx) : Option Mma :=
  match bundleNow s c with
  | none => none
  | some (b, t, w) =>
    if b.mUsed = some t then none else (decM (slotM w)).map fun q => mkMma b t q.1 q.2

/-- The MMAs of a block as they stand in this cycle once its M slot has issued: the pending one ends the reads of its
predecessor (R141). -/
def mmasNow (s : State) (c : CoreIx) (b : Block) : List Mma :=
  match mmaPending s c with
  | none => b.mmas
  | some m => (b.mmas.map fun q => if q.cut.isNone && decide (m.issued < q.issued + q.f.lg.toNat) then
      { q with cut := some m.issued } else q) ++ [m]

/-- The feeder jobs of a block as they stand in this cycle once its T slot has issued. -/
def feedsNow (s : State) (c : CoreIx) (b : Block) : List Feed :=
  match bundleNow s c with
  | none => b.feeds
  | some (_, t, w) =>
    if b.tUsed = some t then b.feeds else b.feeds ++ ((decGinj (slotT w)).map (mkFeed b t)).toList

/-- Every access a core's block makes to held banks in the current cycle: what its state schedules, and the loads
noted so far. -/
def blockUses (s : State) (c : CoreIx) : List BankUse :=
  match blockNow s c with
  | none => []
  | some (b, t) =>
    List.filter (fun u => spHeld s c u.addr 64) <| (b.drains.flatMap fun d => if d.dest = 1 && d.row < d.rows && d.rowCycle d.row = t then
        usesOf 0 d.entry (d.rowAt d.row) else [])
    ++ ((mmasNow s c b).flatMap fun m => (match m.lineNow t with
        | some l => usesOf 1 m.issued (m.lineAt l)
        | none => []) ++ (m.scalesNow t).flatMap fun q => useOf 2 m.issued 0 (m.scaleAt q, 64))
    ++ ((feedsNow s c b).flatMap fun f => usesOf f.agent f.issued (f.readsAt (t - f.issued)))
    ++ (b.writes.flatMap fun w => if w.due = t then useOf w.agent w.issued w.part (w.addr, w.len) else [])
    ++ vldPending s c
    ++ (s.cores[c].sp.staged.flatMap fun w => if w.agent < 8 then useOf w.agent w.issued w.part (w.addr, w.bytes.length) else [])
    ++ s.cores[c].sp.uses.filter fun u => u.agent < 8

/-- The order of R161 between two accesses of one bank: agent code, then issue, then address; of two parts at one address, the
order in which the access names them. -/
def BankUse.before (a b : BankUse) : Bool :=
  a.agent < b.agent || (a.agent == b.agent && (a.issued < b.issued || (a.issued == b.issued && (a.addr < b.addr
    || (a.addr == b.addr && a.part < b.part)))))

/-- Whether an access loses its bank to another of the cycle (R161). -/
def losesIn (us : List BankUse) (u : BankUse) : Bool := us.any fun v => v.bank == u.bank && v.before u

/-- Whether every bank of a range is left free in this cycle by the block and by background access (R162, R171). -/
def bankFree (s : State) (c : CoreIx) (a n : Nat) : Bool :=
  let us := blockUses s c ++ s.cores[c].sp.uses
  (granules a n).all fun g => !us.any fun u => u.bank == bankOf (64 * g)

/-- Notes the banks a background access takes. -/
def takeBanks (s : State) (c : CoreIx) (a n : Nat) : State :=
  modCore s c fun x => x.modSp fun p => { p with uses := p.uses ++ useOf 8 s.time.cycle 0 (a, n) }

/-- Whether a block's read of a granule is performed: a held address, and its bank not lost (R161, R162). -/
def granDone (s : State) (c : CoreIx) (us : List BankUse) (agent issued part addr : Nat) : Bool :=
  spHeld s c addr 64 && !losesIn us { bank := bankOf addr, agent := agent, issued := issued, addr := addr, part := part }

/-- A block's read of one granule (R161, R162): its bytes and whether they are poisoned, and whether the address is
an error. -/
def granRead (s : State) (c : CoreIx) (us : List BankUse) (agent issued part addr : Nat) : List Byte × Bool × Bool :=
  if granDone s c us agent issued part addr then
    (readBytes s.cores[c].sp.mem addr 64, tget false s.cores[c].sp.poison (addr / 64), false)
  else (List.replicate 64 0, true, !spHeld s c addr 64)

/-- A block's read of a range of whole granules or of part of one: bytes, poison, address error. -/
def rangeRead (s : State) (c : CoreIx) (us : List BankUse) (agent issued part : Nat) (r : Nat × Nat) :
    List Byte × Bool × Bool :=
  let gs := (granules r.1 r.2).map fun g => granRead s c us agent issued part (64 * g)
  (((gs.flatMap fun x => x.1).drop (r.1 % 64)).take r.2, gs.any fun x => x.2.1, gs.any fun x => x.2.2)

/-! ### Headers and descriptors -/

/-- The HXB header at the start of an image (R119). -/
def parseHeader (bs : List Byte) : Header :=
  { magic := BitVec.ofNat 32 (field bs 0 4), fmtMinor := BitVec.ofNat 8 (field bs 4 1)
    fmtMajor := BitVec.ofNat 8 (field bs 5 1), hci3 := BitVec.ofNat 8 (field bs 6 1)
    profile := BitVec.ofNat 8 (field bs 7 1), flags := BitVec.ofNat 32 (field bs 8 4)
    segSectors := field bs 0x0C 1, segCount := field bs 0x0D 1, spMask := BitVec.ofNat 8 (field bs 0x0E 1)
    contexts := BitVec.ofNat 8 (field bs 0x0F 1), wbMask := BitVec.ofNat 32 (field bs 0x10 4)
    windows := field bs 0x14 1, streams := field bs 0x15 1, counters := field bs 0x16 2, globals := field bs 0x18 2
    maxBlock := BitVec.ofNat 32 (field bs 0x1C 4), stashBytes := BitVec.ofNat 64 (field bs 0x20 8)
    saddleBytes := BitVec.ofNat 64 (field bs 0x28 8), seedBase := BitVec.ofNat 64 (field bs 0x30 8)
    entry := #v[BitVec.ofNat 16 (field bs 0x38 2), BitVec.ofNat 16 (field bs 0x3A 2),
                BitVec.ofNat 16 (field bs 0x3C 2), BitVec.ofNat 16 (field bs 0x3E 2)]
    faultHandler := BitVec.ofNat 16 (field bs 0x40 2), ctrLen := field bs 0x44 4
    ctrOff := BitVec.ofNat 64 (field bs 0x48 8), ctrlOff := BitVec.ofNat 64 (field bs 0x50 8)
    ctrlLen := field bs 0x58 4, blockLen := field bs 0x5C 4, blockOff := BitVec.ofNat 64 (field bs 0x60 8)
    cmdOff := BitVec.ofNat 64 (field bs 0x68 8), cmdLen := BitVec.ofNat 64 (field bs 0x70 8)
    sigOff := BitVec.ofNat 64 (field bs 0x78 8), sigLen := field bs 0x80 4 }

/-- A counter-table entry (R120). -/
def parseCtrEntry (bs : List Byte) : CtrEntry :=
  { core := BitVec.ofNat 8 (field bs 0 1), ctr := BitVec.ofNat 8 (field bs 1 1), initial := BitVec.ofNat 16 (field bs 2 2),
    limit := BitVec.ofNat 16 (field bs 4 2), final := BitVec.ofNat 16 (field bs 6 2) }

/-- A stream descriptor (R188). -/
def parseSDesc (bs : List Byte) : SDesc :=
  { kind := BitVec.ofNat 8 (field bs 0 1), rt := field bs 1 1 % 2 == 1, ctrA := BitVec.ofNat 8 (field bs 2 1)
    ctrB := BitVec.ofNat 8 (field bs 3 1), endCtr := BitVec.ofNat 8 (field bs 4 1)
    wtarget := BitVec.ofNat 8 (field bs 5 1), wepoch := BitVec.ofNat 8 (field bs 6 1)
    addr := BitVec.ofNat 64 (field bs 8 8), rowG := field bs 16 2, cnt0 := field bs 18 2, cnt1 := field bs 20 2
    cnt2 := field bs 22 2, str0 := BitVec.ofNat 32 (field bs 24 4), str1 := BitVec.ofNat 32 (field bs 28 4)
    str2 := BitVec.ofNat 32 (field bs 32 4), spBase := field bs 36 2, halfG := field bs 38 2
    t0 := BitVec.ofNat 32 (field bs 40 4), t1 := BitVec.ofNat 32 (field bs 44 4) }

end Sys2Proof.Machine
end

