-- ==== Sys2Proof/Machine/Background.lean ====
section
/-! DEFINITION. Background access to a scratchpad (R171): window writes, stream writes and reads, LD and ST take the
bank cycles that a block leaves free, in this order of priority. With it, the geometry of a stream's pattern (R189). -/

namespace Sys2Proof.Machine

/-! ### Address map (R285, R286) -/

inductive Space where
  | direct | stash | param | table | slow | remote
deriving DecidableEq, Repr

/-- One past the last direct address: 288 GiB. -/
abbrev directEnd : Nat := 0x4800000000

/-- The region of a device address; none for an unmapped one. -/
def spaceOf (a : Nat) : Option Space :=
  if a < directEnd then some .direct
  else if 0x10000000000 ≤ a ∧ a < 0x20000000000 then some .stash
  else if 0x20000000000 ≤ a ∧ a < 0x20000000000 + directEnd then some .param
  else if 0x28000000000 ≤ a ∧ a < 0x28000000000 + directEnd then some .table
  else if 2 ^ 62 ≤ a ∧ a < 2 ^ 63 then some .slow
  else if 2 ^ 63 ≤ a ∧ a < 2 ^ 64 then some .remote
  else none

/-- The direct address that a direct, parameter or table address names. -/
def directOf (a : Nat) : Nat := match spaceOf a with
  | some .param => a - 0x20000000000
  | some .table => a - 0x28000000000
  | _ => a

/-- place (R286): stack, channel, offset within the channel. -/
def place (a : Nat) : Nat × Nat × Nat :=
  let u := a / 768
  let o := u / 12 * 768 + a % 768
  (u % 12, o / 256 % 64, o / 256 / 64 * 256 + o % 256)

def stackOf (a : Nat) : SecIx := ⟨a / 768 % 12, by omega⟩

def channelOf (a : Nat) : Nat := (place a).2.1

/-! ### A stream's pattern (R189) -/

/-- G: granules of the pattern. -/
def SDesc.total (d : SDesc) : Nat := d.rowG * d.cnt0 * d.cnt1 * d.cnt2

/-- Number of fills: ceil(G / HALF_G). -/
def SDesc.fills (d : SDesc) : Nat := (d.total + d.halfG - 1) / d.halfG

/-- Granules of fill `k`. -/
def SDesc.fillG (d : SDesc) (k : Nat) : Nat := min d.halfG (d.total - k * d.halfG)

/-- stream_rows: the address of row `r`; for WINDOW a granule offset. -/
def SDesc.rowAddr (d : SDesc) (r : Nat) : Int :=
  let i0 := r % d.cnt0
  let i1 := r / d.cnt0 % d.cnt1
  let i2 := r / (d.cnt0 * d.cnt1)
  let g : Int := i0 * d.str0.toInt + i1 * d.str1.toInt + i2 * d.str2.toInt
  if d.kind = 3 then d.addr.toNat + g else d.addr.toNat + 64 * g

/-- land_row, for the pattern's granule `g`: its scratchpad address. -/
def SDesc.landAt (d : SDesc) (g : Nat) : Nat := 64 * (d.spBase + g / d.halfG % 2 * d.halfG + g % d.halfG)

/-- Granules of the fills released to a WRITE or WINDOW stream (R193). -/
def Stream.relG (x : Stream) : Nat := min x.d.total (x.nrel * x.d.halfG)

/-- The piece a WRITE stream reads next (R197): granule, device address, bytes. -/
def Stream.nextPiece (x : Stream) : Option (Nat × Nat × Nat) :=
  if x.readG < x.relG then
    let o := x.readG % x.d.rowG * 64
    let a := (x.d.rowAddr (x.readG / x.d.rowG)).toNat + o
    some (x.readG, a, min (256 - a % 256) (64 * x.d.rowG - o))
  else none

/-- Whether the task on a core lets streams issue: not held, not halting (R117, R124, R194). -/
def streamsRun (s : State) (c : CoreIx) : Bool :=
  match taskOn s c with
  | some (_, T) => (T.st == .running || T.st == .ending) && !T.hold && T.halting.isNone
  | none => false

/-! ### Side channels (R179 to R182) -/

/-- The owner of the window a WINDOW stream names, and the side of the writer as the owner sees it. -/
def winTarget (c : CoreIx) (d : SDesc) : CoreIx × Side :=
  if d.wtarget.toNat % 4 = 1 then (upCore c, .down) else (downCore c, .up)

def winNumber (d : SDesc) : Fin 8 := ⟨d.wtarget.toNat / 4 % 8, by omega⟩

/-- The side of the owner as the writer sees it, and the reverse. -/
def opposite : Side → Side
  | .up => .down
  | .down => .up

/-- What a core has read for the side channel of a writer that its owner sees on `side`. -/
def Core.port (x : Core) : Side → List PortGran
  | .down => x.portUp
  | .up => x.portDown

def Core.setPort (x : Core) (side : Side) (q : List PortGran) : Core := match side with
  | .down => { x with portUp := q }
  | .up => { x with portDown := q }

def Core.winWrites (x : Core) : Side → List WinWrite
  | .up => x.fromUp
  | .down => x.fromDown

def Core.setWinWrites (x : Core) (side : Side) (ws : List WinWrite) : Core :=
  match side with
  | .up => { x with fromUp := ws }
  | .down => { x with fromDown := ws }

/-! ### Reads of released halves (R170, R171, R191) -/

/-- The side channel of a WINDOW stream takes the slot's next granule after those read for it: rows follow one another whole, and at
most the seven granules of the six cycles of a read (R170) and of the one that leaves are under way (log 98). -/
def portTakes (x : Core) (c : CoreIx) (slot : Fin 32) : Bool :=
  let d := x.streams[slot].d
  let q := x.port (winTarget c d).2
  decide (q.length < 7) && match q.getLast? with
    | none => true
    | some g => g.ix + 1 == g.count || g.slot == slot

/-- The scratchpad range that a slot reads next from a released half, where it may read now: a WRITE slot's next piece while fewer
than eight of its pieces wait to be issued (log 98), a WINDOW slot's next granule. A held task begins no row; one begun goes on
(R185). -/
def halfWant (s : State) (c : CoreIx) (slot : Fin 32) : Option (Nat × Nat) :=
  let x := s.cores[c].streams[slot]
  if x.st == .unconfigured || x.relG ≤ x.readG then none
  else if x.d.kind = 2 then
    if streamsRun s c && decide (x.outbox.length < 8) then x.nextPiece.map fun p => (x.d.landAt p.1, p.2.2) else none
  else if x.d.kind = 3 then
    if (streamsRun s c || x.readG % x.d.rowG != 0) && portTakes s.cores[c] c slot then some (x.d.landAt x.readG, 64) else none
  else none

/-- Where a slot's half is read to: 0 the requests of WRITE slots, 1 and 2 the upstream and the downstream side channel. -/
def readPath (c : CoreIx) (d : SDesc) : Fin 3 :=
  if d.kind != 3 then 0
  else match (winTarget c d).2 with
    | .down => 1
    | .up => 2

/-- The read of a half that a core's stream engine makes in this cycle on a path: one at most, so that the granules of a write follow one
per cc (R180), the slots of a path taking turns (log 98). -/
def halfNow (s : State) (c : CoreIx) (path : Fin 3) : Option (Fin 32 × Nat × Nat) :=
  let x := s.cores[c]
  let last := x.lastRead[path]
  if last.1 = s.time.cycle + 1 then none
  else ((List.range 32).findSome? fun i =>
    let j : Fin 32 := ⟨(last.2.val + 1 + i) % 32, by omega⟩
    if readPath c x.streams[j].d = path then (halfWant s c j).map fun r => (j, r.1, r.2) else none)

/-! ### Launches that start (R112) -/

/-- Whether the core's task lets pending launches start (R117, R124). -/
def launchAllowed (s : State) (c : CoreIx) : Bool :=
  match taskOn s c with
  | some (_, T) => T.issues
  | none => false

/-- Whether a segment, given by its cores, spans the crossing from sector `p` to the next one: both sectors are its own and no
closed buckle lies between them (R40, R46). -/
def spansCrossing (s : State) (cs : List CoreIx) (p : SecIx) : Bool :=
  cs.any (fun c => sectorOf c == p) && cs.any (fun c => (sectorOf c).val == (p.val + 1) % 12) && !bit s.buckle p.val

/-- Whether a segment launch is refused: a sector without lock (R357) or a crossing of the segment without margin (R40).
DESIGN CHOICE (log 95): a refused LAUNCH.SEG stays pending; a refused LAUNCH.AT cannot start at its beat (R36). -/
def launchRefused (s : State) (cs : List CoreIx) : Bool :=
  cs.any (fun c => s.duty[sectorOf c].refused)
  || (List.finRange 12).any fun p => bit s.xingAlarm p.val && spansCrossing s cs p

/-- The cores of the segment of core `c`'s task. -/
def segCores (s : State) (c : CoreIx) : List CoreIx :=
  match taskOn s c with
  | none => []
  | some (_, T) => T.segmentOf c

/-- The cycle of the last arrival of a segment, once every core has sent its own. -/
def lastArrival (s : State) (cs : List CoreIx) : Option Nat :=
  cs.foldl (fun a c => match a, s.cores[c].pend with
    | some n, some l => if l.form = .seg then l.arrived.map (max n) else none
    | _, _ => none) (some 0)

/-- The first cycle of the first beat that begins at least 32 cc after a cycle (R112). -/
def segStartCycle (last : Nat) : Nat := (last + 32 + 31) / 32 * 32

/-- A pending LAUNCH.AT whose resolved beat starts in the current cycle, or has started. -/
def atDue (s : State) (c : CoreIx) : Bool :=
  match s.cores[c].pend with
  | some l => l.form == .at_ && decide (32 * l.beat ≤ s.time.cycle)
  | none => false

/-- The pending launch of a core starts, or fails to start, in the current cycle (R36, R112). -/
def blockStarts (s : State) (c : CoreIx) : Bool :=
  match s.cores[c].pend with
  | none => false
  | some l => match l.form with
    | .local_ => launchAllowed s c && decide (l.issued + 4 ≤ s.time.cycle) && s.cores[c].blk.isNone
    | .seg => launchAllowed s c && atBeat s && !launchRefused s (segCores s c) && match lastArrival s (segCores s c) with
      | some n => decide (segStartCycle n ≤ s.time.cycle)
      | none => false
    | .at_ => atDue s c

/-- A sector's level is still to be fixed for the beat that begins (R362). -/
def dutyOutstanding (s : State) (p : SecIx) : Bool := !s.power.shutdown && atBeat s && s.duty[p].beat != beatNow s

/-- What a core's block does in this cycle is known: its beat has its level, and no launch is still to start. -/
def blockKnown (s : State) (c : CoreIx) : Bool := !dutyOutstanding s (sectorOf c) && !blockStarts s c

/-! ### Priority (R171) -/

/-- The granules of a side's window writes that may be performed (R180), the first of each window: those to one window are performed in
the order sent, those to another do not wait for them. Each with its write and its scratchpad granule. -/
def winHeads (now : Nat) : List (Fin 8) → List WinWrite → List (WinWrite × WinGran × Nat)
  | _, [] => []
  | seen, w :: ws =>
    if seen.contains w.win || decide (w.count ≤ w.past) || w.judged == some false then winHeads now seen ws
    else match w.judged, w.grans with
      | some true, g :: _ =>
        if g.left + 6 ≤ now then (w, g, w.base + w.offset.toNat + w.past) :: winHeads now (w.win :: seen) ws
        else winHeads now (w.win :: seen) ws
      | _, _ => winHeads now (w.win :: seen) ws

/-- The scratchpad granules where what is left of a read response lands, by their number in the response. -/
def MemResp.lands (s : State) (c : CoreIx) (r : MemResp) : List (Nat × Nat) :=
  match r.req.agent with
  | .stream _ slot => r.left.map fun i => (i, s.cores[c].streams[slot].d.landAt r.req.gran + 64 * i)
  | _ => []

/-- A response of which some granules have landed. -/
def MemResp.part (r : MemResp) : Bool := decide (64 * r.left.length < r.req.len)

/-- Where a response to a stream comes from: its stack port, or the port of the hub that another address leaves by. -/
def respSource (r : MemResp) : Nat := match spaceOf r.req.addr with
  | some .slow => 12
  | some .remote => 13
  | _ => (stackOf (directOf r.req.addr)).val

/-- The read responses that have reached a core, the first of each source: two from one source arrive in the order sent (R15). What is
left of a response that lands in parts stays in its place. -/
def arrivals (c : CoreIx) (now : Nat) : List Nat → List MemResp → List MemResp
  | _, [] => []
  | seen, r :: rs => match r.req.agent with
    | .stream d _ =>
      if d != c || r.req.write then arrivals c now seen rs
      else if seen.contains (respSource r) then
        arrivals c now seen rs
      else if now < r.due then arrivals c now (respSource r :: seen) rs
      else r :: arrivals c now (if r.part then seen else respSource r :: seen) rs
    | _ => arrivals c now seen rs

/-- The ranges that ready background accesses of a priority wait for: 1 and 2 window writes, 3 stream writes, 4 stream
reads, 5 control-engine accesses. -/
def bgReady (s : State) (c : CoreIx) : Nat → List (Nat × Nat)
  | 1 => (winHeads s.time.cycle [] (s.cores[c].winWrites .up)).map fun h => (64 * h.2.2, 64)
  | 2 => (winHeads s.time.cycle [] (s.cores[c].winWrites .down)).map fun h => (64 * h.2.2, 64)
  | 3 => (arrivals c s.time.cycle [] s.resps).flatMap fun r => (r.lands s c).map fun q => (q.2, 64)
  | 4 => (List.finRange 3).filterMap fun q => (halfNow s c q).map (·.2)
  | 5 => (s.cores[c].sp.stores.map fun w => (w.addr, 8)) ++ s.cores[c].ctx.toList.flatMap fun y =>
      y.stall.range.toList ++ y.lds.map fun l => (l.addr, 8)
  | _ => []

/-- The granules that the ready accesses of a priority may take in this cycle: window and stream writes go granule by granule, a
stream's read and an access of the control engine is made whole. -/
def bgTakes (s : State) (c : CoreIx) (q : Nat) : List Nat :=
  (bgReady s c q).flatMap fun r =>
    if q = 4 then (if bankFree s c r.1 r.2 then granules r.1 r.2 else []) else granules r.1 r.2

/-- Whether the banks of a range are free for an access of priority `prio`: what the core's block does in this cycle is known, and
neither it, nor an access already made in the cycle, nor a ready access of a higher priority takes any of them. -/
def bgFree (s : State) (c : CoreIx) (prio a n : Nat) : Bool :=
  blockKnown s c && bankFree s c a n
  && (List.range prio).all fun q => (bgTakes s c q).all fun g => (granules a n).all fun h => bankOf (64 * g) != bankOf (64 * h)

/-- The priority of a side's window writes (R171). -/
def sidePrio : Side → Nat
  | .up => 1
  | .down => 2

/-- The next granule of a side's window writes whose bank is free in this cycle (R171, R180). -/
def winNext (s : State) (c : CoreIx) (side : Side) : Option (WinWrite × WinGran × Nat) :=
  (winHeads s.time.cycle [] (s.cores[c].winWrites side)).find? fun h => bgFree s c (sidePrio side) (64 * h.2.2) 64

/-- An ST of the core that issued before cycle `issued` still waits for a bank of a range: control-engine accesses to one bank are made
in the order of their issue. -/
def storeBefore (x : Core) (a n issued : Nat) : Bool :=
  x.sp.stores.any fun w => decide (w.issued < issued) && (granules a n).any fun g => bankOf (64 * g) == bankOf w.addr

/-- The descriptor read of a stalled context that may be made in this cycle: its range (R107, R171). -/
def descDue (s : State) (c : CoreIx) (k : CtxIx) : Option (Nat × Nat) :=
  let y := s.cores[c].ctx[k]
  match y.stall.range with
  | none => none
  | some r => if bgFree s c 5 r.1 r.2 && !storeBefore s.cores[c] r.1 r.2 y.stallAt then some r else none

/-- Stages a background write: performed at the cycle's end, visible in the next (R163). -/
def bgWrite (c : CoreIx) (a : Nat) (bs : List Byte) (poison : Bool) (s : State) : State :=
  modCore (takeBanks s c a bs.length) c fun x => x.modSp fun p =>
    { p with staged := p.staged ++ [{ addr := a, bytes := bs, poison := poison, agent := 8, issued := s.time.cycle, part := 0 }] }

/-- A correctable error found by a read of address `a` (R172): counted, and written back later. -/
def foundCorrected (c : CoreIx) (a : Nat) (s : State) : State :=
  modCore s c fun x => x.modSp fun p =>
    { p with corrCount := satInc p.corrCount, corrections := p.corrections ++ [a / 8 * 8] }

/-- An uncorrectable error found by an agent's read of address `a` (R172): the granule is poisoned, counted, and an
error event is recorded. -/
def foundUncorrectable (c : CoreIx) (agent : Nat) (a : Nat) (s : State) : State :=
  let s := modCore s c fun x => x.modSp fun p =>
    { p with uncorrCount := satInc p.uncorrCount, poison := tset false p.poison (a / 64) true }
  record s (0x1400 + agent % 256) error c.val a 0 0

/-- The effect of what a checked read found. -/
def applyEcc (c : CoreIx) (agent : Nat) (a : Nat) (e : Ecc) (s : State) : State :=
  match e with
  | .clean => s
  | .corrected => foundCorrected c a s
  | .uncorrectable => foundUncorrectable c agent a s

/-- The effect of what a read of several checked words found, in the granules that were read. -/
def applyFinds (c : CoreIx) (agent : Nat) (ok : Nat → Bool) (found : Finds) (s : State) : State :=
  found.foldl (fun s q => if ok (q.1 / 64) then applyEcc c agent q.1 q.2 s else s) s

/-- The same for a read that no block makes: the manual gives agent codes to a block's accesses only, so the code of the event is
free (log 2). -/
def backgroundEcc (c : CoreIx) (a : Nat) (e : Ecc) (s : State) : State :=
  match e with
  | .uncorrectable => foundUncorrectable c (Config.free 8 s.freeCtr).toNat a { s with freeCtr := s.freeCtr + 1 }
  | e => applyEcc c 0 a e s

/-- What a background read of `n` bytes at `a` found. -/
def backgroundFinds (c : CoreIx) (a n : Nat) (found : Finds) (s : State) : State :=
  found.foldl (fun s q => if a ≤ q.1 && q.1 < a + n then backgroundEcc c q.1 q.2 s else s) s

end Sys2Proof.Machine
end

