-- ==== Sys2Proof/Machine/Control.lean ====
section
/-! DEFINITION. The control instructions of a core that act on registers, the scratchpad and signals (R107 to R109,
R204 to R210, R214), TRAP and its return (R117), and the wake of a waiting context (R208). -/

namespace Sys2Proof.Machine

/-! ### Scalar arithmetic (R107) -/

/-- A register-register operation of opcode 0x00. -/
def alu (c : CoreIx) (k : CtxIx) (rd ra rb : SReg) (fn lat : Nat) (f : W64 → W64 → W64) (s : State) : Out :=
  issue c k (encR 0 rd.val ra.val rb.val fn) 0 [ra, rb] s fun s =>
    result c k rd (f (sreg s c k ra) (sreg s c k rb)) lat s

/-- An operation with an immediate. -/
def aluImm (c : CoreIx) (k : CtxIx) (op : Nat) (rd ra : SReg) (imm : W16) (f : W64 → W64) (s : State) : Out :=
  issue c k (encI op rd.val ra.val imm) 0 [ra] s fun s => result c k rd (f (sreg s c k ra)) 1 s

/-- The bit number of a shift: S[rb][5:0]. -/
def shamt (b : W64) : Nat := b.toNat % 64

def execAdd (c : CoreIx) (k : CtxIx) (rd ra rb : SReg) (s : State) : Out := alu c k rd ra rb 0x000 1 (· + ·) s
def execSub (c : CoreIx) (k : CtxIx) (rd ra rb : SReg) (s : State) : Out := alu c k rd ra rb 0x001 1 (· - ·) s
def execAnd (c : CoreIx) (k : CtxIx) (rd ra rb : SReg) (s : State) : Out := alu c k rd ra rb 0x002 1 (· &&& ·) s
def execOr (c : CoreIx) (k : CtxIx) (rd ra rb : SReg) (s : State) : Out := alu c k rd ra rb 0x003 1 (· ||| ·) s
def execXor (c : CoreIx) (k : CtxIx) (rd ra rb : SReg) (s : State) : Out := alu c k rd ra rb 0x004 1 (· ^^^ ·) s
def execShl (c : CoreIx) (k : CtxIx) (rd ra rb : SReg) (s : State) : Out :=
  alu c k rd ra rb 0x005 1 (fun a b => a <<< shamt b) s
def execShr (c : CoreIx) (k : CtxIx) (rd ra rb : SReg) (s : State) : Out :=
  alu c k rd ra rb 0x006 1 (fun a b => a >>> shamt b) s
def execSra (c : CoreIx) (k : CtxIx) (rd ra rb : SReg) (s : State) : Out :=
  alu c k rd ra rb 0x007 1 (fun a b => a.sshiftRight (shamt b)) s
def execSlt (c : CoreIx) (k : CtxIx) (rd ra rb : SReg) (s : State) : Out :=
  alu c k rd ra rb 0x008 1 (fun a b => if a.slt b then 1 else 0) s
def execSltu (c : CoreIx) (k : CtxIx) (rd ra rb : SReg) (s : State) : Out :=
  alu c k rd ra rb 0x009 1 (fun a b => if a.ult b then 1 else 0) s
def execMin (c : CoreIx) (k : CtxIx) (rd ra rb : SReg) (s : State) : Out :=
  alu c k rd ra rb 0x00A 1 (fun a b => if a.slt b then a else b) s
def execMax (c : CoreIx) (k : CtxIx) (rd ra rb : SReg) (s : State) : Out :=
  alu c k rd ra rb 0x00B 1 (fun a b => if a.slt b then b else a) s
def execMul (c : CoreIx) (k : CtxIx) (rd ra rb : SReg) (s : State) : Out := alu c k rd ra rb 0x010 3 (· * ·) s

def execAddi (c : CoreIx) (k : CtxIx) (rd ra : SReg) (imm : W16) (s : State) : Out :=
  aluImm c k 0x01 rd ra imm (· + imm.signExtend 64) s
def execAndi (c : CoreIx) (k : CtxIx) (rd ra : SReg) (imm : W16) (s : State) : Out :=
  aluImm c k 0x02 rd ra imm (· &&& imm.setWidth 64) s
def execOri (c : CoreIx) (k : CtxIx) (rd ra : SReg) (imm : W16) (s : State) : Out :=
  aluImm c k 0x03 rd ra imm (· ||| imm.setWidth 64) s
def execXori (c : CoreIx) (k : CtxIx) (rd ra : SReg) (imm : W16) (s : State) : Out :=
  aluImm c k 0x04 rd ra imm (· ^^^ imm.setWidth 64) s

/-- imm x 2^(16 h). -/
def immAt (imm : W16) (h : Fin 4) : W64 := imm.setWidth 64 <<< (16 * h.val)

def execMovz (c : CoreIx) (k : CtxIx) (rd : SReg) (imm : W16) (h : Fin 4) (s : State) : Out :=
  issue c k (encI 0x05 rd.val h.val imm) 0 [] s fun s => result c k rd (immAt imm h) 1 s

def execMovk (c : CoreIx) (k : CtxIx) (rd : SReg) (imm : W16) (h : Fin 4) (s : State) : Out :=
  issue c k (encI 0x06 rd.val h.val imm) 0 [rd] s fun s =>
    result c k rd ((sreg s c k rd &&& ~~~immAt 0xFFFF h) ||| immAt imm h) 1 s

/-! ### Scratchpad access and address registers (R107, R108) -/

/-- AD[ad] + 8 x sext(imm), as an integer. -/
def lsAddr (s : State) (c : CoreIx) (k : CtxIx) (ad : AReg) (imm : W16) : Int :=
  (s.cores[c].ctx[k].ad[ad].toNat : Int) + 8 * imm.toInt

/-- The checks of LD and ST at issue (R108), then `f` with the byte address. -/
def checkedAccess (c : CoreIx) (k : CtxIx) (ad : AReg) (imm : W16) (s : State) (f : Nat → State → State) : State :=
  let a := lsAddr s c k ad imm
  if a % 8 ≠ 0 then withFreeInfo s fun i s => retireFault c k 0x02 i s
  else if a < 0 || !spHeld s c a.toNat 8 then withFreeInfo s fun i s => retireFault c k 0x03 i s
  else f a.toNat s

def execLd (c : CoreIx) (k : CtxIx) (rd : SReg) (ad : AReg) (imm : W16) (s : State) : Out :=
  issue c k (encI 0x08 rd.val ad.val imm) 0 [] s fun s =>
    checkedAccess c k ad imm s fun a s =>
      retire c k (modCtx s c k fun y =>
        { y with lds := (y.lds.map fun l => if l.rd = rd then { l with rd := 0 } else l)
                   ++ [{ rd := rd, addr := a, pc := y.pc, issued := s.time.cycle }] })

/-- No LD or ST of the core that issued before `l` waits for the bank of `l`. -/
def firstAtBank (x : Core) (l : LdPend) : Bool :=
  !(x.sp.stores.any fun w => bankOf w.addr == bankOf l.addr && decide (w.issued < l.issued))
  && !x.ctx.toList.any fun y => y.lds.any fun m => bankOf m.addr == bankOf l.addr && decide (m.issued < l.issued)

/-- The LD of a context whose bank read falls in this cycle: its bank is free for it (R108, R171). -/
def ldDue (s : State) (c : CoreIx) (k : CtxIx) : Option LdPend :=
  s.cores[c].ctx[k].lds.find? fun l => bgFree s c 5 l.addr 8 && firstAtBank s.cores[c] l

def execLdBankRead (c : CoreIx) (k : CtxIx) (found : Ecc) (s : State) : Out :=
  match ldDue s c k with
  | none => .next s
  | some l =>
    let s := modCtx s c k fun y => { y with lds := y.lds.erase l }
    let s := takeBanks s c l.addr 8
    let s := backgroundEcc c l.addr found s
    if spPoisoned s.cores[c] l.addr 8 then
      .next (withFreeInfo (modCtx s c k fun y => { y with ready := y.ready.set l.rd s.time.cycle }) fun i s => faultCtx c k 0x04 i l.pc s)
    else
      let v := BitVec.ofNat 64 (leNat (readBytes s.cores[c].sp.mem l.addr 8))
      .next (modCtx s c k fun y => y.sset l.rd v (s.time.cycle + 6))

def execSt (c : CoreIx) (k : CtxIx) (rs : SReg) (ad : AReg) (imm : W16) (s : State) : Out :=
  issue c k (encI 0x09 rs.val ad.val imm) 0 [rs] s fun s =>
    checkedAccess c k ad imm s fun a s =>
      let bs := natLe 8 (sreg s c k rs).toNat
      retire c k (modCore s c fun x => x.modSp fun p =>
        { p with stores := p.stores ++ [{ addr := a, bytes := bs, poison := false, agent := 8, issued := s.time.cycle, part := 0 }] })

def execMova (c : CoreIx) (k : CtxIx) (ad : AReg) (ra : SReg) (s : State) : Out :=
  issue c k (encI 0x0A ad.val ra.val 0) 0 [ra] s fun s =>
    let v := (sreg s c k ra).setWidth 22
    retire c k (modCtx s c k fun y => { y with ad := y.ad.set ad v })

def execAdda (c : CoreIx) (k : CtxIx) (ad ad2 : AReg) (imm : W16) (s : State) : Out :=
  issue c k (encI 0x0B ad.val ad2.val imm) 0 [] s fun s =>
    retire c k (modCtx s c k fun y => { y with ad := y.ad.set ad (adAdd y.ad[ad2] (64 * imm.toInt)) })

def execMovs (c : CoreIx) (k : CtxIx) (rd : SReg) (ad : AReg) (s : State) : Out :=
  issue c k (encI 0x0C rd.val ad.val 0) 0 [] s fun s =>
    result c k rd (s.cores[c].ctx[k].ad[ad].setWidth 64) 1 s

/-! ### Branches and jumps (R107) -/

/-- PC + 1 + sext(off), modulo the 8,192 words of control memory. -/
def relPc (pc : BitVec 13) (off : W16) : BitVec 13 := pc + 1 + off.setWidth 13

def branch (c : CoreIx) (k : CtxIx) (op : Nat) (ra rb : SReg) (off : W16) (p : W64 → W64 → Bool) (s : State) : Out :=
  issue c k (encI op ra.val rb.val off) 0 [ra, rb] s fun s =>
    if p (sreg s c k ra) (sreg s c k rb) then jumpTo c k (relPc s.cores[c].ctx[k].pc off) s else retire c k s

def execBeq (c : CoreIx) (k : CtxIx) (ra rb : SReg) (off : W16) (s : State) : Out := branch c k 0x10 ra rb off (· == ·) s
def execBne (c : CoreIx) (k : CtxIx) (ra rb : SReg) (off : W16) (s : State) : Out := branch c k 0x11 ra rb off (· != ·) s
def execBlt (c : CoreIx) (k : CtxIx) (ra rb : SReg) (off : W16) (s : State) : Out :=
  branch c k 0x12 ra rb off (fun a b => a.slt b) s
def execBge (c : CoreIx) (k : CtxIx) (ra rb : SReg) (off : W16) (s : State) : Out :=
  branch c k 0x13 ra rb off (fun a b => !a.slt b) s
def execBltu (c : CoreIx) (k : CtxIx) (ra rb : SReg) (off : W16) (s : State) : Out :=
  branch c k 0x14 ra rb off (fun a b => a.ult b) s
def execBgeu (c : CoreIx) (k : CtxIx) (ra rb : SReg) (off : W16) (s : State) : Out :=
  branch c k 0x15 ra rb off (fun a b => !a.ult b) s

def execJal (c : CoreIx) (k : CtxIx) (rd : SReg) (imm : W16) (s : State) : Out :=
  issue c k (encI 0x16 rd.val 0 imm) 0 [] s fun s =>
    let pc := s.cores[c].ctx[k].pc
    jumpTo c k (relPc pc imm) (modCtx s c k fun y => y.sset rd ((pc + 1).setWidth 64) (s.time.cycle + 2))

def execJr (c : CoreIx) (k : CtxIx) (ra : SReg) (s : State) : Out :=
  issue c k (encI 0x17 0 ra.val 0) 0 [ra] s fun s => jumpTo c k ((sreg s c k ra).setWidth 13) s

/-! ### Signals (R109, R204) -/

/-- COUNTER_RANGE with reason NUMBER for counter `n` named by an own instruction (R109, R210). -/
def rangeFault (c : CoreIx) (k : CtxIx) (n : Byte) (s : State) : State := retireFault c k 0x0A (ctrInfo n 0 0) s

/-- The information word of ROUTE (R109). -/
def routeInfo (n : Byte) (target : Byte) : W16 := n.setWidth 16 ||| (target.setWidth 16 <<< 8)

/-- Sends `n` to a counter of another core after `d` cycles, seen there as `src`; nothing for n = 0 (R209). -/
def sendSignal (c : CoreIx) (k : CtxIx) (t : CoreIx) (ctr : Byte) (n : W16) (d : Nat) (src : BitVec 3) (s : State) : State :=
  if n = 0 then s
  else pushInc s { core := t, ctr := ctr, n := n.toNat, due := s.time.cycle + d, source := src, tsig := false, fcore := c,
                   fctx := k, fpc := s.cores[c].ctx[k].pc }

def execSig (c : CoreIx) (k : CtxIx) (ctr : Byte) (n : NOp) (s : State) : Out :=
  issue c k (encK 0x18 ctr n) 0 (nsrc n) s fun s =>
    if !ctrHeld s c ctr.toNat then rangeFault c k ctr s
    else retire c k (sendSignal c k c ctr (nval s c k n) 1 0 s)

/-- A signal to a neighbour core over its wire. -/
def sigNeighbour (c t : CoreIx) (k : CtxIx) (closed : Bool) (ctr : Byte) (n : W16) (src : BitVec 3) (s : State) : State :=
  if !ctrHeld s c ctr.toNat then rangeFault c k ctr s
  else
    let inTask := match taskOn s c with
      | some (_, T) => T.hasCore t
      | none => false
    if !inTask || closed then retireFault c k 0x0B (routeInfo ctr (BitVec.ofNat 8 t.val)) s
    else retire c k (sendSignal c k t ctr n 3 src s)

def execSigUp (c : CoreIx) (k : CtxIx) (ctr : Byte) (n : NOp) (s : State) : Out :=
  issue c k (encK 0x19 ctr n) 0 (nsrc n) s fun s =>
    sigNeighbour c (upCore c) k (buckleBelow s (upCore c)) ctr (nval s c k n) 3 s

def execSigDn (c : CoreIx) (k : CtxIx) (ctr : Byte) (n : NOp) (s : State) : Out :=
  issue c k (encK 0x1A ctr n) 0 (nsrc n) s fun s =>
    sigNeighbour c (downCore c) k (buckleBelow s c) ctr (nval s c k n) 2 s

def execSigC (c : CoreIx) (k : CtxIx) (ra rb : SReg) (ctr : Byte) (s : State) : Out :=
  issue c k (encR 0x1B 0 ra.val rb.val ctr.toNat) 0 [ra, rb] s fun s =>
    let t := (sreg s c k ra).toNat % 256
    let n := (sreg s c k rb).setWidth 16
    if !ctrHeld s c ctr.toNat then rangeFault c k ctr s
    else
      match taskOn s c with
      | none => s
      | some (_, T) =>
        if h : t < 144 then
          if T.hasCore ⟨t, h⟩ then retire c k (sendSignal c k ⟨t, h⟩ ctr n 19 4 s)
          else retireFault c k 0x0B (routeInfo ctr (BitVec.ofNat 8 t)) s
        else retireFault c k 0x0B (routeInfo ctr (BitVec.ofNat 8 t)) s

/-! ### Global signals (R214) -/

/-- The checks of a GSIG at issue and its dispatch to the hub, 19 cc away. `g` is GCTR, `dest` the destination of a
REMOTE signal. A counter outside the task's held range is NUMBER; fields out of range are OP, an ARM whose RCTR is not
below COUNTERS is RELEASE_CTR (R219); a REMOTE signal needs SYSTEM_TIME (ROUTE, whose word is free). -/
def gsigSend (c : CoreIx) (k : CtxIx) (a b : W64) (s : State) : State :=
  match taskOn s c with
  | none => s
  | some (_, T) =>
    let g : Fin 4096 := ⟨a.toNat % 4096, by omega⟩
    let op := a.toNat / 4096 % 8
    let remote := bit a 15
    let dest := hiW a
    let held := decide (T.gctrFirst ≤ g.val) && decide (g.val < T.gctrFirst + T.hdr.globals)
    let fault := fun r : BitVec 2 => retireFault c k 0x0A (gctrInfo g r) s
    let post := fun o : GOp => retire c k
      { s with gsigs := s.gsigs ++ [{ g := g, op := o, due := s.time.cycle + 19, core := c, ctx := k,
                                      pc := s.cores[c].ctx[k].pc, src := none }] }
    if !held then fault 0
    else if 4 ≤ op || (remote && op != 0) || (!remote && dest != 0) || a.toNat / 2 ^ 16 % 2 ^ 16 != 0 then fault 2
    else if op = 0 then
      let n := b.toNat % 2 ^ 16
      if remote then
        if !T.hdr.flag 0 then withFreeInfo s fun i s => retireFault c k 0x0B i s
        else if n = 0 then retire c k s
        else retire c k
          { s with gsigs := s.gsigs ++ [{ g := g, op := .add n, due := s.time.cycle + 19, core := c, ctx := k,
                                          pc := s.cores[c].ctx[k].pc, src := some dest }] }
      else if n = 0 then retire c k s else post (.add n)
    else if op = 1 then
      let e := b.toNat % 2 ^ 24
      if e = 0 || b.toNat / 2 ^ 34 != 0 then fault 2
      else if !ctrHeld s c (b.toNat / 2 ^ 24 % 256) then fault 3
      else post (.arm (BitVec.ofNat 24 e) (BitVec.ofNat 8 (b.toNat / 2 ^ 24)) (bit b 32) (bit b 33))
    else if op = 2 then post (.armAt b)
    else if b != 0 then fault 2
    else post .disarm

/-- A GSIG row: the instruction is GSIG, and the row is the one of the OP its register holds; a reserved OP faults in
any of them. -/
def gsig (c : CoreIx) (k : CtxIx) (ra rb : SReg) (op : Nat) (s : State) : Out :=
  let held := (sreg s c k ra).toNat / 4096 % 8
  if held = op || 4 ≤ held then
    issue c k (encR 0x1C 0 ra.val rb.val 0) 0 [ra, rb] s fun s => gsigSend c k (sreg s c k ra) (sreg s c k rb) s
  else .next s

def execGsigAdd (c : CoreIx) (k : CtxIx) (ra rb : SReg) (s : State) : Out := gsig c k ra rb 0 s
def execGsigArm (c : CoreIx) (k : CtxIx) (ra rb : SReg) (s : State) : Out := gsig c k ra rb 1 s
def execGsigArmAt (c : CoreIx) (k : CtxIx) (ra rb : SReg) (s : State) : Out := gsig c k ra rb 2 s
def execGsigDisarm (c : CoreIx) (k : CtxIx) (ra rb : SReg) (s : State) : Out := gsig c k ra rb 3 s

/-! ### Consuming counters (R208, R209) -/

/-- Takes `n` from a counter's VALUE. -/
def consume (c : CoreIx) (ctr : Byte) (n : Nat) (s : State) : State :=
  modCore s c fun x => x.modCounter ctr fun q => { q with value := BitVec.ofNat 16 (q.value.toNat - n) }

/-- A context joins the tail of a counter's wait queue. -/
def joinQueue (c : CoreIx) (k : CtxIx) (ctr : Byte) (n : W16) (s : State) : State :=
  modCore s c fun x => x.modCounter ctr fun q => { q with queue := q.queue ++ [{ ctx := k, n := n }] }

def execWait (c : CoreIx) (k : CtxIx) (ctr : Byte) (n : NOp) (s : State) : Out :=
  issue c k (encK 0x1D ctr n) 0 (nsrc n) s fun s =>
    let v := nval s c k n
    let q := s.cores[c].counter ctr
    if !ctrHeld s c ctr.toNat then rangeFault c k ctr s
    else if v = 0 then retire c k s
    else if q.limit.toNat < v.toNat then retireFault c k 0x0A (ctrInfo ctr 0 1) s
    else if q.queue.isEmpty && decide (v.toNat ≤ q.value.toNat) then retire c k (consume c ctr v.toNat s)
    else waitOn c k .counter (some (ctr, v)) (joinQueue c k ctr v s)

def execTake (c : CoreIx) (k : CtxIx) (ctr : Byte) (n : NOp) (s : State) : Out :=
  issue c k (encK 0x1E ctr n) 0 (nsrc n) s fun s =>
    let v := nval s c k n
    if !ctrHeld s c ctr.toNat then rangeFault c k ctr s
    else if v.toNat ≤ (s.cores[c].counter ctr).value.toNat then retire c k (consume c ctr v.toNat s)
    else retireFault c k 0x09 (ctrInfo ctr 0 0) s

def execCtrrd (c : CoreIx) (k : CtxIx) (rd : SReg) (ctr : W16) (s : State) : Out :=
  issue c k (encI 0x1F rd.val 0 ctr) 0 [] s fun s =>
    let q := s.cores[c].counter (ctr.setWidth 8)
    if !ctrHeld s c ctr.toNat then rangeFault c k (ctr.setWidth 8) s
    else result c k rd (BitVec.ofNat 64 (q.limit.toNat * 2 ^ 16 + q.value.toNat)) 2 s

/-! ### The rest of the control instructions -/

def execFtrd (c : CoreIx) (k : CtxIx) (rd : SReg) (s : State) : Out :=
  issue c k (encI 0x30 rd.val 0 0) 0x001FFFFF [] s fun s => result c k rd (BitVec.ofNat 64 (ftNow s)) 2 s

def execSrset (c : CoreIx) (k : CtxIx) (ra rb : SReg) (s : State) : Out :=
  issue c k (encR 0x31 0 ra.val rb.val 0) 0 [ra, rb] s fun s =>
    let a := sreg s c k ra
    let b := sreg s c k rb
    retire c k (modCtx s c k fun y => { y with seed := a, sctr := b })

def execVflg (c : CoreIx) (k : CtxIx) (rd : SReg) (imm : W16) (s : State) : Out :=
  issue c k (encI 0x32 rd.val 0 imm) 0x001F0000 [] s fun s =>
    let f := s.cores[c].ctx[k].vflags
    result c k rd (f.setWidth 64) 1 (modCtx s c k fun y => { y with vflags := f &&& ~~~(imm.setWidth 4) })

def execYield (c : CoreIx) (k : CtxIx) (s : State) : Out :=
  issue c k (encI 0x38 0 0 0) 0 [] s fun s => modCore (retire c k s) c fun x => { x with yielded := some k }

def execNop (c : CoreIx) (k : CtxIx) (s : State) : Out := issue c k (encI 0x39 0 0 0) 0 [] s fun s => retire c k s

def execHalt (c : CoreIx) (k : CtxIx) (s : State) : Out :=
  issue c k (encI 0x3A 0 0 0) 0 [] s fun s => noteIssue c k (modCtx s c k fun y => { y with st := .halted })


def execTrap (c : CoreIx) (k : CtxIx) (imm : W16) (s : State) : Out :=
  if imm = 0xFFFF && trapReturns s c k then .next s
  else issue c k (encI 0x3B 0 0 imm) 0x03FF0000 [] s fun s => retireFault c k 0x12 imm s

def execTrapReturn (c : CoreIx) (k : CtxIx) (s : State) : Out :=
  if trapReturns s c k then
    issue c k (encI 0x3B 0 0 0xFFFF) 0x03FF0000 [31] s fun s => noteIssue c k (returnFromFault c k s)
  else .next s

def execIllegal (c : CoreIx) (k : CtxIx) (word : W32) (s : State) : Out :=
  if ctlLegal word then .next s
  else issue c k word 0 [] s fun s => withFreeInfo s fun i s => retireFault c k 0x01 i s

/-! ### Wakes and reports -/

/-- The waiting instruction of a served context completes: CMDWAIT makes the queued entry current and gives its word
0 (R224); WAIT and SWAIT have consumed already. -/
def completeWait (s : State) (c : CoreIx) (y : Ctx) : Ctx :=
  let y := { y with wakeAt := none, pc := y.pc + 1 }
  match y.kind with
  | .command =>
    match y.queued with
    | [] => y
    | q :: rest =>
      let w := match taskOn s c with
        | none => 0
        | some (_, T) =>
          match T.cmd.posted.find? fun e => e.q == q with
          | none => 0
          | some e => e.words[0]
      ({ y with cur := some q, queued := rest }).sset y.waitRd w s.time.cycle
  | _ => y

def execContextWake (c : CoreIx) (k : CtxIx) (s : State) : Out :=
  let y := s.cores[c].ctx[k]
  match y.wakeAt with
  | none => .next s
  | some w =>
    if w ≤ s.time.cycle && y.st = .waiting then
      let held := match taskOn s c with
        | some (_, T) => !T.issues
        | none => true
      .next (modCtx s c k fun y =>
        let y := completeWait s c y
        if held then { y with kind := .hold } else { y with st := .ready })
    else .next s


/-- A report of an overflow reaches the signalling context: in any cycle, the last 40 cc after its instruction issued (R210), which for
a signal over the tree, applied 19 cc after, is 21 cc after the application. -/
def execCounterOverflowReport (c : CoreIx) (s : State) : Out :=
  match s.reports.find? fun r => r.core == c with
  | none => .next s
  | some r => .next (faultCtx r.core r.ctx 0x08 r.info r.pc { s with reports := s.reports.erase r })

end Sys2Proof.Machine
end

