-- ==== Sys2Proof/Machine/Launch.lean ====
section
/-! DEFINITION. Launching timed blocks (R111 to R115, R133, R137, R164) and the duty pattern that inhibits whole beats
(R362, R363, R371). -/

namespace Sys2Proof.Machine

/-! ### Duty pattern -/

/-- The sectors of the Girth segment that holds a sector, by the buckles in force (R47). -/
def girthSegment (s : State) (p : SecIx) : List SecIx :=
  let back := ((List.range 11).takeWhile fun i => !bit s.buckle ((p.val + 23 - i) % 12)).length
  let f := p.val + 12 - back
  let n := 1 + ((List.range 11).takeWhile fun i => !bit s.buckle ((f + i) % 12)).length
  (List.range n).map fun i => ⟨(f + i) % 12, by omega⟩

/-- The control window (R365) of the current FT. -/
def winNow (s : State) : Nat := ftNow s / 10240

/-- A control window has ended that the controller has not dealt with (R365). -/
def windowDue (s : State) : Bool := !s.power.shutdown && decide (s.power.winDone < winNow s)

/-- The limits on a segment in table order, each with its LIMIT_CAUSE code (R363, R371). -/
def dutyLimits (s : State) (g : List SecIx) : List (Nat × BitVec 3) :=
  let least := fun f : Duty → Nat => g.foldl (fun a p => min a (f s.duty[p])) 16
  let ramp := fun d : Duty => match d.rampFrom with
    | none => 16
    | some r => if s.time.cycle < r then 16
                else min 16 (4 + 60 * (s.time.cycle - r) / (500 * bpf s.power.coreStep))
  [(s.power.dCap, 1), (least (·.sectorLim), 2), (least (·.stackLim), 3), (least (·.tjLim), 4),
   (least fun d => if winNow s < d.marginUntil then 8 else 16, 5),
   (if winNow s < s.power.guardUntil then 4 else 16, 6), (least ramp, 7)]

/-- The least limit, the first in table order on a tie; cause 0 where none is below 16. -/
def dutyLevel (ls : List (Nat × BitVec 3)) : Nat × BitVec 3 :=
  ls.foldl (fun a l => if l.1 < a.1 then l else a) (16, 0)

/-- The pattern slot of the current beat: the beats counted from FT_STEP, modulo 16 (R362). -/
def patternSlot (s : State) : Nat :=
  (((beatNow s : Int) + (s.time.gridFt - s.power.ftStep.toNat) / 640 * bpf s.power.coreStep) % 16).toNat

/-- Whether slot B mod 16 is enabled at level d (R362). -/
def slotEnabled (beat d : Nat) : Bool := decide (beat % 16 * d / 16 < (beat % 16 + 1) * d / 16)

/-- One more level applied to a sector in this window; a level fixed again for the same beat takes the place of the one before (R367). -/
def Duty.fix (d : Duty) (now lev : Nat) (cause : BitVec 3) (enabled : Bool) : Duty :=
  let again := d.beat == now && d.levelCount != 0
  { d with dEff := lev, cause := cause, beat := now, enabled := enabled
           levelSum := if again then d.levelSum + lev - d.dEff else d.levelSum + lev
           levelCount := if again then d.levelCount else d.levelCount + 1 }

/-- Fixes the level of a segment for the current beat. -/
def fixDuty (s : State) (g : List SecIx) : State :=
  let l := dutyLevel (dutyLimits s g)
  let again := match g with
    | p :: _ => s.duty[p].beat == beatNow s && s.power.levelCount != 0
    | [] => true
  let old := match g with
    | p :: _ => s.duty[p].dEff
    | [] => l.1
  let s := { s with power := if again then { s.power with levelSum := s.power.levelSum + l.1 - old }
                             else { s.power with levelSum := s.power.levelSum + l.1, levelCount := s.power.levelCount + 1 } }
  g.foldl (fun s p => modDuty s p fun d => d.fix (beatNow s) l.1 l.2 (slotEnabled (patternSlot s) l.1)) s

/-- The end of a cinch ramp: the first beat in which its limit reaches 16 (R371). -/
def rampEnded (s : State) (d : Duty) : Bool :=
  match d.rampFrom with
  | none => false
  | some r => decide (r ≤ s.time.cycle) && decide (12 ≤ 60 * (s.time.cycle - r) / (500 * bpf s.power.coreStep))

/-- The level of a beat is fixed once the window that begins with it has its D_CAP (R363, R365). -/
def execDutyBeat (sec : SecIx) (s : State) : Out :=
  if dutyOutstanding s sec && !windowDue s then
    let g := girthSegment s sec
    let s := g.foldl (fun s p => modDuty s p fun d =>
      if rampEnded s d then { d with rampFrom := none, rested := false, quietFrom := s.time.cycle } else d) s
    .next (fixDuty s g)
  else .next s

/-- 5 µs have passed since a segment's arrays last consumed a k-group and its last ramp ended (R371). -/
def restDue (s : State) (sec : SecIx) : Bool :=
  (girthSegment s sec).all fun p => s.duty[p].rampFrom.isNone && !s.duty[p].rested
      && decide (s.duty[p].quietFrom + ccOf s 5000 ≤ s.time.cycle)

def execSegmentRest (sec : SecIx) (s : State) : Out :=
  if restDue s sec then .next ((girthSegment s sec).foldl (fun s p => modDuty s p fun d => { d with rested := true }) s) else .next s

/-- A block starts on a rested segment: its ramp begins at the first beat at or after this cycle (R371). -/
def startRamp (s : State) (c : CoreIx) : State :=
  let g := girthSegment s (sectorOf c)
  if g.all fun p => s.duty[p].rested && s.duty[p].rampFrom.isNone then
    let r := (s.time.cycle + 31) / 32 * 32
    let s := g.foldl (fun s p => modDuty s p fun d => { d with rampFrom := some r }) s
    if atBeat s && !dutyOutstanding s (sectorOf c) then fixDuty s g else s
  else s

/-! ### The digest of a block (R137) -/

/-- One bit of CRC-16 with polynomial 0x1021. -/
def crcBit (r : BitVec 16) : BitVec 16 := if r.msb then (r <<< 1) ^^^ 0x1021 else r <<< 1

def crcByte (r : BitVec 16) (b : Byte) : BitVec 16 :=
  (List.range 8).foldl (fun r _ => crcBit r) (r ^^^ (b.setWidth 16 <<< 8))

/-- The bytes of a bundle in memory order. -/
def bundleBytes (b : BitVec 128) : List Byte := natLe 16 b.toNat

/-- The CRC from bundle `n` up to and including the first with BEND = 1. -/
def digestFrom (x : Core) : Nat → BitVec 12 → BitVec 16 → BitVec 16
  | 0, _, r => r
  | k + 1, n, r =>
    let w := x.bundle n
    let r := (bundleBytes w).foldl crcByte r
    if bend w then r else digestFrom x k (n + 1) r

def blockDigest (x : Core) (blk : BitVec 12) : BitVec 16 := digestFrom x 4096 blk 0xFFFF

/-! ### Launch instructions (R111) -/

/-- The pending launch an instruction records: copies of AD0 to AD15 and S24 to S31. -/
def mkLaunch (s : State) (c : CoreIx) (k : CtxIx) (blk : BitVec 12) (ctr : Byte) (form : LaunchForm) (ft : W64)
    (beat : Nat) : Launch :=
  let y := s.cores[c].ctx[k]
  { blk := blk, ctr := ctr, ctx := k, pc := y.pc, form := form, ft := ft, beat := beat, issued := s.time.cycle,
    arrived := none, digest := blockDigest s.cores[c] blk, ads := y.ad,
    trs := #v[y.s[24], y.s[25], y.s[26], y.s[27], y.s[28], y.s[29], y.s[30], y.s[31]] }


/-- The common part of the launch instructions: the counter check, the wait for a pending launch, the record. -/
def launch (c : CoreIx) (k : CtxIx) (ctr : Byte) (s : State) (f : State → State) : State :=
  if !ctrHeld s c ctr.toNat then rangeFault c k ctr s
  else if s.cores[c].pend.isSome then waitOn c k .launch none s
  else f s

def recordLaunch (c : CoreIx) (k : CtxIx) (l : Launch) (s : State) : State :=
  retire c k (modCore s c fun x => { x with pend := some l })

def execLaunch (c : CoreIx) (k : CtxIx) (blk : BitVec 12) (ctr : Byte) (s : State) : Out :=
  issue c k (encL 0x20 blk ctr 0) 0 launchSrcs s fun s =>
    launch c k ctr s fun s => recordLaunch c k (mkLaunch s c k blk ctr .local_ 0 0) s

def execLaunchSeg (c : CoreIx) (k : CtxIx) (blk : BitVec 12) (ctr : Byte) (s : State) : Out :=
  issue c k (encL 0x21 blk ctr 0) 0 launchSrcs s fun s =>
    launch c k ctr s fun s => recordLaunch c k (mkLaunch s c k blk ctr .seg 0 0) s

/-- DESIGN CHOICE (log 94): a LAUNCH.AT that issues in the first cycle of its resolved beat counts as late, and the FT of effect
in the notice of a late LAUNCH.AT is the FT of its issue. A timed action taken late (R36): counted, with a notice naming the unit class, the stated FT and the FT of effect. -/
def lateAction (s : State) (unitClass : Nat) (stated effect : Nat) : State :=
  record { s with time := { s.time with lateCount := satInc s.time.lateCount } } 0x9000 notice unitClass stated (effect % 2 ^ 32) 0

def execLaunchAt (c : CoreIx) (k : CtxIx) (blk : BitVec 12) (ctr : Byte) (rf : SReg) (s : State) : Out :=
  issue c k (encL 0x22 blk ctr rf.val) 0 (rf :: launchSrcs) s fun s =>
    launch c k ctr s fun s =>
      let ft := sreg s c k rf
      let beat := beatAt s ft.toNat
      if 32 * beat ≤ s.time.cycle then
        let s := lateAction s 1 ft.toNat (ftNow s)
        let s := modCore s c fun x => { x with epoch := x.epoch + 1 }
        withFreeInfo s fun i s => retireFault c k 0x10 i s
      else recordLaunch c k (mkLaunch s c k blk ctr .at_ ft beat) s

/-! ### Block start and completion -/

/-- The block a launch becomes (R133): BA and TR from the launch copies, V0 to V30 +0.0, the context's SR copies. -/
def mkBlock (l : Launch) (y : Ctx) (start : Nat) : Block :=
  { blk := l.blk, ctr := l.ctr, ctx := l.ctx, pc := l.pc, start := start, bundle := l.blk, issuing := true, loops := [],
    mUsed := none, tUsed := none, vUsed := none, ba := l.ads, tr := l.trs, updM := [], updT := [], updV := [],
    v := Vector.replicate 31 { bits := 0, poison := 0 }, seed := y.seed, sctr := y.sctr, flags := 0, vres := [],
    writes := [], feeds := [], mmas := [], drains := [], drn := none, lastEvent := 0, ends := [],
    tagSeen := false, girthFault := none,
    arrayFault := none, bankFault := none, addrFault := none, tsigFaults := [], tsigAt := 0 }

/-- The pending launch of a core starts now; contexts waiting with KIND LAUNCH retry (R111, R112). -/
def startBlock (s : State) (c : CoreIx) : State :=
  match s.cores[c].pend with
  | none => s
  | some l =>
    let s := modCore s c fun x =>
      { x with pend := none, blk := some (mkBlock l x.ctx[l.ctx] (ecyc s c)),
               timed := { x.timed with digest := l.digest, blockCycles := 0 },
               ctx := x.ctx.map fun y => if y.st = .waiting && y.kind = .launch then { y with st := .ready } else y }
    startRamp s c

def execLocalBlockStart (c : CoreIx) (s : State) : Out :=
  match s.cores[c].pend with
  | some l =>
    if l.form = .local_ && decide (l.issued + 4 ≤ s.time.cycle) && s.cores[c].blk.isNone && launchAllowed s c then
      .next (startBlock s c)
    else .next s
  | none => .next s

def execSegmentArrival (c : CoreIx) (s : State) : Out :=
  match s.cores[c].pend with
  | some l =>
    if l.form = .seg && l.arrived.isNone && s.cores[c].blk.isNone && launchAllowed s c then
      .next (modCore s c fun x => { x with pend := some { l with arrived := some s.time.cycle } })
    else .next s
  | none => .next s

def execSegmentLaunchStart (c : CoreIx) (s : State) : Out :=
  let cs := segCores s c
  match cs.isEmpty, lastArrival s cs, s.cores[c].pend with
  | false, some last, some l0 =>
    if atBeat s && decide (segStartCycle last ≤ s.time.cycle) && launchAllowed s c && !launchRefused s cs then
      let same := cs.all fun d => match s.cores[d].pend with
        | some l => l.blk == l0.blk && l.digest == l0.digest
        | none => false
      if same then
        .next (cs.foldl (fun s d => startBlock (modCore s d fun x => { x with epoch := x.epoch + 1 }) d) s)
      else
        .next (cs.foldl (fun u d => match s.cores[d].pend with
          | none => u
          | some l => withFreeInfo (modCore u d fun x => { x with pend := none }) fun i u => faultCtx d l.ctx 0x0F i l.pc u) s)
    else .next s
  | _, _, _ => .next s

/-- A core's timed launch starts at the resolved beat, where its timed engine is idle (R36, R112). -/
def atStarts (s : State) (c : CoreIx) : Bool :=
  s.cores[c].blk.isNone && match s.cores[c].pend with
  | some l => l.form == .at_ && decide (32 * l.beat = s.time.cycle)
  | none => false

/-- A core that cannot start at the beat: its launch is discarded and its context faults SEGMENT_SKEW (R36, R113); `s` is the state in
which the beat starts. -/
def atFails (s u : State) (c : CoreIx) : State :=
  match s.cores[c].pend with
  | none => u
  | some l => withFreeInfo (modCore u c fun x => { x with epoch := x.epoch + 1, pend := none }) fun i u => faultCtx c l.ctx 0x10 i l.pc u

/-- A timed launch at the resolved beat (R36, R45, R112, R113): of the segment's cores whose launch is due, those start that can and
that nothing bars; the others fault. -/
def execTimedLaunchStart (c : CoreIx) (s : State) : Out :=
  let cs := segCores s c
  let ok := launchAllowed s c && !launchRefused s cs
  let due := cs.filter (atDue s)
  let go := due.filter fun d => ok && atStarts s d
  let t := go.foldl (fun u d => startBlock (modCore u d fun x => { x with epoch := x.epoch + 1 }) d) s
  .next ((due.filter fun d => !(ok && atStarts s d)).foldl (atFails s) t)

/-- Whether everything a block started is over at block cycle `t` (R73, R164). -/
def blockOver (s : State) (c : CoreIx) (b : Block) (t : Nat) : Bool :=
  !b.issuing && b.drains.isEmpty && b.feeds.isEmpty && b.vres.isEmpty && b.writes.isEmpty && decide (b.lastEvent < t) && decide (b.tsigAt ≤ s.time.cycle)
  && (match b.mmas.getLast? with
    | some m => decide (m.entry + m.f.lg.toNat - 1 + skew m.shape < t)
    | none => true)
  && (b.mmas.all fun m => !m.f.ends || m.closed)
  && !s.incs.any fun i => i.tsig && i.fcore == c

/-- The faults of a block at its end, each with its cause (R114, R115, R161, R162). -/
def blockFaults (s : State) (c : CoreIx) (b : Block) : List (Byte × W16) :=
  let opt := fun (cause : Byte) (o : Option W16) => match o with
    | some w => [(cause, w)]
    | none => []
  opt 0x03 b.addrFault ++ opt 0x05 (b.girthFault.map (·.2)) ++ opt 0x06 b.arrayFault ++ opt 0x07 b.bankFault
    ++ b.tsigFaults
    ++ match taskOn s c with
      | some (_, T) =>
        if T.hdr.flag 4 && decide (T.hdr.maxBlock.toNat < s.cores[c].timed.blockCycles.toNat) then
          [(0x11, Config.free 16 s.freeCtr)]
        else []
      | none => []

def execBlockComplete (c : CoreIx) (s : State) : Out :=
  match blockNow s c with
  | none => .next s
  | some (b, t) =>
    if blockOver s c b t then
      let fs := blockFaults s c b
      let s := { s with freeCtr := s.freeCtr + 1 }
      let s := modCore s c fun x =>
        { (x.modCtx b.ctx fun y =>
            { y with sctr := b.sctr, vflags := y.vflags ||| b.flags
                     vflagsAt := if b.flags = 0 then y.vflagsAt else (s.time.cycle + 1, b.flags) }) with
          blk := none, faultsDue := x.faultsDue ++ fs.map fun f => (b.ctx, f.1, f.2, b.pc) }
      .next (signalOwn s c b.ctr 1 1 7 b.ctx b.pc)
    else .next s

end Sys2Proof.Machine
end

