-- ==== Sys2Proof/Machine/Numeric.lean ====
section
/-! DEFINITION. Exact arithmetic of chapter 05: rounding (R87), element formats (R82), the block reduction (R86),
quantisation (R90 to R92), vector arithmetic (R93 to R98) and its special functions. Values are exact integers times
powers of two, or quotients of naturals, narrowed only by the rounding functions. -/

namespace Sys2Proof.Machine

/-! ### Exact values and rounding -/

/-- A decoded number: a NaN (signalling or not), an infinity, or sign and m x 2^e. -/
inductive Val where
  | nan (signalling : Bool)
  | inf (neg : Bool)
  | fin (neg : Bool) (m : Nat) (e : Int)
deriving DecidableEq, Repr

def Val.isNan : Val → Bool
  | .nan _ => true
  | _ => false
def Val.isSnan : Val → Bool
  | .nan b => b
  | _ => false
def Val.isInf : Val → Bool
  | .inf _ => true
  | _ => false
def Val.isZero : Val → Bool
  | .fin _ m _ => m == 0
  | _ => false
def Val.neg? : Val → Bool
  | .nan _ => false
  | .inf n => n
  | .fin n _ _ => n

/-- m x 2^k for k of either sign, as numerator and denominator. -/
def ratio (m : Nat) (e : Int) : Nat × Nat := if 0 ≤ e then (m * 2 ^ e.toNat, 1) else (m, 2 ^ (-e).toNat)

/-- floor(log2(num / den)) for positive num and den. -/
def ilog2 (num den : Nat) : Int :=
  let k : Int := (Nat.log2 num : Int) - (Nat.log2 den : Int)
  let ge := if 0 ≤ k then den * 2 ^ k.toNat ≤ num else den ≤ num * 2 ^ (-k).toNat
  if ge then k else k - 1

/-- A magnitude rounded to a multiple of 2^lsb. -/
structure Rnd where
  m : Nat
  lsb : Int
  inexact : Bool
deriving DecidableEq, Repr

/-- Round to nearest, ties to even, at a given least significant place. -/
def roundAt (num den : Nat) (lsb : Int) : Rnd :=
  let nd := if 0 ≤ lsb then (num, den * 2 ^ lsb.toNat) else (num * 2 ^ (-lsb).toNat, den)
  let q := nd.1 / nd.2
  let r := nd.1 % nd.2
  let up := decide (nd.2 < 2 * r) || (2 * r == nd.2 && q % 2 == 1)
  { m := if up then q + 1 else q, lsb := lsb, inexact := r != 0 }

/-- The least significant place of a p-bit value with least exponent emin at num / den. -/
def lsbFor (p : Nat) (emin : Int) (num den : Nat) : Int :=
  if num = 0 then emin - (p - 1 : Nat) else max (ilog2 num den) emin - (p - 1 : Nat)

/-- Rounding to p bits with subnormals from emin and no upper end (R87, R91). -/
def roundP (p : Nat) (emin : Int) (num den : Nat) : Rnd := roundAt num den (lsbFor p emin num den)

/-- The code of m x 2^lsb in a format of p bits and least exponent emin, without sign and as if exponents went on. -/
def codeOf (p : Nat) (emin : Int) (r : Rnd) : Nat :=
  if r.m = 0 then 0 else r.m + (r.lsb - emin + (p - 1 : Nat)).toNat * 2 ^ (p - 1)

/-- An IEEE-style code: p bits of significand, least exponent emin, the code of infinity, the place of the sign. -/
structure FFmt where
  p : Nat
  emin : Int
  infCode : Nat
  signAt : Nat
deriving DecidableEq, Repr

def f32 : FFmt := { p := 24, emin := -126, infCode := 0x7F800000, signAt := 31 }
def bf16 : FFmt := { p := 8, emin := -126, infCode := 0x7F80, signAt := 15 }
def fp16 : FFmt := { p := 11, emin := -14, infCode := 0x7C00, signAt := 15 }

/-- QNAN of FP32 (R87). -/
abbrev qnan32 : Nat := 0x7FC00000

/-- The quiet NaN of a format. -/
def FFmt.qnan (f : FFmt) : Nat := f.infCode + 2 ^ (f.p - 2)

def FFmt.sign (f : FFmt) (neg : Bool) : Nat := if neg then 2 ^ f.signAt else 0

/-- Decoding a code (R82). -/
def FFmt.decode (f : FFmt) (c : Nat) : Val :=
  let neg := c / 2 ^ f.signAt % 2 == 1
  let b := c % 2 ^ f.signAt
  if b = f.infCode then .inf neg
  else if f.infCode < b then .nan (b / 2 ^ (f.p - 2) % 2 == 0)
  else
    let ef := b / 2 ^ (f.p - 1)
    let man := b % 2 ^ (f.p - 1)
    if ef = 0 then .fin neg man (f.emin - (f.p - 1 : Nat))
    else .fin neg (man + 2 ^ (f.p - 1)) (f.emin + (ef - 1 : Nat) - (f.p - 1 : Nat))

/-- The four flags of R96: bit 0 INVALID, 1 DIVZERO, 2 OVERFLOW, 3 UNDERFLOW. -/
abbrev VF := BitVec 4
abbrev vInvalid : VF := 1
abbrev vDivzero : VF := 2
abbrev vOverflow : VF := 4
abbrev vUnderflow : VF := 8

/-- UNDERFLOW of an inexact result: tiny before the exponent range's lower end is applied (R96). -/
def tinyFlag (f : FFmt) (num den : Nat) (inexact : Bool) : VF :=
  if inexact && num != 0 then
    let r := roundP f.p (-100000) num den
    let nd := ratio r.m r.lsb
    if nd.1 * 2 ^ 126 < nd.2 then vUnderflow else 0
  else 0

/-- A nonzero magnitude num / den delivered in a format: nearest-even, with overflow to infinity and flags. -/
def FFmt.deliver (f : FFmt) (neg : Bool) (num den : Nat) : Nat × VF :=
  let r := roundP f.p f.emin num den
  let c := codeOf f.p f.emin r
  if f.infCode ≤ c then (f.sign neg + f.infCode, vOverflow)
  else (f.sign neg + c, tinyFlag f num den r.inexact)

/-- The exact sum of two finite values as an integer and its scale. -/
def exactAdd (a : Int) (ea : Int) (b : Int) (eb : Int) : Int × Int :=
  let e := min ea eb
  (a * 2 ^ (ea - e).toNat + b * 2 ^ (eb - e).toNat, e)

def signed (neg : Bool) (m : Nat) : Int := if neg then -(m : Int) else m

/-- Delivers an exact integer times a power of two; an exact zero takes the given sign. -/
def FFmt.deliverInt (f : FFmt) (v : Int × Int) (zeroNeg : Bool) : Nat × VF :=
  if v.1 = 0 then (f.sign zeroNeg, 0)
  else
    let nd := ratio v.1.natAbs v.2
    f.deliver (decide (v.1 < 0)) nd.1 nd.2

/-- round_fp32_rne of m x 2^e (R87): an exact zero gives +0.0. -/
def roundFp32 (v : Int × Int) : Nat := (f32.deliverInt v false).1

/-! ### Vector operations (R93) -/

def nanFlag (vs : List Val) : VF := if vs.any Val.isSnan then vInvalid else 0

/-- a x b + c with one rounding; VADD is 1 x a + b, VMUL is a x b + (-0). DESIGN CHOICE (log 122): infinity x zero raises INVALID also where
c is a quiet NaN. -/
def FFmt.fma (f : FFmt) (a b c : Val) : Nat × VF :=
  match a, b, c with
  | .fin na ma ea, .fin nb mb eb, .fin nc mc ec =>
    let np := na != nb
    let v := exactAdd (signed np (ma * mb)) (ea + eb) (signed nc mc) ec
    f.deliverInt v (np && nc)
  | a, b, c =>
    if a.isNan || b.isNan || c.isNan then
      (f.qnan, nanFlag [a, b, c] ||| (if (a.isInf && b.isZero) || (a.isZero && b.isInf) then vInvalid else 0))
    else if (a.isInf && b.isZero) || (a.isZero && b.isInf) then (f.qnan, vInvalid)
    else if a.isInf || b.isInf then
      let n := a.neg? != b.neg?
      if c.isInf && c.neg? != n then (f.qnan, vInvalid) else (f.sign n + f.infCode, 0)
    else (f.sign c.neg? + f.infCode, 0)

def FFmt.add (f : FFmt) (a b : Val) : Nat × VF := f.fma a (.fin false 1 0) b

def Val.flip : Val → Val
  | .nan s => .nan s
  | .inf n => .inf (!n)
  | .fin n m e => .fin (!n) m e

def FFmt.sub (f : FFmt) (a b : Val) : Nat × VF := f.add a b.flip

/-- The product; the sign of an exact zero is the product's own. -/
def FFmt.mul (f : FFmt) (a b : Val) : Nat × VF := f.fma a b (.fin (a.neg? != b.neg?) 0 0)

/-- Exact order of two values that are not NaN: −1, 0 or 1. -/
def Val.cmp (a b : Val) : Int :=
  match a, b with
  | .inf na, .inf nb => if na = nb then 0 else if na then -1 else 1
  | .inf na, _ => if na then -1 else 1
  | _, .inf nb => if nb then 1 else -1
  | .fin na ma ea, .fin nb mb eb =>
    let d := (exactAdd (signed na ma) ea (-(signed nb mb)) eb).1
    if d < 0 then -1 else if 0 < d then 1 else 0
  | _, _ => 0

/-- VMIN and VMAX on codes: QNAN when either input is NaN, −0.0 below +0.0. -/
def FFmt.minmax (f : FFmt) (isMax : Bool) (x y : Nat) : Nat × VF :=
  let a := f.decode x
  let b := f.decode y
  if a.isNan || b.isNan then (f.qnan, nanFlag [a, b])
  else
    let o := a.cmp b
    let less := decide (o < 0) || (o == 0 && a.neg? && !b.neg?)
    (if less != isMax then x else y, 0)

/-! ### Special functions (R94) -/

/-- Integer square root, one bit at a time from bit `k` down. -/
def isqrtFrom (n : Nat) : Nat → Nat → Nat
  | 0, r => if (r + 1) * (r + 1) ≤ n then r + 1 else r
  | k + 1, r => isqrtFrom n k (if (r + 2 ^ (k + 1)) * (r + 2 ^ (k + 1)) ≤ n then r + 2 ^ (k + 1) else r)

def isqrt (n : Nat) : Nat := isqrtFrom n (Nat.log2 n / 2 + 1) 0

/-- The square root of num / den as a rational that rounds as it does: 160 fractional bits and a sticky bit. -/
def sqrtRat (num den : Nat) : Nat × Nat :=
  let s := isqrt (num * 2 ^ 640 / den)
  (2 * s + (if s * s * den = num * 2 ^ 640 then 0 else 1), 2 ^ 321)

/-- Fixed-point precision of the transcendental functions, and the bound on their accumulated error. -/
abbrev fxP : Nat := 280
abbrev fxErr : Nat := 2 ^ 24

/-- atanh(num / den) in fixed point by its series, `k` terms from the term `t` with odd denominator `d`. -/
def atanhSum (x2n x2d : Nat) : Nat → Nat → Nat → Nat → Nat
  | 0, _, _, acc => acc
  | k + 1, t, d, acc => atanhSum x2n x2d k (t * x2n / x2d) (d + 2) (acc + t / d)

def atanhFx (num den : Nat) : Nat := atanhSum (num * num) (den * den) 100 (num * 2 ^ fxP / den) 1 0

/-- ln 2 in fixed point. -/
def ln2Fx : Nat := 2 * atanhFx 1 3

/-- exp(z) of a fixed-point z below ln 2, by its series. -/
def expSum (z : Nat) : Nat → Nat → Nat → Nat → Nat
  | 0, _, _, acc => acc
  | k + 1, t, n, acc => expSum z k (t * z / 2 ^ fxP / (n + 1)) (n + 1) (acc + t)

def expFx (z : Nat) : Nat := expSum z 80 (2 ^ fxP) 0 0

/-- An interval of positive values: low and high numerator over one denominator, times 2^e. -/
structure Ival where
  lo : Nat
  hi : Nat
  den : Nat
  e : Int
deriving DecidableEq, Repr

/-- 2^y for y a fixed-point integer of either sign. -/
def pow2Fx (y : Int) : Ival :=
  let n := y / (2 ^ fxP : Int)
  let fr := (y % (2 ^ fxP : Int)).toNat
  let v := expFx (fr * ln2Fx / 2 ^ fxP)
  { lo := v - fxErr, hi := v + fxErr, den := 2 ^ fxP, e := n }

/-- Both ends of an interval as quotients. -/
def Ival.ends (i : Ival) : (Nat × Nat) × (Nat × Nat) :=
  if 0 ≤ i.e then ((i.lo * 2 ^ i.e.toNat, i.den), (i.hi * 2 ^ i.e.toNat, i.den))
  else ((i.lo, i.den * 2 ^ (-i.e).toNat), (i.hi, i.den * 2 ^ (-i.e).toNat))

/-- Delivers an inexact value known to lie within two quotients. Both ends round alike for every FP32 input, so that is the correctly
rounded result (log 17). -/
def deliverIval (neg : Bool) (lo hi : Nat × Nat) : Nat × VF :=
  let c := codeOf 24 (-126) (roundP 24 (-126) lo.1 lo.2)
  if 0x7F800000 ≤ c then (f32.sign neg + 0x7F800000, vOverflow)
  else (f32.sign neg + c, tinyFlag f32 hi.1 hi.2 true)

/-- x = m x 2^e as a fixed-point integer, truncated toward zero. -/
def toFx (neg : Bool) (m : Nat) (e : Int) : Int :=
  let k := e + fxP
  signed neg (if 0 ≤ k then m * 2 ^ k.toNat else m / 2 ^ (-k).toNat)

/-- Whether m x 2^e is at least 2^n. -/
def atLeast (m : Nat) (e : Int) (n : Nat) : Bool :=
  m != 0 && decide ((n : Int) ≤ Nat.log2 m + e)

/-- The seven special functions, by V-slot opcode 0x10 to 0x16. DEDUCED (log 122): RCP of a subnormal whose reciprocal lies beyond the
largest number is the correctly rounded infinity, with OVERFLOW. -/
def special (op : Nat) (x : Nat) : Nat × VF :=
  match f32.decode x with
  | .nan s => (qnan32, if s then vInvalid else 0)
  | .inf n =>
    match op with
    | 0x10 => (f32.sign n, 0)
    | 0x11 | 0x15 | 0x16 | 0x12 | 0x13 | _ =>
      if op = 0x11 || op = 0x14 then (if n then (qnan32, vInvalid) else (0x7F800000, 0))
      else if op = 0x12 then (if n then (qnan32, vInvalid) else (0, 0))
      else if op = 0x13 then (if n then (0, 0) else (0x7F800000, 0))
      else if op = 0x15 then (f32.sign n + 0x3F800000, 0)
      else (if n then 0 else 0x3F800000, 0)
  | .fin n m e =>
    let nd := ratio m e
    if op = 0x10 then
      if m = 0 then (f32.sign n + 0x7F800000, vDivzero) else f32.deliver n nd.2 nd.1
    else if op = 0x11 then
      if m = 0 then (x, 0) else if n then (qnan32, vInvalid)
      else let r := sqrtRat nd.1 nd.2; f32.deliver false r.1 r.2
    else if op = 0x12 then
      if m = 0 then (f32.sign n + 0x7F800000, vDivzero) else if n then (qnan32, vInvalid)
      else let r := sqrtRat nd.2 nd.1; f32.deliver false r.1 r.2
    else if op = 0x13 then
      if m = 0 then (0x3F800000, 0)
      else if atLeast m e 8 then (if n then (0, vUnderflow) else (0x7F800000, vOverflow))
      else if nd.1 % nd.2 = 0 then
        let k := nd.1 / nd.2
        if n then f32.deliver false 1 (2 ^ k) else f32.deliver false (2 ^ k) 1
      else if !atLeast m e 0 && Nat.log2 m + e < -100 then
        if n then deliverIval false (2 ^ 90 - 1, 2 ^ 90) (1, 1) else deliverIval false (1, 1) (2 ^ 90 + 1, 2 ^ 90)
      else let i := (pow2Fx (toFx n m e)).ends; deliverIval false i.1 i.2
    else if op = 0x14 then
      if m = 0 then (0xFF800000, vDivzero) else if n then (qnan32, vInvalid)
      else
        let l := Nat.log2 m
        let ex : Int := e + l
        if m = 2 ^ l then f32.deliverInt (ex, 0) false
        else
          let lnm := 2 * atanhFx (m - 2 ^ l) (m + 2 ^ l)
          let v : Int := ex * 2 ^ fxP + (lnm * 2 ^ fxP / ln2Fx : Nat)
          let a := v.natAbs
          deliverIval (decide (v < 0)) (a - fxErr, 2 ^ fxP) (a + fxErr, 2 ^ fxP)
    else if op = 0x15 then
      if m = 0 then (x, 0)
      else if atLeast m e 6 then deliverIval n (2 ^ 80 - 1, 2 ^ 80) (2 ^ 81 - 1, 2 ^ 81)
      else if !atLeast m e 0 && Nat.log2 m + e < -40 then
        deliverIval n (nd.1 * (2 ^ 70 - 1), nd.2 * 2 ^ 70) (nd.1 * (2 ^ 300 - 1), nd.2 * 2 ^ 300)
      else
        let z := 2 * (toFx false m e).toNat
        let t := (pow2Fx (-((z * 2 ^ fxP / ln2Fx : Nat) : Int))).ends
        let tl := t.1.1 * 2 ^ fxP / t.1.2 - fxErr
        let th := t.2.1 * 2 ^ fxP / t.2.2 + fxErr
        deliverIval n (2 ^ fxP - th, 2 ^ fxP + th) (2 ^ fxP - tl, 2 ^ fxP + tl)
    else
      if m = 0 then (0x3F000000, 0)
      else if atLeast m e 8 then
        if n then (0, vUnderflow) else deliverIval false (2 ^ 80 - 1, 2 ^ 80) (2 ^ 81 - 1, 2 ^ 81)
      else if !atLeast m e 0 && Nat.log2 m + e < -100 then
        if n then deliverIval false (2 ^ 90 - 1, 2 ^ 91) (1, 2) else deliverIval false (1, 2) (2 ^ 90 + 1, 2 ^ 91)
      else
        let z := (toFx false m e).toNat
        let i := pow2Fx (-((z * 2 ^ fxP / ln2Fx : Nat) : Int))
        let lo := i.lo - fxErr
        let hi := i.hi + fxErr
        let k := 2 ^ (-i.e).toNat
        if n then deliverIval false (lo, i.den * k + lo) (hi, i.den * k + hi)
        else deliverIval false (i.den * k, i.den * k + hi) (i.den * k, i.den * k + lo)

/-! ### Element formats (R82, R91, R95) -/

/-- An element format: significand bits, least exponent, largest finite code, place of the sign. -/
structure EFmt where
  p : Nat
  emin : Int
  maxCode : Nat
  signAt : Nat
deriving DecidableEq, Repr

/-- The element format of a floating-point format code other than BF16, FP16 and INT8. -/
def elemFmt (fmt : Nat) : EFmt :=
  if fmt = 2 || fmt = 4 then { p := 4, emin := -6, maxCode := 0x7E, signAt := 7 }
  else if fmt = 3 || fmt = 5 then { p := 3, emin := -14, maxCode := 0x7B, signAt := 7 }
  else if fmt = 6 then { p := 3, emin := -2, maxCode := 0x1F, signAt := 5 }
  else if fmt = 7 then { p := 4, emin := 0, maxCode := 0x1F, signAt := 5 }
  else { p := 2, emin := 0, maxCode := 0x7, signAt := 3 }

/-- emax_elem (R90). -/
def emaxElem (fmt : Nat) : Int :=
  if fmt = 4 then 8 else if fmt = 5 then 15 else if fmt = 6 then 4 else if fmt = 7 || fmt = 8 then 2 else 0

/-- Decodes an element of any format code (R82). -/
def decodeElem (fmt : Nat) (c : Nat) : Val :=
  if fmt = 0 then bf16.decode c
  else if fmt = 1 then fp16.decode c
  else if fmt = 9 then
    if c % 256 < 128 then .fin false (c % 256) (-6) else .fin true (256 - c % 256) (-6)
  else
    let f := elemFmt fmt
    let neg := c / 2 ^ f.signAt % 2 == 1
    let b := c % 2 ^ f.signAt
    if (fmt = 2 || fmt = 4) && b = 0x7F then .nan false
    else if (fmt = 3 || fmt = 5) && b = 0x7C then .inf neg
    else if (fmt = 3 || fmt = 5) && 0x7C < b then .nan (b == 0x7D)
    else
      let ef := b / 2 ^ (f.p - 1)
      let man := b % 2 ^ (f.p - 1)
      if ef = 0 then .fin neg man (f.emin - (f.p - 1 : Nat))
      else .fin neg (man + 2 ^ (f.p - 1)) (f.emin + (ef - 1 : Nat) - (f.p - 1 : Nat))

/-- How a conversion rounds: nearest-even, or stochastically with 32 random bits (R97, R98). -/
inductive RMode where
  | rne
  | sr (r : Nat)
deriving DecidableEq, Repr

/-- Rounds a magnitude at a place by the mode. -/
def roundMode (num den : Nat) (lsb : Int) : RMode → Rnd
  | .rne => roundAt num den lsb
  | .sr r =>
    let nd := if 0 ≤ lsb then (num, den * 2 ^ lsb.toNat) else (num * 2 ^ (-lsb).toNat, den)
    let q := nd.1 / nd.2
    let f := nd.1 % nd.2 * 2 ^ 32 / nd.2
    { m := if 2 ^ 32 ≤ f + r then q + 1 else q, lsb := lsb, inexact := nd.1 % nd.2 != 0 }

/-- to_elem_sat (R91), by either rounding: the code, and whether the element saturated. -/
def toElemSat (fmt : Nat) (mode : RMode) (neg : Bool) (num den : Nat) : Nat × Bool :=
  if fmt = 9 then
    let r := roundMode num den (-6) mode
    let m := if 127 < r.m then 127 else r.m
    (if neg then (256 - m) % 256 else m, decide (127 < r.m))
  else
    let f := elemFmt fmt
    let r := roundMode num den (lsbFor f.p f.emin num den) mode
    let c := codeOf f.p f.emin r
    let s := if neg then 2 ^ f.signAt else 0
    if f.maxCode < c then (s + f.maxCode, true) else (s + c, false)

/-- quantise_mx (R90), by either rounding (R95): scale code, element codes, saturated elements. -/
def quantiseMx (fmt : Nat) (xs : List Nat) (mode : Nat → RMode) : Nat × List Nat × Nat :=
  let vs := xs.map f32.decode
  if vs.any fun v => v.isNan || v.isInf then (255, xs.map fun _ => 0, 0)
  else
    let mags := vs.map fun v => match v with
      | .fin _ m e => ratio m e
      | _ => (0, 1)
    if mags.all fun q => q.1 == 0 then (0, xs.map fun _ => 0, 0)
    else
      let top := mags.foldl (fun a q => if q.1 = 0 then a else max a (ilog2 q.1 q.2)) (-100000)
      let e := max (-127) (min 127 (top - emaxElem fmt))
      let ys := (vs.zip (List.range vs.length)).map fun v => match v.1 with
        | .fin n m ex => let q := ratio m (ex - e); toElemSat fmt (mode v.2) n q.1 q.2
        | _ => (0, false)
      ((e + 127).toNat, ys.map fun y => y.1, (ys.filter fun y => y.2).length)

/-- Injection into FP8 without scale (R92): code and whether QSAT_COUNT counts it. -/
def fp8Inject (fmt : Nat) (x : Nat) : Nat × Bool :=
  match f32.decode x with
  | .nan _ => (0x7F, false)
  | .inf n => if fmt = 2 then ((if n then 0xFE else 0x7E), true) else ((if n then 0xFC else 0x7C), false)
  | .fin n m e => let q := ratio m e; toElemSat fmt .rne n q.1 q.2

/-- A conversion to a format without block scale (R95): code and flags. -/
def convertElem (fmt : Nat) (mode : RMode) (sat : Bool) (x : Nat) : Nat × VF :=
  let v := f32.decode x
  let fl : VF := if v.isSnan then vInvalid else 0
  if fmt ≤ 1 then
    let f := if fmt = 0 then bf16 else fp16
    match v with
    | .nan _ => (if fmt = 0 then f.qnan else f.infCode + 1 + Config.fp16Nan.val, fl)
    | .inf n => if sat then (f.sign n + f.infCode - 1, 0) else (f.sign n + f.infCode, 0)
    | .fin n m e =>
      let q := ratio m e
      let r := roundMode q.1 q.2 (lsbFor f.p f.emin q.1 q.2) mode
      let c := codeOf f.p f.emin r
      if f.infCode ≤ c then (if sat then (f.sign n + f.infCode - 1, 0) else (f.sign n + f.infCode, vOverflow))
      else (f.sign n + c, tinyFlag f32 q.1 q.2 r.inexact)
  else
    let ef := elemFmt fmt
    let s := fun n : Bool => if n then 2 ^ ef.signAt else 0
    match v with
    | .nan _ => (if fmt = 3 then 0x7D + Config.e5m2Nan.val else 0x7F, fl)
    | .inf n => if fmt = 3 && !sat then (s n + 0x7C, 0) else (s n + ef.maxCode, 0)
    | .fin n m e =>
      let q := ratio m e
      let r := toElemSat fmt mode n q.1 q.2
      if r.2 then (if fmt = 3 && !sat then (s n + 0x7C, vOverflow) else (r.1, 0))
      else
        let inexact := (roundAt q.1 q.2 (lsbFor ef.p ef.emin q.1 q.2)).inexact
        (r.1, tinyFlag f32 q.1 q.2 inexact)

/-- sr_bits (R97). -/
def srBits (seed ctr : W64) (l : Nat) : Nat :=
  let z : W64 := seed + BitVec.ofNat 64 (l * 2 ^ 40) + ctr * 0x9E3779B97F4A7C15
  let z := (z ^^^ (z >>> 30)) * 0xBF58476D1CE4E5B9
  let z := (z ^^^ (z >>> 27)) * 0x94D049BB133111EB
  let z := z ^^^ (z >>> 31)
  z.toNat % 2 ^ 32

/-! ### Block reduction (R86) -/

/-- One product of a k-block: its sign, magnitude and exponent, before the block scales. -/
def prodOf (a b : Val) : Int × Int :=
  match a, b with
  | .fin na ma ea, .fin nb mb eb => (signed (na != nb) (ma * mb), ea + eb)
  | _, _ => (0, 0)

/-- close_kblock (R86): `acc` and the result are FP32 codes, `sa` and `sb` E8M0 codes. -/
def closeKblock (acc : Nat) (a b : List Val) (sa sb : Nat) : Nat :=
  let va := f32.decode acc
  let ab := a.zip b
  if sa = 255 || sb = 255 || va.isNan then qnan32
  else if ab.any fun x => x.1.isNan || x.2.isNan || (x.1.isInf && x.2.isZero) || (x.1.isZero && x.2.isInf) then qnan32
  else
    let infs := ab.filter fun x => x.1.isInf || x.2.isInf
    let pos := infs.any fun x => x.1.neg? == x.2.neg?
    let neg := infs.any fun x => x.1.neg? != x.2.neg?
    if pos && neg then qnan32
    else if pos then (if va.isInf && va.neg? then qnan32 else 0x7F800000)
    else if neg then (if va.isInf && !va.neg? then qnan32 else 0xFF800000)
    else if va.isInf then acc
    else
      let ps := (ab.map fun x => prodOf x.1 x.2).map fun p => (p.1, p.2 + (sa : Int) + sb - 254)
      let nz := ps.filter fun p => p.1 != 0
      if nz.isEmpty then acc
      else
        let top := nz.foldl (fun t p => max t ((Nat.log2 p.1.natAbs : Int) + p.2)) (-100000)
        let u := top - 58
        let q := fun p : Int × Int => (roundDown p u).1
        let s := nz.foldl (fun s p => if p.1 < 0 then s - q p else s + q p) (0 : Int)
        let sticky := nz.any fun p => (roundDown p u).2
        let accI := match va with
          | .fin n m e => (signed n m, e)
          | _ => (0, 0)
        let t := exactAdd accI.1 accI.2 (4 * s + (if sticky then (if 0 ≤ s then 1 else -1) else 0)) (u - 2)
        roundFp32 t
where
  /-- floor(|p| / 2^u), and whether anything was cut off. -/
  roundDown (p : Int × Int) (u : Int) : Int × Bool :=
    let k := p.2 - u
    if 0 ≤ k then ((p.1.natAbs * 2 ^ k.toNat : Nat), false)
    else ((p.1.natAbs / 2 ^ (-k).toNat : Nat), p.1.natAbs % 2 ^ (-k).toNat != 0)

end Sys2Proof.Machine
end

