-- ==== Sys2Proof/Machine/Girth.lean ====
section
/-! DEFINITION. The Girth (chapter 03) and the T slot of a bundle (R135, R144 to R152): stations and hops, parity, tag
checks, injection by the feeder, capture, absorption, block signals and register updates. -/

namespace Sys2Proof.Machine

/-! ### Flits -/

/-- The 21 parity bits of a flit (R63): 20 groups of 128 bits over payload and scales, then the tag. -/
def flitParity (payload : Line) (scales : Gran) (tag : BitVec 48) : BitVec 21 :=
  let x := payload.toNat + scales.toNat * 2 ^ 2048
  let low := (List.range 20).foldl (fun a i => a + b2n (xorBits 128 (x / 2 ^ (128 * i) % 2 ^ 128)) * 2 ^ i) 0
  BitVec.ofNat 21 (low + b2n (xorBits 48 tag.toNat) * 2 ^ 20)
where
  /-- The exclusive or of the low `n` bits. -/
  xorBits (n : Nat) (x : Nat) : Bool := (List.range n).foldl (fun p i => p != x.testBit i) false

/-- A flit with its parity. -/
def mkFlit (payload : Line) (scales : Gran) (tag : BitVec 48) : Flit :=
  { payload := payload, scales := scales, tag := tag, parity := flitParity payload scales tag }

def Flit.poisoned (f : Flit) : Bool := bit f.tag 3
def Flit.first (f : Flit) : Bool := bit f.tag 0
def Flit.last (f : Flit) : Bool := bit f.tag 1
def Flit.epoch (f : Flit) : BitVec 2 := f.tag.extractLsb' 4 2
def Flit.word (f : Flit) : W64 := f.tag.setWidth 64

/-- The station after a station, with the hop's cycles (R38, R39, R46). -/
def nextStation (s : State) (lane : Lane) (c : CoreIx) : Lane × CoreIx × Nat :=
  match lane with
  | .outer => if buckleBelow s c then (.inner, c, 2) else (.outer, downCore c, if c.val % 12 = 11 then 3 else 2)
  | .inner => if buckleBelow s (upCore c) then (.outer, c, 2) else (.inner, upCore c, if c.val % 12 = 0 then 3 else 2)

/-- The flit a reader at a station takes in the current cycle: an injected one, else the one that was there (R57). -/
def stationFlit (s : State) (lane : Lane) (c : CoreIx) : Option OnGirth :=
  let here := s.flits.filter fun g => g.lane == lane && g.core == c && g.at_ == ecyc s c
  match here.find? fun g => !g.absorbed with
  | some g => some g
  | none => here.head?

/-- A flit whose hop ends in the current cycle, or has ended. -/
def hopDue (s : State) (g : OnGirth) : Bool :=
  !g.absorbed && timedEnabled s g.core && decide (g.at_ + (nextStation s g.lane g.core).2.2 ≤ ecyc s g.core)

/-- No flit is still to arrive at a station in the current cycle. -/
def arrived (s : State) (lane : Lane) (c : CoreIx) : Bool :=
  !s.flits.any fun g => hopDue s g && (let n := nextStation s g.lane g.core; n.1 == lane && n.2.1 == c)

/-- A feeder job of a core that places a flit on a lane in the current block cycle. -/
def injectDue (s : State) (c : CoreIx) (lane : Lane) : Bool :=
  match blockNow s c with
  | none => false
  | some (b, t) => b.feeds.any fun f => f.lane == lane && decide (f.placed < f.nf) && f.placeAt f.placed == t

/-- A station whose arrival and injection of the cycle are over. -/
def stationSettled (s : State) (lane : Lane) (c : CoreIx) : Bool := arrived s lane c && !injectDue s c lane

/-! ### Girth failures (R56, R60 to R62) -/

/-- A Girth failure of the running block at block cycle `t`: the first one is the block's own, with its event, and is
latched unless an earlier latch stands; every later one counts. DESIGN CHOICE (log 96): of several that are first in one cycle the
latch and the event describe the one commanded first (the information word takes the lowest REASON), and a block's first tag
mismatch sets TAG_FAULT also where a SLOT_CONFLICT came before it. -/
def girthFail (c : CoreIx) (t : Nat) (reason : Nat) (expect observed : BitVec 48) (lane : Lane) (empty : Bool) (s : State) :
    State :=
  let x := s.cores[c]
  match x.blk with
  | none => s
  | some b =>
    let slot := reason = 9
    let inf : W16 := BitVec.ofNat 16 (reason + 16 * laneN lane)
    let setBits := fun g : GirthRegs =>
      if slot then { g with slotFault := true, slotFaultAt := s.time.cycle + 1 }
      else if b.tagSeen then g else { g with tagFault := true, tagFaultAt := s.time.cycle + 1 }
    let count := fun g : GirthRegs => { g with mismatch := satInc g.mismatch }
    let latch := fun g : GirthRegs =>
      if g.tagFault || g.slotFault then count g
      else { g with reason := BitVec.ofNat 4 reason, faultCycle := BitVec.ofNat 32 t, expect := expect, observed := observed,
                    lane := lane == .inner, empty := empty }
    let mark := fun b : Block => { b with tagSeen := b.tagSeen || !slot }
    match b.girthFault with
    | none =>
      let s := record s (0x2000 + reason) error c.val expect.toNat (observed.toNat % 2 ^ 32) (observed.toNat / 2 ^ 32)
      modCore s c fun x => { x with girth := setBits (latch x.girth),
                                    blk := some (mark { b with girthFault := some (t, inf) }) }
    | some (t0, w) =>
      let own := if t0 = t && reason < w.toNat % 16 then inf else w
      modCore s c fun x => { x with girth := setBits (count x.girth),
                                    blk := some (mark { b with girthFault := some (t0, own) }) }

/-- What a consumer expects of ordinal `i` of `n` (R60), as a tag; the injector field as the register holds it. DESIGN CHOICE
(log 96): the LANE and POISON bits, of which the expectation says nothing, are 0. -/
def expectTag (x : W64) (epoch : BitVec 2) (i n f : Nat) : BitVec 48 :=
  let ep := if trPrev x then epoch - 1 else epoch
  let flags := (if i % f = 0 then 1 else 0) + (if i + 1 = n && trEnds x then 2 else 0)
  BitVec.ofNat 48 (trInjector x * 2 ^ 40 + trStream x * 2 ^ 34 + trTile x * 2 ^ 22 + (trKblock x + i / f) % 4096 * 2 ^ 10
    + trFormat x * 2 ^ 6 + ep.toNat * 16 + flags)

/-- The REASON of a mismatch between a flit and an expectation (R61): the lowest that applies; 0 for a match. `kb` and
`fl` say whether KBLOCK and FLAGS are compared. -/
def tagReason (x : W64) (e : BitVec 48) (fl : Option Flit) (full : Bool) : Nat :=
  match fl with
  | none => 1
  | some f =>
    let w := f.word
    let v : W64 := e.setWidth 64
    if f.epoch != e.extractLsb' 4 2 then 2
    else if trFormat w != trFormat v then 3
    else if trStream w != trStream v then 4
    else if trTile w != trTile v then 5
    else if full && trKblock w != trKblock v then 6
    else if !trAny x && trInjector w != trInjector v then 7
    else if full && (f.first != bit e 0 || f.last != bit e 1) then 8
    else 0

/-! ### T-slot issue -/

/-- A command for the T slot of the bundle that issues in this cycle: its effect where the bundle holds it. -/
def issueT (c : CoreIx) (w : BitVec 40) (s : State) (f : Block → Nat → State → State) : Out :=
  match bundleNow s c with
  | none => .next s
  | some (b, t, bu) =>
    if slotT bu = w && b.tUsed != some t then
      .next (f b t (modCore s c fun x => x.modBlk fun b => { b with tUsed := some t }))
    else .next s

def pushUpdT (c : CoreIx) (us : List RegUpd) (s : State) : State :=
  modCore s c fun x => x.modBlk fun b => { b with updT := b.updT ++ us }

/-- The XU update of an instruction's tag registers (R143). -/
def xuUpd (xu : BitVec 2) (rs : List (Fin 8)) (kblocks : Nat) : List RegUpd :=
  rs.flatMap fun r => if xu = 1 then [.kblock r kblocks] else if xu = 2 then [.nextTile r] else []


def execTnop (c : CoreIx) (s : State) : Out := issueT c 0 s fun _ _ s => s

/-! ### Injection (R53 to R56, R145 to R148) -/


def execGinj (c : CoreIx) (g : GinjFields) (s : State) : Out :=
  issueT c (encGinj g) s fun b t s =>
    let tr := b.tr[g.tr]
    let fmt := trFormat tr
    let nf := nfOf g.nf
    let job := mkFeed b t g
    let s := if ginjBad g.fp32 fmt then record s 0x2310 error c.val t 0 0 else s
    let sb := if ginjBad g.fp32 fmt then 0 else feedScaleBytes g.trans g.fp32 fmt nf
    let au := if g.au then
        [RegUpd.baAdd g.ba (feedBytes g.trans g.fp32 fmt nf)] ++ (if sb = 0 then [] else [RegUpd.baAdd (regNext g.ba) sb])
      else []
    pushUpdT c (au ++ xuUpd g.xu [g.tr] (nf / feedF g.fp32 fmt))
      (modCore s c fun x => x.modBlk fun b => { b with feeds := b.feeds ++ [job] })

/-- The byte address of element `k` of column `j` of a transposed or FP32 source (R146). -/
def Feed.elemAddr (f : Feed) (k j : Nat) : Nat × Nat :=
  let fmt := trFormat f.tagReg
  let base := align64 f.base
  let w := if f.fp32 then 32 else elemBits fmt
  if f.trans then
    let a := base + 64 * sqLine f.fp32 fmt * (k / 64) + sqLine f.fp32 fmt * j
    ((a + k % 64 * w / 8) % 2 ^ 22, k % 64 * w % 8)
  else
    let g := feedG f.fp32 fmt
    ((base + 256 * g * (k / g) + 4 * g * j + 4 * (k % g)) % 2 ^ 22, 0)

/-- The element's raw bits as the feeder has read them; zero beyond NF (R145). -/
def Feed.elemRaw (f : Feed) (k j : Nat) : Nat :=
  let fmt := trFormat f.tagReg
  if f.nf * feedG f.fp32 fmt ≤ k then 0
  else
    let a := f.elemAddr k j
    leNat (readBytes f.buf a.1 4) / 2 ^ a.2 % 2 ^ (if f.fp32 then 32 else elemBits fmt)

def Feed.elemPoison (f : Feed) (k j : Nat) : Bool :=
  decide (k < f.nf * feedG f.fp32 (trFormat f.tagReg)) && f.bufPoison.contains ((f.elemAddr k j).1 / 64)

/-- The FP32 value a quantising job converts: the master itself, or an MX element times its block scale (R54). -/
def Feed.fpVal (f : Feed) (k j : Nat) : Nat :=
  if f.fp32 then f.elemRaw k j
  else if f.nf * feedG f.fp32 (trFormat f.tagReg) ≤ k then 0
  else
    let fmt := trFormat f.tagReg
    let sa := (align64 f.scaleBase + 128 * (k / 64) + 2 * (k % 64) + j / 32) % 2 ^ 22
    let sc := (readByte f.buf sa).toNat
    if sc = 255 then qnan32
    else match decodeElem fmt (f.elemRaw k j) with
      | .nan _ => qnan32
      | .inf n => f32.sign n + 0x7F800000
      | .fin n m e => (f32.deliverInt (signed n m, e + sc - 127) n).1

/-- Packs column codes into a payload (R41). -/
def packFlit (fmt : Nat) (codes : Nat → Nat → Nat) : Line :=
  let cb := if fmt = 6 || fmt = 7 then 24 else 32
  let g := fmtG fmt
  BitVec.ofNat 2048 ((List.range 64).foldl (fun a j =>
    (List.range g).foldl (fun a i => a + codes j i % 2 ^ elemBits fmt * 2 ^ (cb * j + elemBits fmt * i)) a) 0)

/-- What a job makes of flit `i`: payload, scale field, poison, saturated elements, NaN blocks (R41, R54, R90 to R92,
R145 to R147). -/
def Feed.build (f : Feed) (i : Nat) : Line × Gran × Bool × Nat × Nat :=
  let fmt := trFormat f.tagReg
  let fl := feedF f.fp32 fmt
  let g := feedG f.fp32 fmt
  let first := i % fl = 0
  if ginjBad f.fp32 fmt then (0, 0, true, 0, 0)
  else if f.trans = false && f.fp32 = false then
    let a := (align64 f.base + 256 * i) % 2 ^ 22
    let n := if fmt = 6 || fmt = 7 then 192 else 256
    let sa := (align64 f.scaleBase + 64 * (i / fl)) % 2 ^ 22
    let sc := isMx fmt && first
    (BitVec.ofNat 2048 (leNat (readBytes f.buf a n)),
     if sc then BitVec.ofNat 512 (leNat (readBytes f.buf sa 64)) else 0,
     (granules a 256).any f.bufPoison.contains || (sc && f.bufPoison.contains (sa / 64)), 0, 0)
  else if !isMx fmt then
    if f.fp32 then
      let q := fun j e => fp8Inject fmt (f.elemRaw (g * i + e) j)
      let cells := (List.range 64).flatMap fun j => (List.range g).map fun e => (j, e)
      (packFlit fmt fun j e => (q j e).1, 0, cells.any fun c => f.elemPoison (g * i + c.2) c.1,
       (cells.filter fun c => (q c.1 c.2).2).length, 0)
    else
      let cells := (List.range 64).flatMap fun j => (List.range g).map fun e => (j, e)
      (packFlit fmt fun j e => f.elemRaw (g * i + e) j, 0, cells.any fun c => f.elemPoison (g * i + c.2) c.1, 0, 0)
  else
    let b := i / fl
    let blk := fun j => quantiseMx fmt ((List.range 32).map fun k => f.fpVal (32 * b + k) j) fun _ => .rne
    let cols := List.range 64
    let pois := cols.any fun j => (List.range 32).any fun k => f.elemPoison (32 * b + k) j
    let spois := !f.fp32 && f.bufPoison.contains ((align64 f.scaleBase + 128 * (b / 2) + 64 * (b % 2)) % 2 ^ 22 / 64)
    (packFlit fmt fun j e => (blk j).2.1.getD (g * (i % fl) + e) 0,
     if first then BitVec.ofNat 512 (cols.foldl (fun a j => a + (blk j).1 * 2 ^ (8 * j)) 0) else 0, pois || spois,
     if first then cols.foldl (fun a j => a + (blk j).2.2) 0 else 0,
     if first then (cols.filter fun j => (blk j).1 == 255).length else 0)

/-- The tag of flit `i` of a job placed under a Girth epoch (R145). -/
def Feed.tag (f : Feed) (c : CoreIx) (epoch : BitVec 2) (i : Nat) : BitVec 48 :=
  let fmt := trFormat f.tagReg
  let fl := feedF f.fp32 fmt
  BitVec.ofNat 48 (c.val * 2 ^ 40 + trStream f.tagReg * 2 ^ 34 + trTile f.tagReg * 2 ^ 22
    + (trKblock f.tagReg + i / fl) % 4096 * 2 ^ 10 + fmt * 2 ^ 6 + epoch.toNat * 16
    + (if i % fl = 0 then 1 else 0) + (if i + 1 = f.nf && trEnds f.tagReg then 2 else 0) + 4 * laneN f.lane)

/-- The T slot of the current bundle absorbs at a station and has not issued yet (R57: absorption comes first). -/
def sinkPending (s : State) (c : CoreIx) (lane : Lane) : Bool :=
  match bundleNow s c with
  | none => false
  | some (b, t, bu) =>
    let w := (slotT bu).toNat
    b.tUsed != some t && (w / 2 ^ 35 == 3 || (w / 2 ^ 35 == 2 && w / 2 ^ 27 % 2 == 1)) && w / 2 ^ 34 % 2 == laneN lane

/-- Whether a feeder job has read a granule whose data has arrived by block cycle `t`, 6 cc after the read (R170, log 32). -/
def Feed.hasRead (f : Feed) (t g : Nat) : Bool :=
  (List.range (t - f.issued - 5)).any fun j => (f.readsAt j).any fun r => r.1 / 64 == g

/-- A feeder job after the check of what it has read: a word found uncorrectable poisons what is built from its granule (R172). -/
def Feed.checked (f : Feed) (t : Nat) (found : Finds) : Feed :=
  { f with bufPoison := (found.filterMap fun q =>
      if q.2 = .uncorrectable && f.hasRead t (q.1 / 64) then some (q.1 / 64) else none) ++ f.bufPoison }

def execFlitInject (c : CoreIx) (lane : Lane) (found : Finds) (s : State) : Out :=
  match blockNow s c with
  | none => .next s
  | some (b, t) =>
    match b.feeds.find? fun f => f.lane == lane && decide (f.placed < f.nf) && f.placeAt f.placed == t with
    | none => .next s
    | some f =>
      if !arrived s lane c || sinkPending s c lane then .next s
      else
        let f' := f.checked t found
        let r := f'.build f.placed
        let s := applyFinds c f.agent (f.hasRead t) found s
        let x := s.cores[c]
        let tag := setBit (f.tag c x.epoch f.placed) 3 r.2.2.1
        let next := { f' with placed := f.placed + 1 }
        let s := modCore s c fun x =>
          { (x.modBlk fun b => { b with
              lastEvent := t,
              feeds := b.feeds.flatMap fun h => if h = f then (if next.placed = f.nf then [] else [next]) else [h] }) with
            qsat := satAdd x.qsat r.2.2.2.1, qnan := satAdd x.qnan r.2.2.2.2 }
        match s.flits.find? fun g => g.lane == lane && g.core == c && g.at_ == ecyc s c && !g.absorbed with
        | some g => .next (girthFail c t 9 tag g.flit.tag lane false s)
        | none => .next { s with flits := s.flits ++
            [{ lane := lane, core := c, at_ := ecyc s c, absorbed := false, flit := mkFlit r.1 r.2.1 tag }] }

/-! ### Hops and absorption (R39, R58, R63) -/

/-- A flit with upset bits, checked for parity at a station: POISON set with the tag's parity renewed, or as it is. -/
def stationCheck (f : Flit) (upset : BitVec 2608) : Flit × Bool :=
  let g : Flit := { f with payload := f.payload ^^^ upset.setWidth 2048, scales := f.scales ^^^ upset.extractLsb' 2048 512,
                           tag := f.tag ^^^ upset.extractLsb' 2560 48 }
  if flitParity g.payload g.scales g.tag = g.parity then (g, false)
  else
    let t := setBit g.tag 3 true
    ({ g with tag := t, parity := setBit g.parity 20 (bit (flitParity g.payload g.scales t) 20) }, true)

def execFlitHop (lane : Lane) (c : CoreIx) (upset : BitVec 2608) (s : State) : Out :=
  match s.flits.find? fun g => g.lane == lane && g.core == c && hopDue s g with
  | none => .next s
  | some g =>
    let n := nextStation s lane c
    let r := stationCheck g.flit upset
    let own := trInjector r.1.word == n.2.1.val && bit r.1.tag 2 == (n.1 == .inner)
    let h : OnGirth := { lane := n.1, core := n.2.1, at_ := ecyc s n.2.1, absorbed := own, flit := r.1 }
    let s := actAdd (actOf (sectorOf c)) (fun a => { a with hops := a.hops + 1 }) { s with flits := s.flits.erase g ++ [h] }
    .next (if r.2 then record s (0x2100 + laneN n.1) error n.2.1.val 0 0 0 else s)

/-- Takes the flit at a station off the lane in the current cycle (R58). -/
def absorbAt (c : CoreIx) (lane : Lane) (s : State) : State :=
  { s with flits := s.flits.map fun g =>
      if g.lane = lane && g.core = c && g.at_ = ecyc s c then { g with absorbed := true } else g }

def execGsink (c : CoreIx) (station : Lane) (s : State) : Out :=
  if arrived s station c then
    issueT c (encT 3 (laneN station * 2 ^ 34)) s fun _ t s =>
      absorbAt c station (modCore s c fun x => x.modBlk fun b => { b with lastEvent := max b.lastEvent t })
  else .next s

/-! ### Capture (R149) -/

/-- The captured flit's writes, three cycles on, and the effects of the tag check. DESIGN CHOICE (log 96): the expected tag that a
failure latches shows FIRST 1 and the register's KBLOCK, which a capture does not compare. -/
def capture (c : CoreIx) (g : GcapFields) (b : Block) (t : Nat) (s : State) : State :=
  let fl := (stationFlit s g.station c).map (·.flit)
  let x := s.cores[c]
  let exp := expectTag b.tr[g.tr] x.epoch 0 0 1
  let found := if g.chk then tagReason b.tr[g.tr] exp fl false else 0
  let reason := if x.girth.tagCheck then found else 0
  let takesScales := g.cs && match fl with
    | some f => f.first
    | none => false
  let pois := reason != 0 || match fl with
    | some f => f.poisoned
    | none => false
  let mk := fun (r : Fin 16) (v : Line) (n : Nat) =>
    ({ due := t + 3, agent := 7, issued := t, part := if n = 64 then 1 else 0, addr := align64 b.ba[r], line := v, len := n,
       poison := if pois then 15 else 0 } : BlockWrite)
  let ws := match fl with
    | none => []
    | some f => [mk g.ba f.payload 256] ++ (if takesScales then [mk (regNext g.ba) (f.scales.setWidth 2048) 64] else [])
  let s := if found = 0 then s
    else if reason = 0 then modCore s c fun x => { x with girth := { x.girth with mismatch := satInc x.girth.mismatch } }
    else girthFail c t reason exp (match fl with
      | some f => f.tag
      | none => 0) g.station fl.isNone s
  let s := modCore s c fun x => x.modBlk fun b => { b with writes := b.writes ++ ws }
  if g.au then
    pushUpdT c ([RegUpd.baAdd g.ba 256] ++ (if takesScales then [RegUpd.baAdd (regNext g.ba) 64] else [])) s
  else s

def execGcap (c : CoreIx) (g : GcapFields) (s : State) : Out :=
  if stationSettled s g.station c then issueT c (encGcap g false) s fun b t s => capture c g b t s else .next s

/-- GCAP with SINK copies the flit that was at the station, before any injection, and absorbs it (R57). -/
def execGcapS (c : CoreIx) (g : GcapFields) (s : State) : Out :=
  if arrived s g.station c then
    issueT c (encGcap g true) s fun b t s => absorbAt c g.station (capture c g b t s)
  else .next s

/-- Notes a block access to an address the task does not hold (R162): ADDRESS at block end with the agent code in
bits [10:8], the other bits free (log 2). -/
def addrError (c : CoreIx) (agent : Nat) (s : State) : State :=
  let w : W16 := (Config.free 16 s.freeCtr &&& 0xF8FF) ||| BitVec.ofNat 16 (agent * 2 ^ 8)
  modCore { s with freeCtr := s.freeCtr + 1 } c fun x => x.modBlk fun b =>
    { b with addrFault := some (b.addrFault.getD w) }

/-- A block's scratchpad write of the current cycle: it goes to the banks at the cycle's end (R161, R163), or is not
performed where the address is an error (R162). -/
def blockWrite (c : CoreIx) (agent issued part addr : Nat) (bs : List Byte) (poison : Bool) (s : State) : State :=
  if spHeld s c addr bs.length then
    modCore s c fun x => x.modSp fun p =>
      { p with staged := p.staged ++ [{ addr := addr, bytes := bs, poison := poison, agent := agent, issued := issued, part := part }] }
  else addrError c agent s

def execGcapWrite (c : CoreIx) (s : State) : Out :=
  match blockNow s c with
  | none => .next s
  | some (b, t) =>
    let ws := b.writes.filter fun w => w.agent == 7 && w.due == t
    let s := modCore s c fun x => x.modBlk fun b =>
      { b with writes := b.writes.filter fun w => !(w.agent == 7 && w.due == t), lastEvent := if ws.isEmpty then b.lastEvent else t }
    .next (ws.foldl (fun s w => blockWrite c 7 w.issued w.part w.addr (natLe w.len w.line.toNat) (w.poison != 0) s) s)

/-! ### Block signals and register updates (R151, R152, R135) -/

/-- A failed TSIG reaches the launching context at block end (R151). -/
def tsigFail (c : CoreIx) (cause : Byte) (inf : W16) (s : State) : State :=
  modCore s c fun x => x.modBlk fun b => { b with tsigFaults := b.tsigFaults ++ [(cause, inf)] }

def execTsig (c : CoreIx) (target : TsigTarget) (ctr : Byte) (n : W16) (s : State) : Out :=
  issueT c (encT 4 (targetN target * 2 ^ 33 + ctr.toNat * 2 ^ 25 + n.toNat * 2 ^ 9)) s fun b _ s =>
    let d := match target with
      | .own => (c, false, 1, (1 : BitVec 3))
      | .up => (upCore c, buckleBelow s (upCore c), 3, 3)
      | .down => (downCore c, buckleBelow s c, 3, 2)
    let inTask := match taskOn s c with
      | some (_, T) => T.hasCore d.1
      | none => false
    if !ctrHeld s c ctr.toNat then tsigFail c 0x0A (ctrInfo ctr 1 0) s
    else if !inTask || d.2.1 then tsigFail c 0x0B (routeInfo ctr (BitVec.ofNat 8 d.1.val)) s
    else if n = 0 then s
    else pushInc s { core := d.1, ctr := ctr, n := n.toNat, due := s.time.cycle + d.2.2.1, source := d.2.2.2, tsig := true,
                     fcore := c, fctx := b.ctx, fpc := b.pc }

def execTrset (c : CoreIx) (tr : Fin 8) (field : TrField) (imm : BitVec 12) (s : State) : Out :=
  issueT c (encTr 5 tr field imm) s fun _ _ s => pushUpdT c [.trSet tr field imm] s

def execTradd (c : CoreIx) (tr : Fin 8) (field : TrField) (imm : BitVec 12) (s : State) : Out :=
  issueT c (encTr 6 tr field imm) s fun _ _ s => pushUpdT c [.trAdd tr field imm] s

def execBaadd (c : CoreIx) (ba : Fin 16) (imm : W16) (s : State) : Out :=
  issueT c (encT 7 (ba.val * 2 ^ 31 + imm.toNat * 2 ^ 15)) s fun _ _ s =>
    pushUpdT c [.baAdd ba ((64 * imm.toInt) % 2 ^ 22).toNat] s

/-- A LOOP: its body is entered in the next cycle (R135). -/
def execLoop (c : CoreIx) (len : BitVec 12) (count : W16) (s : State) : Out :=
  issueT c (encT 8 (len.toNat * 2 ^ 23 + count.toNat * 2 ^ 7)) s fun _ _ s =>
    modCore s c fun x => x.modBlk fun b =>
      { b with loops := { first := b.bundle + 1, last := b.bundle + len,
                          left := if count = 0 then 65536 else count.toNat } :: b.loops }

end Sys2Proof.Machine
end

