-- ==== Sys2Proof/Machine/Network.lean ====
section
/-! DEFINITION. The bulk network (R13, R15): where the cores and the stack ports lie in the mesh, the route between them and its
time, and the crossing of a port region's FIFOs (R359). -/

namespace Sys2Proof.Machine

/-- The four local orders of R13. -/
inductive LocalOrder where
  | s | c | h | g
deriving DecidableEq, Repr

/-- Grid column and row of a sector, its order, and its mirrors in u and v (tables of R13). -/
def sectorPlace : SecIx → Nat × Nat × LocalOrder × Bool × Bool
  | ⟨0, _⟩ => (0, 0, .c, false, false)
  | ⟨1, _⟩ => (1, 0, .s, false, true)
  | ⟨2, _⟩ => (2, 0, .s, false, false)
  | ⟨3, _⟩ => (3, 0, .c, false, false)
  | ⟨4, _⟩ => (3, 1, .s, true, false)
  | ⟨5, _⟩ => (3, 2, .h, false, false)
  | ⟨6, _⟩ => (2, 2, .g, false, false)
  | ⟨7, _⟩ => (2, 1, .s, true, true)
  | ⟨8, _⟩ => (1, 1, .s, true, false)
  | ⟨9, _⟩ => (1, 2, .h, false, false)
  | ⟨10, _⟩ => (0, 2, .g, false, false)
  | _ => (0, 1, .s, true, true)

/-- (u, v) by local index (table of R13). -/
def localOrder : LocalOrder → List (Nat × Nat)
  | .s => [(0, 0), (1, 0), (2, 0), (3, 0), (3, 1), (2, 1), (1, 1), (0, 1), (0, 2), (1, 2), (2, 2), (3, 2)]
  | .c => [(0, 2), (0, 1), (0, 0), (1, 0), (1, 1), (1, 2), (2, 2), (2, 1), (2, 0), (3, 0), (3, 1), (3, 2)]
  | .h => [(0, 0), (1, 0), (2, 0), (3, 0), (3, 1), (3, 2), (2, 2), (2, 1), (1, 1), (1, 2), (0, 2), (0, 1)]
  | .g => [(3, 1), (3, 2), (2, 2), (2, 1), (1, 1), (1, 2), (0, 2), (0, 1), (0, 0), (1, 0), (2, 0), (3, 0)]

/-- The grid position (x, y) of a core (R13). -/
def corePos (c : CoreIx) : Nat × Nat :=
  let p := sectorPlace (sectorOf c)
  let q := (localOrder p.2.2.1).getD (c.val % 12) (0, 0)
  let u := if p.2.2.2.1 then 3 - q.1 else q.1
  let v := if p.2.2.2.2 then 2 - q.2 else q.2
  (4 * p.1 + u, 3 * p.2.1 + v)

/-- Cycles of a straight run from `a` to `b` along an axis whose sectors are `w` wide: a hop is 2 cc, one across a sector boundary 3 cc. -/
def runCost (w a b : Nat) : Nat :=
  let lo := min a b
  let hi := max a b
  2 * (hi - lo) + (hi / w - lo / w)

/-- Cycles of the dimension-ordered route, x first and then y (R15): the hops of an axis cost the same wherever it is travelled. -/
def routeCost (a b : Nat × Nat) : Nat := runCost 4 a.1 b.1 + runCost 3 a.2 b.2

/-- The four attachments of a stack port: the routers of its sector's middle row. -/
def attachments (p : SecIx) : List (Nat × Nat) :=
  let q := sectorPlace p
  (List.range 4).map fun u => (4 * q.1 + u, 3 * q.2.1 + 1)

/-- Cycles between a core and a stack port over the mesh: by the attachment that is nearest (DESIGN CHOICE, log 99). -/
def portCost (c : CoreIx) (p : SecIx) : Nat :=
  (attachments p).foldl (fun n a => min n (routeCost (corePos c) a)) 64

/-- The clock region of a stack port (R354). -/
def portRegion (p : SecIx) : Fin 29 := ⟨12 + p.val, by omega⟩

/-- The port cycles lost to stretches so far: those of the last one fall evenly over its length (R358). -/
def Region.lostBy (x : Region) (ns : Nat) : Nat := x.lost + x.slow.2.2 * min (ns - x.slow.1) x.slow.2.1 / max 1 x.slow.2.1

/-- The oscillator of a region is stretched at a moment (R358). -/
def Region.stretched (x : Region) (ns : Nat) : Bool := decide (ns < x.slow.1 + x.slow.2.1)

/-- The port cycles that have passed: 2 for each ns, less those lost to stretches (R358). -/
def pcNow (s : State) (p : SecIx) : Nat := 2 * nsNow s - s.regions[portRegion p].lostBy (nsNow s)

/-- Core cycles that cover `n` cycles of a port's clock as it runs: 2.0 GHz, less what a stretch takes (R358, R359). -/
def ccOfPc (s : State) (p : SecIx) (n : Nat) : Nat :=
  let x := s.regions[portRegion p]
  if x.stretched (nsNow s) then
    let rate := 20 * (2 * x.slow.2.1 - x.slow.2.2)
    (n * bpf s.power.coreStep * x.slow.2.1 + rate - 1) / rate
  else (n * bpf s.power.coreStep + 39) / 40

/-- Core cycles that cover `n` hub cycles of 1.00 or 0.80 GHz (R354). -/
def ccOfHub (s : State) (n : Nat) : Nat := (n * bpf s.power.coreStep * (if s.power.hubStep then 4 else 5) + 79) / 80

/-- The first cycle in which a request of core `c` can be at stack port `p`, and in which the port's response can be at the core: the
route, and a FIFO crossing of two cycles of the writing clock and three of the reading one (R359). -/
def requestDue (s : State) (c : CoreIx) (p : SecIx) : Nat := s.time.cycle + portCost c p + 2 + ccOfPc s p 3
def responseDue (s : State) (c : CoreIx) (p : SecIx) : Nat := s.time.cycle + portCost c p + 3 + ccOfPc s p 2

/-- The first cycle in which a request of the hub or of an engine can be at a stack port: the crossing into its region from the hub's
clock (R359). What it takes in the mesh before is not given (log 99). -/
def hubDue (s : State) (p : SecIx) : Nat := s.time.cycle + ccOfHub s 2 + ccOfPc s p 3

end Sys2Proof.Machine
end

