-- ==== Sys2Proof/Machine/Fabric.lean ====
section
/-! DEFINITION. The device address space (R285, R286), stacked memory with its poison (R287, R288), and the ways a
request leaves for it: stack ports, the stash (R232 to R234), the slow tier (R299 to R304, R256), remote devices (R319 to R323). -/

namespace Sys2Proof.Machine

/-- The task holds a slot that is neither free nor already ended. -/
def Task.live (x : Task) : Bool := x.st != .free && x.st != .done && x.st != .faulted

/-! ### Configuration in force (R398) -/

/-- The staged set a unit has in force, by its number under CFG_UNIT_SEL. -/
def cfgOf (s : State) (u : Fin 36) : Staged := s.staging.unit[u]

def portUnit (p : SecIx) : Fin 36 := ⟨p.val, by omega⟩
def linkUnit (p : Fin 8) : Fin 36 := ⟨12 + p.val, by omega⟩
def coreUnit (p : SecIx) : Fin 36 := ⟨24 + p.val, by omega⟩

/-- Bits [h:l] of a register word. -/
def bitsOf (x : W32) (l n : Nat) : Nat := x.toNat / 2 ^ l % 2 ^ n

/-- A limit for which 0 is treated as 1. -/
def atLeast1 (n : Nat) : Nat := if n = 0 then 1 else n

/-! ### Stacked memory (R287, R288) -/

/-- The 32 B words a range touches. -/
def words32 (a n : Nat) : List Nat := if n = 0 then [] else (List.range ((a + n - 1) / 32 - a / 32 + 1)).map fun i => a / 32 + i

/-- The poisoned words of a range. -/
def poisonedWords (s : State) (a n : Nat) : List Nat := (words32 a n).filter fun w => tget false s.dramPoison w

/-- What a write of `n` bytes at `a` leaves of a range of free bytes. -/
def Loose.cut (a n : Nat) (x : Loose) : List Loose :=
  [{ x with len := min x.len (a - x.base) },
   { base := max x.base (a + n), len := x.base + x.len - max x.base (a + n), salt := x.salt + (max x.base (a + n) - x.base) }].filter
    fun y => y.len != 0

/-- The bytes of a range become free values (R269; log 114). -/
def loosen (a n : Nat) (s : State) : State :=
  { s with loose := s.loose.flatMap (Loose.cut a n) ++ (if n = 0 then [] else [{ base := a, len := n, salt := s.freeCtr }])
           freeCtr := s.freeCtr + n }

/-- A byte of stacked memory. -/
def dramByte (s : State) (a : Nat) : Byte :=
  match s.loose.find? fun x => decide (x.base ≤ a) && decide (a < x.base + x.len) with
  | some x => Config.free 8 (x.salt + (a - x.base))
  | none => readByte s.dram a

/-- The bytes of a range of stacked memory. -/
def dramBytes (s : State) (a n : Nat) : List Byte := if s.loose.isEmpty then readBytes s.dram a n else (List.range n).map fun i => dramByte s (a + i)

/-- A write to stacked memory: bytes, and each touched word's poison as R288 gives from `pois`, the poison of the data
by word number. -/
def dramWrite (a : Nat) (bs : List Byte) (pois : Nat → Bool) (s : State) : State :=
  let ws := words32 a bs.length
  let s := { s with
    dram := writeBytes s.dram a bs
    loose := s.loose.flatMap (Loose.cut a bs.length)
    dramPoison := ws.foldl (fun t w =>
      let whole := decide (a ≤ 32 * w) && decide (32 * w + 32 ≤ a + bs.length)
      tset false t w (pois w || (!whole && tget false t w))) s.dramPoison }
  ws.foldl (fun s w => if pois w then modPort s (stackOf (32 * w)) fun p => { p with poisonWrites := satInc p.poisonWrites } else s) s

/-- A read of stacked memory counts each poisoned word it meets. -/
def countPoison (a n : Nat) (s : State) : State :=
  (poisonedWords s a n).foldl (fun s w => modPort s (stackOf (32 * w)) fun p => { p with poisonReads := satInc p.poisonReads }) s

/-- What the check of the word at `a` finds (R287); a word already poisoned is recognised as poison. -/
def dramEcc (a : Nat) (e : Ecc) (s : State) : State :=
  let p := stackOf a
  if tget false s.dramPoison (a / 32) then s
  else match e with
    | .clean => s
    | .corrected =>
      record (modPort s p fun x => { x with ce := satInc x.ce }) 0x3001 notice p.val (a / 32 * 32) (channelOf a) 0
    | .uncorrectable =>
      let s := { s with dramPoison := tset false s.dramPoison (a / 32) true }
      let s := modPort s p fun x =>
        let x := { x with ue := satInc x.ue }
        if x.ueLatched then { x with ueLatchedAt := s.time.cycle + 1 }
        else { x with ueLatched := true, ueLatchedAt := s.time.cycle + 1, ueChannel := BitVec.ofNat 6 (channelOf a), ueAddr := BitVec.ofNat 64 (a / 32 * 32) }
      record s 0x3002 error p.val (a / 32 * 32) (channelOf a) 0

/-- The check of every word of a range that is read: what is already poison counts as a read of it, the others as they are found
(R287). -/
def checkWords (ws : List Nat) (found : Finds) (s : State) : State :=
  ws.foldl (fun s w => match found.find? fun f => f.1 / 32 == w with
    | some f => dramEcc (32 * w) f.2 (countPoison (32 * w) 32 s)
    | none => countPoison (32 * w) 32 s) s

/-- A line of the CXL.mem window that the host may cache is snooped out before a device agent's access (R307). -/
def inWindow (s : State) (a : Nat) : Bool :=
  s.cxl.memEn && decide (s.cxl.hdmBase.toNat * 2 ^ 28 ≤ a)
  && decide (a < (s.cxl.hdmBase.toNat + s.cxl.hdmSize.toNat) * 2 ^ 28)

/-- The tracked lines a range touches. -/
def trackedLines (s : State) (a n : Nat) : List Nat := (granules a n).filter fun l => s.cxl.filter.contains l

/-- Sends a back-invalidation for a tracked line (R307). -/
def sendSnoop (l : Nat) (inv : Bool) (s : State) : State :=
  emit { s with cxl := { s.cxl with bisnp := satInc s.cxl.bisnp, filter := if inv then s.cxl.filter.erase l else s.cxl.filter } }
    (.bisnp l inv)

/-! ### Writes that a snapshot holds (R344) -/

/-- The run of a posted entry, of the sequencer's other work for a task by its kind, of a submission, and of a segment that this device
keeps for its guest (log 7). -/
def entryKey (t : SlotIx) (q : W32) : Nat := 16 * (16 * q.toNat + t.val)
def taskKey (t : SlotIx) (kind : Nat) : Nat := 16 * t.val + 1 + kind % 15
def submitKey : Nat := 2 ^ 50
def guestKey (id : Nat) : Nat := 2 ^ 51 + id

/-- The parts that the running snapshot captured and whose copy is still under way: direct address, length, offset in the slot. -/
def snapUnread (s : State) : List (Nat × Nat × Nat) := match s.mir.take with
  | some r => r.unread
  | none => []

/-- The 64 B granules that the running snapshot has read so far. -/
def snapRead (s : State) : List Nat := match s.mir.take with
  | some r => match s.runs.find? fun u => u.key == entryKey r.slot r.q with
    | some u => u.got.map (·.1)
    | none => []
  | none => []

/-- A range touches a byte that the snapshot has yet to read. -/
def snapHolds (s : State) (a n : Nat) : Bool :=
  (snapUnread s).any fun u => (granules a n).any fun g =>
    decide (64 * g < u.1 + u.2.1) && decide (u.1 ≤ 64 * g) && !(snapRead s).contains (64 * g)

/-- A queued write that the snapshot holds at its stack port. -/
def heldWrite (s : State) (q : Queued) : Bool := q.req.write && snapHolds s (directOf q.req.addr) q.req.data.length

/-- Of the writes held before, those that are held no longer add their time to HELD_NS (R344, R347). -/
def noteReleased (before after : State) : State := match before.mir.take with
  | none => after
  | some r =>
    let free := before.ports.toList.flatMap fun p => p.queue.filter fun q => heldWrite before q && !heldWrite after q
    { after with mir := { after.mir with
        heldNs := satAdd after.mir.heldNs ((free.map fun q => nsNow before - max r.captureFt q.came).sum) } }

/-! ### The stash (R232 to R234) -/

def stashPage : Nat := 65536

/-- Number of pages of a task's pool. -/
def Task.poolPages (t : Task) : Nat := (t.hdr.stashBytes.toNat + stashPage - 1) / stashPage

/-- The stash a stash address names: STASH_ID, page, offset within the page. -/
def stashOf (a : Nat) : Nat × Nat × Nat := (a / 2 ^ 34 % 64, a % 2 ^ 34 / stashPage, a % stashPage)

/-- The device address of a stash page, where one is allocated. -/
def Stash.lookup (x : Stash) (sid pg : Nat) : Option Nat :=
  match (x.pages ++ x.ovf).find? fun q => q.1 == sid && q.2.1 == pg with
  | some q => some q.2.2
  | none => none

/-- The lowest free page of the pool. -/
def Stash.freePage (x : Stash) (pool : Nat) : Option Nat :=
  (List.range pool).find? fun i => !x.pages.any fun q => q.2.2 == x.base.toNat + stashPage * i

/-- Allocates a page for a write: from the pool, else from the overflow region (R234). The first overflow page of a
step records a notice (a command-entry event that the manual does not code: log 109). -/
def stashAlloc (t : SlotIx) (sid pg : Nat) (s : State) : Option (Nat × State) :=
  let T := s.tasks[t]
  let x := T.stash
  match x.freePage T.poolPages with
  | some i =>
    let a := x.base.toNat + stashPage * i
    some (a, modTask s t fun T => { T with stash := { T.stash with
      pages := T.stash.pages ++ [(sid, pg, a)]
      hwm := BitVec.ofNat 24 (max T.stash.hwm.toNat (T.stash.pages.length + 1)) } })
  | none =>
    if x.ovf.length < x.ovfLimit.toNat then
      match (List.range x.ovfLimit.toNat).find? fun i => !x.ovf.any fun q => q.2.2 == x.ovfBase.toNat + stashPage * i with
      | some i =>
        let a := x.ovfBase.toNat + stashPage * i
        let s := if x.ovfNoted then s else
          let code := Config.free 16 s.freeCtr
          record { s with freeCtr := s.freeCtr + 1 } code.toNat notice t.val 0 0 0
        some (a, modTask s t fun T => { T with stash := { T.stash with ovf := T.stash.ovf ++ [(sid, pg, a)], ovfNoted := true } })
      | none => none
    else none

/-! ### Links: routing (R319 to R322) -/

/-- Coordinate `i` of a device address. -/
def coordAt (d : Nat) (i : Nat) : Nat := d / 256 ^ i % 256

/-- A device address that names a device. -/
def namesDevice (s : State) (d : W32) : Bool :=
  d.toNat / 2 ^ 24 == 0 && (List.range 3).all fun i => decide (coordAt d.toNat i < coordAt s.net.dims.toNat i)

def ownAddr (s : State) : W32 := s.net.coord.setWidth 32

def portUp (s : State) (p : Nat) : Bool :=
  if h : p < 8 then s.links[(⟨p, h⟩ : Fin 8)].st == .up else false

/-- Steps to the destination in dimension `i`: forward and backward. -/
def ringSteps (s : State) (d i : Nat) : Nat × Nat :=
  let n := coordAt s.net.dims.toNat i
  let a := coordAt s.net.coord.toNat i
  let b := coordAt d i
  ((b + n - a) % n, (a + n - b) % n)

/-- The torus port of R321; none where neither direction is UP. -/
def torusPort (s : State) (d : Nat) : Option (Fin 8) :=
  match (List.range 3).find? fun i => coordAt d i != coordAt s.net.coord.toNat i with
  | none => none
  | some i =>
    let st := ringSteps s d i
    let first := if st.1 ≤ st.2 then 2 * i else 2 * i + 1
    let other := if st.1 ≤ st.2 then 2 * i + 1 else 2 * i
    if portUp s first then some (Fin.ofNat 8 first) else if portUp s other then some (Fin.ofNat 8 other) else none

def torusHops (s : State) (d : Nat) : Nat :=
  (List.range 3).foldl (fun n i => let st := ringSteps s d i; n + min st.1 st.2) 0

/-- The port a packet leaves by (R321, R322); `express` when it came in on an express port. -/
def routePort (s : State) (d : Nat) (express : Bool) : Option (Fin 8) :=
  let thr := bitsOf (cfgOf s 21).express 0 8
  if !express && thr != 0 && decide (thr < torusHops s d) then
    let even := (coordAt d 0 + coordAt d 1 + coordAt d 2) % 2 == 0
    let first := if even then 6 else 7
    let other := if even then 7 else 6
    if portUp s first then some (Fin.ofNat 8 first) else if portUp s other then some (Fin.ofNat 8 other) else torusPort s d
  else torusPort s d

/-- LINK_EPOCH in force at a unit. -/
def linkEpoch (s : State) (u : Fin 36) : Byte := BitVec.ofNat 8 (bitsOf (cfgOf s u).epoch 0 8)

/-- A packet of this device with no payload and every other field 0 (R323). -/
def packet (s : State) (ty : Byte) (dest : W32) (tag : W16) : Packet :=
  { ptype := ty, pflags := 0, len := 0, dest := dest, src := ownAddr s, tag := tag, ver := 3, reason := 0, addr := 0,
    deadline := 0, step := 0, coll := 0, epoch := linkEpoch s 21, orig := 0, segno := 0, arg := 0, payload := [] }

/-! ### Frames (R325, R326) -/

/-- Features that both ends of a port named (R328). -/
def LinkPort.seg1k (x : LinkPort) : Bool := bit x.feats 0
def LinkPort.carriesDeadline (x : LinkPort) : Bool := bit x.feats 1
def LinkPort.checksEpoch (x : LinkPort) : Bool := bit x.feats 2

/-- A port's version allows the LEN of a packet (R328, R329). -/
def LinkPort.allows (x : LinkPort) (k : Packet) : Bool := x.seg1k || decide (k.len.toNat ≤ 256)

/-- A packet as a port sends it: VER is the port's, and a port without DEADLINE carries none (R323, R328). -/
def LinkPort.onHop (x : LinkPort) (k : Packet) : Packet :=
  { k with ver := if x.version = 2 then 2 else 3, deadline := if x.carriesDeadline then k.deadline else 0 }

/-- A frame may leave: fewer than 512 are unacknowledged, and its class has the credit (R326). -/
def LinkPort.canLeave (x : LinkPort) (k : Packet) : Bool :=
  decide (x.replay.length < 512) && decide (frameUnits k ≤ if classZero k then x.credit0 else x.credit1)

/-- The link field of frame number `n` as a port sends it now. -/
def LinkPort.linkOf (x : LinkPort) (n : W16) (k : Packet) : FrameLink :=
  sealFrame { lseq := n, ack := x.rxNext - 1, retry := false, good := true, corr := 0 } k

/-- A frame leaves: numbered, kept for replay, and charged to its class. -/
def putFrame (p : Fin 8) (k : Packet) (s : State) : State :=
  let x := s.links[p]
  let k := x.onHop k
  let s := actAdd 12 (fun a => { a with link := a.link + k.payload.length }) s
  let s := modLink s p fun x => { x with
    replay := x.replay ++ [(x.txNext, k)], txNext := x.txNext + 1
    credit0 := if classZero k then x.credit0 - frameUnits k else x.credit0
    credit1 := if classZero k then x.credit1 else x.credit1 - frameUnits k }
  emit s (.packet p (x.linkOf x.txNext k) k)

/-- Sends a packet on a port: at once where it may leave and none of its class waits, else once it can. `from_` is the port on which it
arrived, if another device sent it. -/
def sendFrame (p : Fin 8) (k : Packet) (from_ : Option (Fin 8)) (s : State) : State :=
  let x := s.links[p]
  if x.canLeave k && !(x.waiting.any fun q => classZero q.1 == classZero k) then putFrame p k s
  else modLink s p fun x => { x with waiting := x.waiting ++ [(k, from_)] }

/-- Sends a packet of this device toward its destination; none where no port leads there. -/
def sendPacket (k : Packet) (s : State) : Option State :=
  match routePort s k.dest.toNat false with
  | none => none
  | some p => some (sendFrame p k none s)

/-! ### Answers to engines (log 7) -/

/-- The parts of a range that lie in single units of `u` bytes: address and length. -/
def unitParts (u a n : Nat) : List (Nat × Nat) :=
  if n = 0 then []
  else (List.range ((a + n - 1) / u - a / u + 1)).map fun i =>
    let lo := max a ((a / u + i) * u)
    (lo, min (a + n) ((a / u + i + 1) * u) - lo)

/-- What a read of `bytes` at `a` brought, by 64 B granule, each with its poison. -/
def pieces (a : Nat) (bytes : List Byte) (poison : List Bool) : List (Nat × List Byte × Bool) :=
  (unitParts 64 a bytes.length).map fun q => (q.1, (bytes.drop (q.1 - a)).take q.2, poison.getD (q.1 / 64 - a / 64) false)

/-- Request `id` of the run with key `key` is answered; a run that waited only for its writes is over with the last. -/
def answerRun (key id : Nat) (write : Bool) (bytes : List Byte) (poison : List Bool) (s : State) : State :=
  { s with runs := s.runs.filterMap fun u =>
      if u.key != key then some u
      else match u.ids.find? fun q => q.1 == id with
        | none => some u
        | some q =>
          let v := { u with ids := u.ids.erase q, got := if write then u.got else u.got ++ pieces q.2 bytes poison }
          if v.done && v.ids.isEmpty then none else some v }

/-! ### Failure, slow tier, remote devices -/

/-- The first cycle in which the response to a stream's request can be at its core: over the mesh from the stack port that holds the
address; at once from elsewhere, whose time the manual does not give (log 99). -/
def respDue (s : State) (r : MemReq) : Nat :=
  match r.agent, spaceOf r.addr with
  | .stream _ _, none => s.time.cycle
  | .stream c _, some m => if m = .slow ∨ m = .remote then s.time.cycle else responseDue s c (stackOf (directOf r.addr))
  | _, _ => s.time.cycle

/-- A request that fails at its destination (R203): its answer is on its way back. -/
def failReq (r : MemReq) (s : State) : State :=
  match r.agent with
  | .engine key _ => answerRun key r.id r.write (List.replicate r.len 0) (List.replicate 5 true) s
  | _ => { s with resps := s.resps ++ [{ req := r, data := [], poison := [], failed := true, due := respDue s r,
                                         left := List.range (r.len / 64) }] }

def answerReq (r : MemReq) (data : List Byte) (poison : List Bool) (s : State) : State :=
  { s with resps := s.resps ++ [{ req := r, data := data, poison := poison, failed := false, due := respDue s r,
                                  left := List.range (r.len / 64) }] }

/-- The task slot on whose behalf a request is made. -/
def reqTask (s : State) (a : Agent) : Option SlotIx :=
  match a with
  | .stream c _ => s.cores[c].slot
  | .engine _ t => t
  | _ => none

/-- A slow-tier address that goes by UIO. -/
def byUio (a : Nat) : Bool := a / 2 ^ 61 % 2 == 1

/-- Whether the port has room for a request (R302). -/
def cxlRoom (s : State) (write uio : Bool) (n : Nat) : Bool :=
  let same := (s.cxl.outstanding.map Prod.fst).filter fun q => byUio q.addr == uio && (uio || q.write == write)
  if uio then decide (same.length < 256)
  else decide (same.foldl (fun a q => a + (q.len + 63) / 64) 0 + (n + 63) / 64 ≤ if write then 512 else 1024)

/-- The companion whose descriptor queue holds a UIO address (R256). -/
def companionAt (s : State) (a : Nat) : Option (Fin 8) :=
  (List.finRange 8).find? fun i =>
    let q := s.rhaor[i].queue.toNat % 2 ^ 52
    (s.rhaor[i].enable || s.rhaor[i].queue != 0) && decide (q ≤ a % 2 ^ 52) && decide (a % 2 ^ 52 < q + 2048)

/-- The FT at which deadlines are compared means something for a request: for another device's only while this device is LOCKED (R199;
log 100). -/
def rankable (s : State) (r : MemReq) : Bool := match r.agent with
  | .remote _ _ => s.time.st == .locked
  | _ => true

/-- The key by which an arbiter ranks a request: its class, and its deadline where that means something here (R199). -/
structure Key where
  cls : Nat
  known : Bool
  deadline : W32
deriving DecidableEq, Repr

/-- The key of a request under a guard (R199): class 0 for a real-time request whose deadline lies no more than the guard after FT. -/
def rankOf (s : State) (guard : Nat) (rt : Bool) (deadline : W32) (ok : Bool) : Key :=
  { cls := if ok && rt && decide ((deadline - BitVec.ofNat 32 (ftNow s)).toInt ≤ guard) then 0 else 1, known := ok, deadline := deadline }

/-- Whether a request is of class 0 under a guard (R199). -/
def classOf (s : State) (guard : Nat) (r : MemReq) : Nat := (rankOf s guard r.rt r.deadline (rankable s r)).cls

/-- One deadline is earlier than another, compared modulo 2^32 (R198). -/
def Key.sooner (a b : Key) : Bool := a.known && (!b.known || decide ((a.deadline - b.deadline).toInt < 0))

def keyBelow (a b : Key) : Bool := decide (a.cls < b.cls) || (a.cls == b.cls && a.sooner b)

/-- A message leaves the CXL port. -/
def slowEmit (m : MemReq) (s : State) : State :=
  let s := actAdd 12 (fun a => { a with cxl := a.cxl + m.len }) s
  emit { s with cxl := { s.cxl with outstanding := s.cxl.outstanding ++ [(m, s.time.cycle)],
                                    poisonOut := if m.write && m.poison.any id then satInc s.cxl.poisonOut else s.cxl.poisonOut } } (.cxl m)

/-- The message that leaves next: of those the port has room for, class 0 first, in arrival order within a class (R302). -/
def slowNext (s : State) : Option MemReq :=
  let ok := s.cxl.waiting.filter fun m => cxlRoom s m.write (byUio m.addr) m.len
  let guard := bitsOf (cfgOf s 20).arb 0 16
  match ok.find? fun m => classOf s guard m == 0 with
  | some m => some m
  | none => ok.head?

/-- Waiting messages leave while there is room. -/
def slowDrain : Nat → State → State
  | 0, s => s
  | n + 1, s => match slowNext s with
    | none => s
    | some m => slowDrain n (slowEmit m { s with cxl := { s.cxl with waiting := s.cxl.waiting.erase m } })

/-- The messages of a request: one for each whole 64 B line by CXL.cache (R300), one by UIO (R301). A line written in part is read first;
its write follows with the answer (R288, R300). -/
def slowMessages (r : MemReq) (s : State) : List MemReq :=
  let us := if byUio r.addr then [(r.addr, r.len)] else unitParts 64 r.addr r.len
  (us.zip (List.range us.length)).map fun u =>
    if byUio r.addr then { r with id := s.nextId + u.2 }
    else if r.write && u.1.2 == 64 then
      { r with id := s.nextId + u.2, addr := u.1.1, len := 64, data := (r.data.drop (u.1.1 - r.addr)).take 64
               poison := (r.poison.drop (u.1.1 / 64 - r.addr / 64)).take 1 }
    else { r with id := s.nextId + u.2, write := false, addr := u.1.1 / 64 * 64, len := 64, data := [], poison := [] }

/-- The write of a line that request `r` covers in part, once the line has been read as `bytes` (R288). -/
def mergedLine (r : MemReq) (id line : Nat) (bytes : List Byte) (poison : Bool) : MemReq :=
  { r with id := id, addr := line, len := 64
           data := (List.range 64).map fun i =>
             if r.addr ≤ line + i ∧ line + i < r.addr + r.len then r.data.getD (line + i - r.addr) 0 else bytes.getD i 0
           poison := [poison || r.poison.getD (line / 64 - r.addr / 64) false] }

/-- A slow-tier request enters the CXL port. -/
def slowGo (r : MemReq) (s : State) : State :=
  let ms := slowMessages r s
  slowDrain (s.cxl.waiting.length + ms.length)
    { s with nextId := s.nextId + ms.length
             cxl := { s.cxl with waiting := s.cxl.waiting ++ ms,
                                 slow := s.cxl.slow ++ [{ req := r, left := ms.map (·.id), got := [], failed := false }] } }

/-- Sends a slow-tier request (R299 to R302): it fails at once for a reserved address, with CXL.cache not enabled, in
68 B mode, or where R256 refuses a descriptor write. -/
def slowSend (r : MemReq) (s : State) : State :=
  let a := r.addr
  let uio := byUio a
  if a / 2 ^ 52 % 2 ^ 9 != 0 then failReq r s
  else if uio then
    if !s.cxl.uioEn then failReq r s
    else match (if r.write then companionAt s a else none) with
      | none => slowGo r s
      | some i =>
        let x := s.rhaor[i]
        let o := a % 2 ^ 52 - x.queue.toNat % 2 ^ 52
        let tag := o / 64
        if !x.enable || r.len != 64 || o % 64 != 0 || x.tags.any (fun t => t.tag == tag) then failReq r s
        else match reqTask s r.agent with
          | none => failReq r s
          | some t => slowGo r { s with rhaor := s.rhaor.set i { x with tags := x.tags ++
              [{ tag := tag, task := t, at_ := s.time.cycle, rstep := BitVec.ofNat 32 (field r.data 4 4) }] } }
  else if !s.cxl.cacheEn then failReq r s
  else slowGo r s

/-- The granules that a request covers: where they begin, and their bytes (R324). -/
def granuleSpan (r : MemReq) : Nat × Nat := (r.addr / 64 * 64, (r.addr + r.len + 63) / 64 * 64 - r.addr / 64 * 64)

/-- Sends a READ or WRITE packet of whole granules for a remote request, with a fresh tag (R320, R324). -/
def remotePacket (r : MemReq) (write : Bool) (data : List Byte) (poison : Bool) (s : State) : State :=
  let g := granuleSpan r
  let tag := s.net.nextTag
  let k := packet s (if write then 1 else 2) (BitVec.ofNat 32 (r.addr / 2 ^ 39 % 2 ^ 24)) tag
  let guard := bitsOf (cfgOf s 21).arb 0 16
  let fl := (if write && poison then 1 else 0) + (if classOf s guard r = 0 then 2 else 0)
  let k := { k with pflags := BitVec.ofNat 8 fl, len := if write then BitVec.ofNat 16 g.2 else 0,
                    addr := BitVec.ofNat 64 (g.1 % 2 ^ 39), deadline := r.deadline,
                    arg := if write then 0 else BitVec.ofNat 64 g.2, payload := data }
  match sendPacket k s with
  | none => failReq r s
  | some s => { s with net := { s.net with nextTag := tag + 1, remote := s.net.remote ++ [(tag, r, s.time.cycle)]
                                           fetching := if r.write && !write then s.net.fetching ++ [tag] else s.net.fetching } }

/-- Sends a remote request (R320): a write of part of a granule reads the granules first, and writes them whole (R324). -/
def remoteSend (r : MemReq) (s : State) : State :=
  if !namesDevice s (BitVec.ofNat 32 (r.addr / 2 ^ 39 % 2 ^ 24)) || decide (directEnd ≤ r.addr % 2 ^ 39) then failReq r s
  else if r.write && granuleSpan r == (r.addr, r.len) then remotePacket r true r.data (r.poison.any id) s
  else remotePacket r false [] false s

/-- The bytes of the granules that a write covers in part, once they have been read. -/
def mergedSpan (r : MemReq) (bytes : List Byte) : List Byte :=
  (List.range (granuleSpan r).2).map fun i =>
    let a := (granuleSpan r).1 + i
    if r.addr ≤ a ∧ a < r.addr + r.len then r.data.getD (a - r.addr) 0 else bytes.getD i 0

/-! ### Sending a request (R197, R285) -/

/-- A request sets out for its stack port over the bulk network (R15). -/
def enterMesh (r : MemReq) (s : State) : State :=
  let due := match r.agent with
    | .stream c _ => requestDue s c (stackOf (directOf r.addr))
    | _ => hubDue s (stackOf (directOf r.addr))
  let place : Fin 13 := match r.agent with
    | .stream c _ => actOf (sectorOf c)
    | _ => 12
  actAdd place (fun a => { a with bulk := a.bulk + r.len }) { s with fabric := s.fabric ++ [{ r with due := due }] }

/-- Sends a request to its region. A stash request goes to its page, allocated by a first write (R232), held where no
page is free (R234). -/
def sendReq (r : MemReq) (s : State) : State :=
  match spaceOf r.addr with
  | none => failReq r s
  | some .slow => slowSend r s
  | some .remote => remoteSend r s
  | some .stash =>
    let q := stashOf r.addr
    match reqTask s r.agent with
    | none => failReq r s
    | some t =>
      let go := fun (a : Nat) (s : State) =>
        let r := { r with addr := a + q.2.2 }
        match spaceOf r.addr with
        | some .slow => slowSend r s
        | some .remote => remoteSend r s
        | none | some .stash => failReq r s
        | some .direct | some .param | some .table => enterMesh r s
      match s.tasks[t].stash.lookup q.1 q.2.1 with
      | some a => go a s
      | none =>
        if !r.write then failReq r s
        else match stashAlloc t q.1 q.2.1 s with
          | some (a, s) => go a s
          | none => modTask s t fun T => { T with stash := { T.stash with
              held := T.stash.held ++ [{ req := r, sid := q.1, since := nsNow s }] } }
  | some _ => enterMesh r s

/-- Where a request of task `t` to an address goes: for one to the stash, its page, or the page that a first write would take. -/
def resolved (s : State) (t : Option SlotIx) (a : Nat) : Nat :=
  match spaceOf a, t with
  | some .stash, some t =>
    let q := stashOf a
    match s.tasks[t].stash.lookup q.1 q.2.1 with
    | some b => b + q.2.2
    | none => match stashAlloc t q.1 q.2.1 s with
      | some (b, _) => b + q.2.2
      | none => a
  | _, _ => a

/-- Room at the CXL port for a request that goes there (R302). -/
def portHasRoom (s : State) (a n : Nat) (write : Bool) : Bool := match spaceOf a with
  | some .slow => a / 2 ^ 52 % 2 ^ 9 != 0 || cxlRoom s write (byUio a) n
  | _ => true

/-- Whether a stream's next request can be taken: room at the CXL port, and no write of the slot held (R234, R302). -/
def canSend (s : State) (c : CoreIx) (slot : Fin 32) (a n : Nat) (write : Bool) : Bool :=
  portHasRoom s (resolved s s.cores[c].slot a) n write
  && match s.cores[c].slot with
    | some t => !s.tasks[t].stash.held.any fun h => h.req.agent == .stream c slot
    | none => true

/-- A page freed: held writes take pages in order (R234). -/
def stashResume (t : SlotIx) (s : State) : State :=
  let hs := s.tasks[t].stash.held
  let s := modTask s t fun T => { T with stash := { T.stash with held := [] } }
  hs.foldl (fun s h =>
    let q := stashOf h.req.addr
    match s.tasks[t].stash.lookup q.1 q.2.1 with
    | some _ => sendReq h.req s
    | none =>
      match stashAlloc t q.1 q.2.1 s with
      | some (_, s) => sendReq h.req s
      | none => modTask s t fun T => { T with stash := { T.stash with held := T.stash.held ++ [h] } }) s

end Sys2Proof.Machine
end

