-- ==== Sys2Proof/Machine/Run.lean ====
section
/-! DEFINITION. How an engine, a kernel or the sequencer reads and writes the device address space (log 7): its work is evaluated over
what its reads have brought; the reads it lacks leave as requests, and its effects come to pass once it lacks none. Its writes leave
as requests then, and it is over when they are answered. -/

namespace Sys2Proof.Machine

/-! ### Reads -/

/-- The bytes of a range within one granule, from what has been read. -/
def gotPiece (got : List (Nat × List Byte × Bool)) (q : Nat × Nat) : Option (List Byte × Bool) :=
  got.findSome? fun e =>
    if e.1 ≤ q.1 ∧ q.1 + q.2 ≤ e.1 + e.2.1.length then some ((e.2.1.drop (q.1 - e.1)).take q.2, e.2.2) else none

/-- Bytes at `a` as a later write of the same work leaves them: a write of the whole range brings its own poison. -/
def overlay (a : Nat) (x : List Byte × Bool) (w : Nat × List Byte × Bool) : List Byte × Bool :=
  let n := x.1.length
  if w.1 + w.2.1.length ≤ a ∨ a + n ≤ w.1 then x
  else ((List.range n).map fun i =>
      if w.1 ≤ a + i ∧ a + i < w.1 + w.2.1.length then w.2.1.getD (a + i - w.1) 0 else x.1.getD i 0,
    w.2.2 || (x.2 && !(decide (w.1 ≤ a) && decide (a + n ≤ w.1 + w.2.1.length))))

/-- A read of `n` bytes at a device address by the work in evaluation: the bytes and whether any granule is poisoned; no bytes while
some have not come. What it lacks is noted, in requests of at most 256 B (R197). -/
def devRead (a n : Nat) (s : State) : List Byte × Bool × State :=
  match s.probe with
  | none => (List.replicate n 0, false, s)
  | some p =>
    let rs := (unitParts 64 a n).map fun q => (q, gotPiece p.got q)
    let lack := (unitParts 256 a n).filter fun u => rs.any fun r => r.2.isNone && r.1.1 / 256 == u.1 / 256
    let xs := rs.map fun r => p.wrote.foldl (overlay r.1.1) (r.2.getD (List.replicate r.1.2 0, false))
    (if rs.any (·.2.isNone) then [] else xs.flatMap (·.1), xs.any (·.2), { s with probe := some { p with
      want := p.want ++ lack.filter fun u => !p.want.contains u
      rows := match p.row with
        | some x => p.rows ++ lack.map fun u => (u, x)
        | none => p.rows } })

/-- What the work in evaluation sees at a device address, and whether it is poisoned; a range that is to be seen is read first. -/
def seen (s : State) (a n : Nat) : List Byte := (devRead a n s).1
def seenPoison (s : State) (a n : Nat) : Bool := (devRead a n s).2.1
def see (a n : Nat) (s : State) : State := (devRead a n s).2.2

/-- A write of the work in evaluation, all poisoned or all not. -/
def devWrite (a : Nat) (bs : List Byte) (poison : Bool) (s : State) : State :=
  { s with probe := s.probe.map fun p => { p with wrote := p.wrote ++ [(a, bs, poison)] } }

/-- A write of one whole record through an aperture, which its stack port judges (R251, R252, R281). -/
def writeRecord (k : Alias) (a : Nat) (bs : List Byte) (poison : Bool) (s : State) : State :=
  devWrite (a + match k with
    | .param => 0x20000000000
    | .table => 0x28000000000) bs poison s

/-! ### Runs -/

/-- How an engine's requests rank (R199, R265): real-time or not, and their deadline: LK_HORIZON after the FT of issue, or that of the
packet they carry out (R329); the manual gives none for the others (log 2). -/
structure Rank where
  rt : Bool
  lookup : Bool
  deadline : Option W32 := none
deriving DecidableEq, Repr

/-- The rank of requests for which the manual gives no deadline. -/
def Rank.open_ : Rank := { rt := false, lookup := false }

/-- LK_HORIZON as staged at the stack port that holds an address; 0 is treated as 1 (R265). -/
def lkHorizon (s : State) (a : Nat) : Nat := atLeast1 (bitsOf (cfgOf s (portUnit (stackOf (directOf a)))).horizon 0 16)

/-- A run of the collective or the mirror engine, whose bytes the power model counts (R366). -/
def reqEngine (s : State) (key : Nat) : Bool :=
  s.tasks.toList.zip (List.range 16) |>.any fun x => x.1.cmd.posted.any fun e =>
    key == entryKey (Fin.ofNat 16 x.2) e.q && [5, 6, 7, 8].contains (e.words[0].toNat % 256)

/-- Sends one request of a run. -/
def runSend (key : Nat) (t : Option SlotIx) (k : Rank) (write : Bool) (a n : Nat) (data : List Byte) (poison : Bool) (s : State) : State :=
  let dl : W32 := if k.lookup then BitVec.ofNat 32 (ftNow s + lkHorizon s a) else k.deadline.getD (Config.free 32 s.freeCtr)
  let s := if k.lookup || k.deadline.isSome then s else { s with freeCtr := s.freeCtr + 1 }
  let s := if reqEngine s key then actAdd 12 (fun a => { a with engine := a.engine + n }) s else s
  let id := s.nextId
  let s := { s with nextId := id + 1, runs := s.runs.map fun u => if u.key = key then { u with ids := u.ids ++ [(id, a)] } else u }
  sendReq { id := id, agent := .engine key t, write := write, addr := a, len := n, gran := 0, data := data,
            poison := if poison then List.replicate 5 true else [], rt := k.rt, deadline := dl, snooped := false, due := 0 } s

/-- The local rows that a run has in flight on lookup engine `n` (R275). -/
def EngRun.inFlight (u : EngRun) (n : Nat) : List Nat :=
  ((u.rows.filter fun r => r.2.1 == n && u.ids.any fun q => q.1 == r.1).map (·.2.2)).eraseDups

/-- Whether a run may send one more read: of a table row, one in flight already or fewer than 256 on its engine (R275), and room at the
CXL port (R302). -/
def runRoom (s : State) (key a n : Nat) (row : Option (Nat × Nat)) : Bool :=
  (match s.runs.find? fun u => u.key == key, row with
    | some u, some r => (u.inFlight r.1).contains r.2 || decide ((u.inFlight r.1).length < 256)
    | _, _ => true)
  && portHasRoom s (resolved s ((s.runs.find? fun u => u.key == key).bind (·.t)) a) n false

def putRun (u : EngRun) (s : State) : State := { s with runs := (s.runs.filter fun v => v.key != u.key) ++ [u] }

/-- Work that lacks reads: they leave, as far as there is room; nothing else happens. -/
def runFetch (u : EngRun) (k : Rank) (p : Probe) (s : State) : State :=
  p.want.foldl (fun s q =>
    let row := (p.rows.find? fun x => x.1 == q).map (·.2)
    if runRoom s u.key q.1 q.2 row then
      let t := runSend u.key u.t k false q.1 q.2 [] false s
      match row with
      | some r => { t with runs := t.runs.map fun v => if v.key = u.key then { v with rows := v.rows ++ [(s.nextId, r)] } else v }
      | none => t
    else s) (putRun { u with rows := [] } s)

/-- The rows that work has read once more, over what its reads had brought. -/
def Probe.repeats (p : Option Probe) : List (Nat × Nat) := match p with
  | some p => p.again
  | none => []

/-- Work that lacks nothing: its effects hold in `w`, and its writes leave in requests of at most 256 B, with the reads of rows that it
has read once more. -/
def runCommit (u : EngRun) (k : Rank) (wrote : List (Nat × List Byte × Bool)) (w : State) : State :=
  let more := Probe.repeats w.probe
  let w := putRun { u with got := [], ids := [], done := true } { w with probe := none }
  let w := more.foldl (fun s q => runSend u.key u.t k false q.1 q.2 [] false s) w
  let w := wrote.foldl (fun s x => (unitParts 256 x.1 x.2.1.length).foldl (fun s q =>
    runSend u.key u.t k true q.1 q.2 ((x.2.1.drop (q.1 - x.1)).take q.2) x.2.2 s) s) w
  { w with runs := w.runs.filter fun v => !(v.key == u.key && v.ids.isEmpty) }

/-- The run of a key as it stands. -/
def runOf (s : State) (key : Nat) (t : Option SlotIx) : EngRun :=
  (s.runs.find? fun u => u.key == key).getD { key := key, t := t, got := [], ids := [], done := false }

/-- The state over which the work of a run is evaluated. -/
def probing (u : EngRun) (s : State) : State := { s with probe := some { key := u.key, got := u.got, want := [], wrote := [] } }

/-- Carries work on: nothing while requests are in flight; else the reads it lacks leave, or, where it lacks none and is `ready` with what
it has read, its effects come to pass. -/
def engineRunIf (key : Nat) (t : Option SlotIx) (k : Rank) (ready : State → Bool) (work : State → State) (s : State) : Out :=
  let u := runOf s key t
  if u.done || !u.ids.isEmpty then .next s
  else
    let w := work (probing u s)
    match w.probe with
    | none => .next s
    | some p =>
      if !p.want.isEmpty then .next (runFetch u k p s)
      else if ready (probing u s) then .next (runCommit u k p.wrote w)
      else .next s

/-- Carries work on whose readiness does not depend on what it reads. -/
def engineRun (key : Nat) (t : Option SlotIx) (k : Rank) (ready : Bool) (work : State → State) (s : State) : Out :=
  engineRunIf key t k (fun _ => ready) work s

/-- Work of a key is still under way. -/
def running (s : State) (key : Nat) : Bool := s.runs.any fun u => u.key == key

/-- Work can be carried on now: it has not begun, or what it lacks has come. -/
def runDue (s : State) (key : Nat) (t : Option SlotIx) (work : State → State) : Bool :=
  let u := runOf s key t
  !u.done && u.ids.isEmpty && (!running s key || (match (work (probing u s)).probe with
    | none => false
    | some p => p.want.isEmpty))

/-- The runs of a task end with it; their answers find no one. -/
def dropRuns (t : SlotIx) (s : State) : State := { s with runs := s.runs.filter fun u => u.t != some t }

end Sys2Proof.Machine
end

