-- ==== Sys2Proof/Machine/Hub.lean ====
section
/-! DEFINITION. What the hub reports and answers: MSI-X messages (R297), completion entries (R313), completion records
of command entries (R225, R227, R233), a task becoming FAULTED (R117, R357, R374), the answers of stacked memory to
whoever asked (R201, R203, R306, R324), and thermal shutdown (R374). -/

namespace Sys2Proof.Machine

/-- An event whose code the manual does not give: code and severity are free (log 2). -/
def recordOpen (s : State) (unit a0 a1 a2 : Nat) : State :=
  let code := Config.free 16 s.freeCtr
  let sev := Config.free 2 (s.freeCtr + 1)
  record { s with freeCtr := s.freeCtr + 2 } code.toNat sev unit a0 a1 a2

/-- Signals an MSI-X vector: a message, or its pending bit while it is masked (R297); no message without a link. -/
def msix (v : Byte) (s : State) : State :=
  if tget true s.cxl.masked v.toNat then
    { s with cxl := { s.cxl with pendingBits := tset false s.cxl.pendingBits v.toNat true } }
  else if s.cxl.linkUp then emit s (.msix v)
  else s

/-! ### Completion entries (R313) -/

/-- The vector of a completion of queue `q` whose submission named `v` (R297). -/
def vectorOf (q : Fin 8) (v : W16) : Byte := if v = 0 then BitVec.ofNat 8 (8 + q.val) else v.setWidth 8

/-- A ring of `n` entries: the index after `i`. -/
def ringNext (n : BitVec 13) (i : BitVec 12) : BitVec 12 := BitVec.ofNat 12 ((i.toNat + 1) % atLeast1 n.toNat)

def Queue.ringFull (x : Queue) : Bool := ringNext x.cqSize x.cqTail == x.cqHead

/-- Writes one completion entry and signals its vector. -/
def putCompletion (q : Fin 8) (e : Completion) (s : State) : State :=
  let x := s.queues[q]
  let n := ringNext x.cqSize x.cqTail
  let s := emit s (.completion q x.cqTail.toNat x.phase x.sqHead.toNat e)
  msix (vectorOf q e.vector) (modQueue s q fun x => { x with cqTail := n, phase := if n = 0 then !x.phase else x.phase })

/-- A completion of queue `q`: written, or held while the ring is full (R313). -/
def complete (q : Fin 8) (e : Completion) (s : State) : State :=
  let x := s.queues[q]
  if !x.enable then s
  else if x.ringFull || !x.held.isEmpty then
    modQueue s q fun x => { x with held := x.held ++ [e], full := true, fullCount := satInc x.fullCount }
  else putCompletion q e s

/-- A completion of a task (KIND of R313); a task that firmware submitted has no queue. -/
def completeTask (t : SlotIx) (kind : Byte) (s : State) : State :=
  let T := s.tasks[t]
  match T.queue with
  | none => s
  | some q => complete q { user := T.user, kind := kind, slot := BitVec.ofNat 8 t.val, reason := T.reason, vector := T.vector } s

/-- Held completions are written in order as far as the ring has room; FULL clears with the last. -/
def drainHeld (q : Fin 8) : Nat → State → State
  | 0, s => s
  | n + 1, s =>
    match s.queues[q].held with
    | [] => modQueue s q fun x => { x with full := false }
    | e :: es =>
      if s.queues[q].ringFull then s
      else drainHeld q n (putCompletion q e (modQueue s q fun x => { x with held := es, full := !es.isEmpty }))

/-! ### Completion records (R225) -/

/-- CMD_DONE advances past every finished entry of an unbroken run. -/
def advanceDone : Nat → CmdList → CmdList
  | 0, x => x
  | n + 1, x =>
    if x.posted.any fun e => e.q == x.done && e.finished then
      advanceDone n { x with done := x.done + 1, posted := x.posted.filter fun e => e.q != x.done }
    else x

/-- Every page of a stash returns (R233), and held writes take what was freed (R234). -/
def freeStash (t : SlotIx) (sid : Nat) (s : State) : State :=
  let any := (s.tasks[t].stash.pages ++ s.tasks[t].stash.ovf).any fun p => p.1 == sid
  stashResume t (modTask s t fun T => { T with stash := { T.stash with
    freedAt := if any then nsNow s else T.stash.freedAt
    pages := T.stash.pages.filter fun p => p.1 != sid, ovf := T.stash.ovf.filter fun p => p.1 != sid } })

/-- Signals the task's completion vector without a queue entry (R225, R313). -/
def taskInterrupt (t : SlotIx) (s : State) : State :=
  match s.tasks[t].queue with
  | none => s
  | some q => msix (vectorOf q s.tasks[t].vector) s

/-- Field of word 0 of a command entry (R221). -/
def wordBits (w : W64) (l n : Nat) : Nat := w.toNat / 2 ^ l % 2 ^ n

/-- The hub's write of a 16 B completion record, with the interrupt that its acknowledgment brings (R225); the manual gives the
request no deadline (log 2). -/
def sendRecord (t : SlotIx) (intr : Bool) (a : Nat) (bs : List Byte) (s : State) : State :=
  sendReq { id := s.nextId, agent := .record t intr, write := true, addr := a, len := bs.length, gran := 0, data := bs, poison := [],
            rt := false, deadline := Config.free 32 s.freeCtr, snooped := false, due := 0 }
    { s with nextId := s.nextId + 1, freeCtr := s.freeCtr + 1 }

/-- Both home slots EMPTY, with what this device's saddlebag holds; both guest slots EMPTY (R339). -/
def Mirror.emptyHome (m : Mirror) : Mirror :=
  { m with home0 := .empty, home1 := .empty, home0Step := 0, home1Step := 0, bag0Step := none, bag1Step := none }
def Mirror.emptyGuest (m : Mirror) : Mirror := { m with guest0 := .empty, guest1 := .empty, guest0Step := 0, guest1Step := 0 }

/-- An UPDATE of the task that takes snapshots completes: the step since the last one is measured, with or without a snapshot (R348). -/
def noteUpdate (step : W32) (s : State) : State :=
  let m := { s.mir with lastUpdate := some (nsNow s), lastStep := step, tookNow := false }
  { s with mir := match s.mir.lastUpdate with
    | none => m
    | some u => if s.mir.tookNow then { m with snapTime := nsNow s - u } else { m with plain := ((nsNow s - u) :: m.plain).take 8 } }

/-- Completes entry `e` of task `t` with a status: record, interrupt, FREE_STASH unless a fault aborts it, CMD_DONE (R225, R233), and
a replay check that waits for its UPDATE (R352). -/
def finishEntry (t : SlotIx) (e : Posted) (status : Byte) (s : State) : State :=
  let w := e.words[0]
  let misses := min 0xFFFF (e.reports.foldl (fun a r => a + r.misses) 0)
  let x := s.tasks[t].cmd
  let rec_ := natLe 4 e.q.toNat ++ natLe 1 (wordBits w 0 8) ++ natLe 1 status.toNat ++ natLe 2 misses ++ natLe 8 (ftNow s)
  let s := sendRecord t (bit w 17 || decide (0x80 ≤ status.toNat)) (x.cmplBase.toNat + 16 * (e.q.toNat % atLeast1 x.n)) rec_ s
  let s := if decide (0x80 ≤ status.toNat) then modCmd s t fun x => { x with lastStatus := status } else s
  let s := modCmd s t fun x =>
    let p := x.posted.map fun y => if y.q == e.q then { y with finished := true, status := some status } else y
    advanceDone (p.length + 1) { x with posted := p }
  let seen := fun v : VerifyRun =>
    if v.slot == t && wordBits w 0 8 == 3 && v.step == loW e.words[2] then { v with ready := true } else v
  let s := { s with mir := { s.mir with verify := s.mir.verify.map seen } }
  let s := if wordBits w 0 8 == 3 && s.mir.owner == some t then noteUpdate (loW e.words[2]) s else s
  if bit w 20 && status != 0x83 then freeStash t (wordBits w 24 6) s else s

abbrev Entry := Vector W64 8

def Entry.op (w : Entry) : Nat := wordBits w[0] 0 8

/-- Core entries: FWD, BWD, UPDATE, RUN, END. -/
def Entry.core (w : Entry) : Bool := [1, 2, 3, 10, 11].contains w.op

/-- The status of an entry that every executor has answered: the largest reported. An engine has answered once its writes have been. -/
def Posted.answer (e : Posted) : Option Byte :=
  match e.status with
  | some x => some x
  | none =>
    if Entry.core e.words && e.delivered && decide (e.expected ≤ e.reports.length) then
      some (e.reports.foldl (fun a r => if a.toNat < r.status.toNat then r.status else a) 0)
    else none

/-- Every posted entry that has not completed completes: with what its executors have all reported, an engine's writes being
answered, else with a status (R225, R227). `was` is the state in which their runs still stand. -/
def finishAll (t : SlotIx) (status : Byte) (was s : State) : State :=
  (s.tasks[t].cmd.posted.filter fun e => !e.finished).foldl (fun s e =>
    finishEntry t e (if running was (entryKey t e.q) then status else e.answer.getD status) s) s

/-! ### A task becomes FAULTED -/

/-- Task `t` becomes FAULTED with a REASON: its contexts hold, its posted entries complete ABORTED (R227), a snapshot of
it stops (R347), an event records it (R377), and its queue gets a completion unless `quiet` (R117, R357, R374). -/
def faultTask (t : SlotIx) (reason : Byte) (quiet : Bool) (s : State) : State :=
  let was := s
  let s := modTask s t fun x => { x with st := .faulted, reason := reason, halting := none, hold := false }
  let s := mapTaskCores s t fun c =>
    { c with pend := none, ctx := c.ctx.map fun k => if k.st = .ready then { k with st := .waiting, kind := .hold } else k }
  let s := noteReleased s (dropRuns t { s with mir := { s.mir with
    take := s.mir.take.filter fun r => r.slot != t, restore := s.mir.restore.filter fun r => r.slot != t } })
  let s := finishAll t 0x83 was s
  let s := record s reason.toNat error t.val s.tasks[t].image.toNat 0 0
  if quiet then s else completeTask t 3 s

/-! ### Answers of stacked memory -/

/-- The first port of the dimension-order route (R321), named where no port leads to a destination. -/
def wantedPort (s : State) (d : Nat) : Nat :=
  match (List.range 3).find? fun i => coordAt d i != coordAt s.net.coord.toNat i with
  | none => 0
  | some i => let r := ringSteps s d i; if r.1 ≤ r.2 then 2 * i else 2 * i + 1

/-- Sends a packet that is no request: discarded with an error event where no port leads to its destination (R321). -/
def sendOrDrop (k : Packet) (s : State) : State :=
  match sendPacket k s with
  | some s => s
  | none => record s 0x500D error (wantedPort s k.dest.toNat) 0 k.src.toNat k.ptype.toNat

/-- A guest slot's state and step (R339). -/
def setGuest (one : Bool) (st : BagState) (step : W32) (m : Mirror) : Mirror :=
  if one then { m with guest1 := st, guest1Step := step } else { m with guest0 := st, guest0Step := step }

/-- A segment for the guest region whose bytes are visible is answered; one with COMMIT commits its slot (R340, R344). -/
def ackGuest (key : Nat) (s : State) : State :=
  match s.net.acks.find? fun a => a.key == key with
  | none => s
  | some a =>
    if running s key then s
    else
      let s := { s with net := { s.net with acks := s.net.acks.erase a }
                        mir := match a.commit with
                          | some (one, step) => setGuest one .committed step s.mir
                          | none => s.mir }
      sendOrDrop (packet s 3 a.src a.tag) s

/-- A section write of a restore is answered: the wait for the contexts counts from the last (R349). -/
def noteRestored (key : Nat) (s : State) : State :=
  let now := fun r : RestoreRun => if entryKey r.slot r.q = key then { r with lastWrite := nsNow s } else r
  { s with mir := { s.mir with restore := s.mir.restore.map now } }

/-- The answer to a request, sent to whoever made it: a stream, an engine, the hub, the host, a peer, or another device by RESP (R324,
R325). Poison is by 64 B granule. -/
def answerMem (r : MemReq) (data : List Byte) (poison : List Bool) (s : State) : State :=
  match r.agent with
  | .stream _ _ => answerReq r data poison s
  | .engine key _ => ackGuest key (noteRestored key (noteReleased s (answerRun key r.id r.write data poison s)))
  | .record t intr => if intr then taskInterrupt t s else s
  | .host => emit s (if r.write then .hostAck else .hostData data (poison.any id))
  | .peer => emit s (if r.write then .hostAck else .hostData data (poison.any id))
  | .remote src tag =>
    let k := packet s 3 src tag
    sendOrDrop { k with len := BitVec.ofNat 16 data.length, pflags := if poison.any id then 1 else 0,
                        deadline := r.deadline, payload := data } s

/-- A request that fails at its destination: poisoned data for a read, discarded for a write (R203, R357). -/
def failMem (r : MemReq) (s : State) : State :=
  match r.agent with
  | .stream _ _ => failReq r s
  | .engine key _ => failReq r { s with net := { s.net with acks := s.net.acks.filter fun a => a.key != key } }
  | _ => answerMem r (if r.write then [] else List.replicate r.len 0) (if r.write then [] else [true]) s

/-! ### Thermal shutdown (R374) -/

/-- Whether stack port `p` runs. -/
def portRuns (s : State) (p : SecIx) : Bool := s.regions[portRegion p].locked && !s.power.shutdown

/-- A core without power. -/
def Core.unpowered (x : Core) : Core := { Core.reset with slot := x.slot }

/-- A stack port without power: what it held in progress is gone. -/
def Port.unpowered (x : Port) : Port := { x with entries := [], queue := [], records := [], postponed := [] }

/-- The state after thermal shutdown, its fatal event already recorded (vector 0 is the recorder's): THERMTRIP_N low,
every task FAULTED with REASON 0xFE and no completion, the core, port and DRAM rails removed. -/
def thermalShutdown (cause : BitVec 3) (s : State) : State :=
  if s.power.shutdown then s
  else
    let s := { s with power := { s.power with shutdown := true, shutdownCause := cause, thermtripN := false } }
    let s := (List.finRange 16).foldl (fun s t => if s.tasks[t].live then faultTask t 0xFE true s else s) s
    { s with cores := s.cores.map Core.unpowered, ports := s.ports.map Port.unpowered, flits := [], incs := [], reports := [],
             gsigs := [], fabric := [], resps := [], dram := [], loose := [], dramPoison := [],
             cxl := { s.cxl with snoops := [] } }

end Sys2Proof.Machine
end

