-- ==== Sys2Proof/Machine/Counters.lean ====
section
/-! DEFINITION. Global counters and barriers (R213 to R219): the hub applies the GSIGs and signal packets that reach it,
completes barriers, and releases them. -/

namespace Sys2Proof.Machine

def gget (s : State) (g : Fin 4096) : GCounter := tget GCounter.reset s.gctr g.val

def gset (g : Fin 4096) (x : GCounter) (s : State) : State := { s with gctr := tset GCounter.reset s.gctr g.val x }

/-- The barrier of a counter completes in hub cycle `hub`: it is armed, VALUE is at least EXPECT, and it has not completed in that hub
cycle already (R216). -/
def GCounter.complete (x : GCounter) (hub : Nat) : Bool :=
  x.armed && decide (x.expect.toNat ≤ x.value.toNat) && x.doneAt != hub + 1

/-- The release of a barrier that completes with a signal that reached the hub at cycle `at_` (R216, R217). -/
def GCounter.release (x : GCounter) (at_ : Nat) : Release :=
  { kind := if x.timed then .timed at_ else .immediate (at_ + 19), rctr := x.rctr, armer := x.armer
    ft := if x.timed && x.ftSet then some x.relFt else none, past := false }

/-- A barrier that completes: EXPECT is subtracted and a release scheduled (R216, R217). -/
def completeBarrier (g : Fin 4096) (at_ : Nat) (s : State) : State :=
  let x := gget s g
  if x.complete (hubCycle s) then
    gset g { x with value := x.value - x.expect, armed := x.rearm, doneAt := hubCycle s + 1, releases := x.releases ++ [x.release at_] } s
  else s

/-- ARM_AT gives a pending timed release its FT: one of the present arming, or one that has none yet (log 42). -/
def Release.armAt (r : Release) (now : Nat) (ft : W64) : Release := match r.kind with
  | .timed _ => if !r.past || r.ft.isNone then { r with kind := .timed now, ft := some ft } else r
  | .immediate _ => r

/-- What a GSIG other than ADD does at the hub (R214, R216, R218). -/
def gsigOp (i : GSig) (s : State) : State :=
  let x := gget s i.g
  match i.op with
  | .add _ | .packet _ _ | .barrier _ _ => s
  | .arm e r timed rearm =>
    gset i.g { x with armed := true, timed := timed, rearm := rearm, ftSet := false, expect := e, rctr := r,
                      releases := if x.armed then [] else x.releases.map fun r => { r with past := true }
                      armer := (i.core, i.ctx, i.pc) } s
  | .armAt ft =>
    if x.timed && (x.armed || !x.releases.isEmpty) then
      gset i.g { x with ftSet := true, relFt := ft, releases := x.releases.map fun r => r.armAt s.time.cycle ft } s
    else faultCtx i.core i.ctx 0x0A (gctrInfo i.g 2) i.pc s
  | .disarm => gset i.g { x with armed := false, releases := [] } s

/-- n of an ADD. -/
def GSig.amount (i : GSig) : Nat := match i.op with
  | .add n => n
  | .packet _ k => k.arg.toNat % 65536
  | .barrier _ _ => 1
  | _ => 0

/-- Whether increments of `n` in one hub cycle fit (R215). -/
def gfits (x : GCounter) (n : Nat) : Bool := decide (x.value.toNat + n ≤ 0xFFFFFF)

/-! ### Releases (R217 to R219) -/

/-- A release adds 1 to RCTR on every core of the task in the current cycle; an overflow reaches the arming context with
SOURCE 7. -/
def releaseCores (r : Release) (t : SlotIx) (s : State) : State :=
  let s := { s with gregs := { s.gregs with releases := satInc s.gregs.releases } }
  (List.finRange 144).foldl (fun s c =>
    if s.cores[c].slot = some t then
      pushInc s { core := c, ctr := r.rctr, n := 1, due := s.time.cycle, source := 7, tsig := false, fcore := r.armer.1,
                  fctx := r.armer.2.1, fpc := r.armer.2.2 }
    else s) s

/-- The task whose cores a counter releases: one that is neither away nor ended (R219). -/
def releasing (s : State) (x : GCounter) : Option SlotIx :=
  match x.holder with
  | none => none
  | some t => if s.tasks[t].st == .running || s.tasks[t].st == .ending then some t else none

/-- The immediate release that is due. -/
def immediateDue (s : State) (x : GCounter) : Option Release :=
  x.releases.find? fun r => match r.kind with
    | .immediate d => decide (d ≤ s.time.cycle)
    | .timed _ => false

/-- The beat of a timed release that may fall, and whether it is late (R218); none while it awaits its FT. BARRIER_SKEW is added. -/
def timedBeat (s : State) (r : Release) : Option (Nat × Bool) := match r.kind, r.ft with
  | .timed since, some ft =>
    let j := beatAt s (ft.toNat + bitsOf (cfgOf s 21).skew 0 16)
    some (if since ≤ 32 * j then (j, false) else (since / 32 + 1, true))
  | _, _ => none

/-- The timed release that falls in the current beat, and whether it is late. -/
def timedDue (s : State) (x : GCounter) : Option (Release × Bool) :=
  if !atBeat s then none
  else x.releases.findSome? fun r => match timedBeat s r with
    | some b => if b.1 ≤ beatNow s then some (r, b.2) else none
    | none => none

/-- A counter from which a release has been taken; after a timed one of the present arming it awaits an ARM_AT again (R218). -/
def GCounter.without (x : GCounter) (r : Release) : GCounter :=
  { x with releases := x.releases.erase r
           ftSet := x.ftSet && (r.past || match r.kind with
             | .timed _ => false
             | .immediate _ => true) }

def execBarrierReleaseApply (g : Fin 4096) (s : State) : Out :=
  let x := gget s g
  match releasing s x, immediateDue s x with
  | some t, some r => .next (releaseCores r t (gset g (x.without r) s))
  | _, _ => .next s

def execTimedRelease (g : Fin 4096) (s : State) : Out :=
  let x := gget s g
  match releasing s x, timedDue s x with
  | some t, some (r, late) =>
    let s := releaseCores r t (gset g (x.without r) s)
    .next (if late then lateAction s 0 (r.ft.getD 0).toNat (ftNow s) else s)
  | _, _ => .next s

/-- The releases that fell while a task was away are applied at its restore; a timed one counts as late (R219). -/
def keptReleases (t : SlotIx) (s : State) : State :=
  (s.gctr.map fun e => Fin.ofNat 4096 e.1).foldl (fun s g =>
    let x := gget s g
    if x.holder = some t then
      let past := x.releases.filter fun r => match r.kind with
        | .immediate d => decide (d ≤ s.time.cycle)
        | .timed _ => match timedBeat s r with
          | some b => decide (b.1 * 32 ≤ s.time.cycle)
          | none => false
      past.foldl (fun s r =>
        let s := releaseCores r t (gset g ((gget s g).without r) s)
        match r.kind with
        | .immediate _ => s
        | .timed _ => lateAction s 0 (r.ft.getD 0).toNat (ftNow s)) s
    else s) s

/-- Whether a release of a running task falls in the current cycle. -/
def releaseOutstanding (s : State) : Bool :=
  s.gctr.any fun q => (releasing s q.2).isSome && ((immediateDue s q.2).isSome || (timedDue s q.2).isSome)

/-- Whether global counter `g` has a step to make in the current cycle, the last of its hub cycle: signals that have reached the hub in
it, or a barrier to complete (R215, R216). What comes after the step waits for the next hub cycle. -/
def globalDue (s : State) (g : Fin 4096) : Bool :=
  hubEnds s && (gget s g).sumAt != hubCycle s + 1
  && ((s.gsigs.any fun i => i.g == g && decide (i.due ≤ s.time.cycle)) || (gget s g).complete (hubCycle s))

/-- Some global counter has a step to make in the current cycle. -/
def globalsOutstanding (s : State) : Bool :=
  s.gsigs.any (fun i => globalDue s i.g) || s.gctr.any fun q => globalDue s (Fin.ofNat 4096 q.1)

end Sys2Proof.Machine
end

