-- ==== Sys2Proof/Machine/Command.lean ====
section
/-! DEFINITION. Command lists (chapter 11): posting (R220 to R226, R228 to R231), the entries that reach contexts and the
sequencer's own (R222), their completion (R225) and the command instructions (R224). -/

namespace Sys2Proof.Machine

/-! ### The fields of an entry (R221) -/

def Entry.seg (w : Entry) : Nat := wordBits w[0] 8 4
def Entry.ctx (w : Entry) : CtxIx := ⟨wordBits w[0] 12 2, by unfold wordBits; omega⟩
def Entry.after (w : Entry) : Bool := bit w[0] 16
def Entry.mb (w : Entry) : Nat := wordBits w[0] 32 16
def Entry.step (w : Entry) : W32 := loW w[2]

/-- The engine an entry is posted to: 1 lookup, 2 collective, 3 mirror, 4 CXL port; 0 none. -/
def Entry.engine (w : Entry) : Nat :=
  if w.op = 4 then 1 else if w.op = 5 || w.op = 6 || w.op = 7 then 2 else if w.op = 8 then 3 else if w.op = 9 then 4 else 0

/-- The cores a core entry is posted to. -/
def entryCores (T : Task) (w : Entry) : List CoreIx :=
  if w.seg = 15 then T.cores
  else match T.segs[w.seg]? with
    | none => []
    | some f => (segSectors f T.hdr.segSectors).flatMap sectorCores

/-! ### Malformed entries (R226) -/

/-- The section list of a SNAPSHOT is read. -/
def seeSections (w : Entry) (s : State) : State := see w[3].toNat (32 * wordBits w[4] 0 7) s

/-- The section list of a SNAPSHOT, as the work in evaluation sees it. -/
def sections (s : State) (w : Entry) : List Section :=
  (List.range (wordBits w[4] 0 7)).map fun i =>
    let b := seen s (w[3].toNat + 32 * i) 32
    { kind := field b 0 1, addr := field b 8 8, len := field b 16 8
      ok := field b 1 7 == 0 && field b 24 8 == 0 }

def Section.valid (x : Section) : Bool :=
  x.ok && decide (1 ≤ x.kind) && decide (x.kind ≤ 6) && x.addr % 64 == 0 && x.len % 64 == 0 && decide (64 ≤ x.len)
  && decide (x.addr + x.len ≤ directEnd)

def sectionsApart : List Section → Bool
  | [] => true
  | x :: xs => xs.all (fun y => decide (x.addr + x.len ≤ y.addr) || decide (y.addr + y.len ≤ x.addr)) && sectionsApart xs

/-- The section list of a SNAPSHOT that may be read, and what is wrong with it (R341). -/
def listBad (s : State) (w : Entry) : Bool :=
  w.op == 8 && decide (wordBits w[4] 0 7 ≤ 64) && (!(sections s w).all Section.valid || !sectionsApart (sections s w))

/-- The operand checks of the engines' chapters (R239, R269, R272, R332 to R334, R341) but for what a section list holds. -/
def operandsBad (T : Task) (w : Entry) : Bool :=
  match w.op with
  | 4 => w[3].toNat % 64 != 0 || w[4].toNat % 64 != 0 || wordBits w[5] 0 16 == 0 || wordBits w[5] 19 13 != 0
      || wordBits w[5] 32 32 == 0 || w[6] != 0 || w[7].toNat % 65536 != 0
      || decide (directEnd < w[7].toNat + wordBits w[5] 32 32 * 2 ^ 20)
  | 5 => wordBits w[3] 32 32 != 0 || w[4] != 0 || w[5] != 0 || w[6] != 0 || w[7] != 0
  | 6 => wordBits w[4] 0 32 % 256 != 0 || wordBits w[4] 32 8 == 0 || decide (144 < wordBits w[4] 32 8)
      || wordBits w[4] 40 24 != 0 || wordBits w[6] 32 32 != 0 || (w[3] == 0 && w[6] == 0) || bit w[7] 15
      || wordBits w[7] 21 3 != 0 || wordBits w[7] 55 9 != 0 || decide (directEnd ≤ wordBits w[7] 24 31 * 256)
  | 7 => wordBits w[4] 0 32 % 256 != 0 || wordBits w[4] 32 32 != 0 || wordBits w[6] 13 51 != 0 || bit w[7] 15
      || wordBits w[7] 20 44 != 0 || decide (directEnd ≤ w[3].toNat) || decide (directEnd ≤ w[5].toNat)
      || decide (directEnd < w[5].toNat + wordBits w[4] 0 32)
      || (bit w[6] 12 && (wordBits w[4] 0 32 != 0 || decide (wordBits w[6] 0 12 < T.gctrFirst)
          || decide (T.gctrFirst + T.hdr.globals ≤ wordBits w[6] 0 12)))
  | 8 => !w.after || w[3].toNat % 64 != 0 || decide (64 < wordBits w[4] 0 7) || bit w[4] 7 || wordBits w[4] 10 54 != 0
      || (!bit w[4] 8 && w[5] != 0) || w[6] != 0 || w[7] != 0
  | _ => false

/-- A stage of a pipelined task. -/
def CmdList.stage (x : CmdList) (h : Nat) : Stage := if h = 0 then x.stage0 else x.stage1

def CmdList.modStage (x : CmdList) (h : Nat) (f : Stage → Stage) : CmdList :=
  if h = 0 then { x with stage0 := f x.stage0 } else { x with stage1 := f x.stage1 }

/-- The words of a PIPECFG (R229); a step that it would find under way is one of which a FWD has been posted. -/
def pipecfgBad (T : Task) (w : Entry) : Bool :=
  !T.hdr.flag 7
  || (List.range T.hdr.segCount).any (fun h =>
      let v := if h = 0 then w[3] else w[4]
      wordBits v 8 16 == 0 || wordBits v 24 40 != 0 || decide (0 < (T.cmd.stage h).fwds))

/-- R226, with the additions of R228 and R229 for pipelined mode. -/
def malformed (T : Task) (w : Entry) : Bool :=
  let op := w.op
  op == 0 || decide (13 < op)
  || wordBits w[0] 14 2 != 0 || wordBits w[0] 21 3 != 0 || wordBits w[0] 30 2 != 0 || wordBits w[0] 48 16 != 0
  || wordBits w[2] 32 32 != 0
  || (w.seg != 15 && decide (T.hdr.segCount ≤ w.seg))
  || (w.core && !bit T.hdr.contexts w.ctx.val)
  || (op == 13 && pipecfgBad T w)
  || ((op == 1 || op == 2) && T.hdr.flag 7 && (w.seg == 15 || !(T.cmd.stage w.seg).configured))
  || operandsBad T w

/-- R231 for the `k`-th pass of its kind in a step of `n`. -/
def orderBad (w : Entry) (k n : Nat) : Bool :=
  w.mb != k || bit w[0] 18 != (k == 0) || bit w[0] 19 != (k + 1 == n)

/-! ### Posting (R223) -/

/-- Posted entries of a task that have not completed. -/
def CmdList.openEntries (x : CmdList) : List Posted := x.posted.filter fun e => !e.finished

/-- The executor of an entry has room: two entries for each context, four for an engine (R223). -/
def entryRoom (s : State) (T : Task) (w : Entry) : Bool :=
  if w.core then
    (entryCores T w).all fun c => decide ((T.cmd.openEntries.filter fun e =>
      Entry.core e.words && Entry.ctx e.words == Entry.ctx w && (entryCores T e.words).contains c
      && !e.reports.any fun r => r.core == c).length < 2)
  else if w.engine = 0 then true
  else decide (((s.tasks.toList.flatMap fun U => U.cmd.openEntries).filter fun e => Entry.engine e.words == w.engine).length < 4)

/-- Core entries wait for the capture of a posted SNAPSHOT, and for the end of a posted restore (R343, R349). -/
def snapshotHolds (s : State) (t : SlotIx) : Bool :=
  s.tasks[t].cmd.openEntries.any fun e => Entry.op e.words == 8
    && !(match s.mir.take with
      | some r => r.slot == t && r.q == e.q && r.captured
      | none => false)

/-- Core entries wait while a REDUCE reads the wide-buffer slots of one of their cores (R237). -/
def reduceHolds (T : Task) (w : Entry) : Bool :=
  T.cmd.posted.any fun e => Entry.op e.words == 6 && e.status.isNone && !e.finished
    && (let v : Entry := e.words; v[3] == 0) && (entryCores T e.words).any fun c => (entryCores T w).contains c

/-- Every entry before `q` has completed (AFTER). -/
def allBefore (T : Task) (q : W32) : Bool := T.cmd.done == q

/-- The conditions of R223 other than the beat of NOT_BEFORE. -/
def postable (s : State) (t : SlotIx) (q : W32) (w : Entry) : Bool :=
  let T := s.tasks[t]
  (!w.after || allBefore T q) && entryRoom s T w && !(w.core && (snapshotHolds s t || reduceHolds T w))

/-- NOT_BEFORE has come (R36, R223). -/
def timeCome (s : State) (w : Entry) : Bool := w[1] == 0 || decide (beatAt s w[1].toNat ≤ beatNow s)

/-- A descriptor of the task is outstanding at a companion (R260). -/
def rhaorOpen (s : State) (t : SlotIx) : Bool := s.rhaor.any fun x => x.tags.any fun q => q.task == t

/-- NOT_BEFORE has passed at the beat that begins. -/
def timePassed (s : State) (w : Entry) : Bool :=
  w[1] != 0 && decide (((w[1].toNat : Int) - s.time.gridFt) * bpf s.power.coreStep < 640 * (beatNow s : Int))

/-! ### Groups of devices (R330) -/

def boxIndex (s : State) (g : Group) (d i : Nat) : Nat :=
  let n := atLeast1 (coordAt s.net.dims.toNat i)
  (d / 256 ^ i % 256 + n - g.origin.toNat / 256 ^ i % 256 % n) % n

def Group.size (g : Group) (i : Nat) : Nat := g.extent.toNat / 256 ^ i % 256

def Group.count (g : Group) : Nat := g.size 0 * g.size 1 * g.size 2

/-- The rank of device `d` in a group; none where it is no member. -/
def groupRank (s : State) (g : Group) (d : Nat) : Option Nat :=
  if g.valid && (List.range 3).all fun i => decide (boxIndex s g d i < g.size i) then
    some (boxIndex s g d 0 + g.size 0 * (boxIndex s g d 1 + g.size 1 * boxIndex s g d 2))
  else none

/-- This device's rank in a group. -/
def ownRank (s : State) (g : Group) : Option Nat := groupRank s g s.net.coord.toNat

/-- The place of a rank in its group's box. -/
def Group.placeOf (g : Group) (r : Nat) : Nat × Nat × Nat :=
  (r % atLeast1 (g.size 0), r / atLeast1 (g.size 0) % atLeast1 (g.size 1), r / atLeast1 (g.size 0) / atLeast1 (g.size 1))

/-! ### Segments held before their entry is posted (R255, R334, R335) -/

def groupAt (s : State) (g : Nat) : Group := s.net.groups[(Fin.ofNat 16 g)]

/-- The group of a collective entry; that of a LOOKUP or EXCHANGE is group 0 (R334). -/
def Entry.group (w : Entry) : Nat := if w.op = 4 || w.op = 5 then 0 else wordBits w[7] 16 4

/-- The LOOKUP that an EXCHANGE belongs to, carried out, and how many LOOKUPs the task had posted before it. -/
def exchangeWork (s : State) (t : SlotIx) (w : Entry) : Option LkWork := s.lkWork.find? fun k => k.slot == t && k.q == loW w[3]

def lookupNth (s : State) (t : SlotIx) (w : Entry) : Nat :=
  match exchangeWork s t w with
  | some k => k.nth
  | none => match s.tasks[t].cmd.posted.find? fun e => e.q == loW w[3] with
    | some e => e.nth
    | none => s.tasks[t].cmd.lookups - 1

/-- The collective number of an entry's segments: COLL of a REDUCE or GATHER, or that of a route or a return (R334). -/
def collNumber (s : State) (t : SlotIx) (w : Entry) (nth : Nat) : W16 :=
  if w.op = 4 then BitVec.ofNat 16 (0x8000 + nth % 2 ^ 14)
  else if w.op = 5 then BitVec.ofNat 16 (0xC000 + lookupNth s t w % 2 ^ 14)
  else BitVec.ofNat 16 (wordBits w[7] 0 15)

def collOf (s : State) (t : SlotIx) (e : Posted) : W16 := collNumber s t e.words e.nth

/-- A held segment is refused with a reason: an event and a NAK (R336). No rule states the severity for MEMBER (log 2). -/
def refuseHeld (h : HeldColl) (reason : Byte) (s : State) : State :=
  let sev := if reason = 8 then error else Config.free 2 s.freeCtr
  let s := if reason = 8 then s else { s with freeCtr := s.freeCtr + 1 }
  let k := packet s 9 h.pkt.src h.pkt.tag
  let s := modLink s h.port fun x => { x with nakSent := satInc x.nakSent }
  let s := record s (0x5000 + reason.toNat) sev h.port.val 0 h.pkt.src.toNat h.pkt.ptype.toNat
  sendOrDrop { k with reason := reason, orig := h.pkt.ptype } s

/-- The held segments of a collective are judged as its entry is posted: one from outside the group is refused with MEMBER, one whose STEP
differs with STEP; the others are taken (R255, R335, R336). -/
def judgeHeld (coll : W16) (g : Group) (step : W32) (s : State) : State :=
  let mine := s.net.held.filter fun h => h.pkt.coll == coll
  let s := { s with net := { s.net with held := s.net.held.filter fun h => h.pkt.coll != coll } }
  mine.foldl (fun s h =>
    if (groupRank s g h.pkt.src.toNat).isNone then refuseHeld h 12 s
    else if h.pkt.step == step then s
    else refuseHeld h 8 { s with net := { s.net with skewed := s.net.skewed ++ [(coll, h.pkt.src)] } }) s

/-- What the posting of an entry does to the segments held for it. -/
def takeHeld (t : SlotIx) (w : Entry) (s : State) : State :=
  if [4, 5, 6, 7].contains w.op then judgeHeld (collNumber s t w s.tasks[t].cmd.lookups) (groupAt s w.group) w.step s else s

/-- Posts entry `q`: late where its NOT_BEFORE had passed at the first beat at which its other conditions hold (R36, R223). The FWD of a step's first micro-batch begins the step for
the notice of R234 (DESIGN CHOICE, log 109). -/
def postEntry (t : SlotIx) (q : W32) (w : Entry) (s : State) : State :=
  let n := (entryCores s.tasks[t] w).length
  let s := if timePassed s w && !s.tasks[t].cmd.ripe.contains q then lateAction s 0 w[1].toNat (ftNow s) else s
  let s := if w.op = 1 && bit w[0] 18 then modTask s t fun T => { T with stash := { T.stash with ovfNoted := false } } else s
  let s := takeHeld t w s
  modCmd { s with nextId := s.nextId + 1 } t fun x =>
    { x with posted := x.posted ++ [{ q := q, words := w, delivered := false, expected := n, reports := [], status := none,
                                      finished := false, postedAt := s.time.cycle, order := s.nextId, nth := x.lookups,
                                      rhaor := rhaorOpen s t
                                      list := if w.op = 8 then x.gotList else [] }]
             lookups := if w.op = 4 then x.lookups + 1 else x.lookups
             ripe := x.ripe.filter (· != q) }

/-- A malformed or misordered entry completes at once and stops posting (R226). -/
def stopPosting (t : SlotIx) (q : W32) (w : Entry) (status : Byte) (s : State) : State :=
  let e : Posted := { q := q, words := w, delivered := true, expected := 0, reports := [], status := some status,
                      finished := false, postedAt := s.time.cycle, order := s.nextId, nth := 0, rhaor := false }
  let s := record s (0x0100 + status.toNat) error t.val q.toNat 0 0
  finishEntry t e status (modCmd s t fun x => { x with stopped := true, posted := x.posted ++ [e] })

/-- The address of entry `q` of a task's list (R220). -/
def entryAt (T : Task) (q : W32) : Nat := T.image.toNat + T.hdr.cmdOff.toNat + 64 * (q.toNat % atLeast1 T.cmd.n)

/-- The eight words that 64 B spell. -/
def entryOf (bs : List Byte) : Entry := Vector.ofFn fun i => BitVec.ofNat 64 (field bs (8 * i.val) 8)

/-- The read of the entry at CMD_HEAD, which the sequencer makes once when it reaches it (R220), with the section list that a SNAPSHOT
names; poison in the entry makes it malformed (R289). -/
def readHead (t : SlotIx) (s : State) : State :=
  let T := s.tasks[t]
  let r := devRead (entryAt T T.cmd.head) 64 s
  let w := entryOf r.1
  let s := if w.op = 8 && decide (wordBits w[4] 0 7 ≤ 64) then seeSections w r.2.2 else r.2.2
  modCmd s t fun x => { x with got := some (r.2.1 || listBad s w, w), gotList := if w.op = 8 then sections s w else [] }

/-- The head has been dealt with. -/
def CmdList.pass (x : CmdList) : CmdList := { x with head := x.head + 1, got := none }

/-- The first phase of a step of a stage (R230). -/
def Stage.enter (x : Stage) : Stage :=
  { x with phase := if x.fwds < min x.warmup x.mbStep then 1 else if x.fwds < x.mbStep then 2 else 3 }

/-- The pass a stage's phase calls for: its queue's head (R230). -/
def Stage.calls (x : Stage) : Option W32 :=
  match x.phase.toNat with
  | 1 => x.fwdQ.head?
  | 2 => if x.fwds = min x.warmup x.mbStep + x.bwds then x.fwdQ.head? else x.bwdQ.head?
  | 3 => x.bwdQ.head?
  | _ => none

/-- A stage after posting the pass its phase called for. -/
def Stage.posted (x : Stage) : Stage :=
  let fwd := x.phase = 1 || (x.phase = 2 && x.fwds = min x.warmup x.mbStep + x.bwds)
  let x := if fwd then { x with fwds := x.fwds + 1, fwdQ := x.fwdQ.tail } else { x with bwds := x.bwds + 1, bwdQ := x.bwdQ.tail }
  if x.bwds = x.mbStep && x.fwds = x.mbStep then Stage.enter { x with fwds := 0, bwds := 0 }
  else if fwd then Stage.enter x
  else x

/-- A pass at the head of a pipelined list goes to its stage's queue, or breaks the order (R231). -/
def takePass (t : SlotIx) (q : W32) (w : Entry) (s : State) : State :=
  let x := s.tasks[t].cmd.stage w.seg
  let fwd := w.op == 1
  let k := (if fwd then x.fwdTaken else x.bwdTaken) % atLeast1 x.mbStep
  let s := modCmd s t CmdList.pass
  if orderBad w k x.mbStep then stopPosting t q w 0x80 s
  else modCmd s t fun y =>
    { (y.modStage w.seg fun x =>
        if fwd then { x with fwdTaken := x.fwdTaken + 1, fwdQ := x.fwdQ ++ [q] }
        else { x with bwdTaken := x.bwdTaken + 1, bwdQ := x.bwdQ ++ [q] }) with
      waitingQ := y.waitingQ ++ [(q, w)] }

/-- A stage's called pass, where it may be posted in this beat: no pass of its kind of the stage is still open. -/
def stagePost (s : State) (t : SlotIx) (h : Nat) : Option (W32 × Entry) :=
  let T := s.tasks[t]
  match (T.cmd.stage h).calls with
  | none => none
  | some q =>
    match T.cmd.waitingQ.find? fun e => e.1 == q with
    | none => none
    | some (_, w) =>
      if postable s t q w && timeCome s w
          && !(T.cmd.openEntries.any fun e => Entry.op e.words == Entry.op w && Entry.seg e.words == h) then some (q, w)
      else none

/-- The called pass that a pipelined task posts in this beat, with its stage. -/
def passPost (s : State) (t : SlotIx) : Option (Nat × W32 × Entry) :=
  if s.tasks[t].hdr.flag 7 then (stagePost s t 0).map (fun r => (0, r)) <|> (stagePost s t 1).map (fun r => (1, r)) else none

/-- A posted PIPECFG that is still to be carried out: the entries after it are judged under what it configures (R229). -/
def configuring (x : CmdList) : Bool := x.posted.any fun e => Entry.op e.words == 13 && !e.finished

/-- What the sequencer does with the head of the list, once it has been read. -/
inductive HeadDue where
  /-- Nothing yet. -/
  | wait
  /-- It is malformed: it completes at once and posting stops (R226). -/
  | refuse
  /-- A pass goes to its stage's queue (R230). -/
  | take
  /-- It is posted. -/
  | post
deriving DecidableEq, Repr

def headDue (s : State) (t : SlotIx) (bad : Bool) (w : Entry) : HeadDue :=
  let T := s.tasks[t]
  if configuring T.cmd || (w.op = 13 && !T.cmd.waitingQ.isEmpty) then .wait
  else if bad || malformed T w then .refuse
  else if T.hdr.flag 7 && (w.op == 1 || w.op == 2) then .take
  else if atBeat s && timeCome s w && postable s t T.cmd.head w && T.cmd.waitingQ.isEmpty then .post
  else .wait

/-- Posts a called pass. -/
def postPass (t : SlotIx) (h : Nat) (q : W32) (w : Entry) (s : State) : State :=
  postEntry t q w (modCmd s t fun y =>
    { y.modStage h Stage.posted with waitingQ := y.waitingQ.filter fun e => e.1 != q })

/-- The entries of a task whose conditions but NOT_BEFORE hold at this beat: the called passes, and the head of the list (R223). -/
def ripeNow (s : State) (t : SlotIx) : List W32 :=
  let x := s.tasks[t].cmd
  let called := [0, 1].filterMap fun h => match (x.stage h).calls with
    | none => none
    | some q => match x.waitingQ.find? fun e => e.1 == q with
      | some (_, w) => if postable s t q w then some q else none
      | none => none
  let head := match x.got with
    | some (bad, w) => if !bad && !malformed s.tasks[t] w && postable s t x.head w && x.waitingQ.isEmpty && !configuring x then [x.head] else []
    | none => []
  if s.tasks[t].issues && !x.stopped then called ++ head else []

/-- At a beat the sequencer notes the entries that NOT_BEFORE alone holds back. -/
def noteRipe (t : SlotIx) (s : State) : State :=
  if s.tasks[t].cmd.n = 0 then s
  else
    let rs := ripeNow s t
    modCmd s t fun x => { x with ripe := x.ripe ++ rs.filter fun q => !x.ripe.contains q }

def execEntryPost (t : SlotIx) (s : State) : Out :=
  let T := s.tasks[t]
  if !T.issues || T.cmd.stopped then .next s
  else match (if atBeat s then passPost s t else none) with
    | some (h, q, w) => .next (postPass t h q w s)
    | none => match T.cmd.got with
      | some (bad, w) =>
        let s' := modCmd s t CmdList.pass
        match headDue s t bad w with
        | .wait => .next s
        | .refuse => .next (stopPosting t T.cmd.head w 0x81 s')
        | .take => .next (takePass t T.cmd.head w s)
        | .post => .next (postEntry t T.cmd.head w s')
      | none =>
        if T.cmd.head == T.cmd.tail then .next s
        else engineRun (taskKey t 0) (some t) Rank.open_ true (readHead t) s

/-- Something that ENTRY_POST would do now is due (R223). -/
def postDue (s : State) (t : SlotIx) : Bool :=
  let T := s.tasks[t]
  T.issues && !T.cmd.stopped
  && ((atBeat s && (passPost s t).isSome)
    || match T.cmd.got with
      | some (bad, w) => headDue s t bad w != .wait
      | none => T.cmd.head != T.cmd.tail && runDue s (taskKey t 0) (some t) (readHead t))

/-! ### Entries that reach contexts (R222, R223) -/

def findPosted (s : State) (t : SlotIx) (q : W32) (op : Nat) : Option Posted :=
  s.tasks[t].cmd.posted.find? fun e => e.q == q && Entry.op e.words == op && !e.delivered && !e.finished

def markDelivered (t : SlotIx) (q : W32) (s : State) : State :=
  modCmd s t fun x => { x with posted := x.posted.map fun e => if e.q == q then { e with delivered := true } else e }

/-- A core entry reaches context CTX of every core of SEG at the beat of its posting; a waiting CMDWAIT completes 5 cc later (R104,
R223). -/
def reachCores (t : SlotIx) (e : Posted) (s : State) : State :=
  (entryCores s.tasks[t] e.words).foldl (fun s c => modCtx s c (Entry.ctx e.words) fun y =>
    { y with queued := y.queued ++ [e.q]
             wakeAt := if y.st = .waiting && y.kind = .command && y.wakeAt.isNone then some (s.time.cycle + 5) else y.wakeAt }) s

/-- A core entry of the task is still to reach its contexts; it stays in the hub while the task is not RUNNING (R227). -/
def deliverDue (s : State) (t : SlotIx) (q : W32) (op : Nat) : Option Posted :=
  if s.tasks[t].st == .running then findPosted s t q op else none

def deliver (t : SlotIx) (q : W32) (op : Nat) (s : State) : State :=
  match deliverDue s t q op with
  | none => s
  | some e => reachCores t e (markDelivered t q s)

def execFwd (t : SlotIx) (q : W32) (s : State) : Out := .next (deliver t q 1 s)
def execBwd (t : SlotIx) (q : W32) (s : State) : Out := .next (deliver t q 2 s)
def execEndEntry (t : SlotIx) (q : W32) (s : State) : Out := .next (deliver t q 11 s)

/-- MARK completes when posted and records an info event with q. -/
def execMark (t : SlotIx) (q : W32) (s : State) : Out :=
  match findPosted s t q 12 with
  | none => .next s
  | some e => .next (finishEntry t e 0 (record (markDelivered t q s) 0x0100 info t.val q.toNat 0 0))

/-- PIPECFG configures every hosted stage (R229) and completes when posted. -/
def execPipecfg (t : SlotIx) (q : W32) (s : State) : Out :=
  match findPosted s t q 13 with
  | none => .next s
  | some e =>
    let set := fun (v : W64) (x : Stage) => Stage.enter
      { x with configured := true, warmup := wordBits v 0 8, mbStep := wordBits v 8 16, fwds := 0, bwds := 0,
               fwdTaken := 0, bwdTaken := 0 }
    let w : Entry := e.words
    let s := modCmd (markDelivered t q s) t fun x => x.modStage 0 (set w[3])
    let s := if 1 < s.tasks[t].hdr.segCount then modCmd s t fun x => x.modStage 1 (set w[4]) else s
    .next (finishEntry t e 0 s)

/-! ### Completion (R225) -/

def execEntryComplete (t : SlotIx) (q : W32) (s : State) : Out :=
  match s.tasks[t].cmd.posted.find? fun e => e.q == q && !e.finished with
  | none => .next s
  | some e => match e.answer with
    | none => .next s
    | some x => if running s (entryKey t q) then .next s else .next (finishEntry t e x s)

/-- An engine answers for its entry. -/
def answerEntry (t : SlotIx) (q : W32) (status : Byte) (s : State) : State :=
  modCmd s t fun x => { x with posted := x.posted.map fun e =>
    if e.q == q && !e.finished then { e with delivered := true, status := some status } else e }

/-! ### The command instructions (R224) -/

/-- A context reports a status for an entry, with the real-time misses it carries. -/
def report (c : CoreIx) (k : CtxIx) (q : W32) (status : Byte) (misses : Nat) (s : State) : State :=
  match s.cores[c].slot with
  | none => s
  | some t => modCmd s t fun x => { x with posted := x.posted.map fun e =>
      if e.q == q && !e.finished then
        { e with reports := e.reports ++ [{ core := c, ctx := k, status := status, misses := misses }] }
      else e }

/-- Word `i` of the entry a context names; 0 when there is none. -/
def entryWord (s : State) (c : CoreIx) (q : Option W32) (i : Fin 8) : W64 :=
  match q, taskOn s c with
  | some q, some (_, T) => match T.cmd.posted.find? fun e => e.q == q with
    | some e => e.words[i]
    | none => 0
  | _, _ => 0

def execCmdwait (c : CoreIx) (k : CtxIx) (rd : SReg) (s : State) : Out :=
  issue c k (encI 0x2C rd.val 0 0) 0x001FFFFF [] s fun s =>
    let s := match s.cores[c].ctx[k].cur with
      | some q => modCtx (report c k q 0x82 0 s) c k fun y => { y with cur := none }
      | none => s
    match s.cores[c].ctx[k].queued with
    | q :: rest =>
      let v := entryWord s c (some q) 0
      result c k rd v 1 (modCtx s c k fun y => { y with cur := some q, queued := rest })
    | [] => waitOn c k .command none (modCtx s c k fun y => { y with waitRd := rd })

def execCmdrd (c : CoreIx) (k : CtxIx) (rd : SReg) (i : Fin 8) (s : State) : Out :=
  issue c k (encI 0x2D rd.val 0 (BitVec.ofNat 16 i.val)) 0x001F0000 [] s fun s =>
    result c k rd (entryWord s c s.cores[c].ctx[k].cur i) 2 s

/-- Takes the MISSED bits of a core into a report (R200). -/
def takeMissed (c : CoreIx) (s : State) : Nat × State :=
  ((s.cores[c].streams.toList.filter fun x => x.missed).length,
   modCore s c fun x => { x with streams := x.streams.map fun y => { y with missed := false } })

def execCmddone (c : CoreIx) (k : CtxIx) (imm : W16) (s : State) : Out :=
  issue c k (encI 0x2E 0 0 imm) 0x03FF0000 [] s fun s =>
    let st : Byte := if 0x80 ≤ imm.toNat % 256 then 0x7F else imm.setWidth 8
    let y := s.cores[c].ctx[k]
    match y.cur with
    | some q =>
      let m := takeMissed c s
      retire c k (modCtx (report c k q st m.1 m.2) c k fun y => { y with cur := none })
    | none =>
      let slot := match s.cores[c].slot with
        | some t => t.val
        | none => 0
      retire c k (record s (0x1600 + st.toNat) notice c.val y.pc.toNat k.val slot)

end Sys2Proof.Machine
end

