-- ==== Sys2Proof/Machine/Power.lean ====
section
/-! DEFINITION. Power, clocks and temperature (chapter 18): the power controller (R365 to R370), the package guard
(R368), margin (R360), calibration (R361), droop (R358), junction temperature (R373), energy (R375), voltage (R356). -/

namespace Sys2Proof.Machine

/-! ### The power controller -/

/-- Core-rail leakage of a core step in W (table of R354). -/
def stepLeakage (step : BitVec 3) : Nat := [62, 72, 82, 95, 112, 130].getD step.toNat 130

/-- Nominal core voltage of a core step in mV (table of R354). -/
def stepMillivolt (step : BitVec 3) : Nat := [620, 660, 690, 720, 760, 800].getD step.toNat 800

/-- next_duty (R367), with d_avg = sum / count: the highest level from 16 down whose power stays within the cap. -/
def nextDutyFrom (p stat sum count cap : Nat) : Nat → Nat
  | 0 => 1
  | d + 1 => if d = 0 then 1 else if stat * sum + (p - stat) * count * (d + 1) ≤ cap * sum then d + 1 else nextDutyFrom p stat sum count cap d

def nextDuty (p stat sum count cap : Nat) : Nat := nextDutyFrom p stat sum count cap 16

/-- One control-window step of a temperature limit: down by 1 while above `hi`, up by 1 below `lo` (R291, R363, R373). -/
def tempLimit (lim : Nat) (above below : Bool) : Nat :=
  if above then max 1 (lim - 1) else if below then min 16 (lim + 1) else lim

/-- The regions that feed a sector's segments for the junction limit: its core and port region, every quadrant, the hub. -/
def feeds (p : SecIx) : List (Fin 29) :=
  [⟨p.val, by omega⟩, portRegion p, ⟨24, by omega⟩, ⟨25, by omega⟩, ⟨26, by omega⟩, ⟨27, by omega⟩, ⟨28, by omega⟩]

/-- The coefficient of an activity class in fJ at 0.80 V (R366). In the fleet table, R21 states the energy of a Girth flit-hop (2,629 bits
over 2.0 mm at 0.03 pJ) and of a link byte (3.2 pJ a bit), the MACs of an FP8-class k-group (16,384 of 0.085 pJ) and the DRAM's part of a
stack-port byte (0.55 pJ a bit); what it does not state is open (log 107). -/
def coefOf (fused : Bool) (kind : Nat) : Nat :=
  if fused then Config.coef true kind
  else if kind = 6 then 157740
  else if kind = 12 then 25600
  else (if kind = 1 then 1392640 else if kind = 9 then 4400 else 0) + Config.coef false kind

/-- The energy of a sector's core-rail activity in fJ at 0.80 V (R21, R366). -/
def coreEnergy (fused : Bool) (a : Activity) : Nat :=
  let k := coefOf fused
  a.kgroup2 * k 0 + a.kgroup4 * k 1 + a.kgroup8 * k 2 + a.vectors * k 3 + a.specials * k 4 + a.issues * k 5 + a.hops * k 6
    + a.banks * k 7 + a.bulk * k 8

/-- The energy of the rest of the activity, which other rails feed, in fJ (R21, R366). -/
def otherEnergy (fused : Bool) (a : Activity) : Nat :=
  let k := coefOf fused
  a.port * k 9 + a.activates * k 10 + a.rows * k 11 + a.link * k 12 + a.cxl * k 13 + a.engine * k 14

/-- A window's energy in fJ as a power in W: a control window is 10.24 µs (R365). -/
def windowWatts (fJ : Nat) : Nat := fJ / 10240000000

/-- The dynamic energy of the core-rail activity of a place at the rail's nominal voltage, whose square it follows (R21, R354). -/
def railEnergy (s : State) (i : Fin 13) : Nat :=
  let mv := stepMillivolt s.power.coreStep
  coreEnergy s.power.fusedCoef s.act[i] * (mv * mv) / 640000

def sectorEnergy (s : State) (p : SecIx) : Nat := railEnergy s (actOf p)

/-- The modelled power of the window just ended, in W: counted activity times coefficients, and the step's leakage (R21, R365, R366). -/
def modelPower (s : State) : Nat :=
  let core := (List.finRange 13).foldl (fun n i => n + railEnergy s i) 0
  let rest := (List.finRange 13).foldl (fun n i => n + otherEnergy s.power.fusedCoef s.act[i]) 0
  windowWatts (core + rest) + stepLeakage s.power.coreStep

/-- A sector's modelled current of the window just ended, and its leakage part, in mA (R11, R367). -/
def sectorCurrent (s : State) (p : SecIx) : Nat × Nat :=
  let mv := stepMillivolt s.power.coreStep
  let leak := stepLeakage s.power.coreStep * 1000000 / (12 * mv)
  (sectorEnergy s p * 1000 / (10240000 * mv) + leak, leak)

/-- The limits of one sector at a window boundary: its modelled current `amps` with its leakage part `leak`, in mA, against 200 A by the
mean level of the sector itself (R11, R363, R367), stack and junction temperature. -/
def windowLimits (s : State) (amps leak : Nat) (p : SecIx) (d : Duty) : Duty :=
  let temp := s.ports[p].temp.toNat
  let hot := (feeds p).any fun r => decide (100 < s.regions[r].temp.toNat)
  let warm := (feeds p).any fun r => decide (98 ≤ s.regions[r].temp.toNat)
  let sum := if d.levelCount = 0 then 16 else d.levelSum
  let count := if d.levelCount = 0 then 1 else d.levelCount
  { d with sectorLim := nextDuty amps leak sum count 200000
           levelSum := 0, levelCount := 0
           stackLim := tempLimit d.stackLim (decide (92 < temp)) (decide (temp < 90))
           tjLim := tempLimit d.tjLim hot (!warm) }

/-- A window boundary: D_CAP, the sector-current and temperature limits, MODE, a pending TDP_CAP, and the end of a
margin alarm's halved command rate (R291, R360, R363 to R369). The package sensors give the window's measured power on every rail, in W
(the core rail, the stack-port and DRAM rails, and the rest, which is I/O and hub), and the measured temperature the `leakage`, from
fused coefficients. -/
def execControlWindow (core dram rest leakage : Nat) (s : State) : Out :=
  if !windowDue s then .next s
  else
    let measured := core + dram + rest
    let x := s.power
    let model := modelPower s
    let amps := sectorCurrent s
    let p := if x.mode then measured else model
    let stat := if x.mode then leakage else stepLeakage x.coreStep
    let sum := if x.levelCount = 0 then 16 else x.levelSum
    let count := if x.levelCount = 0 then 1 else x.levelCount
    let x := { x with
      winDone := winNow s, lastPower := p, lastStatic := stat, lastSum := sum, lastCount := count, levelSum := 0,
      levelCount := 0, tdpCap := x.tdpNext, dCap := nextDuty p stat sum count x.tdpNext.toNat, mode := x.modeNext,
      powerModel := BitVec.ofNat 16 (min model 0xFFFF), powerMeas := BitVec.ofNat 16 (min measured 0xFFFF),
      fusedCoef := !x.coefLoaded || decide (nsNow s < 100000000) }
    let s := { s with power := x, act := Vector.replicate 13 Activity.reset }
    let s := (List.finRange 12).foldl (fun s i => modDuty s i (windowLimits s (amps i).1 (amps i).2 i)) s
    .next { s with ports := s.ports.map fun q => { q with marginHalf := q.marginHalf && q.marginAlarm, marginAlarm := false } }

/-- A limit outside the bound of R370 comes into force: one that is in force already does not count again. -/
def detBreak (inForce : Bool) (s : State) : State :=
  if inForce then s else { s with power := { s.power with detBreaks := satInc s.power.detBreaks } }

def execPackageSensorRead (watts mean10ms : Nat) (s : State) : Out :=
  if s.power.shutdown then .next s
  else
    let s := if 1650 < watts then
        let s := detBreak (decide (winNow s < s.power.guardUntil)) s
        record { s with power := { s.power with guardUntil := winNow s + 2, guardCount := satInc s.power.guardCount } }
          0x8301 error 0 0 watts 0
      else s
    if s.power.tdpCap.toNat * 11 < mean10ms * 10 then .next (thermalShutdown 3 (record s 0x8302 fatal 0 0 watts 0))
    else .next s

/-- A write of TDP_CAP (R369): clamped to 600 W to 1,500 W; below the cap in force it acts at once. -/
def setTdpCap (v : W32) (s : State) : State :=
  let w := bitsOf v 0 11
  let s := if 600 ≤ w ∧ w ≤ 1500 then s else recordOpen s 0 0 0 0
  let w := max 600 (min 1500 w)
  let x := s.power
  let x := { x with tdpNext := BitVec.ofNat 11 w }
  if w < x.tdpCap.toNat then
    { s with power := { x with tdpCap := BitVec.ofNat 11 w,
                               dCap := nextDuty x.lastPower x.lastStatic x.lastSum x.lastCount w } }
  else { s with power := x }

/-! ### Margin, calibration, droop -/

def execMarginReport (r : Fin 29) (slack : Byte) (s : State) : Out :=
  let x := s.regions[r]
  let s := modRegion s r fun x => { x with marginMin := slack }
  let s := if slack.toNat ≤ x.warnTh.toNat then
      let s := modRegion s r fun x => { x with warnCount := satInc x.warnCount }
      let due : Bool := match x.warnNoted with
        | none => true
        | some f => decide (f + 10000000 ≤ nsNow s)
      if due then record (modRegion s r fun x => { x with warnNoted := some (nsNow s) }) 0x8001 notice r.val 0 slack.toNat 0 else s
    else s
  if slack.toNat ≤ x.alarmTh.toNat then
    let s := modRegion s r fun x => { x with alarmCount := satInc x.alarmCount }
    let s := record s 0x8002 error r.val 0 slack.toNat 0
    if h : r.val < 12 then
      let p : SecIx := ⟨r.val, h⟩
      .next (modDuty (detBreak (decide (winNow s < s.duty[p].marginUntil)) s) p fun d => { d with marginUntil := winNow s + 2 })
    else if h : r.val < 24 then
      .next (modPort s ⟨r.val - 12, by omega⟩ fun p => { p with marginHalf := true, marginAlarm := true })
    else .next s
  else .next s

/-- Background calibration, at most once per 10 ms per region (R361); it changes no value and no latency. -/
def execCalibration (r : Fin 29) (s : State) : Out :=
  match s.regions[r].calibrated with
  | some f => if f + 10000000 ≤ nsNow s then .next (modRegion s r fun x => { x with calibrated := some (nsNow s) }) else .next s
  | none => .next (modRegion s r fun x => { x with calibrated := some (nsNow s) })

/-- A port oscillator is stretched from now on for `ns` of FT: it loses up to 15% of its two cycles for each ns, in proportion to a droop
that the model does not hold (R358; log 2). One that is stretched already goes on with that stretch. -/
def execDroopStretch (p : SecIx) (ns : Nat) (s : State) : Out :=
  let now := nsNow s
  if s.regions[portRegion p].stretched now then .next s
  else
    let lost := (Config.free 32 s.freeCtr).toNat % (3 * ns / 10 + 1)
    .next (modRegion { s with freeCtr := s.freeCtr + 1 } (portRegion p) fun x =>
      { x with stretchCount := satInc x.stretchCount, stretchNs := satAdd x.stretchNs ns, lost := x.lostBy now, slow := (now, ns, lost) })

/-- The core rail's voltage in mV: it slews to its target at 1 mV per µs (R355, R356). -/
def railNow (s : State) : Nat :=
  let us := (nsNow s - s.power.railAt) / 1000
  if s.power.vcore.toNat ≤ s.power.vto.toNat then min s.power.vto.toNat (s.power.vcore.toNat + us)
  else max s.power.vto.toNat (s.power.vcore.toNat - us)

/-- The rail's slew is reckoned from the present moment on. -/
def railHere (mv : Nat) (s : State) : State :=
  { s with power := { s.power with vcore := BitVec.ofNat 10 mv, railAt := nsNow s } }

/-- Retargets the core rail for a core step (R356): nominal voltage plus 2.5 mV units, held within 620 mV to 800 mV. Which
whole number of mV an odd trim reads as is free (log 2). -/
def trimRail (off : BitVec 5) (step : BitVec 3) (s : State) : State :=
  let s := railHere (railNow s) s
  let twice : Int := 2 * (stepMillivolt step : Int) + 5 * off.toInt
  let up := off.toNat % 2 == 1 && Config.free 1 s.freeCtr == 1
  let mv := twice / 2 + (if up then 1 else 0)
  let out := decide (twice < 1240) || decide (1600 < twice)
  { s with
    freeCtr := if off.toNat % 2 = 1 then s.freeCtr + 1 else s.freeCtr
    power := { s.power with voltOffset := off, clamped := s.power.clamped || out, clampedAt := if out then s.time.cycle + 1 else s.power.clampedAt,
                            vto := BitVec.ofNat 10 (max 620 (min 800 mv)).toNat } }

/-- The core step whose voltage the rail is to have: the one in force, or the higher one that a QUIESCE is about to apply (R355, R356). -/
def railStep (s : State) : BitVec 3 := match s.quiesce with
  | some z => if z.readyAt.isSome && z.restoring.isNone && decide (s.power.coreStep.toNat < z.step.toNat) then z.step else s.power.coreStep
  | none => s.power.coreStep

/-- A write of VOLT_OFFSET; a value outside −8 to +8 is no trim and changes nothing. -/
def setVoltOffset (v : W32) (s : State) : State :=
  let off : BitVec 5 := v.setWidth 5
  let s := if bit v 5 && s.power.clampedAt != s.time.cycle + 1 then { s with power := { s.power with clamped := false } } else s
  if -8 ≤ off.toInt ∧ off.toInt ≤ 8 then trimRail off (railStep s) s else s

/-! ### Crossings, temperature, energy -/

/-- A crossing loses margin (R40): every task with a segment spanning it is faulted, which halts it as R117 says. The REASON is free: the
manual names none (log 2). -/
def execCrossingMarginLoss (sec : SecIx) (s : State) : Out :=
  let s := record { s with xingAlarm := setBit s.xingAlarm sec.val true } 0x2200 fatal sec.val 0 0 0
  let spans := fun x : Task => x.live && x.segs.any fun f => spansCrossing s ((segSectors f x.hdr.segSectors).flatMap sectorCores) sec
  .next ((List.finRange 16).foldl (fun s t =>
    if spans s.tasks[t] then
      haltTask t (Config.free 8 s.freeCtr) { s with freeCtr := s.freeCtr + 1 }
    else s) s)

/-- The least junction limit in force at the sectors that a region feeds (R363, R373). -/
def junctionLimit (s : State) (r : Fin 29) : Nat :=
  ((List.finRange 12).filter fun p => (feeds p).contains r).foldl (fun a p => min a s.duty[p].tjLim) 16

def execJunctionTemp (r : Fin 29) (celsius : Byte) (s : State) : Out :=
  let x := s.regions[r]
  let t := celsius.toNat
  let w := s.power.tjWarn.toNat
  let warned := if w < t then true else if t < w - 2 then false else x.tjWarned
  let hot := if 100 < t then true else if t < 98 then false else x.tjHot
  let s := modRegion s r fun x => { x with temp := celsius, tjWarned := warned, tjHot := hot }
  let s := if warned && !x.tjWarned then record s 0x8201 notice r.val 0 t 0 else s
  let s := if hot && !x.tjHot then
      record (detBreak (decide (junctionLimit s r < 16)) s) 0x8202 error r.val 0 t 0 else s
  if 110 ≤ t && !s.power.shutdown then .next (thermalShutdown 1 (record s 0x8203 fatal r.val 0 t 0)) else .next s

def execEnergyIntegrate (microjoules : Nat) (s : State) : Out :=
  .next { s with power := { s.power with energy := s.power.energy + BitVec.ofNat 64 microjoules } }

end Sys2Proof.Machine
end

