-- ==== Sys2Proof/Machine/Port.lean ====
section
/-! DEFINITION. Stack ports and their memory controllers: arbitration (R199), combining (R201, R202), records through the
apertures (R251 to R254, R281), refresh (R292), the patrol scrubber (R290) and stack temperature (R291), with the
snoops that a device agent's access waits for (R307). -/

namespace Sys2Proof.Machine

/-- The 256 B granule of stacked memory a request lies in. -/
def MemReq.granule (r : MemReq) : Nat := directOf r.addr / 256

/-- The aperture of a record write. -/
def recordAlias (a : Nat) : Option Alias := match spaceOf a with
  | some .param => some .param
  | some .table => some .table
  | _ => none

/-! ### Arrival at a port -/

/-- Whether an access waits for a snoop to its granule (R307); a later one to the same granule waits behind it, and is served after the
access that the snoop was for. -/
def heldBySnoop (s : State) (r : MemReq) : Bool :=
  s.cxl.snoops.any (fun q => q.2.2.granule == r.granule)
  || (!r.snooped && s.fabric.any fun q => q.snooped && q.granule == r.granule)

/-- The tracked lines a device agent's access must snoop first. -/
def snoopsFor (s : State) (r : MemReq) : List Nat :=
  if r.agent == .host || r.snooped then [] else trackedLines s (directOf r.addr) r.len

/-- Room in a channel queue (64 entries). -/
def queueRoom (s : State) (p : SecIx) (r : MemReq) : Bool :=
  decide ((s.ports[p].queue.filter fun q => channelOf (directOf q.req.addr) == channelOf (directOf r.addr)).length < 64)

/-- A line enters the snoop filter; a full filter evicts its oldest line first (R307). -/
def trackLine (l : Nat) (s : State) : State :=
  if s.cxl.filter.contains l then s
  else
    let s := if 262144 ≤ s.cxl.filter.length then
        match s.cxl.filter with
        | [] => s
        | o :: _ => let s := sendSnoop o true s; { s with cxl := { s.cxl with sfEvict := satInc s.cxl.sfEvict } }
      else s
    { s with cxl := { s.cxl with filter := s.cxl.filter ++ [l] } }

/-- The earlier of two deadlines, compared modulo 2^32 (R198). -/
def earlier (a b : W32) : W32 := if (a - b).toInt ≤ 0 then a else b

/-- The open combining entry of a granule. -/
def Port.openEntry (x : Port) (g : Nat) : Option Combine := x.entries.find? fun e => e.open_ && e.gran == g

def Port.modEntry (x : Port) (id : Nat) (f : Combine → Combine) : Port :=
  { x with entries := x.entries.map fun e => if e.id == id then f e else e }

/-- Closes the open entry of a granule (R202); one whose data has returned is gone. -/
def Port.closeGranule (x : Port) (g : Nat) : Port :=
  { x with entries := (x.entries.map fun e => if e.gran == g then { e with open_ := false } else e).filter fun e =>
      !(e.gran == g && e.returned) }

/-- The bytes and granule poison a member asked for, out of an entry's 256 B. -/
def Combine.part (e : Combine) (r : MemReq) : List Byte × List Bool :=
  let o := directOf r.addr % 256
  ((e.data.drop o).take r.len, (e.poison.drop (o / 64)).take (granules o r.len).length)

/-- An entry's time is over: 64 port cycles from its opening read (R201). -/
def Combine.over (e : Combine) (pc : Nat) : Bool := e.open_ && decide (e.opened + 64 ≤ pc)

/-- Closes the entries whose time is over (R201). -/
def closeOld (p : SecIx) (s : State) : State :=
  let now := pcNow s p
  (s.ports[p].entries.filter fun e => e.over now).foldl (fun s e => modPort s p fun x => x.closeGranule e.gran) s

/-- A read reaches its port: it joins the open entry of its granule, opens one, or is performed alone (R201). -/
def readArrives (p : SecIx) (r : MemReq) (s : State) : State :=
  let s := closeOld p s
  match s.ports[p].openEntry r.granule with
  | some e =>
    let s := modPort s p fun x => { x with combined := satInc x.combined }
    if e.returned then answerMem r (e.part r).1 (e.part r).2 s
    else modPort s p fun x => x.modEntry e.id fun e =>
      { e with members := e.members ++ [r], hot := e.hot || r.rt, deadline := earlier e.deadline r.deadline }
  | none =>
    let full := decide (128 ≤ (s.ports[p].entries.filter fun e => !e.alone).length)
    let e : Combine :=
      { id := r.id, gran := r.granule, members := [r], alone := full, open_ := !full, opened := pcNow s p, hot := r.rt,
        deadline := r.deadline, served := false, returned := false, data := [], poison := [] }
    modPort s p fun x =>
      { x with combineFull := if full then satInc x.combineFull else x.combineFull
               queue := x.queue ++ [{ req := r, passed := 0, came := nsNow s }]
               entries := x.entries ++ [e] }

/-- A write reaches its port: it closes its granule's entry (R202) and is queued. -/
def writeArrives (p : SecIx) (r : MemReq) (s : State) : State :=
  modPort s p fun x =>
    let x := x.closeGranule r.granule
    { x with queue := x.queue ++ [{ req := r, passed := 0, came := nsNow s }] }

/-- The source of a request on the bulk network: requests of one source to one port keep their order (R15). The slots of a core share its
stream engine, the engines their place in the hub, the requests of another device the link they come by (log 99). -/
def sameSource : Agent → Agent → Bool
  | .stream c _, .stream d _ => c == d
  | .remote a _, .remote b _ => a == b
  | .engine _ _, .engine _ _ => true
  | .record _ _, .record _ _ => true
  | a, b => a == b

/-- The requests for a stack port that are the first of their sources, in the order they set out. -/
def portHeads (p : SecIx) : List MemReq → List MemReq
  | [] => []
  | r :: rs =>
    let hs := portHeads p rs
    if stackOf (directOf r.addr) == p then r :: hs.filter fun q => !sameSource r.agent q.agent else hs

/-- The request that reaches a stack port next: of the first ones of their sources that have had the time to arrive and that the port
can take, the lowest key of R199. -/
def portNext (s : State) (p : SecIx) : Option MemReq :=
  let ok := (portHeads p s.fabric).filter fun r => decide (r.due ≤ s.time.cycle) && !heldBySnoop s r && queueRoom s p r
  let key := fun r : MemReq => rankOf s (bitsOf (cfgOf s (portUnit p)).arb 0 16) r.rt r.deadline (rankable s r)
  match ok with
  | [] => none
  | r :: rs => some (rs.foldl (fun a b => if keyBelow (key b) (key a) then b else a) r)

def execStackPortRequest (p : SecIx) (s : State) : Out :=
  match portNext s p with
  | none => .next s
  | some r =>
    let s := { s with fabric := s.fabric.erase r }
    if !portRuns s p then .next (failMem r s)
    else
      let ls := snoopsFor s r
      if !ls.isEmpty then
        .next (ls.foldl (fun s l =>
          let s := sendSnoop l r.write { s with cxl := { s.cxl with snoops := s.cxl.snoops ++ [(l, r.write, r)] } }
          s) s)
      else
        let s := if r.agent == .host && !r.write && inWindow s (directOf r.addr) then
            (granules (directOf r.addr) r.len).foldl (fun s l => trackLine l s) s
          else s
        .next (if r.write then writeArrives p r s else readArrives p r s)

/-- The response to a snoop (R307): an access whose last one this was proceeds to its port. -/
def execBisnpResponse (line : W64) (s : State) : Out :=
  let mine := s.cxl.snoops.filter fun q => q.1 == line.toNat
  let s := { s with cxl := { s.cxl with snoops := s.cxl.snoops.filter fun q => q.1 != line.toNat } }
  .next (mine.foldl (fun s q =>
    if s.cxl.snoops.any fun o => o.2.2.id == q.2.2.id then s
    else { s with fabric := { q.2.2 with snooped := true } :: s.fabric }) s)

/-! ### Service (R199) -/

/-- The key of a queued request: a read ranks with the class and the deadline of its entry (R199, R201). -/
def portKey (s : State) (p : SecIx) (q : Queued) : Key :=
  let x : Bool × W32 := if q.req.write then (q.req.rt, q.req.deadline)
    else match s.ports[p].entries.find? fun e => e.id == q.req.id with
      | some e => (e.hot, e.deadline)
      | none => (q.req.rt, q.req.deadline)
  rankOf s (bitsOf (cfgOf s (portUnit p)).arb 0 16) x.1 x.2 (rankable s q.req)

/-- Those of a channel's requests that have no earlier one to their granule. -/
def eligible : List Nat → List Queued → List Queued
  | _, [] => []
  | gs, q :: qs => if gs.contains q.req.granule then eligible gs qs else q :: eligible (q.req.granule :: gs) qs

/-- The granules that the parts received of a record in assembly lie in: what came to them later waits until the record is judged
(log 102). What came to its other granule before the part that is still to come does not wait for it. -/
def assembling (s : State) (p : SecIx) : List Nat :=
  s.ports[p].records.flatMap fun x => x.pieces.flatMap fun q => (granules (x.addr + q.1) q.2.length).map (· / 4)

/-- A record write, which RECORD_PART_ARRIVAL takes from the queue. -/
def Queued.part (q : Queued) : Bool := q.req.write && (recordAlias q.req.addr).isSome

/-- A queued read of the snapshot's own copy: it does not wait behind a write that waits for it (R344). -/
def Queued.copy (s : State) (q : Queued) : Bool := !q.req.write && match q.req.agent, s.mir.take with
  | .engine key _, some r => key == entryKey r.slot r.q
  | _, _ => false

/-- What a channel may serve next: what no earlier request to its granule precedes (R199); a part of a record also where its record is in
assembly. A write to what a snapshot has yet to read is held (R344). -/
def mayServe (s : State) (p : SecIx) (qs : List Queued) : List Queued :=
  let free := eligible (assembling s p) qs
  let parts := eligible [] qs
  let copies := eligible (assembling s p) (qs.filter fun q => !heldWrite s q)
  qs.filter fun q => !heldWrite s q
    && (if q.part then parts.contains q else if q.copy s then copies.contains q else free.contains q)

/-- The request a channel takes next, and whether BYPASS_LIMIT forced it (R199). -/
def pickRequest (s : State) (p : SecIx) (qs : List Queued) : Option (Queued × Bool) :=
  let el := mayServe s p qs
  let lim := atLeast1 (bitsOf (cfgOf s (portUnit p)).arb 16 5)
  match el.find? fun q => decide (lim ≤ q.passed) with
  | some q => some (q, true)
  | none => match el with
    | [] => none
    | q :: r => some (r.foldl (fun a b => if keyBelow (portKey s p b) (portKey s p a) then b else a) q, false)

/-- The earlier requests of the channel that a served one with a lower key passes over. -/
def passOver (s : State) (p : SecIx) (chan : Nat) (w : Queued) : Bool → List Queued → List Queued
  | _, [] => []
  | seen, q :: qs =>
    if q = w then passOver s p chan w true qs
    else if !seen && channelOf (directOf q.req.addr) == chan && keyBelow (portKey s p w) (portKey s p q) then
      { q with passed := q.passed + 1 } :: passOver s p chan w seen qs
    else q :: passOver s p chan w seen qs

/-- The 64 B granule poison of a 256 B granule of stacked memory. -/
def granPoison (s : State) (a n : Nat) : List Bool :=
  (List.range ((n + 63) / 64)).map fun i => tget false s.dramPoison (a / 32 + 2 * i) || tget false s.dramPoison (a / 32 + 2 * i + 1)

/-- A DRAM access of a stack port in the window's activity (R366): its bytes, and one activate (log 107). -/
def countAccess (p : SecIx) (n : Nat) (s : State) : State :=
  actAdd (actOf p) (fun a => { a with port := a.port + n, activates := a.activates + 1 }) s

/-- The DRAM access of a served read fills its entry; the words that the check finds bad are poisoned first (R287). -/
def serveRead (p : SecIx) (r : MemReq) (found : Finds) (s : State) : State :=
  let a := r.granule * 256
  let s := checkWords (words32 a 256) found s
  modPort s p fun x => x.modEntry r.id fun e =>
    { e with served := true, data := dramBytes s a 256, poison := granPoison s a 256 }

/-- A write in place (R288): a word written in part is read and checked first. -/
def serveWrite (r : MemReq) (found : Finds) (s : State) : State :=
  let a := directOf r.addr
  let s := checkWords ((words32 a r.data.length).filter fun w =>
    !(decide (a ≤ 32 * w) && decide (32 * w + 32 ≤ a + r.data.length))) found s
  answerMem r [] [] (dramWrite a r.data (fun w => r.poison.getD ((32 * w - a) / 64) false) s)

/-- The requests queued at a channel of a port. -/
def chanQueue (s : State) (p : SecIx) (chan : Nat) : List Queued :=
  s.ports[p].queue.filter fun q => channelOf (directOf q.req.addr) == chan

/-- A request leaves its channel's queue: those that it passes over are counted, and whether it was forced or promoted (R199). -/
def takeQueued (p : SecIx) (chan : Nat) (w : Queued) (forced : Bool) (s : State) : State :=
  let k := portKey s p w
  let promoted := !forced && k.cls == 0 && (chanQueue s p chan).any fun q => let j := portKey s p q; j.cls == 1 && j.sooner k
  let queue := passOver s p chan w false s.ports[p].queue
  modPort s p fun x =>
    { x with queue := queue, forced := if forced then satInc x.forced else x.forced
             rtPromoted := if promoted then satInc x.rtPromoted else x.rtPromoted }

/-- A channel whose turn is a record's part waits for RECORD_PART_ARRIVAL to take it. -/
def execStackRequestServe (p : SecIx) (chan : Fin 64) (found : Finds) (s : State) : Out :=
  match pickRequest s p (chanQueue s p chan.val) with
  | none => .next s
  | some (w, forced) =>
    if w.part then .next s
    else
      let s := takeQueued p chan.val w forced s
      let s := countAccess p (if w.req.write then w.req.len else 256) s
      .next (if w.req.write then serveWrite w.req found s else serveRead p w.req found s)

def execDramReadReturn (p : SecIx) (s : State) : Out :=
  match s.ports[p].entries.find? fun e => e.served && !e.returned with
  | none => .next s
  | some e =>
    let s := modPort s p fun x =>
      { x.modEntry e.id (fun e => { e with returned := true, members := [] }) with
        entries := ((x.modEntry e.id fun e => { e with returned := true, members := [] }).entries).filter fun e =>
          e.open_ || !e.returned }
    .next (e.members.foldl (fun s r => answerMem r (e.part r).1 (e.part r).2 s) s)

/-- An entry closes 64 port cycles after its opening read (R201). -/
def execCombineEntryClose (p : SecIx) (s : State) : Out := .next (closeOld p s)

/-! ### Records (R251 to R254, R281) -/

/-- The bytes of a record in assembly, in order of arrival; none until all 192 are present. -/
def RecordAsm.whole (x : RecordAsm) : Option (List Byte) :=
  let has := (List.range 192).all fun i => x.pieces.any fun q => decide (q.1 ≤ i) && decide (i < q.1 + q.2.length)
  if has then
    some (readBytes (x.pieces.foldl (fun m q => writeBytes m q.1 q.2) []) 0 192)
  else none

/-- The aperture address of a record (R251, R281). -/
def RecordAsm.aperture (x : RecordAsm) : Nat := x.addr + match x.kind with
  | .param => 0x20000000000
  | .table => 0x28000000000

/-- The STEP stored in the place of a record, and the STEP that its parts brought (R252, R377). -/
def storedStep (s : State) (x : RecordAsm) : W32 := BitVec.ofNat 32 (leNat (dramBytes s (x.addr + 164) 4))
def RecordAsm.stepIn (x : RecordAsm) : W32 := BitVec.ofNat 32 (leNat (readBytes (x.pieces.foldl (fun m q => writeBytes m q.1 q.2) []) 164 4))

/-- Discards an incomplete record (R251). Where its header has not come, the STEP that the event gives as incoming is free (log 2). -/
def discardRecord (p : SecIx) (x : RecordAsm) (s : State) : State :=
  let s := modPort s p fun y => { y with records := y.records.erase x, partialDiscard := satInc y.partialDiscard }
  let known := x.pieces.any fun q => decide (q.1 ≤ 164) && decide (168 ≤ q.1 + q.2.length)
  let new := if known then x.stepIn else Config.free 32 s.freeCtr
  let s := record { s with freeCtr := if known then s.freeCtr else s.freeCtr + 1 } 0x3103 error p.val x.aperture (storedStep s x).toNat new.toNat
  x.waiting.foldl (fun s r => answerMem r [] [] s) s

/-- The admission condition of an aperture (R252, R281). -/
def admits (k : Alias) (old new : W32) : Bool := match k with
  | .param => new == old + 1
  | .table => decide (1 ≤ (new - old).toNat) && decide ((new - old).toNat < 2 ^ 31)

/-- HFLAGS.ADOPTED set in a record (byte 161, bit 1). -/
def adopted (bs : List Byte) : List Byte := bs.take 161 ++ [bs.getD 161 0 ||| 2] ++ bs.drop 162

/-- STEP_CHECK (R252): an assembled record against the stored header word, which is read and checked in the same access. -/
def judgeRecord (p : SecIx) (x : RecordAsm) (bs : List Byte) (found : Finds) (s : State) : State :=
  let h := x.addr + 160
  let s := checkWords [h / 32] found s
  let bad := tget false s.dramPoison (h / 32)
  let old := storedStep s x
  let new : W32 := BitVec.ofNat 32 (field bs 164 4)
  let put := fun bs s => modPort (dramWrite x.addr bs (fun _ => false) s) p fun y =>
    (y.closeGranule (x.addr / 256)).closeGranule ((x.addr + 191) / 256)
  if x.poison || bad then
    record (modPort s p fun y => { y with poisonDiscard := satInc y.poisonDiscard }) 0x3102 error p.val x.aperture old.toNat new.toNat
  else if admits x.kind old new then put bs s
  else
    let adopt := bit (cfgOf s (portUnit p)).policy 0
    let s := modPort s p fun y =>
      let y := { y with skew := satInc y.skew, adopt := if adopt then satInc y.adopt else y.adopt }
      if y.skewLatched then { y with skewLatchedAt := s.time.cycle + 1 }
      else { y with skewLatched := true, skewLatchedAt := s.time.cycle + 1, skewAddr := BitVec.ofNat 64 x.aperture, skewStored := old, skewIncoming := new }
    let s := record s 0x3101 error p.val x.aperture old.toNat new.toNat
    if adopt then put (adopted bs) s else s

/-- The records of the 192 B grid that a range touches, with the piece of the range in each. -/
def recordPieces (a : Nat) (bs : List Byte) : List (Nat × Nat × List Byte) :=
  (List.range ((a + bs.length + 191) / 192 - a / 192)).map fun i =>
    let r := (a / 192 + i) * 192
    let lo := max a r
    (r, lo - r, (bs.drop (lo - a)).take (r + 192 - lo))

/-- Parts more than 256 port cycles apart (R251). -/
def RecordAsm.late (x : RecordAsm) (pc : Nat) : Bool := decide (x.at_ + 256 < pc)

/-- Two parts of one record come from one writer: a stream's slot, the work of an engine, a device. -/
def sameWriter : Agent → Agent → Bool
  | .remote a _, .remote b _ => a == b
  | a, b => a == b

/-- One piece of a part joins its writer's record; a complete record is judged. -/
def joinRecord (p : SecIx) (k : Alias) (who : Agent) (poison : Bool) (found : Finds) (q : Nat × Nat × List Byte) (s : State) : State :=
  let now := pcNow s p
  let mine := fun x : RecordAsm => x.addr == q.1 && x.kind == k && sameWriter x.who who
  let old := s.ports[p].records.find? mine
  let s := match old with
    | some x => if x.late now then discardRecord p x s else s
    | none => s
  let x := match s.ports[p].records.find? mine with
    | some x => x
    | none => { addr := q.1, kind := k, who := who, pieces := [], poison := false, waiting := [], at_ := now }
  let y := { x with pieces := x.pieces ++ [(q.2.1, q.2.2)], poison := x.poison || poison, at_ := now }
  let s := modPort s p fun z => { z with records := z.records.erase x }
  match y.whole with
  | some bs => y.waiting.foldl (fun s r => answerMem r [] [] s) (judgeRecord p y bs found s)
  | none => modPort s p fun z => { z with records := z.records ++ [y] }

/-- Whether any 64 B granule of a piece of a request is poisoned: `o` is the piece's offset in the request. -/
def piecePoison (r : MemReq) (o n : Nat) : Bool := (granules (directOf r.addr + o) n).any fun g =>
  r.poison.getD (g - directOf r.addr / 64) false

/-- The record write that is taken next, and whether BYPASS_LIMIT forced it: the first whose channel's turn it is (R199, R251). -/
def partNext (s : State) (p : SecIx) : Option (Queued × Bool) :=
  (s.ports[p].queue.filter Queued.part).findSome? fun q =>
    (pickRequest s p (chanQueue s p (channelOf (directOf q.req.addr)))).filter fun w => w.1.part

def execRecordPartArrival (p : SecIx) (found : Finds) (s : State) : Out :=
  match partNext s p with
  | none => .next s
  | some (w, forced) =>
    let r := w.req
    let a := directOf r.addr
    let k := (recordAlias r.addr).getD .param
    let s := takeQueued p (channelOf a) w forced s
    let s := (recordPieces a r.data).foldl (fun s q => joinRecord p k r.agent (piecePoison r (q.1 + q.2.1 - a) q.2.2.length) found q s) s
    let left := s.ports[p].records.find? fun x => x.kind == k && sameWriter x.who r.agent && decide (x.addr < a + r.data.length) && decide (a < x.addr + 192)
    match left with
    | none => .next (answerMem r [] [] s)
    | some x => .next (modPort s p fun y =>
        { y with records := y.records.map fun z => if z = x then { z with waiting := z.waiting ++ [r] } else z })

def execRecordAssemblyTimeout (p : SecIx) (s : State) : Out :=
  match s.ports[p].records.find? fun x => x.late (pcNow s p) with
  | none => .next s
  | some x => .next (discardRecord p x s)

/-! ### Refresh, scrubbing, temperature -/

/-- The refresh interval of a port in ns (R292). -/
def refreshInterval (x : Port) : Nat := if x.refresh2x then 1950 else 3900

/-- A class-0 request is queued at a port (R292). -/
def urgent (s : State) (p : SecIx) : Bool := s.ports[p].queue.any fun q => (portKey s p q).cls == 0

/-- A postponed refresh of a bank has not been made up when the next one falls due: it is dealt with before time goes on (R292). -/
def refreshOver (s : State) (p : SecIx) : Bool :=
  let x := s.ports[p]
  portRuns s p && x.postponed.any fun q => q.2 != 0 && decide (tget 0 x.refreshAt q.1 + refreshInterval x ≤ nsNow s)

/-- The refresh of a bank (R292): once it is due it is postponed while a class-0 request waits for the bank and the limit of intervals
allows it, else performed with those postponed; what was postponed is made up before that as soon as no such request waits. The bank of an
address is the port's own, so the command says whether a queued class-0 request waits for this one (log 103). -/
def execRefresh (p : SecIx) (bank : Nat) (waiting : Bool) (s : State) : Out :=
  let x := s.ports[p]
  let n := tget 0 x.postponed bank
  let at_ := tget 0 x.refreshAt bank
  let k := (nsNow s - at_) / refreshInterval x
  let wait := waiting && urgent s p
  if !portRuns s p || !(decide (0 < k) || (decide (0 < n) && !wait)) then .next s
  else
    let x := { x with refreshAt := tset 0 x.refreshAt bank (at_ + k * refreshInterval x) }
    let m := n + k
    if wait && decide (m ≤ if x.refresh2x then 4 else 8) then
      .next (modPort s p fun _ => { x with postponed := tset 0 x.postponed bank m })
    else .next (modPort s p fun _ => { x with postponed := tset 0 x.postponed bank 0, refreshes := x.refreshes + m })

/-- Number of 32 B words of a stack. -/
abbrev stackWords : Nat := 805306368

/-- The direct address of word `i` of stack `p` (R286). -/
def scrubAddr (p : SecIx) (i : Nat) : Nat := (32 * i / 768 * 12 + p.val) * 768 + 32 * i % 768

/-- A pass of the scrubber in ns, at SCRUB_HOURS for every word of the stack (R290). -/
def scrubPass (hours : Nat) : Nat := hours * 3600000000000

/-- The scrubber's pass at a number of hours: it began so long before the next word that this one is due now. -/
def Port.scrubAt (x : Port) (now : Int) (hours : Nat) : Port :=
  if x.scrubHours = hours then x else { x with scrubHours := hours, scrubFrom := now - (x.scrub * scrubPass hours / stackWords : Nat) }

/-- The words of a pass fall due evenly over SCRUB_HOURS (R290). -/
def execScrubRead (p : SecIx) (found : Ecc) (s : State) : Out :=
  let hours := bitsOf (cfgOf s (portUnit p)).scrub 0 8
  if !portRuns s p || hours = 0 then .next (modPort s p fun x => { x with scrubHours := 0 })
  else
    let x := s.ports[p].scrubAt (nsNow s) hours
    if (nsNow s : Int) < x.scrubFrom + (x.scrub * scrubPass hours / stackWords : Nat) then .next (modPort s p fun _ => x)
    else
      let a := scrubAddr p x.scrub
      let s := checkWords [a / 32] [(a, found)] (modPort s p fun _ => x)
      .next (modPort s p fun x =>
        if x.scrub + 1 < stackWords then { x with scrub := x.scrub + 1 }
        else { x with scrub := 0, scrubFrom := x.scrubFrom + scrubPass hours, scrubPasses := x.scrubPasses + 1 })

/-- A stack's hottest die (R291). In thermal shutdown its sensor only reads: the leaving of the state waits for it (R374). -/
def execStackTempSample (p : SecIx) (celsius : Byte) (s : State) : Out :=
  if s.power.shutdown then .next (modPort s p fun x => { x with temp := celsius })
  else
    let x := s.ports[p]
    let t := celsius.toNat
    let level := fun (hi lo : Nat) (old : Bool) => if hi < t then true else if t < lo then false else old
    let r2 := level 85 83 x.refresh2x
    let th := level 92 90 x.throttle
    let dt := level 95 93 x.dramThrottle
    let s := modPort s p fun x =>
      { x with temp := celsius, tempMax := if x.tempMax.toNat < t then celsius else x.tempMax, refresh2x := r2, throttle := th,
               dramThrottle := dt }
    let s := if r2 && !x.refresh2x then record s 0x3201 notice p.val 0 t 0 else s
    let s := if th && !x.throttle then
        record (detBreak (decide (s.duty[p].stackLim < 16)) s) 0x3202 notice p.val 0 t 0 else s
    let s := if dt && !x.dramThrottle then record s 0x3203 error p.val 0 t 0 else s
    if 100 ≤ t then .next (thermalShutdown 2 (record s 0x3204 fatal p.val 0 t 0)) else .next s

end Sys2Proof.Machine
end

