-- ==== Sys2Proof/Machine/Array.lean ====
section
/-! DEFINITION. The matrix array (chapter 04) and the M slot of a bundle (R138 to R143): issue and its checks, the
consumption of k-groups, the close of k-blocks, tile boundaries and drains. -/

namespace Sys2Proof.Machine

/-! ### Cells of a shape (R67, R77) -/

/-- Region-relative i + j of cell (i, j), for active cells. -/
def cellOff (sh : Shape) (i j : Nat) : Option Nat :=
  match sh with
  | .f => some (i + j)
  | .h => some (i + j % 32)
  | .q => some (i % 32 + j % 32)
  | .n => if j < 16 then some (i + j) else none
  | .s => if i < 8 then some (i + j) else none

/-- The largest difference, over cells active in both shapes, of the drained tile's offset over the new one's. -/
def maxDiff (old new : Shape) : Option Int :=
  (List.range 4096).foldl (fun a k => match cellOff old (k / 64) (k % 64), cellOff new (k / 64) (k % 64) with
    | some x, some y => some (max (a.getD ((x : Int) - y)) ((x : Int) - y))
    | _, _ => a) none

/-! ### Array faults (R80) -/

/-- An array fault of the running block at block cycle `t`: the first is the block's own, with its event, latched
unless an earlier latch stands; later ones count. A FAULT bit that is already 1 is set again (R9). DESIGN CHOICE (log 121): the block
cycle that FAULT_CYCLE and the event name, and in which the accumulator is marked, is that of the issue, so rows of the
accumulator's earlier tile that are still to be delivered carry the mark too. -/
def arrayFail (c : CoreIx) (t reason : Nat) (accB : Bool) (s : State) : State :=
  let x := s.cores[c]
  match x.blk with
  | none => s
  | some b =>
    let count := fun a : ArrayState => { a with faultCount := satInc a.faultCount }
    match b.arrayFault with
    | some _ => modCore s c fun x => { x with array := count x.array }
    | none =>
      let s := record s (0x2300 + reason) error c.val t 0 0
      modCore s c fun x =>
        { x with
          blk := some { b with arrayFault := some (BitVec.ofNat 16 (reason + 16 * b2n accB)) }
          array := if x.array.fault then { count x.array with faultAt := s.time.cycle + 1 }
                   else { x.array with fault := true, faultAt := s.time.cycle + 1, reason := BitVec.ofNat 4 reason,
                                       faultAcc := accB, faultCycle := BitVec.ofNat 32 t } }

/-- Marks an accumulator poisoned (R76). -/
def ArrayState.mark (a : ArrayState) (accB : Bool) : ArrayState :=
  if accB then { a with poisonB := true } else { a with poisonA := true }

/-- Rows of a marked accumulator's tile still to be delivered carry poison (R76). -/
def Drain.mark (d : Drain) (accB : Bool) : Drain := if d.acc = accB && !d.cleared then { d with poison := true } else d

/-- Marks an accumulator of a core: its state and the rows of its tile still to be delivered (R76). -/
def Core.markAcc (x : Core) (accB : Bool) : Core :=
  { x with array := x.array.mark accB
           blk := x.blk.map fun b => { b with drains := b.drains.map fun d => d.mark accB } }

/-- A fault's mark stands through the clear of a START of the accumulator that is still to come (R80, R141). -/
def Core.markFault (x : Core) (accB : Bool) (t : Nat) : Core :=
  let later := fun q : Mma => if q.f.acc = accB && !q.f.keep && decide (t < q.entry) then { q with pois := true } else q
  { x.markAcc accB with blk := (x.markAcc accB).blk.map fun b => { b with mmas := b.mmas.map later } }

def ArrayState.stateOf (a : ArrayState) (accB : Bool) : AccState := if accB then a.stB else a.stA

def ArrayState.setState (a : ArrayState) (accB : Bool) (st : AccState) : ArrayState :=
  if accB then { a with stB := st } else { a with stA := st }

/-! ### Issue of an MMA (R138 to R143) -/


/-- Whether an accumulator will be OPEN once the MMAs issued so far have run: its last MMA that started or ended a tile in the
block started one, or, with none, it is OPEN now (R70). -/
def openAhead (x : Core) (b : Block) (accB : Bool) : Bool :=
  match (b.mmas.filter fun q => q.f.acc == accB).reverse.find? fun q => !q.f.keep || q.f.ends with
  | some q => !q.f.ends
  | none => x.array.stateOf accB == .open_

/-- Whether the first cell access of an MMA with shape `sh`, at cycle `first`, comes before the drain read of a tile of the same
accumulator (R80, ACC_BUSY). -/
def busyWith (sh : Shape) (first : Int) (q : Bool × Nat × Nat × Shape) : Bool :=
  match maxDiff q.2.2.2 sh with
  | none => false
  | some d => decide (first - (q.2.1 + q.2.2.1 + 4 : Nat) < d)

/-- Whether the drain window of an MMA overlaps that of an ENDing one before it (R75). -/
def windowsMeet (m : Mma) (q : Bool × Nat × Nat × Shape) : Bool :=
  let a := m.entry + m.f.lg.toNat + drainLead m.shape
  let b := q.2.1 + q.2.2.1 + drainLead q.2.2.2
  decide (a < b + drainRows q.2.2.2) && decide (b < a + drainRows m.shape)

/-- The reasons of R80 that an MMA meets at its issue; `p` is the preceding MMA of the block. A KEEP on an OPEN accumulator other
than its predecessor's is KEEP_MISMATCH (DESIGN CHOICE, log 121). -/
def mmaReasons (x : Core) (b : Block) (m : Mma) (p : Option Mma) : List Nat :=
  let l := m.f.lg.toNat
  let f := fmtF m.fmt
  let accB := m.f.acc
  let cut := match p with
    | some q => q.cut.isNone && decide (m.issued < q.issued + q.f.lg.toNat)
    | none => false
  let same := match p with
    | some q => q.shape == m.shape && q.fmt == m.fmt
    | none => x.array.shape == m.shape && x.array.fmt.toNat == m.fmt
  let fence := !m.f.keep && !m.f.chain && (cut || match p with
    | some q => decide (m.entry < q.entry + q.f.lg.toNat + skew q.shape)
    | none => false)
  let gap := !m.f.keep && m.f.chain && (cut || match p with
    | some q => decide (m.entry < q.entry + q.f.lg.toNat + 4)
    | none => false)
  let chainBad := !m.f.keep && m.f.chain && match p with
    | some q => !q.f.ends || !same || q.f.acc == accB
    | none => true
  let keepBad := m.f.keep && (cut || !same || !openAhead x b accB || match p with
    | some q => q.f.ends || q.f.acc != accB
    | none => false)
  let first : Int := if m.f.keep then m.entry else (m.entry : Int) - 1
  let busy := b.ends.any fun q => q.1 == accB && busyWith m.shape first q
  let overlap := m.f.ends && b.ends.any (windowsMeet m)
  let kb := (if m.f.keep then x.array.tileK else 0) + l / f
  let length := l == 0 || decide (4096 < l) || l % f != 0 || decide (4096 < kb) || decide (5 ≤ m.f.dest.toNat)
  (if fence then [1] else []) ++ (if gap then [2] else []) ++ (if chainBad then [3] else [])
    ++ (if keepBad then [4] else []) ++ (if busy then [5] else []) ++ (if overlap then [6] else [])
    ++ (if length then [7] else [])

/-- Register updates of an MMA at the end of its issue cycle (R139, R143); a reserved FORMAT advances the scale base as the FP8 class's f
gives (R414). -/
def mmaUpdates (m : Mma) : List RegUpd :=
  let l := m.f.lg.toNat
  let d : Fin 16 := ⟨m.f.dn.toNat % 16, by omega⟩
  let au := if m.f.au then
      [RegUpd.baAdd m.f.la (256 * l)] ++ (if m.shape = .q then [RegUpd.baAdd (m.f.la + 1) (256 * l)] else [])
        ++ (if isMx m.fmt || isReserved m.fmt then [RegUpd.baAdd (scaleReg m.shape m.f.la) (64 * (l / fmtF m.fmt))] else [])
    else []
  let du := if m.f.du && m.f.ends && m.f.dest = 1 then
      match m.shape with
      | .f => [RegUpd.baAdd d (256 * 64)]
      | .h => [.baAdd d (128 * 64), .baAdd (d + 1) (128 * 64)]
      | .q => [.baAdd d (128 * 32), .baAdd (d + 1) (128 * 32), .baAdd (d + 2) (128 * 32), .baAdd (d + 3) (128 * 32)]
      | .n => [.baAdd d (64 * 64)]
      | .s => [.baAdd d (256 * 8)]
    else []
  let two := (m.shape = .h || m.shape = .q) && m.f.xa != m.f.xb
  au ++ du ++ xuUpd m.f.xu ([m.f.xa] ++ (if two then [m.f.xb] else [])) (l / fmtF m.fmt)

/-- An MMA issues (R140): checks, the cut of an unfinished predecessor (R141), the record, the register updates. -/
def issueMma (c : CoreIx) (sh : Shape) (m : MFields) (b : Block) (t : Nat) (s : State) : State :=
  let x := s.cores[c]
  let i := mkMma b t sh m
  let p := b.mmas.getLast?
  let rs := mmaReasons x b i p
  let bad := !rs.isEmpty || isReserved i.fmt
  let both := rs.contains 1 || rs.contains 2
  let cutIt := match p with
    | some q => q.cut.isNone && decide (t < q.issued + q.f.lg.toNat)
    | none => false
  let i := { i with pois := bad, dpois := rs.contains 6 }
  let s := match rs with
    | [] => s
    | r :: _ => arrayFail c t r m.acc s
  let s := if isReserved i.fmt then record s 0x2310 error c.val t 0 0 else s
  modCore s c fun x =>
    let x := if bad then x.markFault m.acc t else x
    let x := if both then x.markFault (!m.acc) t else x
    let x := match p with
      | some q => if cutIt then x.markFault q.f.acc t else x
      | none => x
    { x with
      array := { x.array with tileK := (if m.keep then x.array.tileK else 0) + m.lg.toNat / fmtF i.fmt }
      blk := x.blk.map fun b =>
        { b with
          mUsed := some t
          mmas := (match b.mmas.getLast? with
            | some q => if cutIt then b.mmas.dropLast ++ [{ q with cut := some t, pois := true }] else b.mmas
            | none => b.mmas) ++ [i]
          updM := b.updM ++ mmaUpdates i
          ends := if m.ends then b.ends.filter (fun q => t ≤ q.2.1 + q.2.2.1 + 4 + skew q.2.2.2)
                    ++ [(m.acc, i.entry, m.lg.toNat, sh)] else b.ends } }

/-- A command for the M slot of the bundle that issues in this cycle. -/
def mma (c : CoreIx) (sh : Shape) (m : MFields) (s : State) : Out :=
  match bundleNow s c with
  | none => .next s
  | some (b, t, bu) =>
    if slotM bu = encM (shapeOp sh) m && b.mUsed != some t then .next (issueMma c sh m b t s) else .next s

def execMnop (c : CoreIx) (s : State) : Out :=
  match bundleNow s c with
  | none => .next s
  | some (b, t, bu) =>
    if slotM bu = 0 && b.mUsed != some t then .next (modCore s c fun x => x.modBlk fun b => { b with mUsed := some t })
    else .next s

def execMmaF (c : CoreIx) (m : MFields) (s : State) : Out := mma c .f m s
def execMmaH (c : CoreIx) (m : MFields) (s : State) : Out := mma c .h m s
def execMmaQ (c : CoreIx) (m : MFields) (s : State) : Out := mma c .q m s
def execMmaN (c : CoreIx) (m : MFields) (s : State) : Out := mma c .n m s
def execMmaS (c : CoreIx) (m : MFields) (s : State) : Out := mma c .s m s

/-! ### Consumption (R60, R67) and the close of a k-block (R86) -/

/-- The element codes of column or row `j` of a k-group (R41). -/
def groupElems (fmt : Nat) (w : Line) (j : Nat) : List Val :=
  let cb := if fmt = 6 || fmt = 7 then 24 else 32
  (List.range (fmtG fmt)).map fun i =>
    decodeElem fmt (w.toNat / 2 ^ (cb * j + elemBits fmt * i) % 2 ^ elemBits fmt)

/-- The travelling operand of cell column `j`: second station or not, and the flit column (R77). -/
def cellCol (sh : Shape) (colsel j : Nat) : Bool × Nat :=
  match sh with
  | .h | .q => (decide (32 ≤ j), j)
  | .n => (false, 16 * colsel + j)
  | _ => (false, j)

/-- Closes a k-block into every active cell of the target (R86). `sl` is the scale line of the local operand. -/
def closeBlock (m : Mma) (ks : List KGroup) (sl : Gran) (acc : Tbl W32) : Tbl W32 :=
  let fmt := m.fmt
  let scale := fun (g : Gran) (j : Nat) => if isMx fmt then g.toNat / 2 ^ (8 * j) % 256 else 127
  (List.range 4096).foldl (fun out k =>
    let i := k / 64
    let j := k % 64
    let old := tget 0 acc k
    match cellOff m.shape i j with
    | none => if old = 0 then out else out ++ [(k, old)]
    | some _ =>
      let cc := cellCol m.shape (m.f.xb.val % 4) j
      let a := ks.flatMap fun g => if m.shape = .q && 32 ≤ i then groupElems fmt g.l1 (i - 32) else groupElems fmt g.l0 i
      let b := ks.flatMap fun g => groupElems fmt (if cc.1 then g.x1 else g.x0) cc.2
      let v := BitVec.ofNat 32 (closeKblock old.toNat a b (scale sl i) (scale (if cc.1 then m.xs1 else m.xs0) cc.2))
      if v = 0 then out else out ++ [(k, v)]) []

/-- The MMA that consumes a k-group in block cycle `t`. -/
def consumer (b : Block) (t : Nat) : Option Mma :=
  b.mmas.find? fun m => m.live t && decide (m.t < m.f.lg.toNat) && m.entry + m.t == t

/-- The lanes an MMA reads, with their tag registers: X0, and X1 in MMA.H and MMA.Q. -/
def Mma.stations (m : Mma) : List (Lane × W64) :=
  (trLane m.x0, m.x0) :: if m.shape = .h || m.shape = .q then [(trLane m.x1, m.x1)] else []

/-- The tag check of one station for the k-group being consumed (R60 to R62): the state after it and whether the
accumulator is to be marked. -/
def checkTag (c : CoreIx) (t : Nat) (m : Mma) (st : Lane × W64) (s : State) : State × Bool :=
  let x := s.cores[c]
  let fl := (stationFlit s st.1 c).map (·.flit)
  let n := m.f.lg.toNat
  let exp := expectTag st.2 x.epoch m.t n (fmtF m.fmt)
  let r := tagReason st.2 exp fl true
  if r = 0 then (s, false)
  else if x.girth.tagCheck then
    (girthFail c t r exp (match fl with
      | some f => f.tag
      | none => 0) st.1 fl.isNone s, true)
  else (modCore s c fun x => { x with girth := { x.girth with mismatch := satInc x.girth.mismatch } }, false)

/-- A START clears its accumulator and opens it (R70); the marks of faults stand (R80). -/
def openTile (m : Mma) (ar : ArrayState) : ArrayState :=
  let ar := if m.f.acc then { ar with b := [], poisonB := m.pois } else { ar with a := [], poisonA := m.pois }
  { ar.setState m.f.acc .open_ with shape := m.shape, fmt := BitVec.ofNat 4 m.fmt }

/-- The STARTs whose clear falls in block cycle `t`, the cycle before their entry (R70). -/
def openStarts (t : Nat) (x : Core) : Core :=
  match x.blk with
  | none => x
  | some b =>
    (b.mmas.filter fun m => !m.f.keep && m.entry == t + 1).foldl (fun x m =>
      { x with array := openTile m x.array
               blk := x.blk.map fun b =>
                 { b with drains := b.drains.map fun d => if d.acc = m.f.acc then { d with cleared := true } else d } }) x

/-- The granules of the local line of the next k-group, as far as they were read. -/
def Mma.lineGrans (m : Mma) : List Nat := (m.lines.filter fun l => l.t == m.t).flatMap (·.grans)

/-- The granules of scale lines whose data has arrived by block cycle `t`, 6 cc after the read (R170). -/
def Mma.scaleGrans (m : Mma) (t : Nat) : List Nat :=
  m.scaleLines.filterMap fun l => if m.scaleCycle l.b + 6 ≤ t then l.gran else none

/-- An MMA after the check of its scale lines: a word found uncorrectable poisons its line (R172). -/
def Mma.checked (m : Mma) (t : Nat) (found : Finds) : Mma :=
  let bad := fun g : Nat => found.any fun q => q.2 == .uncorrectable && q.1 / 64 == g && (m.scaleGrans t).contains g
  { m with scaleLines := m.scaleLines.map fun l => { l with poison := l.poison || (l.gran.map bad).getD false } }

/-- The granules of the lines that MMAs read before they were cut (R141) and no k-group consumes; their finds are noted with the next
k-group (R172, log 32). -/
def Block.cutLines (b : Block) : List Nat := (b.mmas.filter fun q => q.cut.isSome).flatMap fun q => q.lines.flatMap (·.grans)
def Block.cutScales (b : Block) : List Nat := (b.mmas.filter fun q => q.cut.isSome).flatMap fun q => q.scaleLines.filterMap (·.gran)

/-- `found` is what the checks of the local line and of the scale lines found, whose data arrives in this cycle (R170, R172, log 32). DESIGN CHOICE (log 121): where the depth is no whole number of k-blocks, the products
of the last, partial one are closed into no accumulator. -/
def execKgroupConsume (c : CoreIx) (found : Finds) (s : State) : Out :=
  match blockNow s c with
  | none => .next s
  | some (b, t) =>
    match consumer b t with
    | none => .next s
    | some m0 =>
      if !(m0.stations.all fun st => stationSettled s st.1 c) then .next s
      else
        let m := m0.checked t found
        let fl := m.stations.map fun st => (stationFlit s st.1 c).map (·.flit)
        let chk := m.stations.foldl (fun a st => let r := checkTag c t m st a.1; (r.1, a.2 || r.2)) (s, false)
        let s := applyFinds c 2 (m.scaleGrans t).contains found (applyFinds c 1 m.lineGrans.contains found chk.1)
        let s := applyFinds c 1 (fun g => b.cutLines.contains g && !m.lineGrans.contains g) found s
        let s := applyFinds c 2 (fun g => b.cutScales.contains g && !(m.scaleGrans t).contains g) found s
        let upset := found.any fun q => q.2 == .uncorrectable && m.lineGrans.contains (q.1 / 64)
        let pay := fun i : Nat => match fl.getD i none with
          | some f => f.payload
          | none => 0
        let sca := fun i : Nat => match fl.getD i none with
          | some f => f.scales
          | none => 0
        let fpois := fl.any fun o => match o with
          | some f => f.poisoned
          | none => false
        let line := (m.lines.find? fun l => l.t == m.t).getD { t := m.t, l0 := 0, l1 := 0, poison := false, grans := [] }
        let res := isReserved m.fmt
        let f := fmtF m.fmt
        let kg : KGroup := { l0 := line.l0, l1 := line.l1, x0 := pay 0, x1 := pay 1, poison := fpois || line.poison || upset || chk.2 }
        let firstOrd := m.t % f = 0
        let m1 := { m with t := m.t + 1, kbuf := if firstOrd then [kg] else m.kbuf ++ [kg],
                           xs0 := if firstOrd then sca 0 else m.xs0, xs1 := if firstOrd then sca 1 else m.xs1,
                           lines := m.lines.filter fun l => l.t != m.t }
        let lastOrd := (m.t + 1) % f = 0
        let sl := (m.scaleLines.find? fun l => l.b == m.t / f).getD { b := 0, line := 0, poison := false, gran := none }
        let spois := lastOrd && isMx m.fmt && sl.poison
        let s := modDuty s (sectorOf c) fun d => { d with quietFrom := s.time.cycle }
        .next (modCore s c fun x =>
          let x := if kg.poison || spois then x.markAcc m.f.acc else x
          let ar := x.array
          let ar := if lastOrd && !res then
              if m.f.acc then { ar with b := closeBlock m1 m1.kbuf sl.line ar.b }
              else { ar with a := closeBlock m1 m1.kbuf sl.line ar.a }
            else ar
          { x with
            array := { ar with issue := ar.issue + 1, useful := ar.useful + BitVec.ofNat 64 (activeCells m.shape) }
            blk := x.blk.map fun b =>
              { b with lastEvent := t,
                       mmas := b.mmas.map fun q => if q.issued = m.issued then
                         { m1 with scaleLines := if lastOrd then m.scaleLines.filter fun l => l.b != m.t / f else m.scaleLines }
                         else if q.cut.isSome then { q with lines := [], scaleLines := [] } else q } })

/-! ### Tile boundary and drain (R71, R74 to R77) -/

/-- The MMA whose tile boundary is over in block cycle `t`: its first cell is read into the drain path. -/
def boundaryDue (b : Block) (t : Nat) : Option Mma :=
  b.mmas.find? fun m => m.f.ends && !m.closed && decide (m.entry + m.f.lg.toNat + 4 ≤ t)

/-- The tile goes to its drain as it stands at the boundary. DESIGN CHOICE (log 121): that is what every cell delivers, also one that a
START of another shape clears before its own drain read (ACC_BUSY). -/
def execTileBoundary (c : CoreIx) (s : State) : Out :=
  match blockNow s c with
  | none => .next s
  | some (b, t) =>
    match boundaryDue b t with
    | none => .next s
    | some m =>
      .next (modCore s c fun x =>
        let ar := x.array
        let d : Drain := { shape := m.shape, acc := m.f.acc, dest := m.f.dest, dn := m.f.dn, bases := m.drains,
                           entry := m.entry, lg := m.f.lg.toNat, row := 0, rows := drainRows m.shape,
                           poison := m.dpois || m.pois || (if m.f.acc then ar.poisonB else ar.poisonA), cleared := false,
                           vals := if m.f.acc then ar.b else ar.a }
        { x with
          array := ar.setState m.f.acc .draining
          blk := x.blk.map fun b =>
            { b with drains := b.drains ++ [d],
                     mmas := b.mmas.map fun q => if q.issued = m.issued then { q with closed := true } else q } })

/-- Array row `r` of a drained tile as FP32 codes: 64 columns, zeros where the shape has no active cells. -/
def Drain.row? (d : Drain) (r : Nat) : List W32 :=
  (List.range 64).map fun j => if (cellOff d.shape r j).isSome then tget 0 d.vals (64 * r + j) else 0

/-- The bytes of some columns of a row. -/
def wordsLe (ws : List W32) : List Byte := ws.flatMap fun w => natLe 4 w.toNat

/-- The pieces a row writes to the scratchpad: for each base its address and bytes (R74, R77). -/
def Drain.pieces (d : Drain) (r : Nat) : List (Nat × List Byte) :=
  let ws := d.row? r
  match d.shape with
  | .h | .q => (d.rowAt r).zip [wordsLe (ws.take 32), wordsLe (ws.drop 32)] |>.map fun p => (p.1.1, p.2)
  | .n => (d.rowAt r).map fun p => (p.1, wordsLe (ws.take 16))
  | _ => (d.rowAt r).map fun p => (p.1, wordsLe ws)

/-- A wide-buffer sum: one rounding to FP32 with subnormals kept (R74). -/
def wbAdd (a b : W32) : W32 := BitVec.ofNat 32 (f32.add (f32.decode a.toNat) (f32.decode b.toNat)).1

/-- Writes or adds a row into wide-buffer slot `n`. DESIGN CHOICE (log 121): a WB_SET without poison leaves the slot's mark. -/
def wbRow (add : Bool) (n : Nat) (d : Drain) (r : Nat) (x : Core) : Core :=
  let wb := (List.range 64).foldl (fun t j =>
    if (cellOff d.shape r j).isSome then
      let k := n * 4096 + 64 * r + j
      let v := tget 0 d.vals (64 * r + j)
      tset 0 t k (if add then wbAdd (tget 0 t k) v else v)
    else t) x.wb
  { x with wb := wb, wbPoison := if d.poison then setBit x.wbPoison n true else x.wbPoison }

/-- Delivers one row to its destination (R74, R76). -/
def deliverRow (c : CoreIx) (t : Nat) (d : Drain) (s : State) : State :=
  let r := d.row
  match d.dest.toNat with
  | 1 => ((d.pieces r).zip (List.range 4)).foldl (fun s p => blockWrite c 0 d.entry p.2 p.1.1 p.1.2 d.poison s) s
  | 2 => modCore s c fun x => x.modBlk fun b =>
      { b with drn := some (t, { bits := BitVec.ofNat 2048 (leNat (wordsLe (d.row? r))),
                                 poison := if d.poison then 15 else 0 }) }
  | 3 => modCore s c (wbRow false d.dn.toNat d r)
  | 4 => modCore s c (wbRow true d.dn.toNat d r)
  | _ => s

/-- The drain that delivers a row in block cycle `t`. -/
def drainDue (b : Block) (t : Nat) : Option Drain :=
  b.drains.find? fun d => decide (d.row < d.rows) && d.rowCycle d.row == t

def execDrainRow (c : CoreIx) (s : State) : Out :=
  match blockNow s c with
  | none => .next s
  | some (b, t) =>
    match drainDue b t with
    | none => .next s
    | some d =>
      let s := deliverRow c t d s
      .next (modCore s c fun x => x.modBlk fun b =>
        { b with lastEvent := t,
                 drains := b.drains.flatMap fun e => if e.entry = d.entry && e.acc = d.acc then
                   (if d.row + 1 = d.rows then [] else [{ e with row := d.row + 1 }]) else [e] })

end Sys2Proof.Machine
end

