-- ==== Sys2Proof/Machine/Flags.lean ====
section
/-! DEFINITION. The flags of vector operations (R93 to R96): which of INVALID, DIVZERO, OVERFLOW and UNDERFLOW each
lane raises, with the lane's result. -/

namespace Sys2Proof.Machine

/-- The format of a lane: FP32, or BF16 when BF = 1 (R93). -/
def laneFmt (bf : Bool) : FFmt := if bf then bf16 else f32

/-- One lane of VABS and VNEG (R155): `g` on the code, a NaN gives QNAN. -/
def laneSign (bf : Bool) (g : Nat → Nat) (x : Nat) : Nat × VF :=
  let f := laneFmt bf
  let v := f.decode x
  if v.isNan then (f.qnan, nanFlag [v]) else (g x, 0)

/-- One lane of VCMP (R155): all ones where the relation holds. Any NaN gives 0. DESIGN CHOICE (log 122): LT and LE are quiet, so only a
signalling NaN raises INVALID. -/
def laneCmp (bf : Bool) (rel : Nat) (x y : Nat) : Nat × VF :=
  let f := laneFmt bf
  let a := f.decode x
  let b := f.decode y
  if a.isNan || b.isNan then (0, nanFlag [a, b])
  else
    let o := a.cmp b
    let hit := if rel = 0 then o == 0 else if rel = 1 then decide (o < 0) else decide (o ≤ 0)
    (if hit then 2 ^ (f.signAt + 1) - 1 else 0, 0)

/-- One addition of VRED, rounded under R87: an exact zero gives +0.0. -/
def laneRed (x y : Nat) : Nat × VF :=
  let r := f32.add (f32.decode x) (f32.decode y)
  if r.1 = 2 ^ 31 then (0, r.2) else r

/-- UNDERFLOW of a finite x whose delivered value is m' x 2^e' (R96). -/
def mxTiny (m : Nat) (e : Int) (m' : Nat) (e' : Int) : VF :=
  let q := ratio m e
  tinyFlag f32 q.1 q.2 ((exactAdd m e (-(m' : Int)) e').1 != 0)

end Sys2Proof.Machine
end

