-- ==== Sys2Proof/Machine/Vector.lean ====
section
/-! DEFINITION. The V slot (R153 to R160): the vector registers, every V-slot instruction, and the writing of
results at their latencies (R156, R165, R166). -/

namespace Sys2Proof.Machine

/-! ### Lanes -/

/-- The lanes of a register: `n` codes of `w` bits from bit 0. -/
def lanesOf (w n : Nat) (x : Line) : List Nat := (List.range n).map fun i => x.toNat / 2 ^ (w * i) % 2 ^ w

/-- Packs codes of `w` bits from bit 0. -/
def packLanes (w : Nat) (vs : List Nat) : Line := BitVec.ofNat 2048 (vs.foldr (fun v a => v % 2 ^ w + a * 2 ^ w) 0)

/-- The lanes of a mode: 64 FP32 or 128 BF16 (R153). -/
def modeLanes (bf : Bool) (x : VReg) : List Nat := if bf then lanesOf 16 128 x.bits else lanesOf 32 64 x.bits

/-- Collects the lanes' results and the flags they raise. -/
def packMode (bf : Bool) (rs : List (Nat × VF)) : Line × VF :=
  (packLanes (if bf then 16 else 32) (rs.map (·.1)), rs.foldl (fun a r => a ||| r.2) 0)

/-- The poison of a lane-wise result: a quarter is poisoned when any source quarter is (R153). -/
def quarterPoison (xs : List VReg) : BitVec 4 := xs.foldl (fun a x => a ||| x.poison) 0

/-- All four quarters when any source quarter is poisoned: VRED, VCVT and VEXT (R153). -/
def wholePoison (x : VReg) : BitVec 4 := if x.poison = 0 then 0 else 15

/-- A lane-wise operation on one, two or three registers. -/
def lane1 (bf : Bool) (f : Nat → Nat × VF) (a : VReg) : VReg × VF :=
  let r := packMode bf ((modeLanes bf a).map f)
  ({ bits := r.1, poison := a.poison }, r.2)

def lane2 (bf : Bool) (f : Nat → Nat → Nat × VF) (a b : VReg) : VReg × VF :=
  let r := packMode bf (((modeLanes bf a).zip (modeLanes bf b)).map fun p => f p.1 p.2)
  ({ bits := r.1, poison := quarterPoison [a, b] }, r.2)

def lane3 (bf : Bool) (f : Nat → Nat → Nat → Nat × VF) (a b d : VReg) : VReg × VF :=
  let r := packMode bf (((modeLanes bf a).zip ((modeLanes bf b).zip (modeLanes bf d))).map fun p => f p.1 p.2.1 p.2.2)
  ({ bits := r.1, poison := quarterPoison [a, b, d] }, r.2)

/-! ### Issue (R154, R156) -/

/-- A register as an instruction issued at block cycle `t` reads it; 31 is DRN (R153). -/
def Block.vsrc (b : Block) (t : Nat) (r : Fin 32) : VReg :=
  if h : r.val < 31 then b.v[r.val]
  else match b.drn with
    | some (n, x) => if n = t then x else { bits := 0, poison := 0 }
    | none => { bits := 0, poison := 0 }

/-- No row is still to be delivered to DRN in the block cycle. -/
def drnSettled (b : Block) (t : Nat) : Bool :=
  match drainDue b t with
  | some d => d.dest != 2
  | none => true

/-- A command for the V slot of the bundle that issues in this cycle: its effect where the bundle holds it. A reader of
DRN follows the delivery of its cycle. -/
def issueV (c : CoreIx) (w : BitVec 40) (srcs : List (Fin 32)) (s : State) (f : Block → Nat → State → State) : Out :=
  match bundleNow s c with
  | none => .next s
  | some (b, t, bu) =>
    if slotV bu = w && b.vUsed != some t && (drnSettled b t || !srcs.contains 31) then
      .next (f b t (modCore s c fun x => x.modBlk fun b => { b with vUsed := some t }))
    else .next s

/-- A result of latency `lat`, issued at block cycle `t` (R156). -/
def vput (c : CoreIx) (t : Nat) (vd : Fin 32) (lat : Nat) (r : VReg × VF) (s : State) : State :=
  modCore s c fun x => x.modBlk fun b =>
    { b with vres := b.vres ++ [{ vd := vd, due := t + lat - 1, issued := t, val := r.1, flags := r.2 }] }

/-- The latency of the special functions under the profile in force (R165, R166): a profile 3.0 task keeps 12 cc on
either stepping. -/
def sfuLat (s : State) (c : CoreIx) : Nat :=
  match taskOn s c with
  | some (_, T) => if T.hdr.profile = 0x31 then 10 else 12
  | none => 12

def pushUpdV (c : CoreIx) (us : List RegUpd) (s : State) : State :=
  modCore s c fun x => x.modBlk fun b => { b with updV := b.updV ++ us }

/-- Instructions of one, two and three sources. -/
def v1 (c : CoreIx) (op : Nat) (vd va : Fin 32) (bf : Bool) (aux lat : Nat) (g : VReg → VReg × VF) (s : State) : Out :=
  issueV c (encV op vd.val va.val 0 0 bf aux) [va] s fun b t s => vput c t vd lat (g (b.vsrc t va)) s

def v2 (c : CoreIx) (op : Nat) (vd va vb : Fin 32) (bf : Bool) (aux lat : Nat) (g : VReg → VReg → VReg × VF)
    (s : State) : Out :=
  issueV c (encV op vd.val va.val vb.val 0 bf aux) [va, vb] s fun b t s =>
    vput c t vd lat (g (b.vsrc t va) (b.vsrc t vb)) s

def v3 (c : CoreIx) (op : Nat) (vd va vb vc : Fin 32) (bf : Bool) (lat : Nat) (g : VReg → VReg → VReg → VReg × VF)
    (s : State) : Out :=
  issueV c (encV op vd.val va.val vb.val vc.val bf 0) [va, vb, vc] s fun b t s =>
    vput c t vd lat (g (b.vsrc t va) (b.vsrc t vb) (b.vsrc t vc)) s

/-! ### The instructions (R155) -/

def execVnop (c : CoreIx) (s : State) : Out := issueV c 0 [] s fun _ _ s => s

/-- An arithmetic lane operation on decoded values. -/
def arith2 (bf : Bool) (g : FFmt → Val → Val → Nat × VF) (x y : Nat) : Nat × VF :=
  let f := laneFmt bf
  g f (f.decode x) (f.decode y)

def execVadd (c : CoreIx) (vd va vb : Fin 32) (bf : Bool) (s : State) : Out :=
  v2 c 0x01 vd va vb bf 0 4 (lane2 bf (arith2 bf FFmt.add)) s
def execVsub (c : CoreIx) (vd va vb : Fin 32) (bf : Bool) (s : State) : Out :=
  v2 c 0x02 vd va vb bf 0 4 (lane2 bf (arith2 bf FFmt.sub)) s
def execVmul (c : CoreIx) (vd va vb : Fin 32) (bf : Bool) (s : State) : Out :=
  v2 c 0x03 vd va vb bf 0 4 (lane2 bf (arith2 bf FFmt.mul)) s

def execVfma (c : CoreIx) (vd va vb vc : Fin 32) (bf : Bool) (s : State) : Out :=
  let f := laneFmt bf
  v3 c 0x04 vd va vb vc bf 4 (lane3 bf fun x y z => f.fma (f.decode x) (f.decode y) (f.decode z)) s

def execVmin (c : CoreIx) (vd va vb : Fin 32) (bf : Bool) (s : State) : Out :=
  v2 c 0x05 vd va vb bf 0 2 (lane2 bf ((laneFmt bf).minmax false)) s
def execVmax (c : CoreIx) (vd va vb : Fin 32) (bf : Bool) (s : State) : Out :=
  v2 c 0x06 vd va vb bf 0 2 (lane2 bf ((laneFmt bf).minmax true)) s

def execVabs (c : CoreIx) (vd va : Fin 32) (bf : Bool) (s : State) : Out :=
  v1 c 0x07 vd va bf 0 1 (lane1 bf (laneSign bf fun x => x % 2 ^ (laneFmt bf).signAt)) s
def execVneg (c : CoreIx) (vd va : Fin 32) (bf : Bool) (s : State) : Out :=
  v1 c 0x08 vd va bf 0 1 (lane1 bf (laneSign bf fun x => (x + 2 ^ (laneFmt bf).signAt) % 2 ^ ((laneFmt bf).signAt + 1))) s

/-- VMOV: BF is allowed and moves the same bits; the command stands for the form with BF = 0 and the one with BF = 1. -/
def execVmov (c : CoreIx) (vd va : Fin 32) (s : State) : Out :=
  let bf := match bundleNow s c with
    | some (_, _, bu) => slotV bu == encV 0x09 vd.val va.val 0 0 true 0
    | none => false
  v1 c 0x09 vd va bf 0 1 (fun a => (a, 0)) s

/-- VCMP; relation 3 is a reserved encoding, which no loaded image holds (R136). -/
def execVcmp (c : CoreIx) (vd va vb : Fin 32) (bf : Bool) (rel : BitVec 2) (s : State) : Out :=
  if rel = 3 then .next s
  else v2 c 0x0A vd va vb bf rel.toNat 2 (lane2 bf (laneCmp bf rel.toNat)) s

def execVsel (c : CoreIx) (vd va vb vc : Fin 32) (bf : Bool) (s : State) : Out :=
  v3 c 0x0B vd va vb vc bf 2 (lane3 bf fun x y z => (if z != 0 then x else y, 0)) s

/-- A bitwise operation on 256 B. -/
def bitwise (c : CoreIx) (op : Nat) (vd va vb : Fin 32) (g : Line → Line → Line) (s : State) : Out :=
  v2 c op vd va vb false 0 2 (fun a b => ({ bits := g a.bits b.bits, poison := quarterPoison [a, b] }, 0)) s

def execVand (c : CoreIx) (vd va vb : Fin 32) (s : State) : Out := bitwise c 0x0C vd va vb (· &&& ·) s
def execVor (c : CoreIx) (vd va vb : Fin 32) (s : State) : Out := bitwise c 0x0D vd va vb (· ||| ·) s
def execVxor (c : CoreIx) (vd va vb : Fin 32) (s : State) : Out := bitwise c 0x0E vd va vb (· ^^^ ·) s

/-- A special function (R94). -/
def sfu (c : CoreIx) (op : Nat) (vd va : Fin 32) (s : State) : Out :=
  v1 c op vd va false 0 (sfuLat s c) (lane1 false (special op)) s

def execVrcp (c : CoreIx) (vd va : Fin 32) (s : State) : Out := sfu c 0x10 vd va s
def execVsqrt (c : CoreIx) (vd va : Fin 32) (s : State) : Out := sfu c 0x11 vd va s
def execVrsqrt (c : CoreIx) (vd va : Fin 32) (s : State) : Out := sfu c 0x12 vd va s
def execVexp2 (c : CoreIx) (vd va : Fin 32) (s : State) : Out := sfu c 0x13 vd va s
def execVlog2 (c : CoreIx) (vd va : Fin 32) (s : State) : Out := sfu c 0x14 vd va s
def execVtanh (c : CoreIx) (vd va : Fin 32) (s : State) : Out := sfu c 0x15 vd va s
def execVsigm (c : CoreIx) (vd va : Fin 32) (s : State) : Out := sfu c 0x16 vd va s

/-! ### Conversions (R95, R97, R98, R158) -/

/-- One 32-lane block of a conversion to an MX format: scale, codes, flags. -/
def cvtMxBlock (fmt : Nat) (xs : List Nat) (mode : Nat → RMode) : Nat × List Nat × VF :=
  let q := quantiseMx fmt xs mode
  let fl := (xs.zip q.2.1).foldl (fun a p =>
    match f32.decode p.1, decodeElem fmt p.2 with
    | .nan s, _ => a ||| (if s then vInvalid else 0)
    | .fin _ m e, .fin _ m' e' => if q.1 = 255 then a else a ||| mxTiny m e m' (e' + q.1 - 127)
    | _, _ => a) (0 : VF)
  (q.1, q.2.1, fl)

/-- VCVT (R158): packed elements, and for an MX target the scales in bytes 192 and 193. -/
def cvt (fmt : Nat) (sat : Bool) (mode : Nat → RMode) (a : VReg) : VReg × VF :=
  let xs := lanesOf 32 64 a.bits
  let w := elemBits fmt
  if isMx fmt then
    let lo := cvtMxBlock fmt (xs.take 32) mode
    let hi := cvtMxBlock fmt (xs.drop 32) fun l => mode (l + 32)
    let body := packLanes w (lo.2.1 ++ hi.2.1)
    ({ bits := body ||| BitVec.ofNat 2048 ((lo.1 + 256 * hi.1) * 2 ^ (8 * 192)), poison := wholePoison a },
     lo.2.2 ||| hi.2.2)
  else
    let rs := (xs.zip (List.range 64)).map fun p => convertElem fmt (mode p.2) sat p.1
    ({ bits := packLanes w (rs.map (·.1)), poison := wholePoison a }, rs.foldl (fun a r => a ||| r.2) 0)

/-- A stochastic VCVT draws from the block's copies and advances SR_CTR by one (R97, R160). Formats 10 to 15 are
reserved encodings, which no loaded image holds (R136). -/
def execVcvt (c : CoreIx) (vd va : Fin 32) (fmt : BitVec 4) (sr sat : Bool) (s : State) : Out :=
  if isReserved fmt.toNat then .next s
  else
    issueV c (encV 0x18 vd.val va.val 0 0 false (fmt.toNat + 16 * b2n sr + 32 * b2n sat)) [va] s fun b t s =>
      let mode := fun l : Nat => if sr then RMode.sr (srBits b.seed b.sctr l) else .rne
      let s := vput c t vd 6 (cvt fmt.toNat sat mode (b.vsrc t va)) s
      if sr then modCore s c fun x => x.modBlk fun b => { b with sctr := b.sctr + 1 } else s

/-- One lane of VEXT (R158): the element times its block scale, rounded by round_fp32_rne. -/
def extLane (fmt : Nat) (raw scale : Nat) : Nat × VF :=
  if scale = 255 then (qnan32, 0)
  else match decodeElem fmt raw with
    | .nan s => (qnan32, if s then vInvalid else 0)
    | .inf n => (f32.sign n + f32.infCode, 0)
    | .fin n m e => f32.deliverInt (signed n m, e + scale - 127) false

def ext (fmt : Nat) (a : VReg) : VReg × VF :=
  let sc := fun l : Nat => if isMx fmt then a.bits.toNat / 2 ^ (8 * (192 + l / 32)) % 256 else 127
  let r := packMode false (((lanesOf (elemBits fmt) 64 a.bits).zip (List.range 64)).map fun p => extLane fmt p.1 (sc p.2))
  ({ bits := r.1, poison := wholePoison a }, r.2)

def execVext (c : CoreIx) (vd va : Fin 32) (fmt : BitVec 4) (s : State) : Out :=
  if isReserved fmt.toNat then .next s
  else v1 c 0x19 vd va false fmt.toNat 4 (ext fmt.toNat) s

/-! ### Reduction and broadcast (R157, R155) -/

/-- One level of the tree: neighbours added. -/
def redPairs : List Nat → List Nat × VF
  | x :: y :: r => let a := laneRed x y; let b := redPairs r; (a.1 :: b.1, a.2 ||| b.2)
  | r => (r, 0)

/-- vred: `k` levels of the tree. -/
def vredLevels : Nat → List Nat → VF → Nat × VF
  | 0, xs, f => (xs.headD 0, f)
  | k + 1, xs, f => let r := redPairs xs; vredLevels k r.1 (f ||| r.2)

def vred (a : VReg) : VReg × VF :=
  let r := vredLevels 6 (lanesOf 32 64 a.bits) 0
  ({ bits := packLanes 32 (List.replicate 64 r.1), poison := wholePoison a }, r.2)

def execVred (c : CoreIx) (vd va : Fin 32) (s : State) : Out := v1 c 0x1A vd va false 0 12 vred s

def execVbs (c : CoreIx) (vd : Fin 32) (tr : Fin 8) (s : State) : Out :=
  issueV c (encV 0x1B vd.val 0 0 0 false tr.val) [] s fun b t s =>
    vput c t vd 1 ({ bits := packLanes 32 (List.replicate 64 (b.tr[tr].toNat % 2 ^ 32)), poison := 0 }, 0) s

/-! ### Memory (R159) -/

/-- VLD reads its banks in its issue cycle; a lost or poisoned granule poisons its quarter, an address error the whole
read (R161, R162). `found` is what the checks of its words find (R172). -/
def execVld (c : CoreIx) (vd : Fin 32) (ba : Fin 16) (au : Bool) (off : BitVec 14) (found : Finds) (s : State) : Out :=
  issueV c (encVmem 0x1C vd.val ba au off) [] s fun b t s =>
    let a := vAddr b.ba[ba] off
    let us := blockUses s c ++ (useOf 5 t 0 (a, 256)).filter fun u => spHeld s c u.addr 64
    let s := applyFinds c 5 (fun g => decide (a / 64 ≤ g) && decide (g < a / 64 + 4) && granDone s c us 5 t 0 (64 * g)) found s
    let gs := (List.range 4).map fun i => granRead s c us 5 t 0 (a + 64 * i)
    let bits := BitVec.ofNat 2048 (leNat (gs.flatMap (·.1)))
    let pois := BitVec.ofNat 4 ((gs.zip [1, 2, 4, 8]).foldl (fun n g => n + b2n g.1.2.1 * g.2) 0)
    let s := if gs.any (·.2.2) then addrError c 5 s else s
    let s := modCore s c fun x => x.modSp fun p => { p with uses := p.uses ++ useOf 5 t 0 (a, 256) }
    let s := vput c t vd 6 ({ bits := bits, poison := pois }, 0) s
    if au then pushUpdV c [.baAdd ba 256] s else s

/-- VST reads vs in its issue cycle and writes its banks in the next. -/
def execVst (c : CoreIx) (vs : Fin 32) (ba : Fin 16) (au : Bool) (off : BitVec 14) (s : State) : Out :=
  issueV c (encVmem 0x1D vs.val ba au off) [vs] s fun b t s =>
    let v := b.vsrc t vs
    let w : BlockWrite := { due := t + 1, agent := 6, issued := t, part := 0, addr := vAddr b.ba[ba] off, line := v.bits, len := 256,
                            poison := v.poison }
    let s := modCore s c fun x => x.modBlk fun b => { b with writes := b.writes ++ [w] }
    if au then pushUpdV c [.baAdd ba 256] s else s

/-! ### Results (R153, R156) -/

/-- Writes one result: register 31 discards it, its flags are raised. -/
def Block.putRes (b : Block) (r : VRes) : Block :=
  let b := { b with flags := b.flags ||| r.flags }
  if h : r.vd.val < 31 then { b with v := b.v.set r.vd.val r.val } else b

/-- The V slot of the current bundle has issued. -/
def vSlotDone (s : State) (c : CoreIx) : Bool :=
  match bundleNow s c with
  | some (b, t, bu) => slotV bu == 0 || b.vUsed == some t
  | none => true

/-- The results due at the end of the block cycle, in order of issue, after the cycle's own V instruction. -/
def execVectorResultWrite (c : CoreIx) (s : State) : Out :=
  match blockNow s c with
  | none => .next s
  | some (b, t) =>
    let due := b.vres.filter fun r => decide (r.due ≤ t)
    if due.isEmpty || !vSlotDone s c then .next s
    else .next (modCore s c fun x => x.modBlk fun b =>
      due.foldl Block.putRes { b with vres := b.vres.filter fun r => !decide (r.due ≤ t), lastEvent := t })

end Sys2Proof.Machine
end

