-- ==== Sys2Proof/Machine/Engine.lean ====
section
/-! DEFINITION. What the engines and the update kernels share: FP32 arithmetic on codes, the collective groups (R330), and an entry's
work by its engine. -/

namespace Sys2Proof.Machine

/-! ### FP32 arithmetic on codes (R87, R93, R94) -/

/-- round_fp32_rne(a x b + c): an exact zero is +0.0 (R87). -/
def fmaC (a b c : Nat) : Nat :=
  match f32.decode a, f32.decode b, f32.decode c with
  | .fin na ma ea, .fin nb mb eb, .fin nc mc ec => roundFp32 (exactAdd (signed (na != nb) (ma * mb)) (ea + eb) (signed nc mc) ec)
  | x, y, z => (f32.fma x y z).1
def mulC (a b : Nat) : Nat := fmaC a b 0
def addC (a b : Nat) : Nat := fmaC a 0x3F800000 b
def minC (a b : Nat) : Nat := (f32.minmax false a b).1
def maxC (a b : Nat) : Nat := (f32.minmax true a b).1
def rcpC (a : Nat) : Nat := (special 0x10 a).1
def rsqrtC (a : Nat) : Nat := (special 0x12 a).1

/-- The code with its sign turned. -/
def negC (a : Nat) : Nat := a ^^^ 2 ^ 31

def subC (a b : Nat) : Nat := addC a (negC b)

/-- The FP32 value of a whole number. -/
def natC (n : Nat) : Nat := roundFp32 ((n : Int), 0)

/-- A value divided by a whole number, rounded once (R274, R277); an exact zero is +0.0 as in R87. -/
def divC (a n : Nat) : Nat :=
  match f32.decode a with
  | .nan _ => qnan32
  | .inf _ => a
  | .fin neg m e => let q := ratio m e; if m = 0 then 0 else (f32.deliver neg q.1 (q.2 * atLeast1 n)).1

/-- Greater than zero. -/
def posC (a : Nat) : Bool := match f32.decode a with
  | .fin neg m _ => !neg && m != 0
  | .inf neg => !neg
  | .nan _ => false

def finiteC (a : Nat) : Bool := match f32.decode a with
  | .fin _ _ _ => true
  | _ => false

def isNanC (a : Nat) : Bool := (f32.decode a).isNan

/-- FP32 words as bytes. -/
def fpLe (xs : List Nat) : List Byte := xs.flatMap (natLe 4)

/-- The FP32 words that bytes spell. -/
def wordsOf (bs : List Byte) : List Nat := (List.range (bs.length / 4)).map fun i => field bs (4 * i) 4

/-! ### Engine entries -/

/-- A posted engine entry of task `t` that its engine may now carry out. -/
def openEntry (s : State) (t : SlotIx) (q : W32) (op : Nat) : Option Posted :=
  s.tasks[t].cmd.posted.find? fun e => e.q == q && Entry.op e.words == op && !e.finished && e.status.isNone

/-- No entry of the same engine posted earlier, by any task, is still to be carried out or has writes under way (R263). -/
def engineTurn (s : State) (e : Posted) : Bool :=
  (List.finRange 16).all fun t => s.tasks[t].cmd.posted.all fun x =>
    Entry.engine x.words != Entry.engine e.words || decide (e.order ≤ x.order)
      || ((x.finished || x.status.isSome) && !running s (entryKey t x.q))

/-- Picks one of `n` units where the manual does not say which: free (log 2). -/
def freePick (n : Nat) (s : State) : Nat × State :=
  ((Config.free 32 s.freeCtr).toNat % n, { s with freeCtr := s.freeCtr + 1 })

end Sys2Proof.Machine
end

