-- ==== Sys2Proof/Machine/Update.lean ====
section
/-! DEFINITION. The parameter update (R241 to R250) and the table kernel (R280): the rule, the tensor list, and the command
UPDATE. -/

namespace Sys2Proof.Machine

/-! ### The rule (R243, R245) -/

/-- The hyper-parameters of words 4 to 7 of an UPDATE (R249), as FP32 codes. -/
structure Hyper where
  lr : Nat
  wdlr : Nat
  b1 : Nat
  b2 : Nat
  rbc1 : Nat
  rbc2 : Nat
  eps : Nat
  clip : Nat
deriving DecidableEq, Repr

def hyperOf (w : Entry) : Hyper :=
  let h := fun (x : W64) (i : Nat) => wordBits x (32 * i) 32
  { lr := h w[4] 0, wdlr := h w[4] 1, b1 := h w[5] 0, b2 := h w[5] 1, rbc1 := h w[6] 0, rbc2 := h w[6] 1,
    eps := h w[7] 0, clip := h w[7] 1 }

/-- Every hyper-parameter finite, EPS above 0, CLIP not below 0 (R250). -/
def Hyper.valid (h : Hyper) : Bool :=
  [h.lr, h.wdlr, h.b1, h.b2, h.rbc1, h.rbc2, h.eps, h.clip].all finiteC && posC h.eps && !posC (negC h.clip)

/-- The sums of squares of rows of a gradient (R243). -/
def rowSums (g : List (List Nat)) : List Nat := g.map fun r => r.foldl (fun a x => fmaC x x a) 0

def colSums (g : List (List Nat)) (cp : Nat) : List Nat :=
  (List.range cp).map fun j => g.foldl (fun a r => let x := r.getD j 0; fmaC x x a) 0

/-- The statistics that update_group forms: row and column statistics and 1 / mean. -/
structure Stats where
  vr : List Nat
  vc : List Nat
  rm : Nat
deriving DecidableEq, Repr

def newStats (h : Hyper) (rows cols : Nat) (rs cs vr vc : List Nat) : Stats :=
  let ob2 := subC 0x3F800000 h.b2
  let ic := rcpC (natC cols)
  let ir := rcpC (natC rows)
  let vr := (vr.zip rs).map fun q => fmaC h.b2 q.1 (mulC ob2 (mulC q.2 ic))
  let vc := (vc.zip cs).map fun q => fmaC h.b2 q.1 (mulC ob2 (mulC q.2 ir))
  let mean := mulC (vr.foldl addC 0) ir
  { vr := vr, vc := vc, rm := if posC mean then rcpC mean else 0 }

/-- Some sum is NaN or infinite. -/
def sumsBad (rs cs : List Nat) : Bool := rs.any (fun x => !finiteC x) || cs.any fun x => !finiteC x

/-- update_element: the new master and the new moment. -/
def updateElement (h : Hyper) (noWd noClip : Bool) (rm p m g vri vcj : Nat) : Nat × Nat :=
  let v := mulC (mulC (mulC vri vcj) rm) h.rbc2
  let u := mulC g (rsqrtC (addC v h.eps))
  let u := if posC h.clip && !noClip then minC (maxC u (negC h.clip)) h.clip else u
  let m2 := fmaC h.b1 m (mulC (subC 0x3F800000 h.b1) u)
  let mh := mulC m2 h.rbc1
  let p := if noWd then p else fmaC (negC h.wdlr) p p
  (fmaC (negC h.lr) mh p, m2)

/-! ### Records (R241, R246, R247) -/

/-- The bytes of a record. -/
def recordBytes (masters : List Nat) (moment : List Nat) (mscale flags step : Nat) : List Byte :=
  fpLe masters ++ moment.map (BitVec.ofNat 8) ++ natLe 1 mscale ++ natLe 1 flags ++ [0, 0] ++ natLe 4 step
  ++ List.replicate 24 0

/-- update_record on the stored bytes of a record, its gradient, row statistic and column statistics. -/
def updateRecord (h : Hyper) (noWd noClip : Bool) (st : Stats) (step : Nat) (old : List Byte) (g : List Nat) (vri : Nat)
    (vcs : List Nat) : List Byte :=
  let scale := field old 160 1
  let xs := (List.range 32).map fun k =>
    updateElement h noWd noClip st.rm (field old (4 * k) 4) (extLane 9 (field old (128 + k) 1) scale).1 (g.getD k 0) vri
      (vcs.getD k 0)
  let q := quantiseMx 9 (xs.map (·.2)) fun _ => .rne
  recordBytes (xs.map (·.1)) q.2.1 q.1 0 step

/-- A record kept under R247: its values as read, STEP t, SKIPPED set. -/
def keptRecord (step : Nat) (old : List Byte) : List Byte :=
  recordBytes (wordsOf (old.take 128)) ((old.drop 128).take 32 |>.map BitVec.toNat) (field old 160 1) 1 step

/-! ### The tensor list (R249) -/

structure TGroup where
  record : Nat
  grad : Nat
  stat : Nat
  sums : Nat
  rows : Nat
  cols : Nat
  flags : Byte
  sharers : Nat
  first : Nat
deriving DecidableEq, Repr

/-- Columns padded to whole records (R242). -/
def padCols (cols : Nat) : Nat := 32 * ((cols + 31) / 32)

def TGroup.cp (g : TGroup) : Nat := padCols g.cols

/-- Bytes of `n` FP32 words in whole granules. -/
def granBytes (n : Nat) : Nat := 64 * ((4 * n + 63) / 64)

/-- Size of one copy of the statistics (R244). -/
def TGroup.copySize (g : TGroup) : Nat := 64 + granBytes g.rows + granBytes g.cp

def parseGroup (b : List Byte) : TGroup :=
  { record := field b 0 8, grad := field b 8 8, stat := field b 16 8, sums := field b 24 8, rows := field b 32 2,
    cols := field b 34 2, flags := BitVec.ofNat 8 (field b 36 1), sharers := field b 37 1, first := field b 38 2 }

/-- The group entry is well formed, and its sharers lie in the entry's cores. -/
def TGroup.valid (T : Task) (cores : List CoreIx) (g : TGroup) (raw : List Byte) : Bool :=
  spaceOf g.record == some .param && (directOf g.record) % 192 == 0 && g.grad % 256 == 0 && g.stat % 64 == 0
  && g.sums % 64 == 0 && g.rows != 0 && g.cols != 0 && g.flags.toNat / 4 == 0 && g.sharers != 0
  && decide (g.sharers ≤ 144) && field raw 40 24 == 0 && decide (g.rows + g.cp ≤ 65536)
  && (List.range g.sharers).all fun k => match T.cores[g.first + k]? with
    | some c => cores.contains c
    | none => false

/-- The tensor list at an address: none where it is malformed, or the address is no multiple of 64 (R249). -/
def tensorList (t : SlotIx) (cores : List CoreIx) (a : Nat) (s : State) : Option (List TGroup) × State :=
  let h := devRead a 64 s
  let n := field h.1 0 4
  if a % 64 != 0 then (none, s)
  else if n = 0 || decide (65535 < n) || field h.1 4 60 != 0 || h.2.1 then (none, h.2.2)
  else
    let r := (List.range n).foldl (fun (acc : List (TGroup × List Byte) × Bool × State) i =>
      let x := devRead (a + 64 + 64 * i) 64 acc.2.2
      (acc.1 ++ [(parseGroup x.1, x.1)], acc.2.1 || x.2.1, x.2.2)) ([], false, h.2.2)
    if r.2.1 || !r.1.all fun q => q.1.valid s.tasks[t] cores q.2 then (none, r.2.2) else (some (r.1.map (·.1)), r.2.2)

/-! ### One group -/

/-- The gradient of a group by rows, and whether any of it is poisoned. -/
def readGrad (g : TGroup) (s : State) : List (List Nat) × Bool × State :=
  (List.range g.rows).foldl (fun acc i =>
    let r := devRead (g.grad + 4 * g.cp * i) (4 * g.cp) acc.2.2
    (acc.1 ++ [wordsOf r.1], acc.2.1 || r.2.1, r.2.2)) ([], false, s)

/-- rs, cs and whether any is poisoned: from SUMS, or by a pre-pass. -/
def readSums (g : TGroup) (grad : List (List Nat)) (gPoison : Bool) (s : State) : List Nat × List Nat × Bool × State :=
  if g.sums = 0 then (rowSums grad, colSums grad g.cp, gPoison, s)
  else
    let a := devRead g.sums (4 * g.rows) s
    let b := devRead (g.sums + granBytes g.rows) (4 * g.cp) a.2.2
    (wordsOf a.1, wordsOf b.1, a.2.1 || b.2.1, b.2.2)

/-- Writes one copy of a group's statistics (R244). -/
def writeStats (a rows : Nat) (step : Nat) (vr vc : List Nat) (pr pc : Bool) (s : State) : State :=
  let s := devWrite a (natLe 4 step ++ List.replicate 60 0) false s
  let s := devWrite (a + 64) (fpLe vr) pr s
  devWrite (a + 64 + granBytes rows) (fpLe vc) pc s

/-- update_group of step `step` on every record of a group, and the first sharer's write of the statistics; with the value
of R250 it reports. -/
def updateGroup (h : Hyper) (step : Nat) (g : TGroup) (s : State) : Nat × State :=
  let src := g.stat + g.copySize * ((step + 2 ^ 32 - 1) % 2)
  let dst := g.stat + g.copySize * (step % 2)
  let hd := devRead src 64 s
  let vr := devRead (src + 64) (4 * g.rows) hd.2.2
  let vc := devRead (src + 64 + granBytes g.rows) (4 * g.cp) vr.2.2
  let gr := readGrad g vc.2.2
  let sm := readSums g gr.1 gr.2.1 gr.2.2
  let s := sm.2.2.2
  let keep := gr.2.1 || sm.2.2.1 || sumsBad sm.1 sm.2.1
  let st := newStats h g.rows g.cols sm.1 sm.2.1 (wordsOf vr.1) (wordsOf vc.1)
  let skew := field hd.1 0 4 != (step + 2 ^ 32 - 1) % 2 ^ 32
  let per := g.cp / 32
  let s := (List.range (g.rows * per)).foldl (fun s n =>
    let a := directOf g.record + 192 * n
    let old := devRead (g.record + 192 * n) 192 s
    let i := n / per
    let b := n % per
    let new := if keep then keptRecord step old.1
      else updateRecord h (bit g.flags 0) (bit g.flags 1) st step old.1 (((gr.1.getD i []).drop (32 * b)).take 32)
        (st.vr.getD i 0) ((st.vc.drop (32 * b)).take 32)
    writeRecord .param a new (old.2.1 || (!keep && (vr.2.1 || vc.2.1))) old.2.2) s
  let s := if keep then writeStats dst g.rows step (wordsOf vr.1) (wordsOf vc.1) vr.2.1 vc.2.1 s
    else writeStats dst g.rows step st.vr st.vc vr.2.1 vc.2.1 s
  (if skew then 2 else if keep then 1 else 0, s)

/-- Mladhal's update kernel on the whole tensor list, in list order: its largest report (R250). -/
def updateKernel (t : SlotIx) (w : Entry) (s : State) : Nat × State :=
  let h := hyperOf w
  let l := tensorList t (entryCores s.tasks[t] w) w[3].toNat s
  match l.1 with
  | none => (3, l.2)
  | some gs =>
    if !h.valid then (3, l.2)
    else gs.foldl (fun acc g => let r := updateGroup h w.step.toNat g acc.2; (max acc.1 r.1, r.2)) (0, l.2)

/-! ### The table kernel (R280) -/

/-- The descriptor fields the table kernel needs (R266). -/
structure TableRef where
  flags : Byte
  dim : Nat
  pitch : Nat
  base : Nat
  vrs : Nat
  vc : Nat
deriving DecidableEq, Repr

def tableRef (b : List Byte) : TableRef :=
  { flags := BitVec.ofNat 8 (field b 1 1), dim := field b 2 2, pitch := field b 4 4, base := field b 8 8,
    vrs := field b 40 8, vc := field b 48 8 }

/-- The core index that owns a local row. -/
def rowOwner (l : Nat) : Nat := l % 12 * 12 + l / 12 % 12

/-- The source copy of a core's column statistics: the one with the greater STEP below `t`; free where neither is below
(log 2). -/
def sourceCopy (a b t : Nat) (s : State) : Nat × State :=
  if a < t ∧ (t ≤ b ∨ b < a) then (0, s) else if b < t then (1, s) else freePick 2 s

/-- The rule on the rows of one table that one core owns. -/
def updateTableCore (h : Hyper) (step : Nat) (d : TableRef) (core : Nat) (rows : List CoRow) (s : State) : Nat × State :=
  let size := 64 + granBytes d.dim
  let area := d.vc + 2 * core * size
  let s0 := devRead area 64 s
  let s1 := devRead (area + size) 64 s0.2.2
  if s0.1.isEmpty || s1.1.isEmpty then (0, s1.2.2) else
  let pick := sourceCopy (field s0.1 0 4) (field s1.1 0 4) step s1.2.2
  let vc := devRead (area + size * pick.1 + 64) (4 * d.dim) pick.2
  let vrs := rows.foldl (fun (acc : List Nat × Bool × State) r =>
    let x := devRead (d.vrs + 16 * r.lrow) 16 acc.2.2
    (acc.1 ++ [if field x.1 0 4 = step then field x.1 4 4 else field x.1 8 4], acc.2.1 || x.2.1, x.2.2)) ([], false, vc.2.2)
  let s := vrs.2.2
  let g := rows.map fun r => r.vals.map BitVec.toNat
  let rs := rowSums g
  let cs := colSums g d.dim
  let keep := rows.any (·.poison) || sumsBad rs cs
  let st := newStats h rows.length d.dim rs cs vrs.1 (wordsOf vc.1)
  let per := d.dim / 32
  let s := (rows.zip (List.range rows.length)).foldl (fun s q =>
    let s := (List.range per).foldl (fun s b =>
      let a := directOf (d.base + q.1.lrow * d.pitch) + 192 * b
      let old := devRead (d.base + q.1.lrow * d.pitch + 192 * b) 192 s
      let new := if keep then keptRecord step old.1
        else updateRecord h (bit d.flags 1) (bit d.flags 2) st step old.1 (((g.getD q.2 []).drop (32 * b)).take 32)
          (st.vr.getD q.2 0) ((st.vc.drop (32 * b)).take 32)
      writeRecord .table a new (old.2.1 || (!keep && (vrs.2.1 || vc.2.1))) old.2.2) s
    let prev := vrs.1.getD q.2 0
    devWrite (d.vrs + 16 * q.1.lrow)
      (natLe 4 step ++ natLe 4 prev ++ natLe 4 (if keep then prev else st.vr.getD q.2 0) ++ natLe 4 0) vrs.2.1 s) s
  let dst := area + size * (1 - pick.1)
  let s := devWrite dst (natLe 4 step ++ List.replicate 60 0) false s
  let s := devWrite (dst + 64) (if keep then vc.1 else fpLe st.vc) vc.2.1 s
  (if keep then 1 else 0, s)

/-- Mladhal's table kernel on the coalesced rows of a backward LOOKUP: each core of the RUN's SEG (R222) updates the rows it owns of the
trained tables (R280); incomplete tables are kept (R279). -/
def tableKernel (t : SlotIx) (w : Entry) (k : LkWork) (s : State) : Nat × State :=
  let h := hyperOf w
  if !h.valid then (3, s)
  else
    let T := s.tasks[t]
    let cs := (T.cores.zip (List.range T.cores.length)).filterMap fun q => if (entryCores T w).contains q.1 then some q.2 else none
    let tables := (k.grads.map (·.table)).eraseDups.filter fun n => !k.incomplete.contains n
    tables.foldl (fun acc n =>
      let d := devRead (k.words[3].toNat + 64 * n) 64 acc.2
      if d.1.isEmpty || !bit (tableRef d.1).flags 0 then (acc.1, d.2.2) else
      cs.foldl (fun acc c =>
        let rows := k.grads.filter fun r => r.table == n && rowOwner r.lrow == c
        if rows.isEmpty then acc
        else let r := updateTableCore h w.step.toNat (tableRef d.1) c rows acc.2; (max acc.1 r.1, r.2)) (acc.1, d.2.2)) (0, s)

/-! ### The core entries that run kernels -/

/-- A posted core entry that every context named by it has taken. -/
def takenEntry (s : State) (t : SlotIx) (q : W32) (op : Nat) : Option Posted :=
  s.tasks[t].cmd.posted.find? fun e => e.q == q && Entry.op e.words == op && e.delivered && !e.finished
    && (entryCores s.tasks[t] e.words).all fun c => s.cores[c].ctx[Entry.ctx e.words].cur == some q

/-- Every context that runs the kernel reports its value with CMDDONE. -/
def reportAll (t : SlotIx) (e : Posted) (status : Nat) (s : State) : State :=
  (entryCores s.tasks[t] e.words).foldl (fun s c =>
    let m := takeMissed c s
    modCtx (report c (Entry.ctx e.words) e.q (BitVec.ofNat 8 status) m.1 m.2) c (Entry.ctx e.words) fun y => { y with cur := none }) s

/-- UPDATE reaches its contexts as every core entry does; once all of them have taken it, the command is the run of
Mladhal's update kernel on them (log 18). -/
def execUpdate (t : SlotIx) (q : W32) (s : State) : Out :=
  match takenEntry s t q 3 with
  | some e => engineRun (entryKey t q) (some t) Rank.open_ true (fun s => let r := updateKernel t e.words s; reportAll t e r.1 r.2) s
  | none => .next (deliver t q 3 s)

/-- RUN reaches its contexts; once all of them have taken one whose word 3 names the WORK of a completed backward LOOKUP of
the task, the command is the run of Mladhal's table kernel on them (R280, log 18). -/
def execRun (t : SlotIx) (q : W32) (s : State) : Out :=
  match takenEntry s t q 10 with
  | some e =>
    let w : Entry := e.words
    match s.lkWork.find? fun k => k.slot == t && k.words[7] == w[3] && bit k.words[5] 16 with
    | some k => engineRun (entryKey t q) (some t) Rank.open_ true (fun s => let r := tableKernel t e.words k s; reportAll t e r.1 r.2) s
    | none => .next s
  | none => .next (deliver t q 10 s)

end Sys2Proof.Machine
end

