-- ==== Sys2Proof/Machine/Lookup.lean ====
section
/-! DEFINITION. Embedding tables (chapter 13): table descriptors and lookup lists (R266 to R271), the forward lookup (R272,
R273), the combine of an EXCHANGE (R274), and the backward lookup with its coalescers (R277 to R279). -/

namespace Sys2Proof.Machine

/-! ### Descriptors and lists -/

structure TableDesc where
  fmt : Nat
  flags : Byte
  dim : Nat
  pitch : Nat
  base : Nat
  rows : Nat
  shards : Nat
  rank : Nat
  hseed : W32
  vrs : Nat
  vc : Nat
deriving DecidableEq, Repr

def parseTable (b : List Byte) : TableDesc :=
  { fmt := field b 0 1, flags := BitVec.ofNat 8 (field b 1 1), dim := field b 2 2, pitch := field b 4 4, base := field b 8 8,
    rows := field b 16 8, shards := field b 24 4, rank := field b 28 4, hseed := BitVec.ofNat 32 (field b 32 4),
    vrs := field b 40 8, vc := field b 48 8 }

/-- Bytes of a stored row. -/
def TableDesc.rowBytes (d : TableDesc) : Nat :=
  if d.fmt = 0 then 6 * d.dim else if d.fmt = 1 then 4 * d.dim else if d.fmt = 2 then 2 * d.dim else d.dim + d.dim / 32

/-- The PITCH that R266 fixes. -/
def TableDesc.wantPitch (d : TableDesc) : Nat :=
  let n := d.rowBytes
  if d.fmt = 0 then n else if n ≤ 64 then 64 else if n ≤ 128 then 128 else (n + 255) / 256 * 256

/-- Rows that this device holds (R267). -/
def TableDesc.local_ (d : TableDesc) : Nat := (d.rows + d.shards - 1) / atLeast1 d.shards

/-- A range lies wholly in stacked memory or wholly in the slow tier. -/
def mapped (a n : Nat) : Bool := match spaceOf a with
  | some .direct => decide (a + n ≤ directEnd)
  | some .slow => spaceOf (a + n - 1) == some .slow && a / 2 ^ 52 % 2 ^ 9 == 0
  | _ => false

/-- The local storage lies wholly in stacked memory or wholly in the slow tier, and so do the statistics of a trained table (R266,
R267). -/
def TableDesc.placed (d : TableDesc) : Bool :=
  mapped d.base (d.local_ * d.pitch)
  && (!bit d.flags 0 || (mapped d.vrs (16 * d.local_) && mapped d.vc (288 * (64 + (4 * d.dim + 63) / 64 * 64))))

def TableDesc.valid (d : TableDesc) (raw : List Byte) : Bool :=
  decide (d.fmt ≤ 5) && d.flags.toNat / 8 == 0 && decide (16 ≤ d.dim) && decide (d.dim ≤ 2048)
  && d.dim % (if d.fmt = 1 || d.fmt = 2 then 16 else 32) == 0 && d.pitch == d.wantPitch && d.base % 64 == 0
  && d.rows != 0 && decide (d.rows ≤ 2 ^ 40) && d.shards != 0 && decide (d.shards ≤ 110592) && decide (d.rank < d.shards)
  && field raw 36 4 == 0 && field raw 56 8 == 0 && d.vrs % 64 == 0 && d.vc % 64 == 0
  && (if bit d.flags 0 then d.fmt == 0 else d.vrs == 0 && d.vc == 0) && d.placed

/-- hmix (R268). -/
def hmix (seed : W32) (k : Nat) : W32 :=
  let z := seed + BitVec.ofNat 32 k * 0x9E3779B9 + BitVec.ofNat 32 (k / 2 ^ 32 % 256) * 0x85EBCA6B
  let z := (z ^^^ (z >>> 16)) * 0x7FEB352D
  let z := (z ^^^ (z >>> 15)) * 0x846CA68B
  z ^^^ (z >>> 16)

/-- owner(r) (R268). -/
def TableDesc.owner (d : TableDesc) (r : Nat) : Nat :=
  let s := atLeast1 d.shards
  (r % s + (hmix d.hseed (r / s)).toNat % s) % s

structure ListEntry where
  table : Nat
  pool : Nat
  ofmt : Nat
  nbags : Nat
  offs : Nat
  idx : Nat
  wgt : Nat
  out : Nat
  ok : Bool
deriving DecidableEq, Repr

def parseListEntry (b : List Byte) : ListEntry :=
  let e : ListEntry :=
    { table := field b 0 2, pool := field b 2 1, ofmt := field b 3 1, nbags := field b 4 4, offs := field b 8 8,
      idx := field b 16 8, wgt := field b 24 8, out := field b 32 8, ok := true }
  { e with ok := decide (e.table ≤ 511) && decide (e.pool ≤ 3) && decide (e.ofmt ≤ 2) && decide (1 ≤ e.nbags)
                 && decide (e.nbags ≤ 2 ^ 24) && field b 40 8 == 0 && (e.pool == 2 || e.wgt == 0) }

/-- Bytes of an output row of `dim` elements, and of its place in OUT (R270). -/
def outBytes (ofmt dim : Nat) : Nat := if ofmt = 0 then 4 * dim else if ofmt = 1 then 2 * dim else dim + (dim + 31) / 32

def outStride (ofmt dim : Nat) : Nat := (outBytes ofmt dim + 63) / 64 * 64

/-- An index of a bag: position, global row, weight. -/
structure Ix where
  k : Nat
  row : Nat
  weight : Nat
deriving DecidableEq, Repr

/-- A bag as its list gives it: its entries in range, how many entries it has, and how often R271 refuses it. -/
structure Bag where
  b : Nat
  ixs : List Ix
  count : Nat
  bad : Nat
deriving DecidableEq, Repr

/-- Reads bag `b` of a list entry (R270, R271). -/
def readBag (e : ListEntry) (rows b : Nat) (s : State) : Bag × State :=
  let o := devRead (e.offs + 4 * b) 8 s
  let lo := field o.1 0 4
  let hi := field o.1 4 4
  if hi < lo ∨ lo + 4096 < hi ∨ (b = 0 ∧ lo ≠ 0) then ({ b := b, ixs := [], count := 0, bad := 1 }, o.2.2)
  else
    let r := (List.range (hi - lo)).foldl (fun (acc : Bag × State) k =>
      let x := devRead (e.idx + 8 * (lo + k)) 8 acc.2
      let w : List Byte × Bool × State := if e.pool = 2 then devRead (e.wgt + 4 * (lo + k)) 4 x.2.2 else ([], false, x.2.2)
      let i := field x.1 0 8
      if i / 2 ^ 40 = 0 && decide (i < rows) then
        ({ acc.1 with ixs := acc.1.ixs ++ [{ k := k, row := i, weight := field w.1 0 4 }] }, w.2.2)
      else ({ acc.1 with bad := acc.1.bad + 1 }, w.2.2)) ({ b := b, ixs := [], count := hi - lo, bad := 0 }, o.2.2)
    r

def readBags (e : ListEntry) (rows : Nat) (s : State) : List Bag × State :=
  (List.range e.nbags).foldl (fun (acc : List Bag × State) b =>
    let r := readBag e rows b acc.2; (acc.1 ++ [r.1], r.2)) ([], s)

/-- One entry of a LOOKUP's list with its descriptor and bags; `desc` says the descriptor breaks R266 or R267. -/
structure Item where
  i : Nat
  e : ListEntry
  d : TableDesc
  bags : List Bag
  desc : Bool
deriving DecidableEq, Repr

def readItem (w : Entry) (i : Nat) (s : State) : Item × State :=
  let x := devRead (w[4].toNat + 48 * i) 48 s
  let e := parseListEntry x.1
  if x.1.isEmpty then ({ i := i, e := e, d := parseTable [], bags := [], desc := true }, x.2.2) else
  let y := devRead (w[3].toNat + 64 * e.table) 64 x.2.2
  let d := parseTable y.1
  if e.ok && d.valid y.1 then
    let b := readBags e d.rows y.2.2
    ({ i := i, e := e, d := d, bags := b.1, desc := false }, b.2)
  else ({ i := i, e := e, d := d, bags := [], desc := true }, y.2.2)

/-- The list of a LOOKUP (R269, R270). -/
def readItems (w : Entry) (s : State) : List Item × State :=
  (List.range (wordBits w[5] 0 16)).foldl (fun (acc : List Item × State) i =>
    let r := readItem w i acc.2; (acc.1 ++ [r.1], r.2)) ([], s)

/-- Poisons output row `b` of an entry. -/
def poisonRow (x : Item) (b : Nat) (s : State) : State :=
  let n := outBytes x.e.ofmt x.d.dim
  devWrite (x.e.out + b * outStride x.e.ofmt x.d.dim) (List.replicate n 0) true s

def modEngine (n : Nat) (s : State) (f : LkEngine → LkEngine) : State :=
  if h : n < 12 then { s with lookup := s.lookup.set n (f s.lookup[n]) } else s

/-- What R267 and R271 do to one list entry; with its status. -/
def judgeItem (forward : Bool) (x : Item) (s : State) : Nat × State :=
  if x.desc then
    (3, if forward then (List.range x.e.nbags).foldl (fun s b => poisonRow x b s) s else s)
  else
    let n := x.bags.foldl (fun n b => n + b.bad) 0
    if n = 0 then (0, s)
    else
      let p := freePick 12 s
      let s := modEngine p.1 p.2 fun y => { y with indexErr := satAdd y.indexErr n }
      let s := record s 0x4001 error p.1 x.i 0 0
      (1, if forward then (x.bags.filter fun b => b.bad != 0).foldl (fun s b => poisonRow x b.b s) s else s)

/-! ### Rows and partials (R273) -/

/-- The FP32 codes of a stored row, of a row in format REC the MASTER bytes alone (R266). -/
def decodeRow (d : TableDesc) (bs : List Byte) : List Nat :=
  (List.range d.dim).map fun j =>
    if d.fmt = 0 then field bs (4 * j) 4
    else if d.fmt = 1 then field bs (4 * j) 4
    else if d.fmt = 2 then field bs (2 * j) 2 * 65536
    else (extLane (if d.fmt = 3 then 4 else if d.fmt = 4 then 5 else 9) (field bs j 1) (field bs (d.dim + j / 32) 1)).1

/-- The parts of a local row that an engine reads: of a row in format REC the MASTER bytes of each record, else the whole row (R266). -/
def TableDesc.rowParts (d : TableDesc) (l : Nat) : List (Nat × Nat) :=
  let a := d.base + l * d.pitch
  if d.fmt = 0 then (List.range (d.dim / 32)).map fun b => (a + 192 * b, 128) else [(a, d.rowBytes)]

/-- The row that the work in evaluation reads: on which engine, and which local row (R275). -/
def onRow (x : Option (Nat × Nat)) (s : State) : State := { s with probe := s.probe.map fun p => { p with row := x } }

/-- Reads a local row. -/
def readRow (d : TableDesc) (l : Nat) (s : State) : List Nat × Bool × State :=
  let s := onRow (some (l % 12, l)) s
  let r := (d.rowParts l).foldl (fun (acc : List Byte × Bool × State) q =>
    let x := devRead q.1 q.2 acc.2.2
    (acc.1 ++ x.1, acc.2.1 || x.2.1, x.2.2)) ([], false, s)
  (decodeRow d r.1, r.2.1, onRow none r.2.2)

/-- An index that a source rank routed here. -/
structure Routed where
  rank : Nat
  entry : Nat
  bag : Nat
  ix : Ix
deriving DecidableEq, Repr

/-- The parts of a row are read once more (R275). -/
def readAgain (parts : List (Nat × Nat)) (s : State) : State :=
  { s with probe := s.probe.map fun p => { p with again := p.again ++ parts.flatMap fun q => unitParts 256 q.1 q.2 } }

/-- Counts a row read on its engine: a read of a row of this LOOKUP that was read before may have been merged in flight
(R275): free. One that was not is read once more. -/
def countRow (d : TableDesc) (l : Nat) (again : Bool) (s : State) : State :=
  let merged := again && Config.free 1 s.freeCtr == 1
  let s := if again then { s with freeCtr := s.freeCtr + 1 } else s
  let s := if again && !merged then readAgain (d.rowParts l) s else s
  modEngine (l % 12) (actAdd 12 (fun a => { a with rows := a.rows + 1 }) s) fun y =>
    if merged then { y with merged := satInc y.merged } else { y with rows := y.rows + 1 }

/-- Lookup engine `n` does not run, since its port region lost lock (R357). -/
def engineDown (s : State) (n : Nat) : Bool := !portRuns s (Fin.ofNat 12 n)

/-- Some lookup engine does not run: it completes its entries with POISON (R357). -/
def anyDown (s : State) : Nat := if (List.range 12).any (engineDown s) then 2 else 0

/-- The running fold of a bag: values, argmax positions, poison. -/
structure Fold where
  acc : Option (List Nat)
  args : List Nat
  poison : Bool
deriving DecidableEq, Repr

/-- Whether two FP32 codes are different values: both zeros are one, and so are all NaNs (R273, R274). -/
def differC (a b : Nat) : Bool :=
  a != b && !((f32.decode a).isZero && (f32.decode b).isZero) && !(isNanC a && isNanC b)

def foldStep (pool : Nat) (k w : Nat) (xs : List Nat) (poison : Bool) (f : Fold) : Fold :=
  match f.acc with
  | none => { acc := some (if pool = 2 then xs.map fun x => fmaC w x 0 else xs), args := xs.map fun _ => k, poison := f.poison || poison }
  | some a =>
    let ys := (a.zip xs).map fun q => if pool = 2 then fmaC w q.2 q.1 else if pool = 3 then maxC q.1 q.2 else addC q.1 q.2
    { acc := some ys
      args := if pool = 3 then ((a.zip ys).zip f.args).map fun q =>
          if differC q.1.2 q.1.1 then k else q.2 else f.args
      poison := f.poison || poison }

/-- One partial bag of the entries in `rs`, ascending k; `old` are the rows read before. -/
def foldBag (x : Item) (rs : List Routed) (old : List (Nat × Nat)) (s : State) : Fold × List (Nat × Nat) × State :=
  rs.foldl (fun (acc : Fold × List (Nat × Nat) × State) r =>
    let l := r.ix.row / atLeast1 x.d.shards
    let s := countRow x.d l (acc.2.1.contains (x.e.table, l)) acc.2.2
    let y := readRow x.d l s
    let y := (y.1, y.2.1 || engineDown s (l % 12), y.2.2)
    let s := if y.2.1 then modEngine (l % 12) y.2.2 fun z => { z with poison := satInc z.poison } else y.2.2
    (foldStep x.e.pool r.ix.k r.ix.weight y.1 y.2.1 acc.1, (x.e.table, l) :: acc.2.1, s)) ({ acc := none, args := [], poison := false }, old, s)

/-- A partial element as it is sent: BF16 under PFMT 1. -/
def partialElem (bf : Bool) (c : Nat) : W32 := BitVec.ofNat 32 (if bf then (convertElem 0 .rne false c).1 * 65536 else c)

/-- Whether WORK holds what a LOOKUP keeps: never below the plain bytes; otherwise free, since its layout is not given
(log 2). -/
def workFits (need mib : Nat) (s : State) : Bool × State :=
  if mib * 2 ^ 20 < need then (false, s) else (Config.free 1 s.freeCtr == 0, { s with freeCtr := s.freeCtr + 1 })

/-- The partial bags that this device gathers for every source rank (R272, R273). -/
def gatherParts (bf : Bool) (items : List Item) (routed : List Routed) (s : State) : List Partial × State :=
  let keys := (routed.map fun r => (r.rank, r.entry, r.bag)).eraseDups
  let r := keys.foldl (fun (acc : List Partial × List (Nat × Nat) × State) key =>
    match items.find? fun x => x.i == key.2.1 && !x.desc with
    | none => acc
    | some x =>
      let rs := (routed.filter fun r => r.rank == key.1 && r.entry == key.2.1 && r.bag == key.2.2).mergeSort fun a b => decide (a.ix.k ≤ b.ix.k)
      let f := foldBag x rs acc.2.1 acc.2.2
      match f.1.acc with
      | none => (acc.1, f.2)
      | some v =>
        (acc.1 ++ [{ rank := key.1, entry := key.2.1, bag := key.2.2, vals := v.map (partialElem bf),
                     args := if x.e.pool = 3 then f.1.args else [], poison := f.1.poison }], f.2)) ([], [], s)
  (r.1, r.2.2)

/-- The indices of this device's own lists that it owns itself. -/
def ownIndices (items : List Item) : List Routed :=
  items.flatMap fun x => x.bags.flatMap fun b =>
    (b.ixs.filter fun i => x.d.owner i.row == x.d.rank).map fun i => { rank := x.d.rank, entry := x.i, bag := b.b, ix := i }

/-- The indices that other ranks route here. -/
def peerIndices (items : List Item) (rs : List RoutedIx) : List Routed :=
  (rs.filter fun r => items.any fun x => x.i == r.entry && !x.desc && r.rank != x.d.rank && x.d.owner r.row == x.d.rank
      && decide (r.row < x.d.rows)).map fun r =>
    { rank := r.rank, entry := r.entry, bag := r.bag, ix := { k := r.k, row := r.row, weight := r.weight.toNat } }

/-- What WORK holds of a LOOKUP has no layout: its bytes are free from then on (R269; log 114). -/
def loosenWork (w : Entry) (s : State) : State := loosen (directOf w[7].toNat) (wordBits w[5] 32 32 * 2 ^ 20) s

/-- The forward lookup with the indices routed here: the statuses but PEER. -/
def forwardLookup (t : SlotIx) (q : W32) (n : Nat) (w : Entry) (routed : List RoutedIx) (s : State) : Nat × State :=
  let it := readItems w s
  let j := it.1.foldl (fun (acc : Nat × State) x => let r := judgeItem true x acc.2; (max acc.1 r.1, r.2)) (0, it.2)
  let all := ownIndices it.1 ++ peerIndices it.1 routed
  let bags := (all.map fun r => (r.rank, r.entry, r.bag)).eraseDups
  let dims := bags.foldl (fun n r => n + match it.1.find? fun x => x.i == r.2.1 with
    | some x => (if bit w[5] 18 then 2 else 4) * x.d.dim
    | none => 0) (8 * all.length)
  let fit := workFits dims (wordBits w[5] 32 32) j.2
  if !fit.1 then
    let s := it.1.foldl (fun s x => (List.range x.e.nbags).foldl (fun s b => poisonRow x b s) s) fit.2
    (max j.1 4, { s with lkWork := s.lkWork ++ [{ slot := t, q := q, parts := [], args := [], status := 4, nth := n, words := w, grads := [], incomplete := [] }] })
  else
    let p := gatherParts (bit w[5] 18) it.1 all fit.2
    let st := max (anyDown s) (if p.1.any (·.poison) then max j.1 2 else j.1)
    (st, { p.2 with lkWork := p.2.lkWork ++
      [{ slot := t, q := q, parts := p.1, args := [], status := BitVec.ofNat 8 st, nth := n, words := w, grads := [], incomplete := [] }] })

/-- The rank of a LOOKUP's reads (R265). -/
def lookupRank (w : Entry) : Rank := { rt := bit w[5] 17, lookup := true }

/-- LOOKUP in forward mode (R272): route, gather, and the entry completes. -/
def execLookupForward (t : SlotIx) (q : W32) (routed : List RoutedIx) (s : State) : Out :=
  match openEntry s t q 4 with
  | none => .next s
  | some e =>
    let w : Entry := e.words
    if bit w[5] 16 || !engineTurn s e then .next s
    else if (ownRank s (groupAt s 0)).isNone then .next (answerEntry t q 0x13 s)
    else engineRun (entryKey t q) (some t) (lookupRank w) true (fun s =>
      let r := forwardLookup t q e.nth w routed s
      answerEntry t q (BitVec.ofNat 8 r.1) (loosenWork w r.2)) s

/-! ### The combine (R274) -/

/-- Combines two partials of a bag, the lower rank first. -/
def combineTwo (pool : Nat) (a b : List Nat × List Nat) : List Nat × List Nat :=
  let vs := (a.1.zip b.1).map fun q => if pool = 3 then maxC q.1 q.2 else addC q.1 q.2
  (vs, if pool = 3 then (((a.1.zip vs).zip (a.2.zip b.2)).map fun q =>
      if differC q.1.2 q.1.1 then q.2.2 else q.2.1) else [])

/-- The bytes of an output row. -/
def outRow (ofmt : Nat) (xs : List Nat) : List Byte :=
  if ofmt = 0 then fpLe xs
  else if ofmt = 1 then xs.flatMap fun x => natLe 2 (convertElem 0 .rne false x).1
  else
    let qs := (List.range ((xs.length + 31) / 32)).map fun i => quantiseMx 4 ((xs.drop (32 * i)).take 32) fun _ => .rne
    qs.flatMap (fun q => q.2.1.map (BitVec.ofNat 8)) ++ qs.map fun q => BitVec.ofNat 8 q.1

/-- One bag of the sample device: its output row is written, and its argmax kept. A poisoned partial counts on an engine that the
manual does not name: free (R282, log 2). -/
def combineBag (k : LkWork) (x : Item) (b : Bag) (parts : List Partial) (s : State) : List (Nat × Nat × List Nat) × Bool × State :=
  let own := (k.parts.filter fun p => p.rank == x.d.rank)
  let ps := ((own ++ parts.filter fun p => p.rank != x.d.rank).filter fun p => p.entry == x.i && p.bag == b.b).mergeSort
    fun a b => decide (a.rank ≤ b.rank)
  let zero : List Nat × List Nat := (List.replicate x.d.dim 0, List.replicate x.d.dim 0)
  let sum := match ps with
    | [] => zero
    | p :: rest => rest.foldl (fun a (p : Partial) => combineTwo x.e.pool a (p.vals.map BitVec.toNat, p.args)) (p.vals.map BitVec.toNat, p.args)
  let vals := if x.e.pool = 1 then sum.1.map fun v => divC v b.count else sum.1
  let poison := ps.any (·.poison)
  let s := (ps.filter (·.poison)).foldl (fun s _ =>
    let p := freePick 12 s
    modEngine p.1 p.2 fun y => { y with poison := satInc y.poison }) s
  let s := if b.bad != 0 then s
    else devWrite (x.e.out + b.b * outStride x.e.ofmt x.d.dim) (outRow x.e.ofmt vals) poison s
  (if x.e.pool = 3 then [(x.i, b.b, sum.2)] else [], poison, s)

/-- The combine of every bag: args, whether a partial was poisoned, and the state. `ready` says which bags have all their
partials; a bag without them is left to `miss`. -/
def combineAll (k : LkWork) (items : List Item) (parts : List Partial) (miss : Item → Bag → Option (State → State))
    (s : State) : List (Nat × Nat × List Nat) × Bool × State :=
  (items.filter fun x => !x.desc).foldl (fun acc x => x.bags.foldl (fun acc b =>
    match miss x b with
    | some f => (acc.1, acc.2.1, f acc.2.2)
    | none => let r := combineBag k x b parts acc.2.2; (acc.1 ++ r.1, acc.2.1 || r.2.1, r.2.2)) acc) ([], false, s)

/-- The ranks whose partials a bag needs. -/
def Bag.ranks (x : Item) (b : Bag) : List Nat := (b.ixs.map fun i => x.d.owner i.row).eraseDups

def keepArgs (t : SlotIx) (q : W32) (args : List (Nat × Nat × List Nat)) (s : State) : State :=
  { s with lkWork := s.lkWork.map fun k => if k.slot == t && k.q == q then { k with args := args } else k }

/-- Every partial that the bags of a list need from other ranks is among `parts`. -/
def partsHere (items : List Item) (parts : List Partial) : Bool :=
  items.all fun x => x.desc || x.bags.all fun b => b.bad != 0 || (b.ranks x).all fun r =>
    r == x.d.rank || parts.any fun p => p.rank == r && p.entry == x.i && p.bag == b.b

/-- The largest status that the list's own entries give (R271, R282): a descriptor or a bag that is refused is so for the EXCHANGE as
for its LOOKUP (log 108). -/
def listStatus (items : List Item) : Nat :=
  items.foldl (fun n x => max n (if x.desc then 3 else if x.bags.any fun b => b.bad != 0 then 1 else 0)) 0

/-- EXCHANGE: once every other rank's partials are here, they are combined into OUT. -/
def execExchange (t : SlotIx) (q : W32) (parts : List Partial) (s : State) : Out :=
  match openEntry s t q 5 with
  | none => .next s
  | some e =>
    let w : Entry := e.words
    match exchangeWork s t w with
    | none => .next s
    | some k =>
      if (ownRank s (groupAt s 0)).isNone then .next (answerEntry t q 0x13 s)
      else if k.status = 4 then .next (answerEntry t q 4 s)
      else engineRunIf (entryKey t q) (some t) (lookupRank k.words) (fun s => partsHere (readItems k.words s).1 parts) (fun s =>
        let it := readItems k.words s
        let r := combineAll k it.1 parts (fun _ _ => none) it.2
        answerEntry t q (BitVec.ofNat 8 (max (listStatus it.1) (if r.2.1 then 2 else 0))) (loosenWork k.words (keepArgs t k.q r.1 r.2.2))) s

/-! ### Backward (R277 to R279) -/

/-- A gradient row on its way to its owner. -/
structure GRow where
  rank : Nat
  entry : Nat
  bag : Nat
  k : Nat
  table : Nat
  lrow : Nat
  vals : List Nat
  poison : Bool
deriving DecidableEq, Repr

/-- The gradient rows of one bag: its gradient is read, poisoned or not, and the rows this device owns itself are formed (R277). -/
def bagGrads (args : List (Nat × Nat × List Nat)) (x : Item) (b : Bag) (s : State) : List GRow × Bool × State :=
  if b.ixs.isEmpty then ([], false, s)
  else
    let g := devRead (x.e.out + b.b * outStride 0 x.d.dim) (4 * x.d.dim) s
    let gp := wordsOf g.1
    let arg := match args.find? fun a => a.1 == x.i && a.2.1 == b.b with
      | some a => a.2.2
      | none => []
    ((b.ixs.filter fun i => x.d.owner i.row == x.d.rank).map fun i =>
      { rank := x.d.rank, entry := x.i, bag := b.b, k := i.k, table := x.e.table, lrow := i.row / atLeast1 x.d.shards
        vals := (gp.zip (List.range gp.length)).map fun q =>
          if x.e.pool = 0 then q.1 else if x.e.pool = 1 then divC q.1 b.count
          else if x.e.pool = 2 then mulC i.weight q.1 else if arg.getD q.2 0 = i.k then q.1 else 0
        poison := g.2.1 }, g.2.1, g.2.2)

def GRow.before (a b : GRow) : Bool :=
  if a.rank != b.rank then decide (a.rank < b.rank) else if a.entry != b.entry then decide (a.entry < b.entry)
  else if a.bag != b.bag then decide (a.bag < b.bag) else decide (a.k ≤ b.k)

def CoRow.add (a : CoRow) (vals : List Nat) (poison : Bool) : CoRow :=
  { a with vals := (a.vals.zip vals).map fun q => BitVec.ofNat 32 (addC q.1.toNat q.2), poison := a.poison || poison }

def CoRow.le (a b : CoRow) : Bool := if a.table != b.table then decide (a.table < b.table) else decide (a.lrow ≤ b.lrow)

/-- Writes the coalescer out as a run, sorted by (table, local row). -/
def writeRun (y : LkEngine) : LkEngine :=
  if y.co.isEmpty then y else { y with co := [], runs := y.runs ++ [(y.co.map (·.2)).mergeSort CoRow.le], coRuns := y.coRuns + 1 }

/-- The 16 slots probed for a key. -/
def probes (table l : Nat) : List Nat := (List.range 16).map fun i => ((hmix (BitVec.ofNat 32 table) l).toNat + i) % 65536

/-- One row into an engine's coalescer (R278). -/
def coalesce (g : GRow) (y : LkEngine) : LkEngine :=
  let mine := fun c : Nat × CoRow => c.2.table == g.table && c.2.lrow == g.lrow
  let fresh : CoRow := { table := g.table, lrow := g.lrow, vals := g.vals.map (BitVec.ofNat 32), poison := g.poison }
  let put := fun y : LkEngine => match (probes g.table g.lrow).find? fun i => !y.co.any fun c => c.1 == i with
    | some i =>
      let co := y.co ++ [(i, fresh)]
      some { y with co := co, coPeak := BitVec.ofNat 17 (max y.coPeak.toNat co.length) }
    | none => none
  if y.co.any mine then { y with co := y.co.map fun c => if mine c then (c.1, c.2.add g.vals g.poison) else c }
  else match put y with
    | some y => y
    | none => (put (writeRun y)).getD y

/-- The rne sums of the run sums of each row, in run order (R279). -/
def mergeRuns (runs : List (List CoRow)) : List CoRow :=
  (runs.foldl (fun out r => r.foldl (fun out c =>
    if out.any fun o => o.table == c.table && o.lrow == c.lrow then
      out.map fun o => if o.table == c.table && o.lrow == c.lrow then o.add (c.vals.map BitVec.toNat) c.poison else o
    else out ++ [c]) out) []).mergeSort CoRow.le

/-- Coalesces the rows of one engine: the runs it writes. -/
def coalesceAll (rows : List GRow) (y : LkEngine) : LkEngine :=
  writeRun (rows.foldl (fun y g => coalesce g y) { y with co := [], runs := [], coRuns := 0 })

/-- The gradient rows that other ranks route here. -/
def peerGrads (items : List Item) (rs : List GradRow) : List GRow :=
  rs.filterMap fun r => match items.find? fun x => x.i == r.entry && !x.desc && r.rank != x.d.rank && x.d.owner r.row == x.d.rank with
    | none => none
    | some x => some { rank := r.rank, entry := r.entry, bag := r.bag, k := r.k, table := x.e.table,
                       lrow := r.row / atLeast1 x.d.shards, vals := r.vals.map BitVec.toNat, poison := r.poison }

/-- The argmax positions that the forward LOOKUP of the same list has left in the WORK that a backward one names (R277). -/
def forwardArgs (s : State) (t : SlotIx) (w : Entry) : List (Nat × Nat × List Nat) :=
  match (s.lkWork.filter fun k => k.slot == t && k.words[4] == w[4] && k.words[7] == w[7] && !bit k.words[5] 16).getLast? with
  | some k => k.args
  | none => []

/-- How many rows an engine takes before an exhausted WORK stops it: free, since WORK's layout is not given (R279, log 2). -/
def stopAt (rows : List GRow) (e : Nat) (s : State) : Nat :=
  (Config.free 32 (s.freeCtr + e)).toNat % ((rows.filter fun g => g.lrow % 12 == e).length + 1)

/-- The backward lookup with the gradient rows routed here; `all` says that every coalesced row is poisoned, since a peer's rows did not
come (R335, log 108). -/
def backwardLookup (t : SlotIx) (q : W32) (n : Nat) (w : Entry) (routed : List GradRow) (all : Bool) (s : State) : Nat × State :=
  let it := readItems w s
  let j := it.1.foldl (fun (acc : Nat × State) x => let r := judgeItem false x acc.2; (max acc.1 r.1, r.2)) (0, it.2)
  let args := forwardArgs j.2 t w
  let own := (it.1.filter fun x => !x.desc).foldl (fun (acc : List GRow × Bool × State) x => x.bags.foldl (fun acc b =>
    let r := bagGrads args x b acc.2.2; (acc.1 ++ r.1, acc.2.1 || r.2.1, r.2.2)) acc) ([], false, j.2)
  let rows := (own.1 ++ peerGrads it.1 routed).mergeSort GRow.before
  let need := ((rows.map fun g => (g.table, g.lrow, g.vals.length)).eraseDups).foldl (fun n g => n + 4 * g.2.2) 0
  let fit := workFits need (wordBits w[5] 32 32) own.2.2
  let s := fit.2
  let taken := fun e : Nat =>
    let mine := rows.filter fun g => g.lrow % 12 == e
    if fit.1 then mine else mine.take (stopAt rows e s)
  let inc := if fit.1 then [] else ((List.range 12).flatMap fun e =>
    ((rows.filter fun g => g.lrow % 12 == e).drop (stopAt rows e s)).map (·.table)).eraseDups
  let s := { s with freeCtr := if fit.1 then s.freeCtr else s.freeCtr + 12
                    lookup := Vector.ofFn fun i => coalesceAll (taken i.val) s.lookup[i] }
  let grads := (s.lookup.toList.flatMap fun y => mergeRuns y.runs).map fun c => { c with poison := c.poison || all }
  let bad := own.2.1 || rows.any (·.poison) || all || anyDown s != 0
  let st := if fit.1 then (if bad then max j.1 2 else j.1) else max j.1 4
  (st, { s with lkWork := (s.lkWork.filter fun k => !(k.slot == t && k.words[7] == w[7] && bit k.words[5] 16)) ++
    [{ slot := t, q := q, parts := [], args := [], status := BitVec.ofNat 8 st, nth := n, words := w, grads := grads, incomplete := inc }] })

/-- LOOKUP in backward mode: the gradient rows of owned entries are coalesced, and the entry completes. -/
def execLookupBackward (t : SlotIx) (q : W32) (routed : List GradRow) (s : State) : Out :=
  match openEntry s t q 4 with
  | none => .next s
  | some e =>
    let w : Entry := e.words
    if !bit w[5] 16 || !engineTurn s e then .next s
    else if (ownRank s (groupAt s 0)).isNone then .next (answerEntry t q 0x13 s)
    else engineRun (entryKey t q) (some t) (lookupRank w) true (fun s =>
      let r := backwardLookup t q e.nth w routed false s
      answerEntry t q (BitVec.ofNat 8 r.1) (loosenWork w r.2)) s

end Sys2Proof.Machine
end

