-- ==== Sys2Proof/Machine/Collective.lean ====
section
/-! DEFINITION. The collective engine (R237, R239, R240, R255, R330 to R335): REDUCE, GATHER, the barrier, and a collective
whose segments do not arrive. -/

namespace Sys2Proof.Machine

/-! ### Fields of the entries (R332, R333) -/

def Entry.bytes (w : Entry) : Nat := wordBits w[4] 0 32
def Entry.units (w : Entry) : Nat := w.bytes / 256
/-- DST of a REDUCE: direct address bits [38:8]. -/
def Entry.dst (w : Entry) : Nat := wordBits w[7] 24 31 * 256

/-! ### Units (R331) -/

/-- The units of 64 elements that the member of a rank owns. -/
def ownedUnits (n u r : Nat) : List Nat := (List.range u).filter fun i => i * n / atLeast1 u == r

/-- ring_sum: from the element after index `o`, once round. -/
def ringSum (v : List Nat) (o : Nat) : Nat :=
  let m := atLeast1 v.length
  (List.range (m - 1)).foldl (fun a i => addC a (v.getD ((o + 2 + i) % m) 0)) (v.getD ((o + 1) % m) 0)

/-- reduced: the sum of the contributions `c` of every rank, in the order the owner's place fixes. -/
def reduced (g : Group) (own : Nat) (c : Nat → Nat) : Nat :=
  let o := g.placeOf own
  let d := (List.range (g.size 2)).map fun iz =>
    ringSum ((List.range (g.size 1)).map fun iy =>
      ringSum ((List.range (g.size 0)).map fun ix => c (ix + g.size 0 * (iy + g.size 1 * iz))) o.1) o.2.1
  ringSum d o.2.2

/-! ### The device contribution (R239) -/

/-- A range of whole granules: FP32 words and poison by granule. -/
def readGrans (a n : Nat) (s : State) : List Nat × List Bool × State :=
  (List.range (n / 64)).foldl (fun acc i =>
    let r := devRead (a + 64 * i) 64 acc.2.2
    (acc.1 ++ wordsOf r.1, acc.2.1 ++ [r.2.1], r.2.2)) ([], [], s)

/-- Writes FP32 words with their poison by granule. -/
def writeGrans (a : Nat) (ws : List Nat) (ps : List Bool) (s : State) : State :=
  (List.range ((ws.length + 15) / 16)).foldl (fun s i =>
    devWrite (a + 64 * i) (fpLe ((ws.drop (16 * i)).take 16)) (ps.getD i false) s) s

/-- contrib: the wide-buffer slots named, concatenated; or the sum of the partials in ascending order. -/
def contribution (t : SlotIx) (w : Entry) (s : State) : List Nat × List Bool × State :=
  if w[3] = 0 then
    let cs := (entryCores s.tasks[t] w).flatMap fun c =>
      ((List.range 32).filter fun i => w[6].getLsbD i).map fun i => (c, i)
    (cs.flatMap fun q => (List.range 4096).map fun e => (tget 0 s.cores[q.1].wb (4096 * q.2 + e)).toNat,
     cs.flatMap fun q => List.replicate 256 (bit s.cores[q.1].wbPoison q.2), s)
  else
    let stride := w[5].toNat
    let first := readGrans w[3].toNat w.bytes s
    (List.range (wordBits w[4] 32 8 - 1)).foldl (fun acc p =>
      let r := readGrans (w[3].toNat + stride * (p + 1)) w.bytes acc.2.2
      ((acc.1.zip r.1).map fun q => addC q.1 q.2, (acc.2.1.zip r.2.1).map fun q => q.1 || q.2, r.2.2)) first

/-- The elements of a rank's units. -/
def pickUnits (us : List Nat) (xs : List Nat) : List Nat := us.flatMap fun u => (xs.drop (64 * u)).take 64
def pickPoison (us : List Nat) (ps : List Bool) : List Bool := us.flatMap fun u => (ps.drop (4 * u)).take 4

/-! ### STEP (R255) -/

/-- The event of a collective status (R377): group, COLL, member. -/
def collEvent (w : Entry) (coll : W16) (status member : Nat) (s : State) : State :=
  record s (0x7000 + status) error w.group 0 coll.toNat member

/-! ### REDUCE (R331, R332) -/

/-- Writes the owned shard: plainly from DST, or into the groups of the tensor list with their sums (R332). -/
def writeShard (t : SlotIx) (w : Entry) (vals : List Nat) (ps : List Bool) (s : State) : Nat × State :=
  if !bit w[7] 20 then (0, writeGrans w.dst vals ps s)
  else
    let l := tensorList t s.tasks[t].cores w.dst s
    match l.1 with
    | none => (0x11, l.2)
    | some gs =>
      if gs.foldl (fun n g => n + g.rows * g.cp) 0 != vals.length then (0x11, l.2)
      else
        let r := gs.foldl (fun (acc : Nat × State) g =>
          let n := g.rows * g.cp
          let vs := (vals.drop acc.1).take n
          let pq := (ps.drop (acc.1 / 16)).take (n / 16)
          let rows := (List.range g.rows).map fun i => (vs.drop (g.cp * i)).take g.cp
          let s := writeGrans g.grad vs pq acc.2
          let s := devWrite g.sums (fpLe (rowSums rows)) (pq.any id) s
          (acc.1 + n, devWrite (g.sums + granBytes g.rows) (fpLe (colSums rows g.cp)) (pq.any id) s)) (0, l.2)
        (0, r.2)

/-- A segment of the collective came with another STEP (R255). -/
def strayed (s : State) (coll : W16) : Bool := s.net.skewed.any fun q => q.1 == coll

/-- The collective is over: what was noted of its segments is dropped. -/
def forgetColl (coll : W16) (s : State) : State := { s with net := { s.net with skewed := s.net.skewed.filter fun q => q.1 != coll } }

/-- The elements that a REDUCE writes: QNAN where a contribution of another STEP would have gone; which units a refused segment would have
reached the manual does not say (log 22). -/
def reducedElem (g : Group) (own : Nat) (peers : List Contribution) (step : W32) (stray : Bool) (ctr : Nat) (mine : List Nat) (e : Nat) : Nat :=
  if peers.any (fun p => p.step != step) || (stray && Config.free 1 (ctr + e / 64) == 1) then qnan32
  else reduced g own fun r => if r = own then mine.getD e 0 else match peers.find? fun p => p.rank == r with
    | some p => (p.vals.getD e 0).toNat
    | none => 0

/-- The reduction with every member's contribution: statuses and the owned shard. -/
def reduceRun (t : SlotIx) (w : Entry) (coll : W16) (g : Group) (own : Nat) (peers : List Contribution) (s : State) : Nat × State :=
  let c := contribution t w s
  let s := c.2.2
  let us := ownedUnits g.count w.units own
  let mine := pickUnits us c.1
  let skew := strayed s coll || peers.any fun p => p.step != w.step
  let vals := (List.range (64 * us.length)).map (reducedElem g own peers w.step (strayed s coll) s.freeCtr mine)
  let ps := ((pickPoison us c.2.1).zip (List.range (4 * us.length))).map fun q => q.1 || peers.any fun p => p.poison.getD q.2 false
  let x := writeShard t w vals ps (forgetColl coll { s with freeCtr := s.freeCtr + us.length })
  let st := max x.1 (if skew then 0x10 else 0)
  (st, if skew then collEvent w coll 0x10 0 x.2 else x.2)

/-- Every other member of the group is among those that have sent. -/
def allThere (g : Group) (own : Nat) (from_ : List Nat) : Bool := (List.range g.count).all fun r => r == own || from_.contains r

def execReduce (t : SlotIx) (q : W32) (peers : List Contribution) (s : State) : Out :=
  match openEntry s t q 6 with
  | none => .next s
  | some e =>
    let w : Entry := e.words
    let g := groupAt s w.group
    match ownRank s g with
    | none => .next (answerEntry t q 0x13 s)
    | some own =>
      engineRun (entryKey t q) (some t) Rank.open_ (allThere g own (peers.map (·.rank))) (fun s =>
        let r := reduceRun t w (collOf s t e) g own peers s
        answerEntry t q (BitVec.ofNat 8 r.1) r.2) s

/-! ### GATHER (R333) -/

/-- Writes the shard of one rank into the whole tensor; one of another STEP is left out (R255). -/
def placeShard (w : Entry) (g : Group) (r : Nat) (vals : List Nat) (ps : List Bool) (s : State) : State :=
  ((ownedUnits g.count w.units r).zip (List.range (ownedUnits g.count w.units r).length)).foldl (fun s q =>
    writeGrans (w[5].toNat + 256 * q.1) ((vals.drop (64 * q.2)).take 64) ((ps.drop (4 * q.2)).take 4) s) s

/-- The ranks of which a segment of the collective came with another STEP. -/
def strayRanks (g : Group) (coll : W16) (s : State) : List Nat :=
  s.net.skewed.filterMap fun q => if q.1 = coll then groupRank s g q.2.toNat else none

/-- The shards that have come with the entry's STEP are placed. Of a member that sent a segment of another STEP, the units which that
segment carried stay as they were: which these are is free by unit (R255; log 22). -/
def placePeers (w : Entry) (g : Group) (own : Nat) (peers : List Contribution) (stray : List Nat) (s : State) : State :=
  (peers.filter fun p => p.step == w.step && p.rank != own).foldl (fun s p =>
    if stray.contains p.rank then
      let us := ownedUnits g.count w.units p.rank
      (us.zip (List.range us.length)).foldl (fun s q =>
        if Config.free 1 (s.freeCtr + q.2) = 1 then s
        else writeGrans (w[5].toNat + 256 * q.1) (((p.vals.map BitVec.toNat).drop (64 * q.2)).take 64) ((p.poison.drop (4 * q.2)).take 4) s)
        { s with freeCtr := s.freeCtr + us.length }
    else placeShard w g p.rank (p.vals.map BitVec.toNat) p.poison s) s

def gatherRun (w : Entry) (coll : W16) (g : Group) (own : Nat) (peers : List Contribution) (s : State) : Nat × State :=
  let mine := readGrans w[3].toNat (256 * (ownedUnits g.count w.units own).length) s
  let skew := strayed mine.2.2 coll || peers.any fun p => p.step != w.step
  let stray := strayRanks g coll s
  let s := placePeers w g own peers stray (placeShard w g own mine.1 mine.2.1 (forgetColl coll mine.2.2))
  (if skew then 0x10 else 0, if skew then collEvent w coll 0x10 0 s else s)

def execGather (t : SlotIx) (q : W32) (peers : List Contribution) (s : State) : Out :=
  match openEntry s t q 7 with
  | none => .next s
  | some e =>
    let w : Entry := e.words
    let g := groupAt s w.group
    if bit w[6] 12 then .next s
    else match ownRank s g with
    | none => .next (answerEntry t q 0x13 s)
    | some own =>
      engineRun (entryKey t q) (some t) Rank.open_ (allThere g own (peers.map (·.rank))) (fun s =>
        let r := gatherRun w (collOf s t e) g own peers s
        answerEntry t q (BitVec.ofNat 8 r.1) r.2) s

/-- The ADD of 1 that ends a barrier (R215, R216, R333), and whether an entry's is under way. -/
def addOne (t : SlotIx) (q : W32) (i : Fin 4096) (s : State) : State :=
  { s with gsigs := s.gsigs ++ [{ g := i, op := .barrier t q, due := s.time.cycle, core := 0, ctx := 0, pc := 0, src := none }] }

def adding (s : State) (t : SlotIx) (q : W32) : Bool := s.gsigs.any fun i => i.op == .barrier t q

/-- The barrier: once every member has arrived, an ADD of 1 to GCTR sets out; the entry completes when it has been applied (R333). -/
def execGatherBarrier (t : SlotIx) (q : W32) (arrived : List Nat) (s : State) : Out :=
  match openEntry s t q 7 with
  | none => .next s
  | some e =>
    let w : Entry := e.words
    let g := groupAt s w.group
    if !bit w[6] 12 then .next s
    else match ownRank s g with
    | none => .next (answerEntry t q 0x13 s)
    | some own =>
      if !allThere g own arrived || adding s t q then .next s
      else .next (addOne t q (Fin.ofNat 4096 (wordBits w[6] 0 12)) s)

/-! ### Segments that do not arrive (R335) -/

/-- COLL_TIMEOUT in cycles, as staged at the hub. -/
def collLimit (s : State) : Nat := ccOf s (1000 * atLeast1 (bitsOf (cfgOf s 22).timeouts 16 16))

/-- A GATHER that lacks shards: those that have come are placed, the others are poisoned. -/
def gatherWithout (w : Entry) (g : Group) (own : Nat) (peers : List Contribution) (s : State) : State :=
  let mine := readGrans w[3].toNat (256 * (ownedUnits g.count w.units own).length) s
  let s := placePeers w g own peers [] (placeShard w g own mine.1 mine.2.1 mine.2.2)
  ((List.range g.count).filter fun r => r != own && !peers.any fun p => p.rank == r).foldl (fun s r =>
    let n := (ownedUnits g.count w.units r).length
    placeShard w g r (List.replicate (64 * n) 0) (List.replicate (4 * n) true) s) s

/-- An EXCHANGE that lacks partials: the output rows that need one are poisoned, the rest are combined. -/
def exchangeWithout (t : SlotIx) (k : LkWork) (parts : List Partial) (s : State) : Nat × State :=
  let it := readItems k.words s
  let miss := fun (x : Item) (b : Bag) =>
    if b.bad != 0 then some id
    else if (b.ranks x).all fun r => r == x.d.rank || parts.any fun p => p.rank == r && p.entry == x.i && p.bag == b.b then none
    else some (poisonRow x b.b)
  let r := combineAll k it.1 parts miss it.2
  (5, keepArgs t k.q r.1 r.2.2)

/-- What an entry does with what has arrived of it, where a member's segments have not. -/
def runWithout (t : SlotIx) (q : W32) (e : Posted) (w : Entry) (g : Group) (own m : Nat) (got : Arrived) (s : State) : Nat × State :=
  match w.op with
  | 4 =>
    if bit w[5] 16 then
      let r := backwardLookup t q e.nth w (got.grads.filter fun x => x.rank != m) true s
      (max 5 r.1, loosenWork w r.2)
    else
      let r := forwardLookup t q e.nth w (got.routed.filter fun x => x.rank != m) s
      (max 5 r.1, loosenWork w r.2)
  | 5 => match exchangeWork s t w with
    | some k => if k.status = 4 then (5, s) else exchangeWithout t k (got.parts.filter fun x => x.rank != m) s
    | none => (5, s)
  | 6 =>
    let us := ownedUnits g.count w.units own
    let x := writeShard t w (List.replicate (64 * us.length) 0) (List.replicate (4 * us.length) true) s
    (max 0x12 x.1, x.2)
  | _ => if bit w[6] 12 then (0x12, s) else (0x12, gatherWithout w g own (got.peers.filter fun x => x.rank != m) s)

/-- A segment of a member has not come within COLL_TIMEOUT of the entry's posting. -/
def execCollTimeout (t : SlotIx) (q : W32) (late : Arrived) (s : State) : Out :=
  match s.tasks[t].cmd.posted.find? fun e => e.q == q && !e.finished && e.status.isNone
      && (Entry.engine e.words == 1 || Entry.engine e.words == 2) with
  | none => .next s
  | some e =>
    let w : Entry := e.words
    let g := groupAt s w.group
    let coll := collOf s t e
    if decide (s.time.cycle < e.postedAt + collLimit s) || !engineTurn s e && Entry.engine e.words == 1 || adding s t q then .next s
    else match ownRank s g, groupRank s g late.missing.toNat with
    | some own, some m =>
      if own = m then .next s
      else engineRun (entryKey t q) (some t) (if w.op = 4 then lookupRank w else Rank.open_) true (fun s =>
        let r := runWithout t q e w g own m late s
        answerEntry t q (BitVec.ofNat 8 r.1) (collEvent w coll 0x12 late.missing.toNat (forgetColl coll r.2))) s
    | none, _ => .next (answerEntry t q 0x13 s)
    | some _, none => .next s

/-- The oldest segment refused with BUSY has waited 10 us. -/
def resendDue (s : State) : Bool := match s.net.resend with
  | [] => false
  | h :: _ => decide (h.at_ + ccOf s 10000 ≤ s.time.cycle)

/-- A segment refused with BUSY is sent again after 10 us. -/
def execCollResend (s : State) : Out :=
  match s.net.resend with
  | [] => .next s
  | h :: rest =>
    if !resendDue s then .next s else .next (sendOrDrop h.pkt { s with net := { s.net with resend := rest } })

end Sys2Proof.Machine
end

