-- ==== Sys2Proof/Machine/FabricTime.lean ====
section
/-! DEFINITION. Fabric time between devices (chapter 02): the election and the time tree (R24 to R27), acquisition, lock and
steps (R33), trim and holdover (R30, R32). -/

namespace Sys2Proof.Machine

def modTime (s : State) (f : Time → Time) : State := { s with time := f s.time }

/-- FT_STATUS.STATE changes: MSI-X vector 3 (R297). -/
def setTimeState (st : TimeState) (s : State) : State :=
  if s.time.st = st then s else msix 3 (modTime s fun x => { x with st := st })

/-- ERR_BOUND of a device `d` hops from the master (R25, R27). -/
def boundAt (d : Byte) : W16 := BitVec.ofNat 16 (2 * d.toNat)

/-- A time-state event (R377): the upstream port, ERR_BOUND. -/
def timeEvent (reason : Nat) (sev : BitVec 2) (s : State) : State :=
  record s (0x9100 + reason) sev s.time.upstream.toNat 0 s.time.errBound.toNat 0

/-- ERR_BOUND beyond FT_HOLD_LIMIT in HOLDOVER is recorded once (R32). -/
def noteHold (s : State) : State :=
  if s.time.holdLimit.toNat < s.time.errBound.toNat && !s.time.holdNoted then
    modTime (timeEvent 3 error s) fun x => { x with holdNoted := true }
  else s

/-- The device enters HOLDOVER: it counts on at the last trim; a bound that is already beyond the limit is recorded (R32). -/
def enterHoldover (s : State) : State :=
  noteHold (setTimeState .holdover (modTime s fun x => { x with holdNoted := false, holdAt := nsNow s }))

/-- How far the trim goes beyond the rate that follows the master, in units of 0.01 ppm: not at all once the offset is within
ERR_BOUND, 50 ppm while a step is pending, else free up to 50 ppm, toward the master (R33; log 2). -/
def slew (s : State) : Int :=
  let d := s.time.ahead
  let n : Nat := if d.natAbs ≤ 16 * s.time.errBound.toNat then 0 else if s.time.stepPending then 5000
    else (Config.free 32 s.freeCtr).toNat % 5001
  if 0 < d then (n : Int) else -(n : Int)

/-- The trim: the rate that follows the master against REFCLK, which is free within 200 ppm either way (20,000 units of 0.01 ppm), and
the slew, the two together within that range (R29, R30, R33; log 2). -/
def retrim (s : State) : State :=
  let v : Int := ((Config.free 32 (s.freeCtr + 1)).toNat % 40001 : Nat) - 20000
  modTime { s with freeCtr := s.freeCtr + 2 } fun x => { x with trim := BitVec.ofInt 32 (max (-20000) (min 20000 (v + slew s))) }

/-- An offset to the master is measured, in units of 1/16 ns. -/
def measure (offset : Int) (s : State) : State := modTime s fun x => { x with offset := BitVec.ofInt 32 offset, ahead := offset }

/-- One exchange of time-sync packets with the upstream port measures the offset, in units of 1/16 ns, master less own
(log 24); the trim follows, except in HOLDOVER, where the last trim stays (R32). -/
def execTsyncExchange (p : Fin 8) (_roundTrip : Nat) (offset : Int) (s : State) : Out :=
  if s.time.upstream.toNat = p.val && portUp s p.val && s.time.st != .free then
    let s := measure offset (modTime s fun x => { x with lastSync := nsNow s })
    .next (if s.time.st == .holdover then s else retrim s)
  else .next s

/-- Three sync intervals have passed without a packet from upstream. -/
def upstreamLost (s : State) : Bool :=
  (s.time.st == .locked || s.time.st == .acquiring) && !s.time.isMaster && s.time.upstream != 0xF
  && decide (s.time.lastSync + 375000 ≤ nsNow s)

/-- Three sync intervals without a packet from upstream. -/
def execUpstreamLoss (s : State) : Out := if upstreamLost s then .next (enterHoldover s) else .next s

/-- The lower pair (PRIO, identity) wins (R24). -/
def candBeats (a b : Candidate) : Bool :=
  decide (a.prio.toNat < b.prio.toNat) || (a.prio == b.prio && decide (a.idn.toNat < b.idn.toNat))

/-- An election in which this device takes part: it becomes master, or takes its place in the winner's tree. A device in FREE takes no
part, a new master keeps its own FT as the origin, an election without an eligible device changes nothing, and ERR_BOUND keeps its
value where the device becomes ACQUIRING (DESIGN CHOICE, log 93). -/
def execMasterElection (others : List Candidate) (s : State) : Out :=
  if s.time.st == .free then .next s
  else
    let own : Candidate := { prio := s.time.prio, idn := s.sec.idn, eligible := s.time.eligible, depth := 0, port := 0 }
    let best := (others.filter (·.eligible)).foldl (fun b c => match b with
      | none => some c
      | some x => if candBeats c x then some c else some x) (none : Option Candidate)
    let master := fun s : State => setTimeState .locked <| modTime s fun x =>
      { x with isMaster := true, depth := 0, upstream := 0xF, errBound := 0, stepPending := false }
    match best with
    | none => if own.eligible then .next (master s) else .next s
    | some c =>
      if own.eligible && candBeats own c then .next (master s)
      else .next (setTimeState .acquiring <| modTime s fun x =>
        { x with isMaster := false, depth := c.depth, upstream := BitVec.ofNat 4 c.port.val, lastSync := nsNow s })

/-- The measured offset (in units of 1/16 ns) at lock (R33): at most 1 us is slewed and the device is LOCKED; above it a step
is pending, and the trim slews meanwhile. The device is ACQUIRING then, and stays so after the step until another TIME_LOCK, also where
no task was active (DESIGN CHOICE, log 93). -/
def execTimeLock (offset : Int) (s : State) : Out :=
  if (s.time.st == .acquiring || s.time.st == .holdover) && !s.time.isMaster && s.time.upstream != 0xF then
    let s := measure offset s
    if offset.natAbs ≤ 16000 then
      let s := setTimeState .locked <| retrim <| modTime s fun x => { x with stepPending := false, errBound := boundAt x.depth }
      .next (if 10 < s.time.depth.toNat then timeEvent 1 notice s else s)
    else .next (setTimeState .acquiring <| retrim <| modTime s fun x => { x with stepPending := true })
  else .next s

/-- What is counted in windows of FT goes on where FT steps from `was`: the control windows that have been dealt with and that limits
last to, and the recorder's next boundary, the next multiple of its window (R365, R381; log 86, log 116). -/
def stepWindows (was : Nat) (s : State) : State :=
  let on := fun n : Nat => ((n : Int) + (winNow s : Int) - (was / 10240 : Nat)).toNat
  let w := s.recorder.window
  { s with
    power := { s.power with winDone := on s.power.winDone, guardUntil := on s.power.guardUntil }
    duty := s.duty.map fun d => { d with marginUntil := on d.marginUntil }
    recorder := { s.recorder with boundary := (ftNow s / w + 1) * w } }

/-- Steps FT by a pending step, to the master's value as last measured (R33). OFFSET keeps that measurement. -/
def stepFt (s : State) : State :=
  if !s.time.stepPending then s
  else
    let was := ftNow s
    let s := rebase ((was : Int) + s.time.ahead / 16).toNat s.power.coreStep s
    let now := ftNow s
    stepWindows was (modTime s fun x => { x with stepPending := false, stepped := x.stepped + ((now : Int) - was) })

/-- A pending step falls in this cycle: a frame boundary at which no task is active. -/
def stepDue (s : State) : Bool := s.time.stepPending && atFrame s && !taskActive s

/-- A pending step is applied at a frame boundary at which no task is active. -/
def execFtStepApply (s : State) : Out := if stepDue s then .next (stepFt s) else .next s

/-- A distribution message corrects the replicas of FT, which the model holds as the one FT of the device (R28, log 23). -/
def execFtReplicaCorrect (s : State) : Out := .next s

/-- A trim beyond 200 ppm (20,000 units of 0.01 ppm) puts the device in HOLDOVER (R30). -/
def execTrimOutOfRange (trim : W32) (s : State) : Out :=
  if 20000 < trim.toInt.natAbs && s.time.st != .holdover then .next (enterHoldover (timeEvent 2 error s)) else .next s

/-- A millisecond in HOLDOVER has passed. -/
def holdoverDue (s : State) : Bool := s.time.st == .holdover && decide (s.time.holdAt + 1000000 ≤ nsNow s)

/-- A millisecond in HOLDOVER (R32). -/
def execHoldoverTick (s : State) : Out :=
  if !holdoverDue s then .next s
  else
    let b := min 0xFFFF (s.time.errBound.toNat + 10)
    .next (noteHold (modTime s fun x => { x with errBound := BitVec.ofNat 16 b, holdAt := x.holdAt + 1000000 }))

/-- ACQUIRE (register table of chapter 02): acquisition starts from FREE or HOLDOVER. -/
def acquireTime (s : State) : State :=
  if s.time.st == .free || s.time.st == .holdover then setTimeState .acquiring <| modTime s fun x => { x with lastSync := nsNow s }
  else s

def execFtAcquire (_ : Req) (s : State) : Out := .next (acquireTime s)

end Sys2Proof.Machine
end

