-- ==== Sys2Proof/Machine/Recorder.lean ====
section
/-! DEFINITION. The event recorder (chapter 19): arrival of events (R380, R381, R383), the one write a hub cycle (R379,
R380), rate windows (R381, R382), arming (R385) and freezing (R383). -/

namespace Sys2Proof.Machine

/-! ### A requester's own copies (R408) -/

def reqCopy (s : State) (r : Req) : ReqCopy := match r with
  | .host => s.reqHost
  | .mgmt => s.reqMgmt
  | .fw => s.reqFw

def modReq (s : State) (r : Req) (f : ReqCopy → ReqCopy) : State := match r with
  | .host => { s with reqHost := f s.reqHost }
  | .mgmt => { s with reqMgmt := f s.reqMgmt }
  | .fw => { s with reqFw := f s.reqFw }

/-- UNIT of class 0x0, kind 0x2 (R377). -/
def reqNumber : Req → Nat
  | .host => 0
  | .mgmt => 1
  | .fw => 2

/-- The notice of a register access refused: 1 select range, 2 core busy, 3 write ignored (R377). -/
def refuseAccess (r : Req) (reason off : Nat) (s : State) : State := record s (0x200 + reason) notice (reqNumber r) off 0 0

def ignoreWrite (r : Req) (off : Nat) (s : State) : State := refuseAccess r 3 off s

/-! ### Arrival -/

/-- FROZEN (R383). -/
def frozen (s : State) : Bool := s.reqHost.freeze || s.reqMgmt.freeze || s.reqFw.freeze

def noSupp : Suppressed := { count := 0, sev := 0, unit := 0, first := 0, last := 0 }

def noEvent : Event :=
  { ft := 0, code := 0, sev := 0, tst := .free, unit := 0, arg0 := 0, arg1 := 0, arg2 := 0, summary := false,
    held := false, seq := 0 }

/-- The order of arrival in one hub cycle: class, then unit (R380). -/
def Event.rank (e : Event) : Nat := e.code.toNat / 0x1000 * 256 + e.unit.toNat

/-- The first of the events captured in the hub cycle of `e`, among a list. -/
def firstEvent (e : Event) : List Event → Event
  | [] => e
  | x :: xs => firstEvent (if x.hub = e.hub && decide (x.rank < e.rank) then x else e) xs

/-- An event finds its place in the input queue, or is dropped (R380). -/
def Recorder.place (x : Recorder) (e : Event) : Recorder :=
  let low := (x.queue.filter fun y => y.sev ≠ 3).length
  if x.queue.length < 64 && (e.sev = 3 || decide (low < 56)) then { x with queue := x.queue ++ [e] }
  else { x with queueDrop := satInc x.queueDrop }

/-- An event without a token is counted for its code's summary (R381). -/
def Recorder.suppress (x : Recorder) (e : Event) : Recorder :=
  let k := e.code.toNat
  let p := tget noSupp x.supp k
  let n : Suppressed :=
    { count := min 0xFFFF (p.count + 1), sev := if p.count = 0 || decide (p.sev.toNat < e.sev.toNat) then e.sev else p.sev,
      unit := e.unit, first := if p.count = 0 then e.ft else p.first, last := e.ft }
  { x with supp := tset noSupp x.supp k n, suppressed := satInc x.suppressed }

/-- A frozen recorder takes an event (R383). -/
def Recorder.takeFrozen (x : Recorder) (e : Event) : Recorder :=
  if e.sev = 3 && decide (x.held.length < 8) then { x with held := x.held ++ [{ e with held := true }] }
  else { x with freezeCount := satInc x.freezeCount }

/-- An unfrozen recorder takes an event: a token for severities 0 to 2, then a place (R380, R381). -/
def Recorder.take (x : Recorder) (e : Event) : Recorder :=
  if e.sev = 3 then x.place e
  else
    let k := e.code.toNat
    let n := tget x.fullTokens x.buckets k
    if n = 0 then x.suppress e
    else Recorder.place { x with buckets := tset x.fullTokens x.buckets k (n - 1) } e

/-- The recorder was frozen in a hub cycle: in that of the write that froze it and after, up to the one that ended the freeze (R383). -/
def Recorder.frozeIn (x : Recorder) (now : Bool) (hub : Nat) : Bool := decide (x.frozeAt ≤ hub) && (now || decide (hub < x.thawedAt))

/-- An event has been captured in a hub cycle that is over. -/
def arrivalDue (s : State) : Bool := match s.recorder.arriving with
  | [] => false
  | e :: _ => decide (e.hub < hubCycle s)

/-- An event reaches the recorder, at the end of the hub cycle in which it was captured (DESIGN CHOICE, log 116), in the order of R380; as
frozen, where the recorder was so in that cycle. -/
def execEventQueue (s : State) : Out :=
  match s.recorder.arriving with
  | [] => .next s
  | e :: es =>
    if !arrivalDue s then .next s
    else
      let f := firstEvent e es
      let x := { s.recorder with arriving := (e :: es).erase f }
      let g := { f with hub := 0 }
      let s := { s with recorder := if x.frozeIn (frozen s) f.hub then x.takeFrozen g else x.take g }
      .next (if f.sev = 3 then msix 0 s else s)

/-! ### Writing -/

/-- How long ago an entry was written, in entries. -/
def Recorder.age (x : Recorder) (e : Event) : Nat := (x.nextSeq - e.seq).toNat

/-- The pool slot that a new entry of severity `v` replaces (R379). -/
def Recorder.victim (x : Recorder) (v : BitVec 2) : Option Nat :=
  let older := fun (b : Option (Nat × Nat)) (p : Nat × Event) =>
    if 512 ≤ p.1 && decide (p.1 < 8192) && decide (p.2.sev.toNat ≤ v.toNat) then
      match b with
      | none => some (p.1, x.age p.2)
      | some q => if q.2 < x.age p.2 then some (p.1, x.age p.2) else b
    else b
  (x.log.foldl older none).map Prod.fst

/-- Writes an entry at a slot. -/
def Recorder.put (x : Recorder) (i : Nat) (e : Event) : Recorder :=
  { x with log := tset noEvent x.log i { e with seq := x.nextSeq }, nextSeq := x.nextSeq + 1 }

/-- Writes an entry under R378 and R379; MSI-X vector 1 for an error entry. -/
def writeEntry (e : Event) (s : State) : State :=
  let x := s.recorder
  let sig := fun s : State => if e.sev = 2 then msix 1 s else s
  if x.filled < 8192 then sig { s with recorder := { x.put x.filled e with filled := x.filled + 1 } }
  else match x.victim e.sev with
    | some i => sig { s with recorder := x.put i e }
    | none => { s with recorder := { x with dropCount := satInc x.dropCount } }

/-- The recorder writes in this hub cycle: it is not frozen, has something to write and has not written yet (R380, R383). -/
def writeDue (s : State) : Bool :=
  let x := s.recorder
  !frozen s && x.wroteAt != hubCycle s + 1 && !(x.held.isEmpty && x.queue.isEmpty && x.summaries.isEmpty)

/-- The recorder writes one entry: the held fatal events of a freeze, then the oldest fatal, a due summary, the oldest
other (R380, R383). -/
def execEventWrite (s : State) : Out :=
  if !writeDue s then .next s
  else
    let x := { s.recorder with wroteAt := hubCycle s + 1 }
    match x.held with
    | e :: es => .next (writeEntry e { s with recorder := { x with held := es } })
    | [] =>
      match x.queue.find? fun e => e.sev = 3 with
      | some e => .next (writeEntry e { s with recorder := { x with queue := x.queue.erase e } })
      | none =>
        match x.summaries, x.queue with
        | e :: es, _ => .next (writeEntry e { s with recorder := { x with summaries := es } })
        | [], e :: es => .next (writeEntry e { s with recorder := { x with queue := es } })
        | [], [] => .next s

/-! ### Rate windows (R381, R382) -/

/-- The summary of one code. -/
def summaryOf (now : Nat) (tst : TimeState) (p : Nat × Suppressed) : Event :=
  { ft := now, code := 0xB001, sev := p.2.sev, tst := tst, unit := p.2.unit, arg0 := BitVec.ofNat 64 p.2.first,
    arg1 := BitVec.ofNat 32 (p.1 + p.2.count * 2 ^ 16), arg2 := BitVec.ofNat 32 p.2.last, summary := true,
    held := false, seq := 0 }

def Recorder.burst (x : Recorder) : Nat := atLeast1 x.rlBurst.toNat

/-- Every bucket gains RL_RATE tokens, up to RL_BURST, which is in force from then on. -/
def Recorder.refill (x : Recorder) : Recorder :=
  let up := fun n => min x.burst (n + x.rlRate.toNat)
  { x with burstNow := x.burst, fullTokens := up x.fullTokens,
           buckets := x.buckets.foldl (fun t p => tset (up x.fullTokens) t p.1 (up p.2)) [] }

/-- The window in ns that RL_WINDOW names. -/
def Recorder.windowNs (x : Recorder) : Nat := 1000 * atLeast1 x.rlWindow.toNat

/-- A rate window has ended. -/
def rateDue (s : State) : Bool := decide (s.recorder.boundary ≤ ftNow s)

def execRateWindow (s : State) : Out :=
  let x := s.recorder
  let now := ftNow s
  if !rateDue s then .next s
  else
    let made := x.supp.map (summaryOf now s.time.st)
    let x := if frozen s then x else { x with summaries := x.summaries ++ made, supp := [] }
    let x := x.refill
    .next { s with recorder := { x with window := x.windowNs, boundary := (now / x.windowNs + 1) * x.windowNs } }

/-! ### Arming and freezing -/

/-- Arming (R385, R382): in one cycle FILLED and NEXT_SEQ are 0, every bucket is full by the RL_BURST in force, nothing is
suppressed. -/
def Recorder.arm (x : Recorder) : Recorder :=
  { x with filled := 0, nextSeq := 0, buckets := [], fullTokens := x.burstNow, supp := [] }

/-- ARM (R385): from a requester whose own FREEZE is 1, or while nobody freezes. -/
def armLog (r : Req) (s : State) : State :=
  if frozen s && !(reqCopy s r).freeze then { s with recorder := { s.recorder with armRefused := true, armRefusedAt := s.time.cycle + 1 } }
  else { s with recorder := s.recorder.arm }

def execLogArm (r : Req) (s : State) : Out := .next (armLog r s)

/-- A requester's FREEZE is written: the hub cycle of a write that freezes the recorder, or ends its freeze, is noted (R383). -/
def setFreeze (r : Req) (on : Bool) (s : State) : State :=
  let t := modReq s r fun x => { x with freeze := on }
  if frozen s == frozen t then t
  else if frozen t then { t with recorder := { t.recorder with frozeAt := hubCycle s } }
  else { t with recorder := { t.recorder with thawedAt := hubCycle s } }

def execLogFreeze (r : Req) (s : State) : Out := .next (setFreeze r true s)

def execLogUnfreeze (r : Req) (s : State) : Out := .next (setFreeze r false s)

end Sys2Proof.Machine
end

