-- ==== Sys2Proof/Machine/Load.lean ====
section
/-! DEFINITION. Submission and loading of tasks: fetching a submission entry (R310 to R312), the checks of R121 in order
(R2, R3, R34, R40, R119, R120, R122, R136, R311, R338, R393, R413), and the load (R130, R412). -/

namespace Sys2Proof.Machine

/-! ### Bundles (R131, R136, R138, R144, R154, R155) -/

/-- An M slot that encodes an instruction. -/
def mLegal (m : BitVec 44) : Bool :=
  let n := m.toNat
  let op := n / 2 ^ 40
  let xb := n / 2 ^ 14 % 8
  n == 0 || (decide (1 ≤ op) && decide (op ≤ 5) && n % 2 == 0 && n / 8 % 4 != 3 && !(n / 2 ^ 33 % 8 == 1 && n / 2 ^ 9 % 2 == 1)
    && (if op = 1 || op = 5 then xb == 0 else if op = 4 then decide (xb < 4) else true))

/-- A T slot that encodes an instruction. -/
def tLegal (w : BitVec 40) : Bool :=
  let n := w.toNat
  let f := n / 2 ^ 29 % 8
  match n / 2 ^ 35 with
  | 0 => n == 0
  | 1 => n % 2 ^ 11 == 0 && n / 2 ^ 11 % 4 != 3
  | 2 => n % 2 ^ 23 == 0
  | 3 => n % 2 ^ 34 == 0
  | 4 => n % 2 ^ 9 == 0 && n / 2 ^ 33 % 4 != 3
  | 5 => n % 2 ^ 17 == 0 && decide (f ≤ 5)
  | 6 => n % 2 ^ 17 == 0 && (f == 0 || f == 1 || f == 3)
  | 7 => n % 2 ^ 15 == 0
  | 8 => n % 2 ^ 7 == 0 && n / 2 ^ 23 % 2 ^ 12 != 0
  | _ => false

/-- A V slot that encodes an instruction. -/
def vLegal (w : BitVec 40) : Bool :=
  let n := w.toNat
  let va := n / 2 ^ 24 % 32
  let vb := n / 2 ^ 19 % 32
  let vc := n / 2 ^ 14 % 32
  let bf := n / 2 ^ 13 % 2
  let aux := n % 2 ^ 13
  match n / 2 ^ 34 with
  | 0 => n == 0
  | 1 | 2 | 3 | 5 | 6 => vc == 0 && aux == 0
  | 4 | 0x0B => aux == 0
  | 7 | 8 | 9 => vb == 0 && vc == 0 && aux == 0
  | 0x0A => vc == 0 && decide (aux < 3)
  | 0x0C | 0x0D | 0x0E => vc == 0 && aux == 0 && bf == 0
  | 0x10 | 0x11 | 0x12 | 0x13 | 0x14 | 0x15 | 0x16 | 0x1A => vb == 0 && vc == 0 && aux == 0 && bf == 0
  | 0x18 => vb == 0 && vc == 0 && bf == 0 && decide (aux < 64) && decide (aux % 16 < 10)
  | 0x19 => vb == 0 && vc == 0 && bf == 0 && decide (aux < 10)
  | 0x1B => va == 0 && vb == 0 && vc == 0 && bf == 0 && decide (aux < 8)
  | 0x1C | 0x1D => n % 2 ^ 10 == 0
  | _ => false

def bundleLegal (b : BitVec 128) : Bool :=
  b.toNat / 2 ^ 124 % 8 == 0 && mLegal (slotM b) && tLegal (slotT b) && vLegal (slotV b)

/-- The loops of an image: (bundle, LEN). -/
def loopsOf (bs : List (BitVec 128)) : List (Nat × Nat) :=
  (bs.zip (List.range bs.length)).filterMap fun q =>
    let t := (slotT q.1).toNat
    if t / 2 ^ 35 = 8 then some (q.2, t / 2 ^ 23 % 2 ^ 12) else none

/-- Body `a` contains body `b`, LOOP bundle and all. -/
def bodyIn (b a : Nat × Nat) : Bool := decide (a.1 < b.1) && decide (b.1 + b.2 ≤ a.1 + a.2)

/-- The loop checks of R136. -/
def loopsLegal (bs : List (BitVec 128)) : Bool :=
  let ls := loopsOf bs
  ls.all fun l =>
    decide (l.1 + l.2 < bs.length)
    && (ls.all fun k => k == l || bodyIn k l || bodyIn l k || decide (l.1 + l.2 < k.1) || decide (k.1 + k.2 < l.1)
          || decide (k.1 + k.2 = l.1) || decide (l.1 + l.2 = k.1))
    && decide ((ls.filter fun k => bodyIn l k).length < 4)
    && (List.range (l.2 + 1)).all fun i => !bend (bs.getD (l.1 + i) 0)

/-- R136 for a block image. -/
def blocksLegal (bs : List (BitVec 128)) : Bool :=
  bs.all bundleLegal && loopsLegal bs && (match bs.getLast? with
    | none => true
    | some b => bend b)

/-! ### Sections of an image -/

/-- Little-endian units of `u` bytes in a section, as the work in evaluation sees it. -/
def sectionNats (s : State) (a u n : Nat) : List Nat :=
  let bs := seen s a (u * n)
  (List.range n).map fun i => leNat ((bs.drop (u * i)).take u)

def imageBlocks (s : State) (image : Nat) (h : Header) : List (BitVec 128) :=
  (sectionNats s (image + h.blockOff.toNat) 16 (h.blockLen / 16)).map (BitVec.ofNat 128)

def imageCounters (s : State) (image : Nat) (h : Header) : List CtrEntry :=
  let bs := seen s (image + h.ctrOff.toNat) (8 * h.ctrLen)
  (List.range h.ctrLen).map fun i => parseCtrEntry ((bs.drop (8 * i)).take 8)

/-- The sections of an image but its command list, as (offset, length) (R413). -/
def imageSections (h : Header) : List (Nat × Nat) :=
  [(h.ctrlOff.toNat, h.ctrlLen), (h.blockOff.toNat, h.blockLen), (h.ctrOff.toNat, 8 * h.ctrLen)]
  ++ (if h.sigOff = 0 then [] else [(h.sigOff.toNat, h.sigLen)])

/-- A section of nonzero length lies wholly in the direct region (R413). -/
def sectionOk (image : Nat) (x : Nat × Nat) : Bool := x.2 == 0 || decide (image + x.1 + x.2 ≤ directEnd)

/-- Any poison in the header or a section that acceptance reads (R289). A poisoned command entry completes with ENTRY when it
is fetched (R226). -/
def imagePoisoned (s : State) (image : Nat) (h : Header) : Bool :=
  seenPoison s image 256 || (imageSections h).any fun x => seenPoison s (image + x.1) x.2

/-- The sections that acceptance reads, where the header lets them be read. -/
def seeImage (image : Nat) (h : Header) (s : State) : State :=
  if (imageSections h).all (sectionOk image) then (imageSections h).foldl (fun s x => see (image + x.1) x.2 s) s else s

/-! ### The checks (R121) -/

/-- A valid counter-table entry (R120). -/
def CtrEntry.valid (h : Header) (e : CtrEntry) : Bool :=
  (e.core == 0xFF || decide (e.core.toNat < 12 * h.segSectors * h.segCount)) && decide (e.ctr.toNat < h.counters)
  && e.limit != 0 && decide (e.initial.toNat ≤ e.limit.toNat) && decide (e.final.toNat ≤ e.limit.toNat)

def entriesDistinct : List CtrEntry → Bool
  | [] => true
  | e :: es => !(es.any fun f => f.core == e.core && f.ctr == e.ctr) && entriesDistinct es

/-- The header's fields are in range and its reserved fields 0 (R119, R413, R228). -/
def headerRange (h : Header) (raw : List Byte) : Bool :=
  decide (1 ≤ h.segSectors) && decide (1 ≤ h.segCount) && decide (h.segSectors * h.segCount ≤ 12)
  && decide (h.spMask.toNat < 64) && decide (h.contexts.toNat < 16) && decide (h.windows ≤ 8) && decide (h.streams ≤ 32)
  && decide (1 ≤ h.counters) && decide (h.counters ≤ 256) && decide (h.globals ≤ 4096) && field raw 0x1A 2 == 0
  && decide (h.flags.toNat < 256) && (!h.flag 4 || h.maxBlock != 0)
  && h.stashBytes.toNat % 65536 == 0 && h.saddleBytes.toNat % 65536 == 0
  && field raw 0x42 2 == 0 && field raw 0x84 124 == 0
  && h.ctrOff.toNat % 8 == 0 && h.ctrlOff.toNat % 64 == 0 && decide (4 ≤ h.ctrlLen) && decide (h.ctrlLen ≤ 32768)
  && h.ctrlLen % 4 == 0 && decide (h.blockLen ≤ 65536) && h.blockLen % 16 == 0 && h.blockOff.toNat % 64 == 0
  && h.cmdOff.toNat % 64 == 0 && h.cmdLen.toNat % 64 == 0 && decide (64 ≤ h.cmdLen.toNat)
  && decide (h.cmdLen.toNat ≤ 64 * 65536) && (!h.flag 7 || decide (h.segCount ≤ 2))

/-- ENTRY and CONTEXTS agree, and the fault handler is a word (R413). -/
def entriesAgree (h : Header) : Bool :=
  ((List.finRange 4).all fun k => if bit h.contexts k.val then decide (h.entry[k].toNat < 8192) else h.entry[k] == 0xFFFF)
  && (!h.flag 6 || decide (h.faultHandler.toNat < 8192))

/-- The whole HEADER check (R413). -/
def headerOk (s : State) (image : Nat) (h : Header) (raw : List Byte) : Bool :=
  headerRange h raw && entriesAgree h && ((h.cmdOff.toNat, h.cmdLen.toNat) :: imageSections h).all (sectionOk image)
  && !imagePoisoned s image h
  && (imageCounters s image h).all (CtrEntry.valid h) && entriesDistinct (imageCounters s image h)
  && blocksLegal (imageBlocks s image h)

/-- A slot that a task occupies. -/
def Task.resident (x : Task) : Bool := x.st != .free && x.st != .done

/-- The segments of the Girth (R47): first sector and length. -/
def girthList (s : State) : List (SecIx × Nat) :=
  if s.buckle = 0 then [(0, 12)]
  else (List.finRange 12).filterMap fun p =>
    if bit s.buckle ((p.val + 11) % 12) then some (p, (girthSegment s p).length) else none

/-- The residents of a run of sectors. -/
def residentsOn (s : State) (g : List SecIx) : List Task :=
  s.tasks.toList.filter fun x => x.resident && g.any fun p => bit x.sectors p.val

/-- A segment is free, or shareable (R122), and no crossing in it is refused (R40). -/
def segmentOk (s : State) (h : Header) (f : SecIx) : Bool :=
  let g := segSectors f h.segSectors
  let rs := residentsOn s g
  (rs.isEmpty || (h.flag 4 && rs.all fun x => x.hdr.flag 4)) && !(List.finRange 12).any fun p => bit s.xingAlarm p.val && spansCrossing s (g.flatMap sectorCores) p

/-- The masks of a segment's residents leave a task's masks free (R122). -/
def masksOk (s : State) (h : Header) (f : SecIx) : Bool :=
  (residentsOn s (segSectors f h.segSectors)).all fun x => x.hdr.spMask &&& h.spMask == 0 && x.hdr.wbMask &&& h.wbMask == 0

/-- Picks `n` of a list of segments. Which, and in which order, the manual leaves to the sequencer (log 2). -/
def pickSegments : Nat → List SecIx → Nat → List SecIx × Nat
  | 0, _, c => ([], c)
  | n + 1, l, c =>
    match l[(Config.free 16 c).toNat % atLeast1 l.length]? with
    | none => ([], c)
    | some f => let r := pickSegments n (l.erase f) (c + 1); (f :: r.1, r.2)

/-- Bytes a task allocates: stash, saddlebag regions, save area, completion ring (R121, R125, R220, R338). -/
def allocBytes (h : Header) : Nat :=
  h.stashBytes.toNat + 2 * h.saddleBytes.toNat + 40960 * 12 * h.segSectors * h.segCount + 16 * (h.cmdLen.toNat / 64)

/-- A submission entry (R311). -/
structure Submission where
  opc : Nat
  noAccept : Bool
  vector : Nat
  user : Nat
  image : Nat
  gctr : Nat
  zero : Bool
deriving DecidableEq, Repr

def parseSubmission (e : BitVec 512) : Submission :=
  let n := e.toNat
  { opc := n % 256, noAccept := n / 256 % 2 == 1, vector := n / 2 ^ 16 % 2 ^ 16, user := n / 2 ^ 32 % 2 ^ 32
    image := n / 2 ^ 64 % 2 ^ 64, gctr := n / 2 ^ 128 % 2 ^ 16
    zero := n / 2 ^ 9 % 2 ^ 7 == 0 && n / 2 ^ 144 == 0 }

/-- What an entry says of itself is in range (R311), checked before the image is read. -/
def Submission.wellFormed (x : Submission) : Bool :=
  x.opc == 1 && x.zero && (x.vector == 0 || (decide (16 ≤ x.vector) && decide (x.vector < 256))) && x.image % 64 == 0
  && decide (x.image + 256 ≤ directEnd)

/-- The global counters lie below 4,096 (R311). -/
def Submission.countersFit (x : Submission) (globals : Nat) : Bool := decide (x.gctr + globals ≤ 4096)

/-- Whether the stepping and PROFILE_LOCK accept a latency profile (R2, R3, R399): A0 lists 3.0, B0 also 3.1. -/
def profileOk (s : State) (p : Byte) : Bool :=
  p == 0x30 || (p == 0x31 && s.sec.stepping && !s.staging.profileInForce)

/-- Signed-task mode (R393). -/
def signedMode (s : State) : Bool := s.sec.signedFuse || s.sec.signedMode

/-- One past the last section of an image (R393). -/
def imageEnd (h : Header) : Nat :=
  ((h.cmdOff.toNat, h.cmdLen.toNat) :: imageSections h).foldl (fun n x => if x.2 = 0 then n else max n (x.1 + x.2)) 256

/-- A signed image is read whole, where it lies in the direct region. -/
def seeSigned (image : Nat) (h : Header) (s : State) : State :=
  if h.sigOff = 0 || decide (directEnd < image + imageEnd h) then s else see image (imageEnd h) s

/-- The signature at SIG_OFF verifies against one of the task-signing keys, over the image to the end of its last section with the
SIG_LEN bytes at SIG_OFF taken as zero (R393). -/
def sigHolds (s : State) (image : Nat) (h : Header) : Bool :=
  let bs := seen s image (imageEnd h)
  let o := h.sigOff.toNat
  decide (image + imageEnd h ≤ directEnd)
  && s.sec.taskKeys.any fun k =>
      Config.sm2Verifies k (bs.take o ++ List.replicate h.sigLen 0 ++ bs.drop (o + h.sigLen)) ((bs.drop o).take h.sigLen)

/-- The checks of R121 up to the slot and segments: the reason of the first that fails, 0 where all pass. -/
def firstChecks (s : State) (x : Submission) (h : Header) (raw : List Byte) : Byte :=
  if h.magic != 0x33425848 || h.fmtMajor != 3 || decide (2 < h.fmtMinor.toNat) then 0x01
  else if decide (1 < h.hci3.toNat) then 0x02
  else if !profileOk s h.profile then 0x03
  else if (signedMode s && (!h.flag 2 || h.sigOff == 0)) || (h.sigOff != 0 && !sigHolds s x.image h) then 0x04
  else if !x.countersFit h.globals || !headerOk s x.image h raw then 0x05
  else if h.flag 0 && s.time.st != .locked then 0x06
  else if s.tasks.toList.all Task.resident then 0x07
  else
    let c := ((girthList s).filter fun g => g.2 == h.segSectors && segmentOk s h g.1).map (·.1)
    if c.length < h.segCount then 0x08
    else if (c.filter (masksOk s h)).length < h.segCount then 0x09
    else if !Config.allocFits (allocBytes h) s.freeCtr
        || (h.saddleBytes != 0 && s.tasks.toList.any fun t => t.resident && t.hdr.saddleBytes != 0) then 0x0A
    else 0

/-- A refused SUBMIT takes no slot; its completion and an event give the reason (R121, R313); a signature that fails has an event of its own
(R401). A vector out of range leaves the queue's own (log 11). -/
def refuseTask (q : Fin 8) (x : Submission) (reason : Byte) (s : State) : State :=
  let v := if x.vector < 256 ∧ 16 ≤ x.vector then x.vector else 0
  let s := if reason = 0x04 then record s 0xA102 error 0 x.image 0 0 else s
  complete q { user := BitVec.ofNat 32 x.user, kind := 4, slot := 0xFF, reason := reason, vector := BitVec.ofNat 16 v }
    (record s reason.toNat error 0xFF x.image 0 0)

/-- Where an area of `n` bytes is allocated: somewhere in stacked memory where it fits, on a multiple of `u` (log 8). -/
def placeAt (u : Nat) (x : W64) (n : Nat) : W64 := BitVec.ofNat 64 (x.toNat % ((directEnd - n) / atLeast1 u + 1) * u)

/-- The saddlebag regions of `n` bytes go to a task (R338, R339). Regions last allocated for as many bytes keep their slots, which a
restore may then read (R350; log 20); others are EMPTY. -/
def takeRegions (t : SlotIx) (n : Nat) (s : State) : State :=
  let m := if s.mir.saddle = n then s.mir else s.mir.emptyHome.emptyGuest
  { s with mir := { m with owner := some t, saddle := n, fresh := true, guestFresh := true, lastUpdate := none
                           homeBag := placeAt 65536 (Config.saddleRegion 0) n, guestBag := placeAt 65536 (Config.saddleRegion 1) n } }

/-- An accepted task takes a slot and segments and becomes LOADING. -/
def acceptTask (q : Fin 8) (x : Submission) (h : Header) (s : State) : State :=
  let free := (List.finRange 16).filter fun t => !s.tasks[t].resident
  let c := ((girthList s).filter fun g => g.2 == h.segSectors && segmentOk s h g.1 && masksOk s h g.1).map (·.1)
  let t := free.getD ((Config.free 16 s.freeCtr).toNat % atLeast1 free.length) 0
  let r := pickSegments h.segCount c (s.freeCtr + 1)
  let image := BitVec.ofNat 64 x.image
  let n := h.cmdLen.toNat / 64
  let secs := (r.1.flatMap fun f => segSectors f h.segSectors).foldl (fun (m : BitVec 12) p => setBit m p.val true) 0
  let T : Task := { Task.reset with
    st := .loading, hdr := h, image := image, queue := some q, user := BitVec.ofNat 32 x.user, vector := BitVec.ofNat 16 x.vector,
    noAccept := x.noAccept, gctrFirst := x.gctr, sectors := secs, segs := r.1, ctrTable := imageCounters s x.image h,
    cmd := { CmdList.reset with n := n, tail := BitVec.ofNat 32 n, cmplBase := placeAt 64 (Config.completionRing t image) (16 * n) },
    stash := { Stash.reset with pool := (h.stashBytes.toNat + 65535) / 65536,
                                base := placeAt 65536 (Config.stashPool t image) h.stashBytes.toNat },
    saveBase := placeAt 64 (Config.saveArea t image) (40960 * 12 * h.segSectors * h.segCount) }
  let s := { s with freeCtr := r.2, tasks := s.tasks.set t T }
  if h.saddleBytes = 0 then s else takeRegions t h.saddleBytes.toNat s

/-- The queue whose turn it is: the next one round robin that has an entry and may fetch (R312). -/
def nextQueue (s : State) : Option (Fin 8) :=
  (List.range 8).foldl (fun o i => match o with
    | some q => some q
    | none =>
      let q : Fin 8 := ⟨(s.rrQueue.val + 1 + i) % 8, by omega⟩
      let x := s.queues[q]
      if x.enable && !x.full && x.sqHead != x.sqTail then some q else none) none

/-- The check of a fetched submission: its image's header is read, then what the header names, and the task is accepted or refused. -/
def submitWork (q : Fin 8) (x : Submission) (s : State) : State :=
  let r := devRead x.image 256 s
  let h := parseHeader r.1
  let s := { (if r.1.isEmpty then r.2.2 else seeSigned x.image h (seeImage x.image h r.2.2)) with submit := none }
  let c := firstChecks s x h r.1
  if c = 0 then acceptTask q x h s else refuseTask q x c s

/-- Goes on with the submission whose image is being read. -/
def submitGo (p : Fin 8 × BitVec 512) (s : State) : Out :=
  engineRun submitKey none Rank.open_ true (submitWork p.1 (parseSubmission p.2)) s

/-- Fetches one entry of the queue whose turn it is, whose 64 bytes the host's memory answers, and checks it. While an earlier submission's image is being read, that one is gone on with. QUIESCE stops fetching (R399). -/
def execSubmissionFetch (q : Fin 8) (entry : BitVec 512) (s : State) : Out :=
  if s.sec.fw != .ready || s.power.shutdown then .next s
  else match s.submit with
    | some p => submitGo p s
    | none =>
      if s.quiesce.isSome || nextQueue s != some q then .next s
      else
        let x := parseSubmission entry
        let s := { (modQueue s q (fun y => { y with sqHead := ringNext y.sqSize y.sqHead })) with rrQueue := q }
        if x.opc = 0 then .next s
        else if !x.wellFormed then .next (refuseTask q x 0x05 s)
        else submitGo (q, entry) { s with submit := some (q, entry) }

/-! ### Loading (R130, R412) -/

/-- Control memory after a load: the image, and the filler word beyond it. -/
def loadedControl (s : State) (T : Task) : Tbl W32 :=
  let ws := sectionNats s (T.image.toNat + T.hdr.ctrlOff.toNat) 4 (T.hdr.ctrlLen / 4)
  ((ws.zip (List.range ws.length)).foldl (fun t q => tset ctlFill t q.2 (BitVec.ofNat 32 q.1)) [])

/-- Block memory after a load. -/
def loadedBlocks (s : State) (T : Task) : Tbl (BitVec 128) :=
  let bs := imageBlocks s T.image.toNat T.hdr
  ((bs.zip (List.range bs.length)).foldl (fun t q => tset blkFill t q.2 q.1) [])

/-- Writes a task's images to its cores, where they are not there yet (R18, R130); what another task of these cores had there is
gone. -/
def loadImages (t : SlotIx) (s : State) : State :=
  let T := s.tasks[t]
  if T.loaded then s
  else
    let s := see (T.image.toNat + T.hdr.ctrlOff.toNat) T.hdr.ctrlLen (see (T.image.toNat + T.hdr.blockOff.toNat) T.hdr.blockLen s)
    let ctl := loadedControl s T
    let blk := loadedBlocks s T
    let s := T.cores.foldl (fun s c => modCore s c fun x => { x with control := ctl, blocks := blk }) s
    { s with tasks := Vector.ofFn fun u =>
        if u = t then { s.tasks[u] with loaded := true }
        else if s.tasks[u].sectors &&& T.sectors != 0 then { s.tasks[u] with loaded := false } else s.tasks[u] }

end Sys2Proof.Machine
end

