-- ==== Sys2Proof/Machine/Stream.lean ====
section
/-! DEFINITION. Streams (chapter 09): SCFG, SWAIT, SWAP and SCLOSE, requests with their deadlines (R197 to R199),
responses and acknowledgments (R191, R203), closing (R194), and real-time misses (R200). -/

namespace Sys2Proof.Machine

/-- A stream configuration error (R190): the information word gives reason and slot. -/
def streamInfo (reason : Nat) (slot : Fin 32) : W16 := BitVec.ofNat 16 (reason + 16 * slot.val)

def streamFault (c : CoreIx) (k : CtxIx) (reason : Nat) (slot : Fin 32) (s : State) : State :=
  retireFault c k 0x0D (streamInfo reason slot) s

/-- A slot below the header's STREAMS. -/
def slotHeld (s : State) (c : CoreIx) (slot : Fin 32) : Bool :=
  match taskOn s c with
  | some (_, T) => decide (slot.val < T.hdr.streams)
  | none => false

/-! ### SCFG (R188, R190) -/

def execScfg (c : CoreIx) (k : CtxIx) (slot : Fin 32) (ad : AReg) (s : State) : Out :=
  issue c k (encI 0x24 slot.val ad.val 0) 0 [] s fun s =>
    let a := s.cores[c].ctx[k].ad[ad].toNat
    if !slotHeld s c slot then streamFault c k 2 slot s
    else if s.cores[c].streams[slot].st != .unconfigured then streamFault c k 3 slot s
    else if a % 16 != 0 || !spHeld s c a 48 then streamFault c k 4 slot s
    else noteIssue c k (modCtx s c k fun y => { y with stall := .scfg slot a y.pc, stallAt := s.time.cycle })

/-- The fields of a descriptor that R190 checks under DESCRIPTOR. `raw` are the 48 bytes. -/
def SDesc.valid (d : SDesc) (raw : List Byte) (counters : Nat) : Bool :=
  let window := d.kind == 3
  decide (1 ≤ d.kind.toNat) && decide (d.kind.toNat ≤ 3) && field raw 1 1 / 2 == 0 && field raw 7 1 == 0
  && (if window then decide (d.wtarget.toNat < 32) else d.wtarget == 0 && d.wepoch == 0 && d.addr.toNat % 64 == 0)
  && decide (1 ≤ d.rowG) && decide (d.rowG ≤ 4096) && decide (1 ≤ d.cnt0) && decide (1 ≤ d.cnt1) && decide (1 ≤ d.cnt2)
  && decide (1 ≤ d.halfG) && decide (d.halfG ≤ 24576) && d.halfG % d.rowG == 0 && (!d.rt || d.t1 != 0)
  && decide (d.ctrA.toNat < counters) && decide (d.ctrB.toNat < counters) && decide (d.endCtr.toNat < counters)

/-- The extent of the pattern lies in one region (R190), from the corners of the three dimensions. -/
def SDesc.inRegion (d : SDesc) : Bool :=
  let span := fun (n : Nat) (st : W32) => ((n : Int) - 1) * st.toInt
  let vs := [span d.cnt0 d.str0, span d.cnt1 d.str1, span d.cnt2 d.str2]
  let lo := vs.foldl (fun a v => a + min 0 v) 0
  let hi := vs.foldl (fun a v => a + max 0 v) 0
  let a : Int := d.addr.toNat + 64 * lo
  let b : Int := d.addr.toNat + 64 * (hi + d.rowG) - 1
  decide (0 ≤ a) && (spaceOf a.toNat).isSome && spaceOf a.toNat == spaceOf b.toNat

/-- The first reason of R190 that a descriptor meets; 0 for a good one. -/
def scfgReason (s : State) (c : CoreIx) (d : SDesc) (raw : List Byte) (poison : Bool) : Nat :=
  match taskOn s c with
  | none => 4
  | some (_, T) =>
    if poison || !d.valid raw T.hdr.counters then 4
    else if !spHeld s c (64 * d.spBase) (128 * d.halfG) then 5
    else if d.kind != 3 && !d.inRegion then 6
    else if d.rt && !T.hdr.flag 3 then 7
    else if d.kind == 3 && (d.wtarget.toNat % 4 == 0 || d.wtarget.toNat % 4 == 3) then 8
    else 0

/-- The descriptor of a stalled SCFG is read, after the context's older stores to its banks: a slot that another context has configured since is BUSY, else the reasons of R190 in
order. -/
def execScfgDescriptorRead (c : CoreIx) (k : CtxIx) (found : Finds) (s : State) : Out :=
  match s.cores[c].ctx[k].stall with
  | .scfg slot a pc =>
    if (descDue s c k).isNone then .next s
    else
      let s := backgroundFinds c a 48 found (takeBanks s c a 48)
      let raw := readBytes s.cores[c].sp.mem a 48
      let d := parseSDesc raw
      let s := modCtx s c k fun y => { y with stall := .none }
      match (if s.cores[c].streams[slot].st != .unconfigured then 3 else scfgReason s c d raw (spPoisoned s.cores[c] a 48)) with
      | 0 =>
        let s := modCtx s c k fun y => { y with pc := y.pc + 1 }
        let s := modCore s c fun x => x.modStream slot fun t =>
          { Stream.reset with st := .active, d := d, ctx := k, pc := pc, tCfg := ftNow s, since := s.time.cycle + 1,
                              missed := t.missed, missCount := t.missCount, lateCount := t.lateCount, errCount := t.errCount }
        if d.kind = 1 then .next s
        else .next (signalOwn (signalOwn s c d.ctrA 1 1 5 k pc) c d.ctrB 1 1 5 k pc)
      | r => .next (faultCtx c k 0x0D (streamInfo r slot) pc s)
  | _ => .next s

/-! ### Halves (R191 to R193) -/

/-- The fill that half `h` of a READ stream holds or is filled with: its first unreleased one. -/
def Stream.holdFill (x : Stream) (h : Bool) : Nat :=
  let n := (x.rel.filter fun e => e.1 % 2 == b2n h).length
  2 * n + b2n h

/-- Every granule of fill `k` of a slot has landed, been acknowledged or left, and its half's counter has been signalled (R191). -/
def Core.fillDone (y : Core) (slot : Fin 32) (k : Nat) : Bool :=
  let x := y.streams[slot]
  decide (64 * x.d.fillG k ≤ tget 0 x.landed k) && !y.fillsDue.contains (slot, k)

/-- The last fill of a half, where there is one. -/
def lastOfHalf (n : Nat) (h : Bool) : Option Nat :=
  if n = 0 then none
  else if (n - 1) % 2 = b2n h then some (n - 1) else if n = 1 then none else some (n - 2)

/-- The counter of a half. -/
def Stream.halfCtr (x : Stream) (h : Bool) : Byte := if h then x.d.ctrB else x.d.ctrA

/-- A count is on the counter of a half, or a fill of that half is about to signal it; where both halves name one counter (R188), a
signal of the other half is none of this one's. -/
def countComing (s : State) (c : CoreIx) (slot : Fin 32) (h : Bool) : Bool :=
  let x := s.cores[c].streams[slot]
  let n := x.halfCtr h
  (s.cores[c].counter n).value != 0
  || (s.incs.any fun i => i.core == c && i.half == some (slot, h))
  || s.cores[c].fillsDue.any fun q => q.1 == slot && (q.2 % 2 == 1) == h

/-- Whether SWAIT finds that half CUR will not be used again (R192, R194). -/
def swaitGone (s : State) (c : CoreIx) (slot : Fin 32) : Bool :=
  let x := s.cores[c].streams[slot]
  let h := x.cur
  let coming := countComing s c slot h
  let done := s.cores[c].fillDone slot
  if x.st == .closing then
    let live := if x.d.kind = 1 then
        let k := x.holdFill h
        decide (k < x.d.fills) && !done k
          && decide (64 * min ((k + 1) * x.d.halfG) x.d.total ≤ 64 * x.row * x.d.rowG + x.off)
      else match lastOfHalf (min x.nrel x.d.fills) h with
        | some k => !done k
        | none => false
    !coming && !live
  else if x.d.kind = 1 then
    !coming && match lastOfHalf x.d.fills h with
      | some k => done k
      | none => true
  else decide (x.d.total ≤ x.relG)

/-- The checks that SWAIT, SWAP and SCLOSE share (R190), then `f`. -/
def onSlot (c : CoreIx) (k : CtxIx) (slot : Fin 32) (s : State) (f : Stream → State → State) : State :=
  let x := s.cores[c].streams[slot]
  if !slotHeld s c slot then streamFault c k 2 slot s
  else if x.st == .unconfigured then streamFault c k 1 slot s
  else f x s

def execSwait (c : CoreIx) (k : CtxIx) (slot : Fin 32) (s : State) : Out :=
  issue c k (encI 0x25 slot.val 0 0) 0x001FFFFF [] s fun s =>
    onSlot c k slot s fun x s =>
      let ctr := x.halfCtr x.cur
      let q := s.cores[c].counter ctr
      if swaitGone s c slot then streamFault c k 9 slot s
      else if q.queue.isEmpty && q.value != 0 then retire c k (consume c ctr 1 s)
      else waitOn c k .stream (some (BitVec.ofNat 8 slot.val, 1)) (joinQueue c k ctr 1 s)

/-- The release of a READ half takes effect at cycle `at_`: fill `k + 2` may begin (R191, R193). -/
def Stream.release (x : Stream) (k ft : Nat) : Stream :=
  let h := k % 2 == 1
  { x with rel := tset 0 x.rel k (ft + 1), lastRel := ft, pendA := x.pendA && h, pendB := x.pendB && !h }

def execSwap (c : CoreIx) (k : CtxIx) (slot : Fin 32) (s : State) : Out :=
  issue c k (encI 0x26 slot.val 0 0) 0x001FFFFF [] s fun s =>
    onSlot c k slot s fun x s =>
      let put := fun f : Stream → Stream => retire c k (modCore s c fun y => y.modStream slot fun t => { f t with cur := !t.cur })
      if x.st == .closing then retire c k s
      else if x.d.kind = 1 then
        let n := x.holdFill x.cur
        if (if x.cur then x.pendB else x.pendA) || decide (x.d.fills ≤ n) then streamFault c k 9 slot s
        else if s.cores[c].fillDone slot n then put fun t => t.release n (ftNow s)
        else put fun t => if t.cur then { t with pendB := true } else { t with pendA := true }
      else if x.d.total ≤ x.relG then streamFault c k 9 slot s
      else put fun t => { t with rel := tset 0 t.rel t.nrel (ftNow s + 1), lastRel := ftNow s, nrel := t.nrel + 1 }

def execSclose (c : CoreIx) (k : CtxIx) (slot : Fin 32) (s : State) : Out :=
  issue c k (encI 0x27 slot.val 0 0) 0x001FFFFF [] s fun s =>
    onSlot c k slot s fun x s =>
      if x.st == .closing then retire c k s
      else retire c k (modCore s c fun y => y.modStream slot fun t => { t with st := .closing, closeAt := some (s.time.cycle + 2) })

/-! ### Deadlines (R198) -/

/-- The deadline of fill `k` for a request that issues now, as FT bits [31:0]. A restored bulk slot counts from its
restore (R195). -/
def fillDeadline (s : State) (x : Stream) (k : Nat) : W32 :=
  let d := x.d
  let rel := fun k => match x.restored with
    | some r => max r (tget 0 x.rel k - 1)
    | none => tget 0 x.rel k - 1
  if d.rt then d.t0 + BitVec.ofNat 32 k * d.t1
  else if d.t1 = 0 then BitVec.ofNat 32 (ftNow s + 2 ^ 30)
  else if d.kind = 1 then
    if x.restored.isSome then BitVec.ofNat 32 (if k < 2 then x.restored.getD 0 else rel (k - 2)) + d.t1
    else if k = 0 then BitVec.ofNat 32 x.tCfg + d.t0
    else if k = 1 then BitVec.ofNat 32 x.tCfg + d.t0 + d.t1
    else BitVec.ofNat 32 (rel (k - 2)) + d.t1
  else BitVec.ofNat 32 (rel k) + d.t1

/-! ### Requests (R197, R199) -/

/-- A request a stream may issue: fill, granule, device address, bytes, write. -/
structure Cand where
  fill : Nat
  gran : Nat
  addr : Nat
  len : Nat
  write : Bool
deriving DecidableEq, Repr

/-- Outstanding reads of a core (OUTSTANDING). -/
def Core.outstanding (x : Core) : Nat := x.streams.foldl (fun n t => n + t.outR) 0

/-- The next request of a slot that may issue now. -/
def candOf (s : State) (c : CoreIx) (slot : Fin 32) : Option Cand :=
  let x := s.cores[c].streams[slot]
  if !streamsRun s c then none
  else if x.d.kind = 1 then
    if x.st == .active && decide (x.since ≤ s.time.cycle) && decide (x.row < x.d.cnt0 * x.d.cnt1 * x.d.cnt2)
        && decide (x.outR < 256) && decide (s.cores[c].outstanding < 512) then
      let g := x.row * x.d.rowG + x.off / 64
      let k := g / x.d.halfG
      if k < 2 || tget 0 x.rel (k - 2) != 0 then
        let a := (x.d.rowAddr x.row).toNat + x.off
        let n := min (256 - a % 256) (64 * x.d.rowG - x.off)
        if canSend s c slot a n false then some { fill := k, gran := g, addr := a, len := n, write := false } else none
      else none
    else none
  else
    match x.outbox with
    | [] => none
    | q :: _ =>
      if x.st != .unconfigured && decide (q.ready ≤ s.time.cycle) && canSend s c slot q.addr q.bytes.length true then
        some { fill := q.fill, gran := 0, addr := q.addr, len := q.bytes.length, write := true }
      else none

/-- The rank of a candidate (R198, R199). -/
def candKey (s : State) (c : CoreIx) (slot : Fin 32) (q : Cand) : Key :=
  let x := s.cores[c].streams[slot]
  rankOf s (bitsOf (cfgOf s (coreUnit (sectorOf c))).arb 0 16) x.d.rt (fillDeadline s x q.fill) true

/-- The slot whose request the engine issues in this cycle: the lowest key, the lower slot on a tie (R199). -/
def issueNow (s : State) (c : CoreIx) : Option (Fin 32) :=
  match (List.finRange 32).filterMap fun j => (candOf s c j).map fun q => (j, candKey s c j q) with
  | [] => none
  | x :: xs => some (xs.foldl (fun a b => if keyBelow b.2 a.2 then b else a) x).1

def execStreamRequestIssue (c : CoreIx) (slot : Fin 32) (s : State) : Out :=
  match candOf s c slot with
  | none => .next s
  | some q =>
    if s.cores[c].lastReq = s.time.cycle + 1 || issueNow s c != some slot then .next s
    else
      let x := s.cores[c].streams[slot]
      let dl := fillDeadline s x q.fill
      let ob := x.outbox.head?
      let r : MemReq := { id := s.nextId, agent := .stream c slot, write := q.write, addr := q.addr, len := q.len,
                          gran := if q.write then q.fill else q.gran,
                          data := match ob with
                            | some o => if q.write then o.bytes else []
                            | none => []
                          poison := match ob with
                            | some o => if q.write then o.poison else []
                            | none => []
                          rt := x.d.rt, deadline := dl, snooped := false, due := 0 }
      let s := { s with nextId := s.nextId + 1 }
      let s := modCore s c fun y =>
        { (y.modStream slot fun t =>
            let t := { t with dls := if tget 0 t.dls q.fill = 0 then tset 0 t.dls q.fill (dl.toNat + 1) else t.dls }
            if q.write then
              { t with outbox := t.outbox.drop 1, outW := t.outW + 1,
                       rows := t.rows + (match ob with
                         | some o => b2n o.rowEnd
                         | none => 0) }
            else if t.off + q.len = 64 * t.d.rowG then { t with row := t.row + 1, off := 0, rows := t.rows + 1, outR := t.outR + 1 }
            else { t with off := t.off + q.len, outR := t.outR + 1 }) with
          lastReq := s.time.cycle + 1 }
      .next (sendReq r s)

/-! ### Answers (R191, R200, R203) -/

/-- A fill is complete: its half's counter is signalled, a pending release takes effect (R193), and a bulk fill past its deadline
counts as late (R200). -/
def fillComplete (c : CoreIx) (slot : Fin 32) (k : Nat) (s : State) : State :=
  let x := s.cores[c].streams[slot]
  let h := k % 2 == 1
  let ft := ftNow s
  let dl := tget 0 x.dls k
  let late := !x.d.rt && x.d.t1 != 0 && dl != 0 && decide (0 < (BitVec.ofNat 32 ft - BitVec.ofNat 32 (dl - 1)).toInt)
  let s := modCore s c fun y => y.modStream slot fun t =>
    let t := { t with fills := t.fills + 1, lateCount := if late then satInc t.lateCount else t.lateCount }
    if t.d.kind = 1 && (if h then t.pendB else t.pendA) && t.holdFill h = k then t.release k ft else t
  pushInc s { core := c, ctr := x.halfCtr h, n := 1, due := s.time.cycle, source := 5, tsig := false, fcore := c, fctx := x.ctx,
              fpc := x.pc, half := some (slot, h) }

/-- Bytes of fill `k` have landed, been acknowledged or left. The last of them completes the fill: at once for an acknowledgment
(`now`), with the next cycle where they become visible or have left then (R191). -/
def landBytes (c : CoreIx) (slot : Fin 32) (k n : Nat) (now : Bool) (s : State) : State :=
  let x := s.cores[c].streams[slot]
  let got := tget 0 x.landed k + n
  let s := modCore s c fun y => y.modStream slot fun t => { t with landed := tset 0 t.landed k got }
  if got != 64 * x.d.fillG k then s
  else if now then fillComplete c slot k s
  else modCore s c fun y => { y with fillsDue := y.fillsDue ++ [(slot, k)] }

/-- The fills whose signal falls in the cycle that begins. -/
def deliverFills (c : CoreIx) (s : State) : State :=
  let fs := s.cores[c].fillsDue
  if fs.isEmpty then s
  else fs.foldl (fun s f => fillComplete c f.1 f.2 s) (modCore s c fun y => { y with fillsDue := [] })

/-- A request of a stream failed at its destination (R203). -/
def streamError (c : CoreIx) (slot : Fin 32) (addr k : Nat) (s : State) : State :=
  record (modCore s c fun y => y.modStream slot fun t => { t with errCount := satInc t.errCount }) 0x1211 error c.val addr slot.val k

/-- Splits data into granules with their poison. -/
def granulesOf (bs : List Byte) (ps : List Bool) : List (List Byte × Bool) :=
  (List.range ((bs.length + 63) / 64)).map fun i => ((bs.drop (64 * i)).take 64, ps.getD i false)

/-- How a response ranks: by its request's deadline, under the guard of the core's region (R199). -/
def respKey (s : State) (c : CoreIx) (r : MemResp) : Key :=
  let guard := bitsOf (cfgOf s (coreUnit (sectorOf c))).arb 0 16
  rankOf s guard r.req.rt r.req.deadline true

/-- Granules of read data that may still land at a core in this cycle: 256 B (R15). -/
def landRoom (s : State) (c : CoreIx) : Nat :=
  let y := s.cores[c]
  if y.landAt.1 = s.time.cycle + 1 then 4 - y.landAt.2 / 64 else 4

/-- The granules of a response that land in this cycle: those whose bank is free, as far as there is room (R15, R171). -/
def landable (s : State) (c : CoreIx) (r : MemResp) : List (Nat × Nat) :=
  ((r.lands s c).filter fun q => bgFree s c 3 q.2 64).take (landRoom s c)

/-- The response of which granules land next in this cycle, of those that may the one of the lowest key. -/
def landNow (s : State) (c : CoreIx) : Option MemResp :=
  match (arrivals c s.time.cycle [] s.resps).filter fun r => !(landable s c r).isEmpty with
  | [] => none
  | r :: rs => some (rs.foldl (fun a b =>
      if keyBelow (respKey s c b) (respKey s c a) then b else a) r)

/-- Granules of a response land in the half they belong to: all of it at once, or those whose banks are free, the rest later. The request
is answered with its last granule. -/
def execStreamReadResponse (c : CoreIx) (slot : Fin 32) (s : State) : Out :=
  match landNow s c with
  | none => .next s
  | some r =>
    if r.req.agent != .stream c slot then .next s
    else
      let gs := landable s c r
      let rest := r.left.filter fun i => !gs.any fun q => q.1 == i
      let x := s.cores[c].streams[slot]
      let k := r.req.gran / x.d.halfG
      let s := { s with resps := if rest.isEmpty then s.resps.erase r else s.resps.map fun q => if q = r then { q with left := rest } else q }
      let s := if r.failed && !r.part then streamError c slot r.req.addr k s else s
      let s := gs.foldl (fun s q => bgWrite c q.2 (if r.failed then List.replicate 64 0 else (r.data.drop (64 * q.1)).take 64)
        (r.failed || r.poison.getD q.1 false) s) s
      let now := s.time.cycle + 1
      let n := 64 * gs.length
      let s := modCore s c fun y =>
        { (y.modStream slot fun t => { t with outR := if rest.isEmpty then t.outR - 1 else t.outR }) with
          landAt := (now, n + if y.landAt.1 = now then y.landAt.2 else 0) }
      .next (landBytes c slot k n false s)

/-- The acknowledgment of a slot that has reached its core. -/
def ackDue (s : State) (c : CoreIx) (slot : Fin 32) : Option MemResp :=
  s.resps.find? fun r => r.req.agent == .stream c slot && r.req.write && decide (r.due ≤ s.time.cycle)

def execStreamWriteAck (c : CoreIx) (slot : Fin 32) (s : State) : Out :=
  match ackDue s c slot with
  | none => .next s
  | some r =>
    let s := { s with resps := s.resps.erase r }
    let s := if r.failed then streamError c slot r.req.addr r.req.gran s else s
    let s := modCore s c fun y => y.modStream slot fun t => { t with outW := t.outW - 1 }
    .next (landBytes c slot r.req.gran r.req.len true s)

/-! ### Reading released halves (R191) -/

/-- One read of a released half: a piece of a WRITE slot, which may issue six cycles later (R170), or a granule of a WINDOW slot,
which may leave its port then. -/
def execStreamHalfRead (c : CoreIx) (slot : Fin 32) (found : Finds) (s : State) : Out :=
  let path := readPath c s.cores[c].streams[slot].d
  match halfNow s c path with
  | none => .next s
  | some (j, sp, n) =>
    if j != slot || !bgFree s c 4 sp n then .next s
    else
      let s := backgroundFinds c sp n found (takeBanks s c sp n)
      let now := s.time.cycle
      let core := s.cores[c]
      let x := core.streams[slot]
      let s := modCore s c fun y => { y with lastRead := y.lastRead.set path (now + 1, slot) }
      if x.d.kind = 2 then
        match x.nextPiece with
        | none => .next s
        | some (g, a, _) =>
          let q : OutReq := { fill := g / x.d.halfG, addr := a, bytes := readBytes core.sp.mem sp n, ready := now + 6
                              poison := (granules sp n).map fun g => tget false core.sp.poison g,
                              rowEnd := (g % x.d.rowG) * 64 + n == 64 * x.d.rowG }
          .next (modCore s c fun y => y.modStream slot fun t => { t with readG := t.readG + n / 64, outbox := t.outbox ++ [q] })
      else
        let side := (winTarget c x.d).2
        let g : PortGran := { slot := slot, ctx := x.ctx, pc := x.pc, win := winNumber x.d, epoch := x.d.wepoch,
                              offset := x.d.rowAddr (x.readG / x.d.rowG), row := x.readG / x.d.rowG * x.d.rowG,
                              ix := x.readG % x.d.rowG, count := x.d.rowG,
                              data := BitVec.ofNat 512 (leNat (readBytes core.sp.mem sp 64)),
                              poison := spPoisoned core sp 64, ready := now + 6 }
        .next (modCore s c fun y =>
          (y.setPort side (y.port side ++ [g])).modStream slot fun t => { t with readG := t.readG + 1 })

/-! ### Window writes leave their port (R179 to R186) -/

/-- The window information word (R186). -/
def winInfo (reason : Nat) (w : Fin 8) (side : Side) : W16 :=
  BitVec.ofNat 16 (reason + 16 * w.val + match side with
    | .up => 0
    | .down => 128)

/-- The core on a side of `c`. -/
def coreAt (c : CoreIx) : Side → CoreIx
  | .up => upCore c
  | .down => downCore c

/-- The reason for which a writer refuses a write before it leaves (R49, R177, R184, R186); 0 where it may leave. `side` is the
writer's side as the owner sees it. -/
def winRefusal (s : State) (c : CoreIx) (side : Side) (g : PortGran) : Nat :=
  let o := coreAt c (opposite side)
  let closed := match side with
    | .down => buckleBelow s o
    | .up => buckleBelow s c
  let inTask := match taskOn s c with
    | some (_, T) => T.hasCore o
    | none => false
  let y := s.cores[c]
  if closed then 7
  else if !inTask then 8
  else if y.barred.contains (opposite side, g.win, g.epoch)
      || (y.notices.any fun n => n.owner == opposite side && n.win == g.win && n.epoch == g.epoch && decide (n.due ≤ s.time.cycle)) then 2
  else 0

/-- Granules of a side that have left their writer and are not done with. -/
def inFlight (x : Core) (side : Side) : Nat := (x.winWrites side).foldl (fun n w => n + w.grans.length) 0

/-- A refused write is skipped: its row counts as gone and fixes its fill's deadline as one that leaves would (R200), the configuring context faults WINDOW, and for CLOSING the
owner records an event (R184, R186). -/
def refuseRow (c : CoreIx) (side : Side) (g : PortGran) (reason : Nat) (s : State) : State :=
  let s := if reason = 2 then
      record s 0x1102 error (coreAt c (opposite side)).val 0 g.win.val (BitVec.ofInt 32 g.offset).toNat
    else s
  let x := s.cores[c].streams[g.slot]
  let k := g.row / x.d.halfG
  let dl := fillDeadline s x k
  let s := modCore s c fun y =>
    (y.setPort side ((y.port side).filter fun q => !(q.slot == g.slot && q.row == g.row))).modStream g.slot fun q =>
      { q with readG := max q.readG (g.row + g.count), rows := q.rows + 1
               dls := if tget 0 q.dls k = 0 then tset 0 q.dls k (dl.toNat + 1) else q.dls }
  let s := landBytes c g.slot (g.row / s.cores[c].streams[g.slot].d.halfG) (64 * g.count) false s
  faultCtx c g.ctx 0x0C (winInfo reason g.win side) g.pc s

/-- One granule leaves its port (R180): the first of a write takes it to the owner as a new write, and fixes the fill's deadline. -/
def leave (c : CoreIx) (side : Side) (g : PortGran) (s : State) : State :=
  let o := coreAt c (opposite side)
  let now := s.time.cycle
  let x := s.cores[c].streams[g.slot]
  let k := g.row / x.d.halfG
  let w : WinGran := { left := now, data := g.data, poison := g.poison }
  let add := fun v : WinWrite =>
    if v.judged = some false then { v with sent := v.sent + 1, past := v.past + 1, lastAt := now }
    else { v with sent := v.sent + 1, grans := v.grans ++ [w], lastAt := now }
  let s := modCore s o fun y =>
    let ws := y.winWrites side
    y.setWinWrites side (if g.ix = 0 then
        ws ++ [{ slot := g.slot, ctx := g.ctx, pc := g.pc, win := g.win, epoch := g.epoch, offset := g.offset, count := g.count,
                 first := now, lastAt := now, sent := 1, past := 0, grans := [w], judged := none, base := 0, ctr := 0, sigN := 0,
                 opener := 0, opc := 0 }]
      else match ws.getLast? with
        | some v => ws.dropLast ++ [add v]
        | none => ws)
  let dl := fillDeadline s x k
  let s := modCore s c fun y =>
    let y := (y.setPort side (y.port side).tail).modStream g.slot fun q =>
      { q with rows := if g.ix + 1 = g.count then q.rows + 1 else q.rows
               dls := if tget 0 q.dls k = 0 then tset 0 q.dls k (dl.toNat + 1) else q.dls }
    match side with
    | .down => { y with sentUp := now + 1 }
    | .up => { y with sentDown := now + 1 }
  landBytes c g.slot k 64 false s

/-- A rejected write is forgotten once its last granule has left, in the cycle after. -/
def dropRejected (c : CoreIx) (side : Side) (s : State) : State :=
  if (s.cores[c].winWrites side).isEmpty then s
  else modCore s c fun y => y.setWinWrites side ((y.winWrites side).filter fun w =>
    !(w.judged == some false && w.past == w.count && decide (w.lastAt < s.time.cycle)))

/-- The start of a cycle at a writer's port: the granule in front leaves where its data has been read and the owner's buffer has
room (R182); the first granule of a write that the writer refuses takes its whole row with it. The row of a held task that has not begun
to leave waits (R185). -/
def leavePort (c : CoreIx) (side : Side) (s : State) : State :=
  match s.cores[c].port side with
  | [] => s
  | g :: _ =>
    if s.time.cycle < g.ready || (g.ix = 0 && !streamsRun s c) then s
    else
      let r := if g.ix = 0 then winRefusal s c side g else 0
      if r != 0 then refuseRow c side g r s
      else if inFlight s.cores[coreAt c (opposite side)] side < 16 then leave c side g s
      else s

/-- Both ports of a core, and the rejected writes at it. -/
def leavePorts (c : CoreIx) (s : State) : State :=
  leavePort c .up (leavePort c .down (dropRejected c .up (dropRejected c .down s)))

/-! ### Closing and misses (R194, R200) -/

/-- A CLOSING slot with nothing in flight and nothing released left to send. -/
def drained (y : Core) (slot : Fin 32) : Bool :=
  let x := y.streams[slot]
  x.outR == 0 && x.outW == 0 && x.outbox.isEmpty && (x.d.kind == 1 || decide (x.relG ≤ x.readG))
  && !(y.portUp.any fun g => g.slot == slot) && !(y.portDown.any fun g => g.slot == slot) && !y.fillsDue.any fun q => q.1 == slot

/-- The slots of a core act for its task: it is on the core, and no fault has halted it (R194, R200). -/
def slotsAct (s : State) (c : CoreIx) : Bool := match taskOn s c with
  | some (_, T) => T.live && T.halting.isNone
  | none => false

/-- The close of a slot completes in this cycle (R194). Under a halting fault the slot keeps its state. -/
def closeDue (s : State) (c : CoreIx) (slot : Fin 32) : Bool :=
  slotsAct s c && match s.cores[c].streams[slot].closeAt with
  | none => false
  | some a => s.cores[c].streams[slot].st == .closing && drained s.cores[c] slot && decide (a ≤ s.time.cycle)

def execStreamCloseDone (c : CoreIx) (slot : Fin 32) (s : State) : Out :=
  let x := s.cores[c].streams[slot]
  if closeDue s c slot then
    let s := modCore s c fun y => y.modStream slot fun t =>
      { t with st := .unconfigured, d := SDesc.reset, closeAt := none, cur := false, pendA := false, pendB := false }
    .next (signalOwn s c x.d.endCtr 1 0 5 x.ctx x.pc)
  else .next s

/-- The deadline of a slot's next real-time fill to judge has come (R200), the slot's task being on the core and not halted (R194). -/
def missDue (s : State) (c : CoreIx) (slot : Fin 32) : Bool :=
  let x := s.cores[c].streams[slot]
  slotsAct s c && x.st != .unconfigured && x.d.rt && decide (x.judged < x.d.fills)
  && decide (0 ≤ (BitVec.ofNat 32 (ftNow s) - fillDeadline s x x.judged).toInt)

/-- The first real-time fill whose deadline is past and not yet judged (R200). -/
def execRtDeadlineMiss (c : CoreIx) (slot : Fin 32) (s : State) : Out :=
  if !missDue s c slot then .next s
  else
    let k := s.cores[c].streams[slot].judged
    let done := s.cores[c].fillDone slot k
    let s := modCore s c fun y => y.modStream slot fun t => { t with judged := k + 1 }
    if done then .next s
    else
      let s := modCore s c fun y => y.modStream slot fun t => { t with missCount := satInc t.missCount, missed := true }
      .next (record s 0x1210 error c.val 0 slot.val k)

/-- The held write of a stream that has waited longest. -/
def heldStream (T : Task) : Option (HeldWrite × CoreIx × Fin 32) := T.stash.held.findSome? fun h => match h.req.agent with
  | .stream c slot => some (h, c, slot)
  | _ => none

/-- STASH_TIMEOUT has passed since a stream's write was held, while the task is RUNNING and without a page being freed (R234). -/
def stashDue (s : State) (t : SlotIx) : Bool :=
  let T := s.tasks[t]
  T.st == .running && match heldStream T with
    | none => false
    | some h => decide (max h.1.since T.stash.freedAt + atLeast1 s.stashTimeout.toNat * 1000 ≤ nsNow s)

/-- STASH_TIMEOUT (R234): a stream's held writes past the limit while the task is RUNNING are discarded, and the configuring
context faults STASH_FULL with the sid. -/
def execStashTimeout (t : SlotIx) (s : State) : Out :=
  let T := s.tasks[t]
  match heldStream T with
  | none => .next s
  | some (h, c, slot) =>
    if !stashDue s t then .next s
    else
      let drop := T.stash.held.filter fun q => q.req.agent == h.req.agent
      let s := modTask s t fun T => { T with stash := { T.stash with held := T.stash.held.filter fun q => q.req.agent != h.req.agent } }
      let x := s.cores[c].streams[slot]
      let s := modCore s c fun y => y.modStream slot fun q => { q with outW := q.outW - drop.length }
      let s := drop.foldl (fun s q => landBytes c slot q.req.gran q.req.len true s) s
      .next (faultCtx c x.ctx 0x0E (BitVec.ofNat 16 h.sid) x.pc s)

end Sys2Proof.Machine
end

