-- ==== Sys2Proof/Machine/Window.lean ====
section
/-! DEFINITION. Windows (R177 to R186): opening, the judging and placing of writes, the two-phase close; and the
scratchpad's own repairs and clears (R172, R174). -/

namespace Sys2Proof.Machine

/-! ### WOPEN (R178) -/

/-- A WOPEN fault: the reason, the window, and side 0. -/
def wopenFault (c : CoreIx) (k : CtxIx) (reason : Nat) (w : Fin 8) (s : State) : State :=
  retireFault c k 0x0C (winInfo reason w .up) s

def winHeld (s : State) (c : CoreIx) (w : Fin 8) : Bool :=
  match taskOn s c with
  | some (_, T) => decide (w.val < T.hdr.windows)
  | none => false

/-- WOPEN: the window must be CLOSED, its number held and the descriptor's address good (log 10 for a number at or above
WINDOWS); then the context stalls until the descriptor is read. -/
def execWopen (c : CoreIx) (k : CtxIx) (w : Fin 8) (ad : AReg) (s : State) : Out :=
  issue c k (encI 0x28 w.val ad.val 0) 0x03000000 [] s fun s =>
    let a := s.cores[c].ctx[k].ad[ad].toNat
    if !winHeld s c w then wopenFault c k 0xA w s
    else if s.cores[c].windows[w].st != .closed then wopenFault c k 9 w s
    else if a % 32 != 0 || !spHeld s c a 32 then wopenFault c k 0xA w s
    else noteIssue c k (modCtx s c k fun y => { y with stall := .wopen w a y.pc, stallAt := s.time.cycle })

/-- Whether the bytes of a window descriptor are in range (R178). -/
def winDescOk (s : State) (c : CoreIx) (raw : List Byte) : Bool :=
  let f := field raw
  match taskOn s c with
  | none => false
  | some (_, T) =>
    decide (1 ≤ f 2 2) && decide (f 0 2 + f 2 2 ≤ 49152) && decide (f 0 2 < 49152) && decide (1 ≤ f 4 1) && decide (f 4 1 ≤ 3)
    && decide (1 ≤ f 8 2) && (List.range 22).all (fun i => f (10 + i) 1 == 0)
    && decide (f 6 1 < T.hdr.counters) && decide (f 7 1 < T.hdr.counters) && spHeld s c (64 * f 0 2) (64 * f 2 2)

/-- The descriptor of a stalled WOPEN is read: a window that another context has opened since is REOPEN, else the checks of R178. -/
def execWopenDescriptorRead (c : CoreIx) (k : CtxIx) (found : Finds) (s : State) : Out :=
  match s.cores[c].ctx[k].stall with
  | .wopen w a pc =>
    if (descDue s c k).isNone then .next s
    else
      let s := backgroundFinds c a 32 found (takeBanks s c a 32)
      let raw := readBytes s.cores[c].sp.mem a 32
      let s := modCtx s c k fun y => { y with stall := .none }
      if s.cores[c].windows[w].st != .closed then .next (faultCtx c k 0x0C (winInfo 9 w .up) pc s)
      else if spPoisoned s.cores[c] a 32 || !winDescOk s c raw then .next (faultCtx c k 0x0C (winInfo 0xA w .up) pc s)
      else
        let s := modCtx s c k fun y => { y with pc := y.pc + 1 }
        .next (modCore s c fun x => x.modWindow w fun v =>
          { v with st := .open_, base := field raw 0 2, len := field raw 2 2, writer := BitVec.ofNat 2 (field raw 4 1),
                   epoch := BitVec.ofNat 8 (field raw 5 1), ctr := BitVec.ofNat 8 (field raw 6 1),
                   doneCtr := BitVec.ofNat 8 (field raw 7 1), sigN := BitVec.ofNat 16 (field raw 8 2), opener := k, pc := pc,
                   openAt := s.time.cycle + 1, closingAt := 0, noticeAt := 0, markers := [], closeAt := none })
  | _ => .next s

/-! ### The two-phase close (R183) -/

/-- Whether a write from the core on a side could reach core `c` (R177). -/
def writerReaches (s : State) (c : CoreIx) (side : Side) : Bool :=
  (match taskOn s c with
    | some (_, T) => T.hasCore (coreAt c side)
    | none => false)
  && !(match side with
    | .up => buckleBelow s (upCore c)
    | .down => buckleBelow s c)

/-- The admitted writers of a window that can reach it; only they are told of a close and awaited (log 10). -/
def closeSides (s : State) (c : CoreIx) (v : Window) : List Side :=
  [Side.up, .down].filter fun d => (match d with
    | .up => bit v.writer 0
    | .down => bit v.writer 1) && writerReaches s c d

/-- Starts the close of an OPEN window. -/
def closeWindow (c : CoreIx) (w : Fin 8) (s : State) : State :=
  let v := s.cores[c].windows[w]
  if v.st != .open_ then s
  else
    let sides := closeSides s c v
    let s := modCore s c fun x => x.modWindow w fun v =>
      { v with st := .closing, closingAt := s.time.cycle + 1, noticeAt := s.time.cycle + 3, markers := sides,
               closeAt := if sides.isEmpty then some (s.time.cycle + 11) else none }
    sides.foldl (fun s d => modCore s (coreAt c d) fun x =>
      { x with notices := x.notices ++ [{ due := s.time.cycle + 3, owner := opposite d, win := w, epoch := v.epoch }] }) s

/-- WCLOSE; a window whose descriptor is read in this very cycle is still CLOSED (R178). -/
def execWclose (c : CoreIx) (k : CtxIx) (w : Fin 8) (s : State) : Out :=
  issue c k (encI 0x29 w.val 0 0) 0x031FFFFF [] s fun s =>
    retire c k (if winHeld s c w && decide (s.cores[c].windows[w].openAt ≤ s.time.cycle) then closeWindow c w s else s)

/-- A close notice that reaches this core now. -/
def noticeNow (s : State) (c : CoreIx) : Option CloseNotice := s.cores[c].notices.find? fun n => decide (n.due ≤ s.time.cycle)

/-- A close notice reaches this core as a writer: it sends no write of that epoch to the window any more (R184), and
owes a drain marker from the next cycle. -/
def execCloseNoticeArrival (c : CoreIx) (s : State) : Out :=
  match noticeNow s c with
  | none => .next s
  | some n =>
    .next (modCore s c fun x =>
      { x with notices := x.notices.erase n, barred := x.barred ++ [(n.owner, n.win, n.epoch)],
               markersDue := x.markersDue ++ [(n.owner, n.win, s.time.cycle + 1)] })

/-- The drain marker that a writer sends on a side in this cycle: its cycle has come, and every stamped write, one begun toward that
window before the notice arrived, has left whole in an earlier cycle (R183). -/
def markerNow (s : State) (c : CoreIx) (side : Side) : Option (Side × Fin 8 × Nat) :=
  let o := coreAt c side
  s.cores[c].markersDue.find? fun m => m.1 == side && decide (m.2.2 ≤ s.time.cycle)
    && !(s.cores[o].winWrites (opposite side)).any fun w => w.win == m.2.1 && decide (w.first + 1 < m.2.2) && (decide (w.sent < w.count) || decide (s.time.cycle ≤ w.lastAt))

/-- A drain marker leaves behind the last stamped granule (R183); the close completes 7 cc after the last awaited one. -/
def execDrainMarkerSend (c : CoreIx) (side : Side) (s : State) : Out :=
  match markerNow s c side with
  | none => .next s
  | some m =>
    let s := modCore s c fun x => { x with markersDue := x.markersDue.erase m }
    .next (modCore s (coreAt c side) fun x => x.modWindow m.2.1 fun v =>
      let left := v.markers.erase (opposite side)
      { v with markers := left, closeAt := if v.st = .closing && left.isEmpty then some (s.time.cycle + 7) else v.closeAt })

/-- The close of a window completes in this cycle. -/
def closedNow (s : State) (c : CoreIx) (w : Fin 8) : Bool :=
  match s.cores[c].windows[w].closeAt with
  | none => false
  | some a => s.cores[c].windows[w].st == .closing && decide (a ≤ s.time.cycle)

def execWindowClosed (c : CoreIx) (w : Fin 8) (s : State) : Out :=
  let v := s.cores[c].windows[w]
  if closedNow s c w then
    let s := modCore s c fun x => x.modWindow w fun v => { v with st := .closed, len := 0, closeAt := none }
    .next (signalOwn s c v.doneCtr 1 0 6 v.opener v.pc)
  else .next s

/-! ### Writes at the owner (R179 to R182, R186) -/

/-- The reason for which the owner rejects a write; 0 where it is accepted (R179, R184; the order is log 10). -/
def winJudge (s : State) (c : CoreIx) (side : Side) (w : WinWrite) : Nat :=
  let v := s.cores[c].windows[w.win]
  let admitted := match side with
    | .up => bit v.writer 0
    | .down => bit v.writer 1
  if !winHeld s c w.win then 6
  else if v.st = .closed || (v.st = .open_ && s.time.cycle < v.openAt) then 1
  else if v.st = .closing && v.noticeAt ≤ w.first then 2
  else if !admitted then 3
  else if w.epoch != v.epoch then 4
  else if w.offset < 0 || (v.len : Int) < w.offset + w.count then 5
  else 0

/-- Records a rejection at the owner: event, WIN_REJECTS, and the latch where WIN_FAULT is clear. -/
def winReject (c : CoreIx) (side : Side) (w : WinWrite) (reason : Nat) (s : State) : State :=
  let s := record s (0x1100 + reason) error c.val 0 w.win.val (BitVec.ofInt 32 w.offset).toNat
  modCore s c fun x =>
    let r := x.winRegs
    { (x.modWindow w.win fun v => { v with rejects := satInc v.rejects }) with
      winRegs := if r.fault then { r with faultAt := s.time.cycle + 1 } else
        { fault := true, faultAt := s.time.cycle + 1, reason := BitVec.ofNat 4 reason, num := BitVec.ofNat 3 w.win.val, side := side == .down,
          offset := BitVec.ofInt 16 w.offset } }

/-- The window write of a side whose first granule is checked in this cycle (cycle 4 of R180). -/
def judgeNow (s : State) (c : CoreIx) (side : Side) : Option WinWrite :=
  (s.cores[c].winWrites side).find? fun w => w.judged.isNone && decide (w.first + 4 ≤ s.time.cycle)

/-- The checks of a write: an accepted one takes the window's base, CTR, SIG_N and opener with it, a rejected one is discarded. -/
def execWindowWriteArrival (c : CoreIx) (side : Side) (s : State) : Out :=
  match judgeNow s c side with
  | none => .next s
  | some w =>
    let r := winJudge s c side w
    let put := fun (q : WinWrite) (s : State) => modCore s c fun x =>
      x.setWinWrites side ((x.winWrites side).map fun v => if v = w then q else v)
    if r = 0 then
      let v := s.cores[c].windows[w.win]
      .next (put { w with judged := some true, base := v.base, ctr := v.ctr, sigN := v.sigN, opener := v.opener, opc := v.pc } s)
    else
      let s := put { w with judged := some false, past := w.past + w.grans.length, grans := [] } s
      let s := winReject c side w r s
      .next (modCore s (coreAt c side) fun x =>
        { x with returns := x.returns ++ [{ ctx := w.ctx, pc := w.pc, info := winInfo r w.win side, due := s.time.cycle }] })

/-- A granule is written to its bank, with its poison; after the last one CTR rises by SIG_N (R180, R181). -/
def execWindowGranuleWrite (c : CoreIx) (side : Side) (s : State) : Out :=
  match winNext s c side with
  | none => .next s
  | some (w, g, n) =>
    let s := bgWrite c (64 * n) (natLe 64 g.data.toNat) g.poison s
    let done : Bool := w.past + 1 == w.count
    let s := modCore s c fun x =>
      let x := x.setWinWrites side ((x.winWrites side).filterMap fun q =>
        if q = w then (if done then none else some { q with past := q.past + 1, grans := q.grans.drop 1 }) else some q)
      if done then x.modWindow w.win fun v => { v with writes := satInc v.writes } else x
    .next (if done then signalOwn s c w.ctr w.sigN.toNat 1 6 w.opener w.opc else s)

def execWindowFaultReturn (c : CoreIx) (s : State) : Out :=
  match s.cores[c].returns with
  | [] => .next s
  | r :: rs => .next (faultCtx c r.ctx 0x0C r.info r.pc (modCore s c fun x => { x with returns := rs }))

/-! ### Repairs and clears (R172, R174) -/

/-- A corrected word whose bank is free in this cycle for the access of least priority (R171, R172). -/
def correctionNow (s : State) (c : CoreIx) : Option Nat := s.cores[c].sp.corrections.find? fun a => bgFree s c 6 a 8

/-- A corrected word is written back in the bank's next free cycle: the bytes are the corrected ones already. -/
def execSpCorrectionWriteback (c : CoreIx) (s : State) : Out :=
  match correctionNow s c with
  | none => .next s
  | some a => .next (modCore (takeBanks s c a 8) c fun x => x.modSp fun p => { p with corrections := p.corrections.erase a })

/-- The 2 us clear of a power segment is over. -/
def clearOver (s : State) (c : CoreIx) (seg : Fin 6) : Bool :=
  bit s.cores[c].sp.clearing seg.val && decide (s.cores[c].sp.clearAt[seg] ≤ s.time.cycle)

/-- The 2 us clear of a power segment ends. -/
def execSegmentClearDone (c : CoreIx) (seg : Fin 6) (s : State) : Out :=
  if clearOver s c seg then
    .next (modCore s c fun x => x.modSp fun p => { p with clearing := setBit p.clearing seg.val false })
  else .next s

/-- Drops the bytes and marks of a power segment. -/
def Scratchpad.wipe (p : Scratchpad) (seg : Nat) : Scratchpad :=
  { p with mem := p.mem.filter fun e => e.1 / 2 ^ 19 != seg, poison := p.poison.filter fun e => e.1 / 2 ^ 13 != seg }

/-- A segment powers up: it is cleared, and not accessible for 2 us (R174). -/
def Scratchpad.powerUp (p : Scratchpad) (seg : Fin 6) (done : Nat) : Scratchpad :=
  if bit p.powered seg.val then p
  else
    { p.wipe seg.val with powered := setBit p.powered seg.val true, clearing := setBit p.clearing seg.val true,
                          clearAt := p.clearAt.set seg done }

/-- A segment powers down: contents and marks are lost (R176). -/
def Scratchpad.powerDown (p : Scratchpad) (seg : Fin 6) : Scratchpad :=
  { p.wipe seg.val with powered := setBit p.powered seg.val false, clearing := setBit p.clearing seg.val false }

end Sys2Proof.Machine
end

