-- ==== Sys2Proof/Machine/Save.lean ====
section
/-! DEFINITION. The save record of a core (R125, R185, R195): what a preemption writes of it, and what a restore takes back from
memory. The parts whose layout the manual does not give hold their fields in the manual's order, zero-padded (DESIGN CHOICE, log 12). -/

namespace Sys2Proof.Machine

/-! ### Numbers of states (Registers of chapters 04 and 06) -/

def ctxStateN : CtxState → Nat
  | .idle => 0
  | .ready => 1
  | .waiting => 2
  | .halted => 3
  | .faulted => 4

def waitKindN : WaitKind → Nat
  | .counter => 0
  | .stream => 1
  | .launch => 2
  | .command => 3
  | .hold => 4

def accStateN : AccState → Nat
  | .empty => 0
  | .open_ => 1
  | .draining => 2
  | .done => 3

def shapeN : Shape → Nat
  | .f => 0
  | .h => 1
  | .q => 2
  | .n => 3
  | .s => 4

def ctxStateOf (n : Nat) : CtxState :=
  if n = 0 then .idle else if n = 1 then .ready else if n = 2 then .waiting else if n = 3 then .halted else .faulted
def waitKindOf (n : Nat) : WaitKind :=
  if n = 0 then .counter else if n = 1 then .stream else if n = 2 then .launch else if n = 3 then .command else .hold
def accStateOf (n : Nat) : AccState := if n = 0 then .empty else if n = 1 then .open_ else if n = 2 then .draining else .done
def shapeOf (n : Nat) : Shape := if n = 0 then .f else if n = 1 then .h else if n = 2 then .q else if n = 3 then .n else .s

/-! ### Writing -/

/-- A stream as it is saved: a partly issued row starts again (R195), and so does one that was read for a window and has not begun to
leave (R185). -/
def Stream.atSave (x : Stream) : Stream :=
  if x.d.kind = 1 then
    let k := x.row * x.d.rowG / atLeast1 x.d.halfG
    { x with landed := tset 0 x.landed k (tget 0 x.landed k - x.off), off := 0 }
  else if x.d.kind = 2 then
    let k := x.rows * x.d.rowG / atLeast1 x.d.halfG
    let out := x.outbox.foldl (fun n q => n + q.bytes.length) 0
    { x with landed := tset 0 x.landed k (tget 0 x.landed k - (64 * x.readG - out - 64 * x.rows * x.d.rowG)),
             readG := x.rows * x.d.rowG, outbox := [] }
  else if x.d.kind = 3 then { x with readG := x.rows * x.d.rowG }
  else x

def SDesc.bytes (d : SDesc) : List Byte :=
  [d.kind, BitVec.ofNat 8 (b2n d.rt), d.ctrA, d.ctrB, d.endCtr, d.wtarget, d.wepoch, 0] ++ natLe 8 d.addr.toNat
  ++ natLe 2 d.rowG ++ natLe 2 d.cnt0 ++ natLe 2 d.cnt1 ++ natLe 2 d.cnt2 ++ natLe 4 d.str0.toNat ++ natLe 4 d.str1.toNat
  ++ natLe 4 d.str2.toNat ++ natLe 2 d.spBase ++ natLe 2 d.halfG ++ natLe 4 d.t0.toNat ++ natLe 4 d.t1.toNat

def slotStateN : SlotState → Nat
  | .unconfigured => 0
  | .active => 1
  | .closing => 2

/-- The 64 B record of a stream slot (R195). -/
def Stream.bytes (x : Stream) : List Byte :=
  x.d.bytes ++ natLe 4 x.rows ++ natLe 4 x.fills ++ natLe 1 (slotStateN x.st)
  ++ natLe 1 (b2n x.cur + 2 * b2n x.pendA + 4 * b2n x.pendB) ++ [0] ++ natLe 1 (b2n x.missed) ++ natLe 4 x.lastRel

def winStateN : WinState → Nat
  | .closed => 0
  | .open_ => 1
  | .closing => 2

/-- The 32 B record of a window: the descriptor of R178 with the state in byte 10 (R185). -/
def Window.bytes (w : Window) : List Byte :=
  natLe 2 w.base ++ natLe 2 w.len ++ natLe 1 w.writer.toNat ++ [w.epoch, w.ctr, w.doneCtr] ++ natLe 2 w.sigN.toNat
  ++ natLe 1 (winStateN w.st) ++ List.replicate 21 0

def launchFormN : LaunchForm → Nat
  | .local_ => 0
  | .seg => 1
  | .at_ => 2

/-- The pending-launch record (R125). -/
def pendBytes : Option Launch → List Byte
  | none => List.replicate 192 0
  | some l =>
    natLe 8 (1 + l.ctx.val * 2 ^ 12 + launchFormN l.form * 2 ^ 14 + l.blk.toNat * 2 ^ 16 + l.ctr.toNat * 2 ^ 28)
    ++ natLe 8 (if l.form = .at_ then l.ft.toNat else 0) ++ List.replicate 48 0
    ++ l.ads.toList.flatMap (fun a => natLe 4 a.toNat) ++ l.trs.toList.flatMap fun r => natLe 8 r.toNat

/-- `n` bytes of which the manual does not say what they hold (log 2). -/
def openBytes (c n : Nat) : List Byte := (List.range n).map fun i => Config.free 8 (c + i)

/-- Zeros up to `n` bytes. -/
def padded (n : Nat) (bs : List Byte) : List Byte := bs ++ List.replicate (n - bs.length) 0

/-- The 64 B header: version 1, core, slot, FT of save, pending-launch record present. -/
def saveHeader (c : CoreIx) (t : SlotIx) (ft : Nat) (pend : Bool) : List Byte :=
  padded 64 (natLe 4 1 ++ natLe 4 c.val ++ natLe 4 t.val ++ natLe 8 ft ++ natLe 4 (b2n pend))

/-- The 384 B of a context: S0 to S31, AD0 to AD15, then PC, state, wait record (KIND, object, register, 0, n, 0), VFLAGS, SR_SEED, SR_CTR and
CTX_FAULT (cause, latched, INFO, fault PC). -/
def Ctx.bytes (x : Ctx) : List Byte :=
  x.s.toList.flatMap (fun v => natLe 8 v.toNat) ++ x.ad.toList.flatMap (fun v => natLe 4 v.toNat)
  ++ padded 64 (natLe 4 x.pc.toNat ++ natLe 4 (ctxStateN x.st)
    ++ natLe 1 (waitKindN x.kind) ++ [x.waitObj] ++ natLe 1 x.waitRd.val ++ [0] ++ natLe 2 x.waitN.toNat ++ [0, 0]
    ++ natLe 4 x.vflags.toNat ++ natLe 8 x.seed.toNat ++ natLe 8 x.sctr.toNat
    ++ [x.cause] ++ natLe 1 (b2n x.faulted) ++ natLe 2 x.info.toNat ++ natLe 4 x.faultPc.toNat)

/-- The 64 B of array state (R81): the states and the poison marks of A and B, and the tile's shape and format. -/
def ArrayState.bytes (x : ArrayState) : List Byte :=
  padded 64 (natLe 1 (accStateN x.stA) ++ natLe 1 (accStateN x.stB) ++ natLe 1 (b2n x.poisonA) ++ natLe 1 (b2n x.poisonB)
    ++ natLe 1 (shapeN x.shape) ++ natLe 1 x.fmt.toNat)

def accBytes (x : Tbl W32) : List Byte := (List.range 4096).flatMap fun i => natLe 4 (tget 0 x i).toNat

/-- The parts of a save record at `a`: address and bytes (R125). Accumulators are written only where they are not EMPTY. -/
def SaveRec.parts (r : SaveRec) (t : SlotIx) (ft a : Nat) : List (Nat × List Byte) :=
  [(a, saveHeader r.core t ft r.pend.isSome),
   (a + 0x40, r.ctx.toList.flatMap Ctx.bytes),
   (a + 0x640, r.counters.toList.flatMap fun q => natLe 2 q.value.toNat ++ natLe 2 q.limit.toNat),
   (a + 0xA40, r.streams.toList.flatMap Stream.bytes),
   (a + 0x1240, r.windows.toList.flatMap Window.bytes),
   (a + 0x1340, r.array.bytes),
   (a + 0x1380, pendBytes r.pend)]
  ++ (if r.array.stA = .empty then [] else [(a + 0x2000, accBytes r.array.a)])
  ++ (if r.array.stB = .empty then [] else [(a + 0x6000, accBytes r.array.b)])

/-- Bytes of one core's save record. -/
abbrev saveSize : Nat := 40960

/-- Writes a save record. -/
def writeSave (t : SlotIx) (a : Nat) (r : SaveRec) (s : State) : State :=
  (r.parts t (ftNow s) a).foldl (fun s q => devWrite q.1 q.2 false s) s

/-! ### Reading -/

/-- A context as its record holds it. What the record does not hold (the entries queued for it, the cycles its waits end) comes from the
saved context. -/
def Ctx.fromBytes (x : Ctx) (b : List Byte) : Ctx :=
  { x with s := Vector.ofFn fun i => BitVec.ofNat 64 (field b (8 * i.val) 8)
           ad := Vector.ofFn fun i => BitVec.ofNat 22 (field b (256 + 4 * i.val) 4)
           pc := BitVec.ofNat 13 (field b 320 4), st := ctxStateOf (field b 324 4)
           kind := waitKindOf (field b 328 1), waitObj := BitVec.ofNat 8 (field b 329 1), waitRd := Fin.ofNat 32 (field b 330 1)
           waitN := BitVec.ofNat 16 (field b 332 2), vflags := BitVec.ofNat 4 (field b 336 4)
           seed := BitVec.ofNat 64 (field b 340 8), sctr := BitVec.ofNat 64 (field b 348 8)
           cause := BitVec.ofNat 8 (field b 356 1), faulted := field b 357 1 % 2 == 1, info := BitVec.ofNat 16 (field b 358 2)
           faultPc := BitVec.ofNat 13 (field b 360 4) }

/-- The array's state as its record holds it. -/
def ArrayState.fromBytes (x : ArrayState) (b : List Byte) : ArrayState :=
  { x with stA := accStateOf (field b 0 1), stB := accStateOf (field b 1 1), poisonA := field b 2 1 % 2 == 1
           poisonB := field b 3 1 % 2 == 1, shape := shapeOf (field b 4 1), fmt := BitVec.ofNat 4 (field b 5 1) }

def slotStateOf (n : Nat) : SlotState := if n = 0 then .unconfigured else if n = 1 then .active else .closing
def winStateOf (n : Nat) : WinState := if n = 0 then .closed else if n = 1 then .open_ else .closing
def launchFormOf (n : Nat) : LaunchForm := if n = 0 then .local_ else if n = 1 then .seg else .at_

/-- A stream as its record holds it: it goes on at row ROWS_ISSUED (R195). -/
def Stream.fromBytes (x : Stream) (b : List Byte) : Stream :=
  let d := parseSDesc b
  { x with d := d, rows := field b 48 4, row := if d.kind = 1 then field b 48 4 else x.row
           readG := if d.kind = 1 then x.readG else field b 48 4 * d.rowG
           fills := field b 52 4, st := slotStateOf (field b 56 1)
           cur := field b 57 1 % 2 == 1, pendA := field b 57 1 / 2 % 2 == 1, pendB := field b 57 1 / 4 % 2 == 1
           missed := field b 59 1 % 2 == 1, lastRel := x.lastRel / 2 ^ 32 * 2 ^ 32 + field b 60 4 }

def Window.fromBytes (w : Window) (b : List Byte) : Window :=
  { w with base := field b 0 2, len := field b 2 2, writer := BitVec.ofNat 2 (field b 4 1), epoch := BitVec.ofNat 8 (field b 5 1)
           ctr := BitVec.ofNat 8 (field b 6 1), doneCtr := BitVec.ofNat 8 (field b 7 1), sigN := BitVec.ofNat 16 (field b 8 2)
           st := winStateOf (field b 10 1) }

/-- The pending launch that a record holds. What it does not hold (where the launch stands, its digest) comes from the saved launch; its
arrival is sent again (R112, R125). -/
def pendFromBytes (old : Option Launch) (b : List Byte) : Option Launch :=
  let n := field b 0 8
  match old with
  | none => none
  | some l =>
    if n % 2 = 0 then none
    else some { l with
      ctx := ⟨n / 2 ^ 12 % 4, by omega⟩, form := launchFormOf (n / 2 ^ 14 % 4), blk := BitVec.ofNat 12 (n / 2 ^ 16)
      ctr := BitVec.ofNat 8 (n / 2 ^ 28), ft := BitVec.ofNat 64 (field b 8 8), arrived := none
      ads := Vector.ofFn fun i => BitVec.ofNat 22 (field b (64 + 4 * i.val) 4)
      trs := Vector.ofFn fun i => BitVec.ofNat 64 (field b (128 + 8 * i.val) 8) }

def accOf (b : List Byte) : Tbl W32 := (List.range 4096).foldl (fun t i => tset 0 t i (BitVec.ofNat 32 (field b (4 * i) 4))) []

/-- Bytes `o` to `o + n` of a list. -/
def slice (b : List Byte) (o n : Nat) : List Byte := (b.drop o).take n

/-- The part of a record before the accumulators that a restore reads. -/
abbrev saveHead : Nat := 0x1440

/-- The reads of a restore for the record at `a`: the accumulators only where they are not EMPTY (R125). -/
def seeSave (a : Nat) (r : SaveRec) (s : State) : State :=
  let s := see a saveHead s
  let s := if r.array.stA = .empty then s else see (a + 0x2000) 16384 s
  if r.array.stB = .empty then s else see (a + 0x6000) 16384 s

/-- Whether what a restore reads of the record at `a` is poisoned (R289). -/
def savePoisoned (s : State) (a : Nat) (r : SaveRec) : Bool :=
  seenPoison s a saveHead || (r.array.stA != .empty && seenPoison s (a + 0x2000) 16384)
  || (r.array.stB != .empty && seenPoison s (a + 0x6000) 16384)

/-- A save record as the memory at `a` now holds it. -/
def SaveRec.readBack (s : State) (a : Nat) (r : SaveRec) : SaveRec :=
  let b := seen s a saveHead
  { r with
    ctx := Vector.ofFn fun k => r.ctx[k].fromBytes (slice b (0x40 + 384 * k.val) 384)
    counters := Vector.ofFn fun n =>
      { r.counters[n] with value := BitVec.ofNat 16 (field b (0x640 + 4 * n.val) 2), limit := BitVec.ofNat 16 (field b (0x642 + 4 * n.val) 2) }
    streams := Vector.ofFn fun n => r.streams[n].fromBytes (slice b (0xA40 + 64 * n.val) 64)
    windows := Vector.ofFn fun n => r.windows[n].fromBytes (slice b (0x1240 + 32 * n.val) 32)
    pend := pendFromBytes r.pend (slice b 0x1380 192)
    array := { r.array.fromBytes (slice b 0x1340 64) with
      a := if r.array.stA = .empty then r.array.a else accOf (seen s (a + 0x2000) 16384)
      b := if r.array.stB = .empty then r.array.b else accOf (seen s (a + 0x6000) 16384) } }

end Sys2Proof.Machine
end

