-- ==== Sys2Proof/Machine/Task.lean ====
section
/-! DEFINITION. The life of a task: load done, launch (R105), end (R123), halt (R117), preemption and resumption (R124 to
R126, R195, R212, R219), serving reservations (R127), release and abort. -/

namespace Sys2Proof.Machine

/-! ### Quiet segments -/

/-- No flit of any epoch is on the stations of a task's segments (R59). -/
def girthIdle (s : State) (T : Task) : Bool := !s.flits.any fun f => bit T.sectors (sectorOf f.core).val

/-- No block runs on a task's cores. -/
def blocksIdle (s : State) (T : Task) : Bool := T.cores.all fun c => s.cores[c].blk.isNone && s.cores[c].faultsDue.isEmpty

/-- No row at a writer's port has begun to leave; a slot's rows that have been read and not begun are not sent (R185). -/
def portQuiet (q : List PortGran) : Bool := match q with
  | [] => true
  | g :: _ => g.ix == 0

/-- The rows of a slot that have left whole have all been read, or a port holds the row that is being read, which has not begun to
leave. -/
def rowQuiet (y : Core) (slot : Fin 32) : Bool :=
  let x := y.streams[slot]
  x.d.kind != 3 || x.readG % atLeast1 x.d.rowG == 0
  || (y.portUp ++ y.portDown).any fun g => g.slot == slot && g.ix == 0 && g.row == x.readG / atLeast1 x.d.rowG * x.d.rowG

/-- No stream request of a task's cores is in flight, and no window write begun is unfinished. -/
def memoryIdle (s : State) (T : Task) : Bool :=
  T.cores.all fun c => s.cores[c].fromUp.isEmpty && s.cores[c].fromDown.isEmpty && s.cores[c].returns.isEmpty
    && portQuiet s.cores[c].portUp && portQuiet s.cores[c].portDown && s.cores[c].fillsDue.isEmpty
    && (s.cores[c].streams.toList.all fun x => x.outR == 0 && x.outW == 0) && (List.finRange 32).all (rowQuiet s.cores[c])
    && s.cores[c].sp.stores.isEmpty && s.cores[c].sp.staged.isEmpty

/-- No signal of a task is in flight, and no queue of its counters is still to be served (R212). -/
def signalsIdle (s : State) (T : Task) : Bool :=
  (s.incs.all fun i => !T.cores.contains i.core && !T.cores.contains i.fcore) && (T.cores.all fun c => s.cores[c].serveDue.isEmpty)
  && (s.gsigs.all fun i => !T.cores.contains i.core) && s.reports.all fun i => !T.cores.contains i.core

/-- No instruction of a task's contexts is still in progress, and no window is closing (R124, R185). -/
def contextsIdle (s : State) (T : Task) : Bool :=
  T.cores.all fun c => (s.cores[c].ctx.toList.all fun k => k.lds.isEmpty && k.stall == .none)
    && s.cores[c].windows.toList.all fun w => w.st != .closing

/-- Its cores are given to no task, and the state of the one that had them last is saved (R124). -/
def coresFree (s : State) (T : Task) : Bool :=
  (T.cores.all fun c => s.cores[c].slot.isNone) && s.tasks.toList.all fun u => u.st != .preempting || u.sectors &&& T.sectors == 0

/-- Every scratchpad segment a task names is powered and cleared on its cores (R174). -/
def segmentsReady (s : State) (T : Task) : Bool :=
  T.cores.all fun c => T.hdr.spMask.setWidth 6 &&& ~~~s.cores[c].sp.powered == 0
    && T.hdr.spMask.setWidth 6 &&& s.cores[c].sp.clearing == 0

/-! ### Load and launch -/

/-- Powers up the scratchpad segments a task names (R174). -/
def powerSegments (T : Task) (s : State) : State :=
  let done := s.time.cycle + ccOf s 2000
  T.cores.foldl (fun s c => modCore s c fun x => x.modSp fun p =>
    (List.finRange 6).foldl (fun p g => if bit T.hdr.spMask g.val then p.powerUp g done else p) p) s

/-- A context at task launch (R105). -/
def Ctx.launched (h : Header) (idx core : Nat) (k : CtxIx) : Ctx :=
  if bit h.contexts k.val then
    { Ctx.reset with
      s := ((Ctx.reset.s.set 1 (BitVec.ofNat 64 idx)).set 2 (BitVec.ofNat 64 core)).set 3 (BitVec.ofNat 64 k.val)
      pc := h.entry[k].setWidth 13, st := .ready, seed := h.seedBase + BitVec.ofNat 64 (4 * idx + k.val) }
  else Ctx.reset

/-- The entry of the counter table for a counter: a per-core entry before an all-core one (R120). -/
def counterEntry (T : Task) (idx n : Nat) : CtrEntry :=
  match T.ctrTable.find? fun e => e.core != 0xFF && e.core.toNat == idx && e.ctr.toNat == n with
  | some e => e
  | none => match T.ctrTable.find? fun e => e.core == 0xFF && e.ctr.toNat == n with
    | some e => e
    | none => { core := 0xFF, ctr := BitVec.ofNat 8 n, initial := 0, limit := 0xFFFF, final := 0 }

/-- A core at task launch: contexts, counters (R204), streams (R187), windows, and what is cleared at launch. -/
def Core.launched (T : Task) (t : SlotIx) (idx core : Nat) (x : Core) : Core :=
  { x with
    ctx := Vector.ofFn fun k => Ctx.launched T.hdr idx core k
    lastIssue := none, yielded := none, slot := some t
    counters := Vector.ofFn fun n =>
      if n.val < T.hdr.counters then
        let e := counterEntry T idx n.val
        { value := e.initial, limit := e.limit, queue := [], appliedAt := 0 }
      else x.counters[n]
    ctrRegs := { x.ctrRegs with ovfDiscards := 0 }
    pend := none, blk := none, array := { x.array with issue := 0, useful := 0 }
    girth := { x.girth with tagCheck := !T.hdr.flag 1 }, qsat := 0, qnan := 0
    streams := Vector.replicate 32 Stream.reset
    windows := x.windows.map fun w => { Window.reset with writes := w.writes, rejects := w.rejects }
    fromUp := [], fromDown := [], portUp := [], portDown := [], landAt := (0, 0), fillsDue := [], serveDue := [], notices := [], barred := [], markersDue := [], returns := [], faultsDue := [] }

/-- The number of frames since FT 0, rounded up, times 640 ns: the next frame boundary in FT. -/
def frameUp (ft : Nat) : Nat := (ft + 639) / 640 * 640

/-- A task becomes RUNNING for the first time (R105, R213). -/
def launchTask (t : SlotIx) (s : State) : State :=
  let T := s.tasks[t]
  let s := loadImages t s
  let s := (T.cores.zip (List.range T.cores.length)).foldl (fun s q => modCore s q.1 fun x => x.launched T t q.2 q.1.val) s
  let s := (List.range T.hdr.globals).foldl (fun s i =>
    gset (Fin.ofNat 4096 (T.gctrFirst + i)) { GCounter.reset with holder := some t } s) s
  let s := { s with lookup := s.lookup.map fun e => { e with rows := 0 } }
  modTask s t fun x => { x with st := .running, started := true, quantumEnd := frameUp (ftNow s) + 640 * s.sec.quantum }

/-- Whether a reservation of the task is still to begin, and whether one of another task holds its segments (R127). -/
def awaitsResv (s : State) (t : SlotIx) : Bool := s.resv.toList.any fun r => match r with
  | some r => r.task == t && !r.active
  | none => false
def pinnedOut (s : State) (t : SlotIx) : Bool := s.resv.toList.any fun r => match r with
  | some r => (r.active || r.leadDone) && r.task != t && (r.sectors &&& s.tasks[t].sectors) != 0
  | none => false

/-- Another task is resident on one of the task's segments: the change from one to the other falls at a frame boundary (R124). -/
def sharesSegments (s : State) (t : SlotIx) : Bool :=
  (List.finRange 16).any fun u => u != t && s.tasks[u].resident && (s.tasks[u].sectors &&& s.tasks[t].sectors) != 0

/-- A task is active on sectors of a test. -/
def Task.busyOn (sectors : BitVec 12) (t : Task) : Bool :=
  (t.sectors &&& sectors) != 0 && (t.st == .running || t.st == .preempting || t.st == .ending || t.st == .loading)

/-- Nothing but running tasks keeps a test from starting: no reservation covers its sectors, and no resident names their scratchpad
segments where the test overwrites them (R400, steps 3 and 4). -/
def testOpen (s : State) (sectors : BitVec 12) (kind : BitVec 2) : Bool :=
  let on := fun t : Task => (t.sectors &&& sectors) != 0
  let covered := s.resv.toList.any fun r => match r with
    | some r => (r.sectors &&& sectors) != 0 && (r.active || (decide (r.start.toNat ≤ ftNow s) && decide (ftNow s < r.stop.toNat)))
    | none => false
  let named := s.tasks.any fun t => on t && t.resident && t.hdr.spMask.setWidth 6 != (0 : BitVec 6)
  !covered && !(bit kind 1 && named)

/-- The sectors of a test are idle and it may start. -/
def canTest (s : State) (sectors : BitVec 12) (kind : BitVec 2) : Bool :=
  !s.tasks.any (Task.busyOn sectors) && testOpen s sectors kind

/-- A queued test will run when the tasks on its sectors have been held or have ended: each of them is being held or ends, or has a time
slice to end (R400). -/
def testComes (s : State) (x : SelfTest) : Bool :=
  x.st == 0 && testOpen s x.sectors x.kind && !s.tasks.any fun t => t.busyOn x.sectors && t.st == .running && !t.hdr.flag 4

/-- A self-test to come takes one of a task's sectors: it runs in place of the next quantum (R400). -/
def testsFirst (s : State) (t : SlotIx) : Bool :=
  s.sec.tests.any fun x => (x.sectors &&& s.tasks[t].sectors) != 0 && testComes s x

/-- The task's cores and scratchpad segments are there for it. -/
def placeFree (s : State) (t : SlotIx) : Bool :=
  coresFree s s.tasks[t] && segmentsReady s s.tasks[t] && !testsFirst s t

/-- READY and its segments free: the task starts, at a frame boundary where it shares them. A reserved task waits for its reservation
(R127). Its images are read before. -/
def execTaskLaunch (t : SlotIx) (s : State) : Out :=
  let T := s.tasks[t]
  if T.st == .ready && T.halting.isNone && s.quiesce.isNone && !awaitsResv s t && !pinnedOut s t then
    engineRun (taskKey t 1) (some t) Rank.open_ (placeFree s t && (!sharesSegments s t || atFrame s)) (launchTask t) s
  else .next s

/-! ### Releasing resources -/

/-- A segment powers down on a core with its last resident that names it (R176). -/
def powerDownSegments (t : SlotIx) (s : State) : State :=
  let T := s.tasks[t]
  T.cores.foldl (fun s c =>
    let others := (List.finRange 16).filter fun u => u != t && s.tasks[u].resident && s.tasks[u].hasCore c
    let kept : BitVec 6 := others.foldl (fun m u => m ||| s.tasks[u].hdr.spMask.setWidth 6) 0
    modCore s c fun x => x.modSp fun p => (List.finRange 6).foldl (fun p g =>
      if bit T.hdr.spMask g.val && !bit kept g.val then p.powerDown g else p) p) s

/-- A task gives back its cores, scratchpad segments, global counters, stash, and saddlebag regions, whose slots keep their states until the
regions are allocated anew (R62, R123, R176, R213, R233, R350; log 20). -/
def releaseTask (t : SlotIx) (s : State) : State :=
  let T := s.tasks[t]
  let s := T.cores.foldl (fun s c => modCore s c fun x =>
    if x.slot = some t then { x with slot := none, girth := { x.girth with tagCheck := true }, pend := none }
    else if x.slot.isNone then { x with girth := { x.girth with tagCheck := true } } else x) s
  let s := powerDownSegments t s
  let s := { s with gctr := s.gctr.filter fun q => q.2.holder != some t }
  let s := if s.mir.owner = some t then
      { s with mir := { s.mir with owner := none, guestBag := 0, homeBag := 0
                                   take := s.mir.take.filter fun r => r.slot != t
                                   restore := s.mir.restore.filter fun r => r.slot != t } }
    else s
  let s := { s with resv := s.resv.map fun r => r.filter fun r => r.task != t }
  { (modTask s t fun x => { x with saved := [], stash := Stash.reset, hold := false, pinned := false, sectors := 0, segs := [] }) with
    lkWork := s.lkWork.filter fun w => w.slot != t
    runs := s.runs.filter fun u => u.t != some t }

/-- A FAULTED task's resources are given back and its slot is FREE (R117). -/
def freeTask (t : SlotIx) (s : State) : State := modTask (releaseTask t s) t fun _ => Task.reset

/-- A load aimed at a core of an active segment writes nothing and is recorded (R18, R377); the BAR0 offset that the event gives is free
(log 110). -/
def refuseLoad (s : State) : State :=
  record { s with freeCtr := s.freeCtr + 1 } 0x0202 notice 2 (Config.free 64 s.freeCtr).toNat 0 0

/-- A load that is done: the task becomes READY, and its queue gets ACCEPTED unless NO_ACCEPT (R121, R311, R313). -/
def loadedTask (t : SlotIx) (s : State) : State :=
  let T := s.tasks[t]
  let s := modTask (powerSegments T s) t fun x => { x with st := .ready }
  if T.noAccept then s else completeTask t 1 s

/-- The loaded images are written to the task's cores. With a core busy the load is refused: a task that shares its segments has its images
loaded at the switch (R124), any other is refused with CORE_BUSY (R18, R121). -/
def loadTask (t : SlotIx) (s : State) : State :=
  let T := s.tasks[t]
  if coresFree s T then loadedTask t (loadImages t s)
  else if T.hdr.flag 4 then loadedTask t (refuseLoad s)
  else
    let s := freeTask t (refuseLoad (record s 0x000B error 0xFF T.image.toNat 0 0))
    match T.queue with
    | none => s
    | some q => complete q { user := T.user, kind := 4, slot := 0xFF, reason := 0x0B, vector := T.vector } s

def execTaskLoadDone (t : SlotIx) (s : State) : Out :=
  let T := s.tasks[t]
  if T.st != .loading || T.halting.isSome then .next s
  else engineRun (taskKey t 1) (some t) Rank.open_ true (loadTask t) s

/-- Releases a FAULTED task; while its segments are not Girth-idle the release waits (R59). -/
def releaseWhenIdle (t : SlotIx) (s : State) : State :=
  if girthIdle s s.tasks[t] then freeTask t s else modTask s t fun x => { x with autoRelease := true }

/-- A halted task becomes FAULTED; one that a reset of the host attachment aborted is released (R314). -/
def haltedTask (t : SlotIx) (r : Byte) (s : State) : State :=
  let auto := s.tasks[t].autoRelease
  let s := faultTask t r false s
  if auto then releaseWhenIdle t s else s

/-! ### End of a task (R123, R211) -/

/-- Every enabled context on every core HALTED, and no block running or pending. -/
def allHalted (s : State) (T : Task) : Bool :=
  T.cores.all fun c => s.cores[c].pend.isNone && s.cores[c].blk.isNone && s.cores[c].faultsDue.isEmpty
    && (List.finRange 4).all fun k => !bit T.hdr.contexts k.val || s.cores[c].ctx[k].st == .halted

/-- Closes every open stream and window of a core as SCLOSE and WCLOSE would. -/
def closeAll (c : CoreIx) (s : State) : State :=
  let s := modCore s c fun x => { x with streams := x.streams.map fun t =>
    if t.st == .active then { t with st := .closing, closeAt := some (s.time.cycle + 2) } else t }
  (List.finRange 8).foldl (fun s w => closeWindow c w s) s

/-- The failing counters of a core (R211). -/
def driftOf (s : State) (T : Task) (c : CoreIx) (idx : Nat) : List Nat :=
  (List.range T.hdr.counters).filter fun n =>
    (s.cores[c].counter (BitVec.ofNat 8 n)).value != (counterEntry T idx n).final

/-- DRIFT_CHECK on one core. -/
def driftCore (T : Task) (q : CoreIx × Nat) (s : State) : State :=
  match driftOf s T q.1 q.2 with
  | [] => s
  | n :: ns =>
    let v := (s.cores[q.1].counter (BitVec.ofNat 8 n)).value
    let s := modCore s q.1 fun x => { x with ctrRegs :=
      if x.ctrRegs.drift then { x.ctrRegs with driftAt := s.time.cycle + 1 }
      else { x.ctrRegs with drift := true, driftAt := s.time.cycle + 1, driftCtr := BitVec.ofNat 8 n, driftValue := v, driftCount := BitVec.ofNat 9 (ns.length + 1) } }
    record s 0x1302 error q.1.val 0 n (v.toNat + (counterEntry T q.2 n).final.toNat * 2 ^ 16)

/-- The zeroing of the named segments (R175): 512 cc, with a narrow one among them 1,024 cc. -/
def scrubTime (mask : Byte) : Nat :=
  if mask.setWidth 6 = (0 : BitVec 6) then 0 else if bit mask 4 || bit mask 5 then 1024 else 512

/-- SCRUB_ON_EXIT: the task's scratchpad segments and wide-buffer slots are zeroed (R119, R175). -/
def scrubCores (T : Task) (s : State) : State :=
  T.cores.foldl (fun s c => modCore s c fun x =>
    { (x.modSp fun p => (List.finRange 6).foldl (fun p g => if bit T.hdr.spMask g.val then p.wipe g.val else p) p) with
      wb := x.wb.filter fun e => !bit T.hdr.wbMask (e.1 / 4096)
      wbPoison := x.wbPoison &&& ~~~T.hdr.wbMask }) s

/-- The entries that are still open at the end complete: with what their executors have reported, else with UNREPORTED (R227). -/
def finishOpen (t : SlotIx) (s : State) : State :=
  s.tasks[t].cmd.openEntries.foldl (fun s e => finishEntry t e (e.answer.getD 0x82) s) s

/-- What is left when the checks of the end are done (R123, R227). -/
def endTask (t : SlotIx) (drift : Bool) (s : State) : State :=
  let s := releaseTask t (finishOpen t s)
  if drift then
    let s := modTask s t fun x => { x with st := .faulted, reason := 0xFF }
    completeTask t 3 (record s 0x00FF error t.val s.tasks[t].image.toNat 0 0)
  else completeTask t 2 (modTask s t fun x => { x with st := .done, reason := 0 })

/-- Every stream and window of a task's cores is closed. -/
def allClosed (s : State) (T : Task) : Bool :=
  T.cores.all fun c => (s.cores[c].streams.toList.all fun x => x.st == .unconfigured)
    && s.cores[c].windows.toList.all fun w => w.st == .closed

/-- The drift check of every core, and the scrub where the header asks for it (R123, R211). -/
def checkEnd (t : SlotIx) (s : State) : State :=
  let T := s.tasks[t]
  let cs := T.cores.zip (List.range T.cores.length)
  let drift := cs.any fun q => !(driftOf s T q.1 q.2).isEmpty
  let s := cs.foldl (fun s q => driftCore T q s) s
  let wide := s.time.cycle + if T.hdr.flag 5 then scrubTime T.hdr.spMask else 0
  let s := modTask s t fun x => { x with endStep := if drift then 3 else 2, scrubUntil := wide }
  if T.hdr.flag 5 then scrubCores T s else s

/-- The steps of R123, one for each command as it falls due: ENDING; with the Girth idle the closes; with every close complete and no
snapshot or engine entry open the drift check and the scrub; then the release. -/
def execTaskEnd (t : SlotIx) (s : State) : Out :=
  let T := s.tasks[t]
  if T.halting.isSome then .next s
  else if T.st == .running && !T.hold && allHalted s T then .next (modTask s t fun x => { x with st := .ending, endStep := 0 })
  else if T.st != .ending || !girthIdle s T then .next s
  else if T.endStep = 0 then .next (T.cores.foldl (fun s c => closeAll c s) (modTask s t fun x => { x with endStep := 1 }))
  else if T.endStep = 1 then
    if allClosed s T && memoryIdle s T && signalsIdle s T && T.cmd.openEntries.all fun e => Entry.engine e.words == 0 then
      .next (checkEnd t s)
    else .next s
  else if s.time.cycle < T.scrubUntil then .next s
  else .next (endTask t (T.endStep == 3) s)

/-! ### Halt (R117) -/

/-- The blocks of a halted task have completed, its segments are Girth-idle and its requests answered: FAULTED. A task that
is being preempted completes its save first (R118). A release that waited for the Girth is made (R59). -/
def execTaskHaltDone (t : SlotIx) (s : State) : Out :=
  let T := s.tasks[t]
  match T.halting with
  | none => .next (if T.st == .faulted && T.autoRelease then releaseWhenIdle t s else s)
  | some r =>
    if !T.live || T.st == .preempting then .next s
    else if T.st == .running || T.st == .ending then
      if blocksIdle s T && girthIdle s T && memoryIdle s T then .next (haltedTask t r s) else .next s
    else .next (haltedTask t r s)

/-! ### Preemption (R124, R125, R195, R212) -/

/-- Sets HOLD on a running task: contexts complete the instruction in issue and wait (R124). -/
def holdTask (t : SlotIx) (s : State) : State :=
  mapTaskCores (modTask s t fun x => { x with st := .preempting, hold := true, saved := [] }) t fun c =>
    { c with ctx := c.ctx.map fun k => if k.st = .ready then { k with st := .waiting, kind := .hold } else k }

/-- Another task waits for one of a task's segments. -/
def othersWait (s : State) (t : SlotIx) : Bool :=
  (List.finRange 16).any fun u => u != t && (s.tasks[u].st == .ready || s.tasks[u].st == .preempted)
    && (s.tasks[u].sectors &&& s.tasks[t].sectors) != 0

/-- A quantum of the running task has ended (R124). -/
def quantumOver (T : Task) (ft : Nat) : Bool :=
  T.st == .running && T.halting.isNone && T.hdr.flag 4 && !T.pinned && decide (T.quantumEnd ≤ ft)

/-- The end of a quantum: the running task is held, unless nothing else waits for its segments. -/
def execQuantumExpiry (t : SlotIx) (s : State) : Out :=
  let T := s.tasks[t]
  if quantumOver T (ftNow s) then
    if othersWait s t || testsFirst s t then .next (holdTask t s)
    else .next (modTask s t fun x => { x with quantumEnd := frameUp (ftNow s) + 640 * s.sec.quantum })
  else .next s

/-- The save of one core, `i` of its task. -/
def saveCore (t : SlotIx) (q : CoreIx × Nat) (s : State) : State :=
  let x := s.cores[q.1]
  let r : SaveRec := { core := q.1, ctx := x.ctx, counters := x.counters, streams := x.streams.map Stream.atSave,
                       windows := x.windows, barred := x.barred, array := x.array, pend := x.pend }
  let s := writeSave t (s.tasks[t].saveBase.toNat + saveSize * q.2) r s
  let s := modTask s t fun y => { y with saved := y.saved ++ [r] }
  modCore s q.1 fun x => { x with slot := none, pend := none, portUp := [], portDown := [] }

/-- A held segment is quiet (R59, R124). -/
def heldQuiet (s : State) (T : Task) : Bool :=
  blocksIdle s T && girthIdle s T && memoryIdle s T && signalsIdle s T && contextsIdle s T

/-- The held segment is quiet: each core's state is written to the save area; once it is there the task becomes PREEMPTED, or FAULTED
where a fault or abort halted it meanwhile (R118, R124). -/
def execPreemptSave (t : SlotIx) (s : State) : Out :=
  let T := s.tasks[t]
  if T.st != .preempting then .next s
  else if T.saved.isEmpty then
    if heldQuiet s T then
      engineRun (taskKey t 2) (some t) Rank.open_ true
        (fun s => (T.cores.zip (List.range T.cores.length)).foldl (fun s q => saveCore t q s) s) s
    else .next s
  else if running s (taskKey t 2) then .next s
  else match T.halting with
    | some r => .next (haltedTask t r s)
    | none => .next (modTask s t fun x => { x with st := .preempted, hold := false })

/-- One core as its save record left it. -/
def Core.restored (T : Task) (t : SlotIx) (ft : Nat) (beat : Nat) (r : SaveRec) (x : Core) : Core :=
  { x with ctx := r.ctx.map fun k => if k.st = .waiting && k.kind = .hold then { k with st := .ready } else k
           counters := r.counters
           streams := r.streams.map fun y => if y.st == .unconfigured || y.d.rt then y else { y with restored := some ft, dls := [] }
           windows := r.windows, barred := r.barred, array := { x.array with
             a := r.array.a, b := r.array.b, stA := r.array.stA, stB := r.array.stB, poisonA := r.array.poisonA,
             poisonB := r.array.poisonB, shape := r.array.shape, fmt := r.array.fmt, tileK := r.array.tileK }
           pend := r.pend.map fun l => { l with beat := beat }
           slot := some t, lastIssue := none, yielded := none
           girth := { x.girth with tagCheck := !T.hdr.flag 1 } }

/-- The releases kept for a task are in its counters before anything else happens to them (R219); no other signal for them is under way
(R212). -/
def applyReleases (t : SlotIx) (s : State) : State :=
  (s.incs.filter fun i => i.source == 7 && decide (i.due ≤ s.time.cycle) && s.cores[i.core].slot == some t).foldl
    (fun s i => applyCounter i.core i.ctr s) s

/-- A preempted task is restored from its save area and becomes RUNNING; where what is read of a save record is poisoned it becomes
FAULTED with REASON 0x84 (R289). -/
def resumeTask (t : SlotIx) (s : State) : State :=
  let T := s.tasks[t]
  let rs := T.saved.zip ((List.range T.saved.length).map fun i => T.saveBase.toNat + saveSize * i)
  let s := rs.foldl (fun s q => seeSave q.2 q.1 s) s
  if rs.any fun q => savePoisoned s q.2 q.1 then faultTask t 0x84 false s
  else
    let ft := ftNow s
    let back := rs.map fun q => q.1.readBack s q.2
    let s := loadImages t s
    let s := back.foldl (fun s r => modCore s r.core fun x =>
      x.restored T t ft (match r.pend with
        | some l => beatAt s l.ft.toNat
        | none => 0) r) s
    let s := applyReleases t (keptReleases t s)
    modTask s t fun x => { x with st := .running, saved := [], quantumEnd := frameUp ft + 640 * s.sec.quantum }

/-- A QUIESCE lets a task be restored only where it held the task and has come to its step 6 (R399). -/
def mayResume (s : State) (t : SlotIx) : Bool := match s.quiesce with
  | none => true
  | some z => z.restoring.isSome && z.held.contains t

/-- The next task of a segment takes over at a frame boundary (R124 step 5). Its images and records are read before. -/
def execTaskResume (t : SlotIx) (s : State) : Out :=
  let T := s.tasks[t]
  if T.st == .preempted && T.halting.isNone && mayResume s t && !awaitsResv s t && !pinnedOut s t then
    engineRun (taskKey t 3) (some t) Rank.open_ (placeFree s t && atFrame s) (resumeTask t) s
  else .next s

/-! ### Serving reservations (R127) -/

/-- FT at which the lead of a reservation begins: its start less the longest block of the tasks to preempt and 20 us,
rounded down to a frame. -/
def leadFt (s : State) (r : Resv) : Nat :=
  let others := s.tasks.toList.filter fun x => x.st == .running && x.hdr.flag 4 && (x.sectors &&& r.sectors) != 0
  let blk := others.foldl (fun a x => max a x.hdr.maxBlock.toNat) 0
  let d := (List.finRange 12).foldl (fun a p => if bit r.sectors p.val then min a s.duty[p].dEff else a) 16
  let ns := (blk * 20 * 16 + bpf s.power.coreStep * d - 1) / (bpf s.power.coreStep * atLeast1 d)
  (r.start.toNat - (ns + 20000)) / 640 * 640

/-- The lead of a reservation is due. -/
def leadDue (s : State) (v : Resv) : Bool := !v.leadDone && !v.active && decide (leadFt s v ≤ ftNow s)

/-- At the lead of a reservation the PREEMPTIBLE tasks on its segments are held; one that a reservation of its own pins is not. -/
def execReservationLead (r : Fin 16) (s : State) : Out :=
  match s.resv[r] with
  | none => .next s
  | some v =>
    if !leadDue s v then .next s
    else
      let s := (List.finRange 16).foldl (fun s t =>
        let x := s.tasks[t]
        if t != v.task && x.st == .running && x.halting.isNone && x.hdr.flag 4 && !x.pinned && (x.sectors &&& v.sectors) != 0 then
          holdTask t s
        else s) s
      .next { s with resv := s.resv.set r (some { v with leadDone := true }) }

/-- The reserved task starts, or goes on, pinned; late where its start has passed (R36, R127). -/
def startReserved (r : Fin 16) (v : Resv) (s : State) : State :=
  let s := if v.start.toNat < ftNow s then lateAction s 0 v.start.toNat (ftNow s) else s
  let st := s.tasks[v.task].st
  let s := if st == .ready then launchTask v.task s else if st == .preempted then resumeTask v.task s else s
  let s := modTask s v.task fun x => { x with pinned := true }
  { s with resv := s.resv.set r (some { v with active := true, leadDone := true }) }

/-- The reserved task may start in this cycle: a frame boundary in the reservation's interval, at which its segments are free; a QUIESCE lets
no task be launched (R399). -/
def startNow (s : State) (v : Resv) : Bool :=
  let T := s.tasks[v.task]
  s.quiesce.isNone && atFrame s && decide (v.start.toNat ≤ ftNow s) && decide (ftNow s < v.stop.toNat) && (T.st == .running || placeFree s v.task)

/-- The run that reads what the reserved task needs. -/
def startKey (s : State) (v : Resv) : Nat := taskKey v.task (if s.tasks[v.task].st == .preempted then 3 else 1)

/-- The start of a reservation is due: it may be, and everything it needs has been read. -/
def startDue (s : State) (r : Fin 16) (v : Resv) : Bool :=
  let T := s.tasks[v.task]
  !v.active && T.halting.isNone && (T.st == .running || T.st == .ready || T.st == .preempted) && startNow s v
  && runDue s (startKey s v) (some v.task) (startReserved r v)

/-- The reserved task starts at the reservation's start, or at the next frame boundary at which its segments are free, late
(R36, R127). What it needs is read before. -/
def execReservationStart (r : Fin 16) (s : State) : Out :=
  match s.resv[r] with
  | none => .next s
  | some v =>
    let T := s.tasks[v.task]
    if v.active || T.halting.isSome || !(T.st == .running || T.st == .ready || T.st == .preempted) then .next s
    else engineRun (startKey s v) (some v.task) Rank.open_ (startNow s v) (startReserved r v) s

/-- A reservation ends in this cycle. -/
def resvOver (s : State) (v : Resv) : Bool := atFrame s && decide (v.stop.toNat ≤ ftNow s)

/-- At the frame boundary at FT_END the segments are unpinned (R127). -/
def execReservationEnd (r : Fin 16) (s : State) : Out :=
  match s.resv[r] with
  | none => .next s
  | some v =>
    if resvOver s v then
      let s := modTask s v.task fun x => { x with pinned := false, quantumEnd := ftNow s }
      .next { s with resv := s.resv.set r none }
    else .next s

end Sys2Proof.Machine
end

