-- ==== Sys2Proof/Machine/Mailbox.lean ====
section
/-! DEFINITION. The mailbox (R395 to R397), QUIESCE (R399, R48, R355), serving reservations by command (R127, R396), self-test
(R400), and staged configuration (R398). -/

namespace Sys2Proof.Machine

/-! ### The executor (R395) -/

def mbOf (s : State) (p : Path) : Mailbox := match p with
  | .host => s.mbHost
  | .mgmt => s.mbMgmt

def modMb (s : State) (p : Path) (f : Mailbox → Mailbox) : State := match p with
  | .host => { s with mbHost := f s.mbHost }
  | .mgmt => { s with mbMgmt := f s.mbMgmt }

/-- Words of a result or of arguments, from the first word of MB_DATA on. -/
def Mailbox.putWords (x : Mailbox) (ws : List W32) : Mailbox :=
  { x with data := (ws.zip (List.range ws.length)).foldl (fun t q => tset 0 t q.2 q.1) x.data }

/-- A command completes: STATUS, RESULT_LEN and the result; MSI-X vector 2 on the host path, an MCTP message on the other. -/
def mbFinish (p : Path) (status : Byte) (len : Nat) (ws : List W32) (s : State) : State :=
  let s := modMb s p fun x => { x.putWords ws with busy := false, status := status, resultLen := BitVec.ofNat 13 len }
  match p with
  | .host => msix 2 s
  | .mgmt => emit s (.mailbox .mgmt status len ws)

/-- The executor runs a command that has not completed: a QUIESCE, or a self-test that runs at once. -/
def mbOccupied (s : State) : Bool := s.quiesce.isSome || s.sec.tests.any fun x => x.st == 0 && x.path.isSome

/-- A word of the arguments. -/
def argW (args : List W32) (i : Nat) : W32 := args.getD i 0

def argW64 (args : List W32) (i : Nat) : W64 := BitVec.ofNat 64 ((argW args i).toNat + (argW args (i + 1)).toNat * 2 ^ 32)

/-! ### Commands without further steps (R396) -/

def opGetVersion (p : Path) (s : State) : State := mbFinish p 0x00 4 [2] s

/-- SET_VERSION selects a version that GET_VERSION lists: version 1. -/
def opSetVersion (p : Path) (v : W32) (s : State) : State :=
  if v = 1 then mbFinish p 0x00 0 [] (modMb s p fun x => { x with version := 1 }) else mbFinish p 0x03 0 [] s

def opSetQuantum (p : Path) (frames : W32) (s : State) : State :=
  if 79 ≤ frames.toNat then mbFinish p 0x00 0 [] { s with sec := { s.sec with quantum := frames.toNat } }
  else mbFinish p 0x03 0 [] s

/-- SET_SIGNED_MODE lasts until the next PERST_N (R393). -/
def opSetSignedMode (p : Path) (s : State) : State := mbFinish p 0x00 0 [] { s with sec := { s.sec with signedMode := true } }

/-- COMMIT_SVN raises the fused minimum (R387). -/
def opCommitSvn (p : Path) (s : State) : State :=
  mbFinish p 0x00 0 [] { s with sec := { s.sec with minSvn := if s.sec.minSvn.toNat < s.sec.svn.toNat then s.sec.svn else s.sec.minSvn } }

/-- LOG_READ serves MGMT (R407); with which status the host's is refused is free (log 2). -/
def opLogRead (p : Path) (first count : W32) (s : State) : State :=
  match p with
  | .host => mbFinish p (Config.free 8 s.freeCtr) 0 [] { s with freeCtr := s.freeCtr + 1 }
  | .mgmt =>
    let a := first.toNat
    let n := count.toNat
    if 128 < n ∨ 8192 < a + n then mbFinish p 0x03 0 [] s
    else mbFinish p 0x00 (32 * n) [] (emit s (.logEntries ((List.range n).map fun i => tget noEvent s.recorder.log (a + i))))

/-! ### Reservations (R127, R396) -/

/-- Two FT intervals share an instant. -/
def Resv.meets (r : Resv) (sectors : BitVec 12) (a b : W64) : Bool :=
  (r.sectors &&& sectors) != 0 && decide (r.start.toNat < b.toNat) && decide (a.toNat < r.stop.toNat)

/-- A sector mask of a mailbox argument: some of the 12 sectors. -/
def sectorMask (v : W32) : Option (BitVec 12) := if v = 0 || decide (4096 ≤ v.toNat) then none else some (v.setWidth 12)

/-- RESERVE: argument checks, the task REALTIME, every other resident PREEMPTIBLE, no overlap. Which status answers with all
16 numbers taken is free (log 2). -/
def opReserve (p : Path) (slot sectors : W32) (a b : W64) (s : State) : State :=
  match sectorMask sectors with
  | none => mbFinish p 0x03 0 [] s
  | some m =>
    if h : slot.toNat < 16 then
      let t : SlotIx := ⟨slot.toNat, h⟩
      let T := s.tasks[t]
      if a.toNat % 640 != 0 || b.toNat % 640 != 0 || decide (b.toNat ≤ a.toNat) then mbFinish p 0x03 0 [] s
      else
        let held := s.resv.toList.filterMap id
        let residents := (List.finRange 16).filter fun u => u != t && s.tasks[u].resident && (s.tasks[u].sectors &&& m) != 0
        if !T.resident || !T.hdr.flag 3 || residents.any fun u => !s.tasks[u].hdr.flag 4 then mbFinish p 0x07 0 [] s
        else if held.any fun r => r.active && r.meets m a b then mbFinish p 0x05 0 [] s
        else if held.any fun r => r.meets m a b then mbFinish p 0x04 0 [] s
        else match (List.finRange 16).find? fun i => s.resv[i].isNone with
          | none => mbFinish p (Config.free 8 s.freeCtr) 0 [] { s with freeCtr := s.freeCtr + 1 }
          | some i =>
            let r : Resv := { task := t, sectors := m, start := a, stop := b, leadDone := false, active := false }
            mbFinish p 0x00 4 [BitVec.ofNat 32 i.val] { s with resv := s.resv.set i (some r) }
    else mbFinish p 0x03 0 [] s

/-- UNRESERVE: the reservation ends at the next frame boundary. -/
def opUnreserve (p : Path) (n : W32) (s : State) : State :=
  if h : n.toNat < 16 then
    let i : Fin 16 := ⟨n.toNat, h⟩
    match s.resv[i] with
    | none => mbFinish p 0x03 0 [] s
    | some r => mbFinish p 0x00 0 [] { s with resv := s.resv.set i (some { r with stop := BitVec.ofNat 64 (frameUp (ftNow s)) }) }
  else mbFinish p 0x03 0 [] s

/-! ### QUIESCE (R399) -/

/-- A QUIESCE ends with a status and its event (R401). -/
def quiesceEnds (p : Path) (status : Byte) (s : State) : State :=
  let s := record s (if status = 0 then 0xA501 else 0xA502) notice 0 status.toNat 0 0
  mbFinish p status 0 [] { s with quiesce := none }

/-- Steps 1 and 2: refused by a reservation; else fetching stops and every running PREEMPTIBLE task is held. -/
def opQuiesce (p : Path) (waitUs : W32) (s : State) : State :=
  let limit := ftNow s + 1000 * waitUs.toNat
  let deadline := nsNow s + 1000 * waitUs.toNat
  let reserved := s.resv.toList.any fun r => match r with
    | some r => r.active || (decide (r.start.toNat ≤ limit) && decide (ftNow s < r.stop.toNat))
    | none => false
  if 1000000 < waitUs.toNat then mbFinish p 0x03 0 [] s
  else if reserved then quiesceEnds p 0x05 s
  else
    let held := (List.finRange 16).filter fun t =>
      s.tasks[t].st == .running && s.tasks[t].halting.isNone && s.tasks[t].hdr.flag 4
    held.foldl (fun s t => holdTask t s) { s with quiesce := some { path := p, deadline := deadline, held := held, readyAt := none, step := s.power.coreStep, restoring := none } }

/-- A task is RUNNING, LOADING or PREEMPTING, or a submission fetched before is still read: the condition of step 4 for any change fails
(R399). -/
def quiesceBusy (s : State) : Bool :=
  s.submit.isSome || s.tasks.any fun t => t.st == .running || t.st == .loading || t.st == .preempting

/-- What QUIESCE waits for, up to WAIT_US: also that every task without PREEMPTIBLE has ended (step 3). -/
def quiesceWaits (s : State) : Bool := quiesceBusy s || s.tasks.any fun t => t.st == .ending && !t.hdr.flag 4

/-- A resident blocks a pending change (step 4): any blocks buckles, one of profile 3.1 blocks PROFILE_LOCK. -/
def quiesceBlocked (s : State) : Bool :=
  (s.buckleNext != s.buckle && s.tasks.any Task.resident)
  || (s.sec.stepping && s.staging.profileLock && !s.staging.profileInForce
      && s.tasks.any fun t => t.resident && t.hdr.profile == 0x31)

/-- Every held task has been restored, or has ended otherwise (R124 step 5, R399). -/
def heldRestored (s : State) (z : Quiesce) : Bool :=
  z.held.all fun t => s.tasks[t].halting.isSome || (s.tasks[t].st != .preempted && s.tasks[t].st != .preempting)

/-- From here on the held tasks are restored, by TASK_RESUME; then the QUIESCE completes with a status (R399). -/
def restoreHeld (z : Quiesce) (status : Byte) (s : State) : State := { s with quiesce := some { z with restoring := some status } }

/-- The conditions of step 4 hold. The core step written by now is the one that will be applied (DESIGN CHOICE, log 105); where it rises,
the rail slews to its voltage before the clocks change (R355). -/
def startChanges (z : Quiesce) (s : State) : State :=
  let step := s.power.nextCoreStep
  let s := { s with quiesce := some { z with readyAt := some (nsNow s), step := step } }
  if s.power.coreStep.toNat < step.toNat then trimRail s.power.voltOffset step s else s

/-- Step 4: a change that a resident blocks is denied, else the changes start. -/
def checkChanges (z : Quiesce) (s : State) : State := if quiesceBlocked s then restoreHeld z 0x07 s else startChanges z s

/-- The rail carries the core step to come (R355). -/
def railReady (s : State) (z : Quiesce) : Bool := !(decide (s.power.coreStep.toNat < z.step.toNat)) || railNow s == s.power.vto.toNat

/-- A new core step takes effect (R31, R355): the grid begins anew, FT_STEP latches, the rail follows. -/
def stepClocks (step : BitVec 3) (s : State) : State :=
  let s := { s with power := { s.power with quadStep := s.power.nextQuadStep, hubStep := s.power.nextHubStep } }
  if step = s.power.coreStep then s
  else
    let ft := ftNow s
    let mv := railNow s
    let s := railHere mv (rebase ft step s)
    trimRail s.power.voltOffset s.power.coreStep { s with power := { s.power with ftStep := BitVec.ofNat 64 ft } }

/-- Step 5: the FT step, the buckles (new segments start at epoch 0 and rested, R48, R371), PROFILE_LOCK, the clock steps. Where FT and the core step
change together, FT steps first and the new grid begins at the same boundary (DESIGN CHOICE, log 105). -/
def applyChanges (step : BitVec 3) (s : State) : State :=
  let s := stepFt s
  let s := if s.buckleNext = s.buckle then s
    else { s with buckle := s.buckleNext, cores := s.cores.map fun x => { x with epoch := 0 }
                  duty := s.duty.map fun d => { d with rested := true, rampFrom := none } }
  let s := if s.sec.stepping then { s with staging := { s.staging with profileInForce := s.staging.profileLock } } else s
  stepClocks step s

/-! ### Self-test (R400) -/

def opSelfTest (p : Path) (sectors kind : W32) (s : State) : State :=
  match sectorMask sectors with
  | none => mbFinish p 0x03 0 [] s
  | some m =>
    if kind = 0 ∨ 3 < kind.toNat then mbFinish p 0x03 0 [] s
    else
      let now := canTest s m (kind.setWidth 2)
      let id := s.sec.testCount
      let x : SelfTest := { id := id, sectors := m, kind := kind.setWidth 2, since := nsNow s, st := 0, failing := 0,
                            path := if now then some p else none }
      let s := { s with sec := { s.sec with testCount := id + 1, tests := s.sec.tests ++ [x] } }
      if now then s else mbFinish p 0x06 4 [BitVec.ofNat 32 id] s

/-- How TEST_RESULT reports a state: the status of R397 it stands for (log 31). -/
def testCode (x : SelfTest) : W32 := if x.st = 0 then 6 else if x.st = 3 then 8 else 0

def opTestResult (p : Path) (n : W32) (s : State) : State :=
  match s.sec.tests.find? fun x => x.id == n.toNat with
  | none => mbFinish p 0x03 0 [] s
  | some x =>
    let w := fun i : Nat => BitVec.ofNat 32 (x.failing.toNat / 2 ^ (32 * i))
    mbFinish p 0x00 22 [testCode x, w 0, w 1, w 2, w 3, w 4] s

/-! ### Dispatch by opcode -/

/-- Bytes of arguments that a command takes: 4 for each, 8 for an FT (log 31); none for an undefined opcode. -/
def argBytes (op : Byte) : Option Nat := match op.toNat with
  | 0x00 => some 0
  | 0x01 => some 4
  | 0x10 => some 4
  | 0x20 => some 24
  | 0x21 => some 4
  | 0x22 => some 4
  | 0x30 => some 8
  | 0x31 => some 4
  | 0x40 => some 0
  | 0x41 => some 0
  | 0x50 => some 8
  | _ => none

/-- Runs a command: BAD_COMMAND, DENIED in recovery (R387), BAD_ARG, or its effect (R397). -/
def mbExec (p : Path) (op : Byte) (len : Nat) (args : List W32) (s : State) : State :=
  match argBytes op with
  | none => mbFinish p 0x01 0 [] s
  | some n =>
    if s.sec.fw == .recovery && op != 0x00 then
      mbFinish p 0x07 0 [] (if op = 0x10 then record s 0xA502 notice 0 7 0 0 else s)
    else if len != n then mbFinish p 0x03 0 [] s
    else match op.toNat with
      | 0x00 => opGetVersion p s
      | 0x01 => opSetVersion p (argW args 0) s
      | 0x10 => opQuiesce p (argW args 0) s
      | 0x20 => opReserve p (argW args 0) (argW args 1) (argW64 args 2) (argW64 args 4) s
      | 0x21 => opUnreserve p (argW args 0) s
      | 0x22 => opSetQuantum p (argW args 0) s
      | 0x30 => opSelfTest p (argW args 0) (argW args 1) s
      | 0x31 => opTestResult p (argW args 0) s
      | 0x40 => opSetSignedMode p s
      | 0x41 => opCommitSvn p s
      | _ => opLogRead p (argW args 0) (argW args 1) s

/-- Commands that wait run in arrival order once the executor is free. -/
def mbDrain : Nat → State → State
  | 0, s => s
  | n + 1, s =>
    if mbOccupied s then s
    else match s.mbQueue with
      | [] => s
      | w :: ws => mbDrain n (mbExec w.path w.op w.len w.args { s with mbQueue := ws })

def mbNext (s : State) : State := mbDrain s.mbQueue.length s

/-- A command reaches the executor: a QUIESCE during a QUIESCE is BUSY, any other waits its turn (R395, R397). -/
def mbArrive (p : Path) (op : Byte) (len : Nat) (args : List W32) (s : State) : State :=
  let s := modMb s p fun x => { x with busy := true }
  if op = 0x10 && s.quiesce.isSome then
    mbFinish p 0x04 0 [] (record s 0xA502 notice 0 4 0 0)
  else if mbOccupied s then { s with mbQueue := s.mbQueue ++ [{ path := p, op := op, len := len, args := args }] }
  else mbExec p op len args s

/-- The host's three writes (R395), which a busy mailbox ignores with an event, or the controller's MCTP message. -/
def mbCommand (p : Path) (op : Byte) (args : List W32) (s : State) : State :=
  let len := 4 * args.length
  match p with
  | .host =>
    if s.cxl.inReset then s
    else if s.mbHost.busy then ignoreWrite .host 0x0600000 s
    else mbArrive p op len args (modMb s p fun x => { x.putWords args with opcode := op, argLen := BitVec.ofNat 13 len })
  | .mgmt => mbArrive p op len args (modMb s p fun x => { x with opcode := op, argLen := BitVec.ofNat 13 len })

def execGetVersion (p : Path) (s : State) : Out := .next (mbCommand p 0x00 [] s)

def execSetVersion (p : Path) (v : W32) (s : State) : Out := .next (mbCommand p 0x01 [v] s)

def execQuiesce (p : Path) (waitUs : W32) (s : State) : Out := .next (mbCommand p 0x10 [waitUs] s)

def execReserve (p : Path) (slot : W32) (sectors : W32) (ftStart ftEnd : W64) (s : State) : Out :=
  .next (mbCommand p 0x20 [slot, sectors, loW ftStart, hiW ftStart, loW ftEnd, hiW ftEnd] s)

def execUnreserve (p : Path) (n : W32) (s : State) : Out := .next (mbCommand p 0x21 [n] s)

def execSetQuantum (p : Path) (frames : W32) (s : State) : Out := .next (mbCommand p 0x22 [frames] s)

def execSelfTest (p : Path) (sectors kind : W32) (s : State) : Out := .next (mbCommand p 0x30 [sectors, kind] s)

def execTestResult (p : Path) (n : W32) (s : State) : Out := .next (mbCommand p 0x31 [n] s)

def execSetSignedMode (p : Path) (s : State) : Out := .next (mbCommand p 0x40 [] s)

def execCommitSvn (p : Path) (s : State) : Out := .next (mbCommand p 0x41 [] s)

def execLogRead (p : Path) (first count : W32) (s : State) : Out := .next (mbCommand p 0x50 [first, count] s)

/-! ### QUIESCE and self-test go on -/

/-- QUIESCE goes on: when nothing is waited for it checks the conditions; a frame boundary after the rail's slew applies the
changes (the relock, at most 40 µs, ends at the boundary the sender chooses: log 4); with the held tasks restored it completes. -/
def execQuiesceApply (s : State) : Out :=
  match s.quiesce with
  | none => .next s
  | some z =>
    match z.restoring with
    | some status => if heldRestored s z then .next (mbNext (quiesceEnds z.path status s)) else .next s
    | none => match z.readyAt with
    | none =>
      if quiesceWaits s || !s.flits.isEmpty then .next s else .next (checkChanges z s)
    | some ft =>
      if atFrame s && decide (ft ≤ nsNow s) && railReady s z then .next (applyChanges z.step (restoreHeld z 0x00 s))
      else .next s

/-- WAIT_US has elapsed while QUIESCE waits (R399). -/
def quiesceLate (s : State) (z : Quiesce) : Bool :=
  z.readyAt.isNone && z.restoring.isNone && decide (z.deadline ≤ nsNow s) && quiesceWaits s

/-- WAIT_US has elapsed: where a task still runs the held tasks are restored and the status will be TIMEOUT; one that is only ENDING fails no
condition of step 4 (R399). -/
def execQuiesceTimeout (s : State) : Out :=
  match s.quiesce with
  | none => .next s
  | some z =>
    if quiesceLate s z then .next (if quiesceBusy s then restoreHeld z 0x08 s else checkChanges z s) else .next s

/-- The failing cores that lie in the tested sectors. -/
def failingIn (sectors : BitVec 12) (failing : BitVec 144) : BitVec 144 :=
  (List.finRange 144).foldl (fun m c => if bit failing c.val && bit sectors (sectorOf c).val then setBit m c.val true else m) 0

/-- Every scratchpad segment of the tested sectors is powered down. -/
def testedDown (sectors : BitVec 12) (s : State) : State :=
  (List.finRange 144).foldl (fun s c =>
    if bit sectors (sectorOf c).val then
      modCore s c fun x => x.modSp fun p => (List.finRange 6).foldl (fun p g => p.powerDown g) p
    else s) s

def putTest (x : SelfTest) (s : State) : State :=
  { s with sec := { s.sec with tests := s.sec.tests.map fun y => if y.id == x.id then x else y } }

/-- A queued self-test runs; `failing` is what it finds. -/
def execSelfTestRun (n : Nat) (failing : BitVec 144) (s : State) : Out :=
  match s.sec.tests.find? fun x => x.id == n && x.st == 0 with
  | none => .next s
  | some x =>
    if !canTest s x.sectors x.kind then .next s
    else
      let m := failingIn x.sectors failing
      let s := if bit x.kind 1 then testedDown x.sectors s else s
      let s := putTest { x with st := if m = 0 then 1 else 2, failing := m, path := none } s
      let s := if m = 0 then record s 0xA401 info 0 n 0 0 else record s 0xA402 error 0 n 0 0
      match x.path with
      | none => .next s
      | some p => .next (mbNext (mbFinish p 0x00 4 [BitVec.ofNat 32 n] s))

/-- A self-test has waited ST_TIMEOUT. -/
def testLate (s : State) (x : SelfTest) : Bool := x.st == 0 && decide (x.since + 1000000 * atLeast1 s.stTimeout.toNat ≤ nsNow s)

/-- A self-test that has not started within ST_TIMEOUT (R400). -/
def execSelfTestTimeout (n : Nat) (s : State) : Out :=
  match s.sec.tests.find? fun x => x.id == n && x.st == 0 with
  | none => .next s
  | some x =>
    if !testLate s x then .next s
    else
      let s := record (putTest { x with st := 3, path := none } s) 0xA403 error 0 n 0 0
      match x.path with
      | none => .next s
      | some p => .next (mbNext (mbFinish p 0x08 0 [] s))

/-! ### Staged configuration (R398) -/

/-- CFG_COMMIT: the shadow becomes the pending set and the epoch rises; the units receive it in this cycle. -/
def commitShadow (s : State) : State :=
  let x := s.staging
  { s with staging := { x with pendingSet := x.shadow, epoch := x.epoch + 1, received := some (s.time.cycle, hubCycle s) } }

/-- A unit is at its first boundary strictly after receipt: a beat in a core region, a frame elsewhere, that starts in no cycle of the hub
cycle of the commit. -/
def cfgDue (s : State) (u : Fin 36) : Bool :=
  let x := s.staging
  x.reached[u] != x.epoch && (if 24 ≤ u.val then atBeat s else atFrame s) && match x.received with
    | none => false
    | some r => decide (r.1 < s.time.cycle) && r.2 != hubCycle s

/-- A unit applies the pending set at its first boundary strictly after receipt. -/
def execCfgApply (u : Fin 36) (s : State) : Out :=
  if !cfgDue s u then .next s
  else
    let x := s.staging
    let x := { x with unit := x.unit.set u x.pendingSet, reached := x.reached.set u x.epoch }
    let s := { s with staging := x }
    .next (if x.reached.all fun e => e == x.epoch then record s 0xA601 info 0 x.epoch.toNat 0 0 else s)

end Sys2Proof.Machine
end

