-- ==== Sys2Proof/Machine/Access.lean ====
section
/-! DEFINITION. Reading BAR0 (chapter 21): which offsets are registers (R402, R404), which answer (R405, R407), what each
register reads, the clearing reads (R8, R406), the latch of R7. -/

namespace Sys2Proof.Machine

/-! ### Codes -/

def taskStateN : TaskState → Nat
  | .free => 0
  | .loading => 1
  | .ready => 2
  | .running => 3
  | .preempting => 4
  | .preempted => 5
  | .ending => 6
  | .done => 7
  | .faulted => 8

def timeStateN : TimeState → Nat
  | .free => 0
  | .acquiring => 1
  | .locked => 2
  | .holdover => 3

def portStateN : PortState → Nat
  | .down => 0
  | .training => 1
  | .negotiating => 2
  | .up => 3
  | .retraining => 4
  | .failed => 5

def bagStateN : BagState → Nat
  | .empty => 0
  | .filling => 1
  | .committed => 2

def fwStateN : FwState → Nat
  | .booting => 0
  | .ready => 1
  | .recovery => 2

/-- A register word from its fields: (lowest bit, value). -/
def pack (fs : List (Nat × Nat)) : W32 := BitVec.ofNat 32 (fs.foldl (fun n f => n + f.2 * 2 ^ f.1) 0)

/-! ### Which offsets are registers (R402, R404) -/

/-- The offset lies in an array of `n` elements of `size` bytes from `base`; its element and the offset in it. -/
def inArray (base size n off : Nat) : Option (Fin 16 × Nat) :=
  if base ≤ off ∧ off < base + size * n then some (Fin.ofNat 16 ((off - base) / size), (off - base) % size) else none

/-- Registers that hold no writable field. -/
def readOnlyOffs : List Nat :=
  [0x0, 0x4, 0x8, 0xC, 0x10, 0x14, 0x18, 0x1C, 0x120,
   0x10204, 0x10208, 0x1020C, 0x10210, 0x10214, 0x10218, 0x1021C, 0x10224, 0x10818, 0x1081C, 0x10820, 0x10B1C, 0x10B20,
   0x10C00, 0x10C08, 0x10C10, 0x10C14, 0x10C18, 0x10C1C, 0x10C20, 0x10D04, 0x10D0C]
  ++ [0x100408, 0x10040C, 0x100410, 0x100414, 0x100418, 0x10041C, 0x100444, 0x100448, 0x10044C, 0x100450, 0x100454,
      0x100458, 0x10045C, 0x100484, 0x100488, 0x100490, 0x100494, 0x100498, 0x10049C, 0x100500, 0x100504, 0x10050C,
      0x100514, 0x100518, 0x10051C, 0x100524, 0x100528, 0x10052C, 0x100544, 0x100548, 0x10054C, 0x100550, 0x100580,
      0x100584, 0x100588, 0x100590, 0x100594, 0x100598, 0x10059C, 0x1005C4, 0x1005C8, 0x1005CC, 0x1005D0, 0x1005D4,
      0x1005D8, 0x1005DC, 0x100604, 0x100608, 0x100610, 0x100614, 0x10F004, 0x10F008]
  ++ [0x200000, 0x200004, 0x200008, 0x20000C, 0x200010, 0x200018, 0x20001C, 0x200020, 0x200100, 0x200104, 0x200108,
      0x20010C, 0x200140, 0x200144, 0x200148, 0x20014C, 0x200154, 0x200158, 0x20015C, 0x200160, 0x200200, 0x200204,
      0x200208, 0x20020C, 0x200210, 0x200214, 0x200218, 0x20021C]
  ++ [0x300004, 0x300008, 0x30000C, 0x300010, 0x300014, 0x30001C, 0x30F210, 0x30F214, 0x30F218, 0x30F21C, 0x30F220,
      0x30F224, 0x30F228, 0x30F22C, 0x30F230, 0x30F234, 0x30F238, 0x30F24C, 0x30F250]
  ++ [0x40000C, 0x400010, 0x400014, 0x400018, 0x40001C, 0x400028, 0x40002C, 0x400108, 0x40010C, 0x400110, 0x400114,
      0x400118, 0x540004, 0x540008, 0x54000C, 0x540010, 0x540014, 0x540018, 0x600004, 0x600008,
      0x700000, 0x700004, 0x700008, 0x700010, 0x700014, 0x700018, 0x70001C]

/-- Registers that hold a writable field. -/
def writableOffs : List Nat :=
  [0x100, 0x104, 0x108, 0x10C, 0x110, 0x10200, 0x10220, 0x10700, 0x10800, 0x10804, 0x10808, 0x1080C, 0x10810, 0x10814,
   0x10824, 0x10B00, 0x10B04, 0x10B08, 0x10B0C, 0x10B10, 0x10B14, 0x10B18, 0x10C04, 0x10C0C, 0x10D00, 0x10D08]
  ++ [0x100400, 0x100404, 0x100440, 0x100480, 0x10048C, 0x100508, 0x100510, 0x100520, 0x100540, 0x10058C, 0x1005A0,
      0x1005C0, 0x100600, 0x10060C, 0x10F000]
  ++ [0x200014, 0x200150, 0x20F000, 0x20F004, 0x20F008, 0x20F00C, 0x300000, 0x300018, 0x30F000, 0x30F004, 0x30F008,
      0x30F00C, 0x30F010, 0x30F014, 0x30F018, 0x30F200, 0x30F204, 0x30F208, 0x30F20C, 0x30F23C, 0x30F240, 0x30F244,
      0x30F248]
  ++ [0x400000, 0x400004, 0x400008, 0x400020, 0x400024, 0x400100, 0x400104, 0x540000, 0x54001C, 0x600000, 0x60000C,
      0x70000C, 0x700020]

/-- What an offset that is a multiple of 4 names: nothing, a register without a writable field, or one with. -/
def regKind (off : Nat) : Option Bool :=
  if writableOffs.contains off then some true
  else if readOnlyOffs.contains off then some false
  else match inArray 0x10100 8 16 off with
    | some (_, 0) => some false
    | some _ => some true
    | none =>
      match inArray 0x10300 32 16 off with
      | some (_, o) => if o = 0 then some true else some false
      | none =>
        match inArray 0x10500 32 16 off with
        | some (_, o) => if o < 16 then some false else if o < 28 then some true else none
        | none =>
          if 0x10A00 ≤ off ∧ off < 0x10A40 then some true
          else if 0x30F100 ≤ off ∧ off < 0x30F180 then some true
          else if 0x500000 ≤ off ∧ off < 0x540000 then some false
          else if 0x601000 ≤ off ∧ off < 0x602000 then some true
          else none

/-- The low half of the 64-bit pair whose high half lies at `off` (R7). -/
def pairLows : List Nat :=
  [0x4, 0x1020C, 0x10808, 0x10810, 0x10B04, 0x10B0C, 0x100450, 0x100458, 0x100490, 0x100498, 0x100524, 0x200018, 0x200154,
   0x200200, 0x30F014, 0x30F208, 0x30F210, 0x30F218, 0x400010, 0x400018, 0x700000]

def isPairLow (off : Nat) : Bool :=
  pairLows.contains off
  || (match inArray 0x10300 32 16 off with
      | some (_, o) => o == 16
      | none => false)
  || (match inArray 0x10500 32 16 off with
      | some (_, o) => o == 16
      | none => false)

/-! ### Which blocks answer (R405, R407) -/

/-- The registers that set up a queue and its doorbells, which take the submissions made before READY (R386, log 123). -/
def queueReg (off : Nat) : Bool := (decide (0x10A00 ≤ off) && decide (off < 0x10A40)) || (decide (0x10B00 ≤ off) && decide (off < 0x10B24))

/-- The block at an offset answers in the device's state. -/
def answers (s : State) (off : Nat) : Bool :=
  let always := decide (off < 0x10000) || (decide (0x500000 ≤ off) && decide (off < 0x800000))
  (s.sec.fw == .ready || always || (s.sec.fw == .booting && queueReg off))
  && (!s.power.shutdown || always || decide (off < 0x100000) || (decide (0x400000 ≤ off) && decide (off < 0x400030)))

/-- The mailbox registers, from 0x600000 to 0x601FFC, serve only HOST (R407). -/
def served (r : Req) (off : Nat) : Bool := r == .host || off < 0x600000 || 0x602000 ≤ off

/-- What a select register stands before. -/
inductive Behind where
  | core | stack | lookup | port | region | unit | none
deriving DecidableEq, Repr

def behind (off : Nat) : Behind :=
  if 0x100000 ≤ off ∧ off < 0x10F000 then .core
  else if 0x200000 ≤ off ∧ off < 0x200200 then .stack
  else if 0x200200 ≤ off ∧ off < 0x200300 then .lookup
  else if 0x300000 ≤ off ∧ off < 0x300020 then .port
  else if 0x400100 ≤ off ∧ off < 0x400120 then .region
  else if off = 0x10D0C then .unit
  else .none

/-- The select value names a unit (R14). -/
def selValid (x : ReqCopy) (off : Nat) : Bool := match behind off with
  | .core => decide (x.coreSel.toNat < 144)
  | .stack => decide (x.stackSel.toNat < 12)
  | .lookup => decide (x.lkupSel.toNat < 12)
  | .port => true
  | .region => decide (x.regionSel.toNat < 29)
  | .unit => decide (x.unitSel.toNat < 36)
  | .none => true

/-- The units that select registers name. -/
def ReqCopy.core (x : ReqCopy) : CoreIx := Fin.ofNat 144 x.coreSel.toNat
def ReqCopy.stack (x : ReqCopy) : SecIx := Fin.ofNat 12 x.stackSel.toNat
def ReqCopy.lookup (x : ReqCopy) : SecIx := Fin.ofNat 12 x.lkupSel.toNat
def ReqCopy.port (x : ReqCopy) : Fin 8 := Fin.ofNat 8 x.portSel.toNat
def ReqCopy.region (x : ReqCopy) : Fin 29 := Fin.ofNat 29 x.regionSel.toNat
def ReqCopy.unit (x : ReqCopy) : Fin 36 := Fin.ofNat 36 x.unitSel.toNat
def ReqCopy.queue (x : ReqCopy) : Fin 8 := Fin.ofNat 8 x.queueSel.toNat
def ReqCopy.comp (x : ReqCopy) : Fin 8 := Fin.ofNat 8 x.rhSel.toNat
def ReqCopy.ctx (x : ReqCopy) : CtxIx := Fin.ofNat 4 x.ctxSel.toNat
def ReqCopy.win (x : ReqCopy) : Fin 8 := Fin.ofNat 8 x.winSel.toNat
def ReqCopy.stream (x : ReqCopy) : Fin 32 := Fin.ofNat 32 x.streamSel.toNat
def ReqCopy.gctr (x : ReqCopy) : Fin 4096 := Fin.ofNat 4096 x.gctrSel.toNat

/-- The clock region of the quadrant that holds a link port: Qk holds ports 2k and 2k + 1 (R357). -/
def quadOf (p : Fin 8) : Fin 29 := ⟨24 + p.val / 2, by omega⟩

def coreRegion (p : SecIx) : Fin 29 := ⟨p.val, by omega⟩

/-- The selected unit's clock runs (R405). -/
def unitLive (s : State) (x : ReqCopy) (off : Nat) : Bool := match behind off with
  | .core => !s.regions[coreRegion (sectorOf x.core)].lostLock
  | .stack => !s.regions[portRegion x.stack].lostLock
  | .lookup => !s.regions[portRegion x.lookup].lostLock
  | .port => !s.regions[quadOf x.port].lostLock
  | .region => !s.regions[x.region].lostLock
  | _ => true

/-- An offset behind a select register whose unit has lost its clock does not answer (R405). -/
def deadUnit (s : State) (r : Req) (off : Nat) : Bool := let x := reqCopy s r; selValid x off && !unitLive s x off

/-- An offset answers to a requester: its block does, it serves it, and the unit it lies behind runs. -/
def awake (s : State) (r : Req) (off : Nat) : Bool := answers s off && served r off && !deadUnit s r off

/-- The host's writes are discarded from a hot reset until its link is up again (R315). -/
def discards (s : State) (r : Req) : Bool := r == .host && s.cxl.inReset

/-! ### What registers read -/

def peekIdentity (r : Req) (x : ReqCopy) (off : Nat) (s : State) : W32 :=
  if off = 0x0 then pack [(0, 0x0303), (16, b2n s.sec.stepping)]
  else if off = 0x4 then loW s.sec.idn
  else if off = 0x8 then hiW s.sec.idn
  else if off = 0xC then 0x00010203
  else if off = 0x10 then pack [(0, 1), (1, b2n (s.sec.stepping && !s.staging.profileInForce)), (8, 3), (16, 3), (24, 1)]
  else if off = 0x14 then 2
  else if off = 0x18 then 0x00008C90
  else if off = 0x1C then pack [(0, s.sec.build.toNat), (8, s.sec.minor.toNat), (16, s.sec.major.toNat)]
  else if off = 0x100 then x.coreSel.setWidth 32
  else if off = 0x104 then x.stackSel.setWidth 32
  else if off = 0x108 then x.lkupSel.setWidth 32
  else if off = 0x10C then x.portSel.setWidth 32
  else if off = 0x110 then x.regionSel.setWidth 32
  else if off = 0x120 then BitVec.ofNat 32 (reqNumber r)
  else 0

/-- Registers of a task slot, its command list and its stash. -/
def peekTask (T : Task) (o : Nat) : W32 :=
  if o = 0 then pack [(0, taskStateN T.st), (8, T.sectors.toNat)]
  else pack [(0, if T.st = .faulted then T.reason.toNat else 0)]

/-- q of the next entry to post: of those that wait in the stages' queues the lowest, else the head (log 106). -/
def CmdList.nextPost (x : CmdList) : W32 :=
  x.waitingQ.foldl (fun a e => if 0 < (a - e.1).toInt then e.1 else a) x.head

def peekCmd (x : CmdList) (o : Nat) : W32 :=
  if o = 0 then x.tail
  else if o = 4 then x.nextPost
  else if o = 8 then x.done
  else if o = 12 then pack [(0, b2n x.stopped), (1, x.stage0.phase.toNat), (3, x.stage1.phase.toNat)]
  else if o = 16 then loW x.cmplBase
  else if o = 20 then hiW x.cmplBase
  else if o = 24 then x.lastStatus.setWidth 32
  else if o = 28 then BitVec.ofNat 32 x.n
  else 0

def peekStash (x : Stash) (o : Nat) : W32 :=
  if o = 0 then BitVec.ofNat 32 x.pages.length
  else if o = 4 then x.hwm.setWidth 32
  else if o = 8 then BitVec.ofNat 32 x.ovf.length
  else if o = 12 then match x.held with
    | [] => 0
    | h :: _ => pack [(0, 1), (1, h.sid)]
  else if o = 16 then loW x.ovfBase
  else if o = 20 then hiW x.ovfBase
  else if o = 24 then x.ovfLimit.setWidth 32
  else 0

def peekGctr (x : GCounter) (off : Nat) : W32 :=
  if off = 0x10204 then pack [(0, x.value.toNat), (24, b2n x.armed), (25, b2n x.timed), (26, b2n x.rearm),
    (27, b2n (!x.releases.isEmpty)), (28, b2n x.ftSet)]
  else if off = 0x10208 then pack [(0, x.expect.toNat), (24, x.rctr.toNat)]
  else if off = 0x1020C then loW x.relFt
  else if off = 0x10210 then hiW x.relFt
  else match x.holder with
    | some t => pack [(0, t.val), (4, 1)]
    | none => 0

def peekRhaor (x : Rhaor) (off : Nat) : W32 :=
  if off = 0x10804 then pack [(0, b2n x.enable), (1, b2n x.versionOk)]
  else if off = 0x10808 then loW x.queue
  else if off = 0x1080C then hiW x.queue
  else if off = 0x10810 then loW x.cmpl
  else if off = 0x10814 then hiW x.cmpl
  else if off = 0x10818 then x.tags.foldl (fun m t => setBit m t.tag true) 0
  else if off = 0x1081C then x.errCount
  else if off = 0x10820 then x.stray
  else x.timeout.setWidth 32

def peekQueue (x : Queue) (off : Nat) : W32 :=
  if off = 0x10B04 then loW x.sqBase
  else if off = 0x10B08 then hiW x.sqBase
  else if off = 0x10B0C then loW x.cqBase
  else if off = 0x10B10 then hiW x.cqBase
  else if off = 0x10B14 then pack [(0, x.sqSize.toNat), (16, x.cqSize.toNat)]
  else if off = 0x10B18 then pack [(0, b2n x.enable), (1, b2n x.full), (2, b2n x.error)]
  else if off = 0x10B1C then pack [(0, x.sqHead.toNat), (16, x.cqTail.toNat), (28, b2n x.phase)]
  else x.fullCount

def peekCxl (s : State) (off : Nat) : W32 :=
  let x := s.cxl
  if off = 0x10C00 then pack [(0, b2n x.linkUp), (1, x.width.toNat), (6, x.rate.toNat), (9, x.flit.toNat), (11, b2n x.cacheEn),
    (12, b2n x.memEn), (13, b2n x.uioEn), (14, b2n x.biEn), (15, b2n x.ide)]
  else if off = 0x10C04 then pack [(0, x.hdmBase.toNat), (16, x.hdmSize.toNat)]
  else if off = 0x10C08 then pack [(0, x.slowLat.toNat), (16, x.uioLat.toNat)]
  else if off = 0x10C0C then pack [(0, x.timeout.toNat), (16, bitsOf (cfgOf s 20).memHorizon 0 16)]
  else if off = 0x10C10 then x.cacheErr
  else if off = 0x10C14 then x.uioErr
  else if off = 0x10C18 then x.poisonOut
  else if off = 0x10C1C then x.bisnp
  else x.sfEvict

def peekHub (x : ReqCopy) (off : Nat) (s : State) : W32 :=
  match inArray 0x10100 8 16 off, inArray 0x10300 32 16 off, inArray 0x10500 32 16 off, inArray 0x10A00 8 8 off with
  | some (t, o), _, _, _ => peekTask s.tasks[t] o
  | _, some (t, o), _, _ => peekCmd s.tasks[t].cmd o
  | _, _, some (t, o), _ => peekStash s.tasks[t].stash o
  | _, _, _, some (i, o) =>
    let q := s.queues[(Fin.ofNat 8 i.val)]
    if o = 0 then q.sqTail.setWidth 32 else q.cqHead.setWidth 32
  | none, none, none, none =>
    if off = 0x10200 then x.gctrSel.setWidth 32
    else if off < 0x10218 then peekGctr (gget s x.gctr) off
    else if off = 0x10218 then s.gregs.dropped
    else if off = 0x1021C then s.gregs.govf
    else if off = 0x10220 then (cfgOf s 21).skew
    else if off = 0x10224 then s.gregs.releases
    else if off = 0x10700 then s.stashTimeout.setWidth 32
    else if off = 0x10800 then x.rhSel.setWidth 32
    else if off < 0x10828 then peekRhaor s.rhaor[x.comp] off
    else if off = 0x10B00 then x.queueSel.setWidth 32
    else if off < 0x10B24 then peekQueue s.queues[x.queue] off
    else if off < 0x10C24 then peekCxl s off
    else if off = 0x10D00 then pack [(1, b2n s.staging.profileLock)]
    else if off = 0x10D04 then s.staging.epoch.setWidth 32
    else if off = 0x10D08 then x.unitSel.setWidth 32
    else if off = 0x10D0C then s.staging.reached[x.unit].setWidth 32
    else 0

/-- The task that runs on a core. -/
def runningOn (s : State) (c : CoreIx) : Option SlotIx :=
  match s.cores[c].slot with
  | some t => if s.tasks[t].st == .running || s.tasks[t].st == .preempting || s.tasks[t].st == .ending then some t else none
  | none => none

def peekGirth (x : GirthRegs) (off : Nat) : W32 :=
  if off = 0x100400 then pack [(0, b2n x.tagCheck)]
  else if off = 0x100404 then pack [(0, b2n x.tagFault), (1, b2n x.slotFault), (4, x.reason.toNat)]
  else if off = 0x100408 then x.faultCycle
  else if off = 0x10040C then x.expect.setWidth 32
  else if off = 0x100410 then (x.expect >>> 32).setWidth 32
  else if off = 0x100414 then x.observed.setWidth 32
  else if off = 0x100418 then pack [(0, x.observed.toNat / 2 ^ 32), (16, b2n x.lane), (17, b2n x.empty)]
  else x.mismatch

def peekArray (x : ArrayState) (off : Nat) : W32 :=
  if off = 0x100440 then pack [(0, b2n x.fault), (4, x.reason.toNat), (8, b2n x.faultAcc)]
  else if off = 0x100444 then x.faultCycle
  else if off = 0x100448 then pack [(0, accStateN x.stA), (2, accStateN x.stB), (4, b2n x.poisonA), (5, b2n x.poisonB),
    (8, shapeN x.shape), (16, x.fmt.toNat)]
  else if off = 0x10044C then x.faultCount
  else if off = 0x100450 then loW x.issue
  else if off = 0x100454 then hiW x.issue
  else if off = 0x100458 then loW x.useful
  else hiW x.useful

def peekCtx (k : Ctx) (x : ReqCopy) (off : Nat) : W32 :=
  if off = 0x10050C then k.pc.setWidth 32
  else if off = 0x100510 then pack [(0, k.cause.toNat), (8, b2n k.faulted), (16, k.info.toNat)]
  else if off = 0x100514 then k.faultPc.setWidth 32
  else if off = 0x100518 then pack [(0, waitKindN k.kind), (8, k.waitObj.toNat), (16, k.waitN.toNat)]
  else if off = 0x10051C then k.faultCount
  else if off = 0x100520 then x.sregIdx.setWidth 32
  else if off = 0x100524 then loW k.s[x.sregIdx.toFin]
  else hiW k.s[x.sregIdx.toFin]

def peekTimed (x : TimedRegs) (off : Nat) : W32 :=
  if off = 0x100540 then pack [(0, b2n x.fault), (4, x.bank.toNat), (9, x.loser.toNat)]
  else if off = 0x100544 then x.faultCycle
  else if off = 0x100548 then x.conflicts
  else pack [(0, x.bundle.toNat), (12, x.depth.toNat), (16, x.digest.toNat)]

/-- The state a window shows: OPEN and CLOSING from the cycle after they were set (R178, R183). -/
def Window.shown (v : Window) (now : Nat) : WinState := match v.st with
  | .open_ => if now < v.openAt then .closed else .open_
  | .closing => if now < v.closingAt then .open_ else .closing
  | .closed => .closed

def peekWindow (now : Nat) (v : Window) (w : WinRegs) (off : Nat) : W32 :=
  if off = 0x100590 then pack [(0, winStateN (v.shown now)), (2, v.writer.toNat), (4, v.epoch.toNat), (12, v.ctr.toNat), (20, v.doneCtr.toNat)]
  else if off = 0x100594 then pack [(0, v.base), (16, if v.st = .closed then 0 else v.len)]
  else if off = 0x100598 then v.writes
  else if off = 0x10059C then v.rejects
  else pack [(0, b2n w.fault), (4, w.reason.toNat), (8, w.num.toNat), (11, b2n w.side), (16, w.offset.toNat)]

def peekStream (t : Stream) (off : Nat) : W32 :=
  if off = 0x1005C4 then pack [(0, slotStateN t.st), (2, if t.st = .unconfigured then 0 else t.d.kind.toNat % 4), (4, b2n t.d.rt),
    (5, b2n t.cur), (6, b2n t.pendA), (7, b2n t.pendB), (8, b2n t.missed)]
  else if off = 0x1005C8 then BitVec.ofNat 32 t.fills
  else if off = 0x1005CC then BitVec.ofNat 32 t.rows
  else if off = 0x1005D0 then t.missCount
  else if off = 0x1005D4 then t.lateCount
  else t.errCount

def peekCounter (q : Counter) (off : Nat) : W32 :=
  if off = 0x100604 then pack [(0, q.value.toNat), (16, q.limit.toNat)]
  else
    let head := match q.queue with
      | [] => 0
      | w :: _ => w.ctx.val
    pack [(0, (q.queue.foldl (fun (m : BitVec 4) w => setBit m w.ctx.val true) 0).toNat), (8, head)]

/-- The profile of the running task's binary, and whether B0 pads a profile 3.0 task (R166); 0 with no task. -/
def peekProfile (c : CoreIx) (s : State) : W32 :=
  match runningOn s c with
  | some t => pack [(0, s.tasks[t].hdr.profile.toNat), (8, b2n (s.sec.stepping && s.tasks[t].hdr.profile == 0x30))]
  | none => 0

def peekCore (x : ReqCopy) (off : Nat) (s : State) : W32 :=
  let c := s.cores[x.core]
  let k := c.ctx[x.ctx]
  let sr := c.ctx[(Fin.ofNat 4 x.srCtx.toNat)]
  if off < 0x100420 then peekGirth c.girth off
  else if off < 0x100460 then peekArray c.array off
  else if off = 0x100480 then pack ((List.finRange 4).map fun i => (4 * i.val, c.ctx[i].vflags.toNat))
  else if off = 0x100484 then c.qsat
  else if off = 0x100488 then c.qnan
  else if off = 0x10048C then x.srCtx.setWidth 32
  else if off = 0x100490 then loW sr.seed
  else if off = 0x100494 then hiW sr.seed
  else if off = 0x100498 then loW sr.sctr
  else if off = 0x10049C then hiW sr.sctr
  else if off = 0x100500 then match runningOn s x.core with
    | some t => pack [(0, t.val), (4, 1), (5, b2n c.blk.isSome), (6, b2n c.pend.isSome), (7, 1)]
    | none => pack [(5, b2n c.blk.isSome), (6, b2n c.pend.isSome)]
  else if off = 0x100504 then pack ((List.finRange 4).map fun i => (4 * i.val, ctxStateN c.ctx[i].st))
  else if off = 0x100508 then x.ctxSel.setWidth 32
  else if off < 0x10052C then peekCtx k x off
  else if off = 0x10052C then c.timed.blockCycles
  else if off = 0x10054C then peekProfile x.core s
  else if off < 0x100554 then peekTimed c.timed off
  else if off = 0x100580 then pack [(0, c.sp.powered.toNat), (6, c.sp.clearing.toNat)]
  else if off = 0x100584 then c.sp.corrCount
  else if off = 0x100588 then c.sp.uncorrCount
  else if off = 0x10058C then x.winSel.setWidth 32
  else if off < 0x1005A4 then peekWindow s.time.cycle c.windows[x.win] c.winRegs off
  else if off = 0x1005C0 then x.streamSel.setWidth 32
  else if off = 0x1005DC then BitVec.ofNat 32 c.outstanding
  else if off < 0x1005DC then peekStream c.streams[x.stream] off
  else if off = 0x100600 then x.ctrSel.setWidth 32
  else if off < 0x10060C then peekCounter (c.counter x.ctrSel) off
  else if off = 0x10060C then pack [(0, b2n c.ctrRegs.drift), (8, c.ctrRegs.driftCtr.toNat), (16, c.ctrRegs.driftValue.toNat)]
  else if off = 0x100610 then c.ctrRegs.driftCount.setWidth 32
  else if off = 0x100614 then c.ctrRegs.ovfDiscards
  else if off = 0x10F000 then s.buckleNext.setWidth 32
  else if off = 0x10F004 then
    let n := ((List.range 12).filter fun i => bit s.buckle i).length
    pack [(0, s.buckle.toNat), (16, max 1 n), (20, b2n (s.buckle == 0))]
  else if off = 0x10F008 then s.xingAlarm.setWidth 32
  else 0

/-- BUSY of a lookup engine: it runs a LOOKUP, whose turn it is, or a combine (R263, R282). -/
def lookupBusy (s : State) : Bool := (List.finRange 16).any fun t => s.tasks[t].cmd.posted.any fun e =>
  (Entry.op e.words == 4 || Entry.op e.words == 5) && !e.finished
  && (running s (entryKey t e.q) || (Entry.op e.words == 4 && e.status.isNone && engineTurn s e))

def peekStack (x : ReqCopy) (off : Nat) (s : State) : W32 :=
  let p := s.ports[x.stack]
  let e := s.lookup[x.lookup]
  if off = 0x200000 then pack [(0, p.temp.toNat), (8, p.tempMax.toNat), (16, b2n p.refresh2x), (17, b2n p.throttle),
    (18, b2n (p.dramThrottle || p.marginHalf))]
  else if off = 0x200004 then p.ce
  else if off = 0x200008 then p.ue
  else if off = 0x20000C then p.poisonWrites
  else if off = 0x200010 then p.poisonReads
  else if off = 0x200014 then pack [(0, b2n p.ueLatched), (1, p.ueChannel.toNat)]
  else if off = 0x200018 then loW p.ueAddr
  else if off = 0x20001C then hiW p.ueAddr
  else if off = 0x200020 then p.scrubPasses
  else if off = 0x200100 then p.combined
  else if off = 0x200104 then p.combineFull
  else if off = 0x200108 then p.rtPromoted
  else if off = 0x20010C then p.forced
  else if off = 0x200140 then p.skew
  else if off = 0x200144 then p.adopt
  else if off = 0x200148 then p.poisonDiscard
  else if off = 0x20014C then p.partialDiscard
  else if off = 0x200150 then pack [(0, b2n p.skewLatched)]
  else if off = 0x200154 then loW p.skewAddr
  else if off = 0x200158 then hiW p.skewAddr
  else if off = 0x20015C then p.skewStored
  else if off = 0x200160 then p.skewIncoming
  else if off = 0x200200 then loW e.rows
  else if off = 0x200204 then hiW e.rows
  else if off = 0x200208 then e.merged
  else if off = 0x20020C then e.indexErr
  else if off = 0x200210 then e.poison
  else if off = 0x200214 then e.coRuns.setWidth 32
  else if off = 0x200218 then e.coPeak.setWidth 32
  else if off = 0x20021C then pack [(0, b2n (lookupBusy s))]
  else if off = 0x20F000 then (cfgOf s 21).arb
  else if off = 0x20F004 then (cfgOf s 21).policy
  else if off = 0x20F008 then (cfgOf s 21).horizon
  else if off = 0x20F00C then (cfgOf s 21).scrub
  else 0

def peekMirror (off : Nat) (s : State) : W32 :=
  let m := s.mir
  if off = 0x30F200 then m.partner.setWidth 32
  else if off = 0x30F204 then m.guest.setWidth 32
  else if off = 0x30F208 then loW m.partnerBag
  else if off = 0x30F20C then hiW m.partnerBag
  else if off = 0x30F210 then loW m.guestBag
  else if off = 0x30F214 then hiW m.guestBag
  else if off = 0x30F218 then loW m.homeBag
  else if off = 0x30F21C then hiW m.homeBag
  else if off = 0x30F220 then pack [(0, bagStateN m.home0), (2, bagStateN m.home1), (4, bagStateN m.guest0), (6, bagStateN m.guest1)]
  else if off = 0x30F224 then m.home0Step
  else if off = 0x30F228 then m.home1Step
  else if off = 0x30F22C then m.guest0Step
  else if off = 0x30F230 then m.guest1Step
  else if off = 0x30F234 then m.interval.setWidth 32
  else if off = 0x30F238 then m.base
  else if off = 0x30F23C then (cfgOf s 23).nextInterval
  else if off = 0x30F240 then (cfgOf s 23).nextBase
  else if off = 0x30F244 then pack [(0, bitsOf (cfgOf s 23).mirror 0 10), (10, m.verifyResult.toNat)]
  else if off = 0x30F248 then m.snapPrior
  else if off = 0x30F24C then m.lastCopy
  else m.heldNs

def peekLink (x : ReqCopy) (off : Nat) (s : State) : W32 :=
  let p := s.links[x.port]
  if off = 0x300000 then pack [(0, b2n p.enable), (1, portStateN p.st), (4, p.version.toNat), (6, p.width.toNat), (8, b2n p.hlMax2),
    (16, p.lanesOk.toNat)]
  else if off = 0x300004 then p.fecCorr
  else if off = 0x300008 then p.retryCount
  else if off = 0x30000C then p.retrains.setWidth 32
  else if off = 0x300010 then p.nakSent
  else if off = 0x300014 then p.nakRcvd
  else if off = 0x300018 then pack [(0, b2n p.viol), (8, p.violReason.toNat), (16, p.violType.toNat)]
  else if off = 0x30001C then p.violSrc
  else if off = 0x30F000 then s.net.coord.setWidth 32
  else if off = 0x30F004 then s.net.dims.setWidth 32
  else if off = 0x30F008 then (cfgOf s 21).express
  else if off = 0x30F00C then (cfgOf s 21).epoch
  else if off = 0x30F010 then (cfgOf s 21).timeouts
  else if off = 0x30F014 then (cfgOf s 22).collLo
  else if off = 0x30F018 then (cfgOf s 22).collHi
  else match inArray 0x30F100 8 16 off with
    | some (g, o) =>
      let y := s.net.groups[g]
      if o = 0 then pack [(0, y.origin.toNat), (31, b2n y.valid)] else y.extent.setWidth 32
    | none => peekMirror off s

def peekRegion (i : Fin 29) (off : Nat) (s : State) : W32 :=
  let x := s.regions[i]
  if off = 0x400100 then pack [(0, b2n x.locked), (1, b2n x.lostLock), (2, b2n x.tjWarned), (8, x.temp.toNat), (16, x.marginMin.toNat)]
  else if off = 0x400104 then pack [(0, x.warnTh.toNat), (8, x.alarmTh.toNat)]
  else if off = 0x400108 then x.warnCount
  else if off = 0x40010C then x.alarmCount
  else if off = 0x400110 then if 12 ≤ i.val ∧ i.val < 24 then x.stretchCount else 0
  else if off = 0x400114 then if 12 ≤ i.val ∧ i.val < 24 then x.stretchNs else 0
  else if h : i.val < 12 then
    let d := s.duty[(⟨i.val, h⟩ : SecIx)]
    pack [(0, d.dEff), (8, d.cause.toNat)]
  else 0

def peekPower (x : ReqCopy) (off : Nat) (s : State) : W32 :=
  let p := s.power
  if off = 0x400000 then pack [(0, p.coreStep.toNat), (4, p.nextCoreStep.toNat), (8, p.quadStep.toNat), (10, p.nextQuadStep.toNat),
    (12, b2n p.hubStep), (13, b2n p.nextHubStep)]
  else if off = 0x400004 then pack [(0, b2n p.modeNext), (1, b2n p.coefLoaded), (2, b2n p.fusedCoef), (3, p.dCap)]
  else if off = 0x400008 then p.tdpNext.setWidth 32
  else if off = 0x40000C then pack [(0, p.powerModel.toNat), (16, p.powerMeas.toNat)]
  else if off = 0x400010 then loW p.energy
  else if off = 0x400014 then hiW p.energy
  else if off = 0x400018 then loW p.ftStep
  else if off = 0x40001C then hiW p.ftStep
  else if off = 0x400020 then pack [(0, p.voltOffset.toNat), (5, b2n p.clamped), (16, railNow s)]
  else if off = 0x400024 then pack [(0, p.tjWarn.toNat), (8, p.shutdownCause.toNat)]
  else if off = 0x400028 then p.guardCount
  else if off = 0x40002C then p.detBreaks
  else peekRegion x.region off s

/-- Word `i` of a log entry (R376). -/
def eventWord (e : Event) (i : Nat) : W32 :=
  if i = 0 then BitVec.ofNat 32 e.ft
  else if i = 1 then BitVec.ofNat 32 (e.ft / 2 ^ 32)
  else if i = 2 then pack [(0, e.code.toNat), (16, e.sev.toNat), (18, timeStateN e.tst), (20, b2n e.held), (21, b2n e.summary),
    (24, e.unit.toNat)]
  else if i = 3 then e.seq
  else if i = 4 then loW e.arg0
  else if i = 5 then hiW e.arg0
  else if i = 6 then e.arg1
  else e.arg2

def peekRecorder (x : ReqCopy) (off : Nat) (s : State) : W32 :=
  let y := s.recorder
  if off < 0x540000 then eventWord (tget noEvent y.log ((off - 0x500000) / 32)) (off % 32 / 4)
  else if off = 0x540000 then pack [(1, b2n x.freeze), (2, b2n (frozen s)), (3, b2n y.armRefused), (4, y.held.length)]
  else if off = 0x540004 then BitVec.ofNat 32 y.filled
  else if off = 0x540008 then y.nextSeq
  else if off = 0x54000C then y.dropCount
  else if off = 0x540010 then y.queueDrop
  else if off = 0x540014 then y.suppressed
  else if off = 0x540018 then y.freezeCount
  else pack [(0, y.rlWindow.toNat), (16, y.rlRate.toNat), (24, y.rlBurst.toNat)]

def peekMailbox (off : Nat) (s : State) : W32 :=
  let m := s.mbHost
  if off = 0x600000 then pack [(0, m.opcode.toNat), (9, b2n m.busy), (16, m.argLen.toNat)]
  else if off = 0x600004 then pack [(0, m.status.toNat), (8, m.version.toNat), (16, m.resultLen.toNat)]
  else if off = 0x600008 then pack [(0, fwStateN s.sec.fw), (2, b2n (s.sec.signedFuse || s.sec.signedMode)), (3, b2n s.sec.fwSlot),
    (16, s.sec.svn.toNat)]
  else if off = 0x60000C then s.stTimeout
  else tget 0 m.data ((off - 0x601000) / 4)

def peekTime (off : Nat) (s : State) : W32 :=
  let t := s.time
  if off = 0x700000 then BitVec.ofNat 32 (ftNow s)
  else if off = 0x700004 then BitVec.ofNat 32 (ftNow s / 2 ^ 32)
  else if off = 0x700008 then pack [(0, timeStateN t.st), (2, b2n t.stepPending), (3, b2n t.isMaster), (4, t.depth.toNat),
    (16, t.errBound.toNat)]
  else if off = 0x70000C then pack [(0, t.prio.toNat), (8, b2n t.eligible)]
  else if off = 0x700010 then t.offset
  else if off = 0x700014 then t.trim
  else if off = 0x700018 then t.lateCount
  else if off = 0x70001C then t.upstream.setWidth 32
  else t.holdLimit.setWidth 32

/-- What a register reads, by region (R402). -/
def peek (r : Req) (off : Nat) (s : State) : W32 :=
  let x := reqCopy s r
  if off < 0x10000 then peekIdentity r x off s
  else if off < 0x100000 then peekHub x off s
  else if off < 0x200000 then peekCore x off s
  else if off < 0x300000 then peekStack x off s
  else if off < 0x400000 then peekLink x off s
  else if off < 0x500000 then peekPower x off s
  else if off < 0x600000 then peekRecorder x off s
  else if off < 0x700000 then peekMailbox off s
  else peekTime off s

/-! ### Reads that clear (R8) -/

def clearCore (x : ReqCopy) (off : Nat) (s : State) : State :=
  let m := modCore s x.core
  if off = 0x10041C then m fun c => { c with girth := { c.girth with mismatch := 0 } }
  else if off = 0x10044C then m fun c => { c with array := { c.array with faultCount := 0 } }
  else if off = 0x100484 then m fun c => { c with qsat := 0 }
  else if off = 0x100488 then m fun c => { c with qnan := 0 }
  else if off = 0x10051C then modCtx s x.core x.ctx fun k => { k with faultCount := 0 }
  else if off = 0x100548 then m fun c => { c with timed := { c.timed with conflicts := 0 } }
  else if off = 0x100584 then m fun c => { c with sp := { c.sp with corrCount := 0 } }
  else if off = 0x100588 then m fun c => { c with sp := { c.sp with uncorrCount := 0 } }
  else if off = 0x100598 then m fun c => c.modWindow x.win fun w => { w with writes := 0 }
  else if off = 0x10059C then m fun c => c.modWindow x.win fun w => { w with rejects := 0 }
  else if off = 0x1005D0 then m fun c => c.modStream x.stream fun t => { t with missCount := 0 }
  else if off = 0x1005D4 then m fun c => c.modStream x.stream fun t => { t with lateCount := 0 }
  else if off = 0x1005D8 then m fun c => c.modStream x.stream fun t => { t with errCount := 0 }
  else if off = 0x100614 then m fun c => { c with ctrRegs := { c.ctrRegs with ovfDiscards := 0 } }
  else s

def clearHub (x : ReqCopy) (off : Nat) (s : State) : State :=
  let rh := fun f : Rhaor → Rhaor => { s with rhaor := s.rhaor.set x.comp (f s.rhaor[x.comp]) }
  if off = 0x10218 then { s with gregs := { s.gregs with dropped := 0 } }
  else if off = 0x1021C then { s with gregs := { s.gregs with govf := 0 } }
  else if off = 0x10224 then { s with gregs := { s.gregs with releases := 0 } }
  else if off = 0x1081C then rh fun y => { y with errCount := 0 }
  else if off = 0x10820 then rh fun y => { y with stray := 0 }
  else if off = 0x10B20 then modQueue s x.queue fun q => { q with fullCount := 0 }
  else if off = 0x10C10 then { s with cxl := { s.cxl with cacheErr := 0 } }
  else if off = 0x10C14 then { s with cxl := { s.cxl with uioErr := 0 } }
  else if off = 0x10C18 then { s with cxl := { s.cxl with poisonOut := 0 } }
  else if off = 0x10C1C then { s with cxl := { s.cxl with bisnp := 0 } }
  else if off = 0x10C20 then { s with cxl := { s.cxl with sfEvict := 0 } }
  else s

def clearStack (x : ReqCopy) (off : Nat) (s : State) : State :=
  let m := modPort s x.stack
  let lk := fun f : LkEngine → LkEngine => { s with lookup := s.lookup.set x.lookup (f s.lookup[x.lookup]) }
  if off = 0x200004 then m fun p => { p with ce := 0 }
  else if off = 0x200008 then m fun p => { p with ue := 0 }
  else if off = 0x20000C then m fun p => { p with poisonWrites := 0 }
  else if off = 0x200010 then m fun p => { p with poisonReads := 0 }
  else if off = 0x200100 then m fun p => { p with combined := 0 }
  else if off = 0x200104 then m fun p => { p with combineFull := 0 }
  else if off = 0x200108 then m fun p => { p with rtPromoted := 0 }
  else if off = 0x20010C then m fun p => { p with forced := 0 }
  else if off = 0x200140 then m fun p => { p with skew := 0 }
  else if off = 0x200144 then m fun p => { p with adopt := 0 }
  else if off = 0x200148 then m fun p => { p with poisonDiscard := 0 }
  else if off = 0x20014C then m fun p => { p with partialDiscard := 0 }
  else if off = 0x200208 then lk fun e => { e with merged := 0 }
  else if off = 0x20020C then lk fun e => { e with indexErr := 0 }
  else if off = 0x200210 then lk fun e => { e with poison := 0 }
  else s

def clearLink (x : ReqCopy) (off : Nat) (s : State) : State :=
  let m := modLink s x.port
  if off = 0x300004 then m fun p => { p with fecCorr := 0 }
  else if off = 0x300008 then m fun p => { p with retryCount := 0 }
  else if off = 0x30000C then m fun p => { p with retrains := 0 }
  else if off = 0x300010 then m fun p => { p with nakSent := 0 }
  else if off = 0x300014 then m fun p => { p with nakRcvd := 0 }
  else if off = 0x30F250 then { s with mir := { s.mir with heldNs := 0 } }
  else s

def clearPower (x : ReqCopy) (off : Nat) (s : State) : State :=
  let m := modRegion s x.region
  if off = 0x400028 then { s with power := { s.power with guardCount := 0 } }
  else if off = 0x40002C then { s with power := { s.power with detBreaks := 0 } }
  else if off = 0x400108 then m fun r => { r with warnCount := 0 }
  else if off = 0x40010C then m fun r => { r with alarmCount := 0 }
  else if off = 0x400110 then m fun r => { r with stretchCount := 0 }
  else if off = 0x400114 then m fun r => { r with stretchNs := 0 }
  else s

def clearRecorder (off : Nat) (s : State) : State :=
  let m := fun f : Recorder → Recorder => { s with recorder := f s.recorder }
  if off = 0x54000C then m fun y => { y with dropCount := 0 }
  else if off = 0x540010 then m fun y => { y with queueDrop := 0 }
  else if off = 0x540014 then m fun y => { y with suppressed := 0 }
  else if off = 0x540018 then m fun y => { y with freezeCount := 0 }
  else s

/-- A read clears the rc fields of its register. -/
def clearRc (r : Req) (off : Nat) (s : State) : State :=
  let x := reqCopy s r
  if off < 0x10000 then s
  else if off < 0x100000 then clearHub x off s
  else if off < 0x200000 then clearCore x off s
  else if off < 0x300000 then clearStack x off s
  else if off < 0x400000 then clearLink x off s
  else if off < 0x500000 then clearPower x off s
  else if off < 0x600000 then clearRecorder off s
  else if off = 0x700018 then { s with time := { s.time with lateCount := 0 } }
  else s

/-! ### Reads (R403 to R407) -/

/-- TEMP keeps reporting for a region whose generator has lost lock or, in thermal shutdown, whose rails are removed: those of the
sectors and of their stack ports (R374, R405). -/
def tempStays (s : State) (x : ReqCopy) (off : Nat) : Bool :=
  off == 0x400100 && s.sec.fw == .ready && selValid x off
  && (s.regions[x.region].lostLock || (s.power.shutdown && decide (x.region.val < 24)))

/-- A read of one aligned word without the latch of R7. -/
def readLive (r : Req) (off : Nat) (s : State) : W32 × State :=
  let x := reqCopy s r
  if tempStays s x off then (s.regions[x.region].temp.setWidth 32 <<< 8, s)
  else if !answers s off || !served r off || (regKind off).isNone then (0, s)
  else if !selValid x off then (0, refuseAccess r 1 off s)
  else if !unitLive s x off then (0, s)
  else (peek r off s, clearRc r off s)

/-- A 32-bit read: a low half latches its high half, a high half whose pair is latched returns it (R7). A pair is known by its offset,
also where a select register has changed in between (DESIGN CHOICE, log 92). -/
def read32 (r : Req) (off : Nat) (s : State) : W32 × State :=
  if off % 4 != 0 then (0, s)
  else if isPairLow off then
    let hi := (readLive r (off + 4) s).1
    let q := readLive r off s
    (q.1, modReq q.2 r fun x => { x with latch := some (off, hi) })
  else match (reqCopy s r).latch with
    | some (lo, v) => if off = lo + 4 && awake s r off then (v, s) else readLive r off s
    | none => readLive r off s

/-- An aligned 64-bit read returns both words of one instant and leaves the latch (R7). -/
def read64 (r : Req) (off : Nat) (s : State) : W64 × State :=
  if off % 8 != 0 then (0, s)
  else
    let a := readLive r off s
    let b := readLive r (off + 4) a.2
    (BitVec.ofNat 64 (a.1.toNat + b.1.toNat * 2 ^ 32), b.2)

/-- A read of 1, 2, 4 or 8 bytes (R403): a short one reads the containing word and returns its bytes. -/
def readReg (r : Req) (off size : Nat) (s : State) : W64 × State :=
  if size = 8 then read64 r off s
  else if size = 4 then let q := read32 r off s; (q.1.setWidth 64, q.2)
  else if size = 2 ∧ off % 2 = 0 then
    let q := read32 r (off / 4 * 4) s
    (BitVec.ofNat 64 (q.1.toNat / 2 ^ (8 * (off % 4)) % 2 ^ 16), q.2)
  else if size = 1 then
    let q := read32 r (off / 4 * 4) s
    (BitVec.ofNat 64 (q.1.toNat / 2 ^ (8 * (off % 4)) % 2 ^ 8), q.2)
  else (0, s)

/-- A 32-bit read of the low half of a pair (R7), or of any other word. -/
def execLowHalfRead (r : Req) (off : W32) (s : State) : Out :=
  let q := read32 r off.toNat s
  .next (emit q.2 (.readData r (q.1.setWidth 64)))

/-- A read of a register with rc fields returns them and clears them (R406). -/
def execReadClear (r : Req) (off : W32) (size : Nat) (s : State) : Out :=
  let q := readReg r off.toNat size s
  .next (emit q.2 (.readData r q.1))

/-- BAR0 is 32 MiB (R402). -/
def barBytes : Nat := 2 ^ 25

/-- A register-access response of KIND 0x02 (R407). -/
def mctpAnswer (status : Byte) (off : W32) (data : W64) (s : State) : State := emit s (.mctp 0x02 status off data)

/-- An MCTP read of 32 bits: status 0 with the data, or BAD_OFFSET without an access (R407). -/
def execMgmtRead32 (off : W32) (s : State) : Out :=
  if off.toNat % 4 != 0 || decide (barBytes ≤ off.toNat) then .next (mctpAnswer 1 off 0 s)
  else
    let q := read32 .mgmt off.toNat s
    .next (mctpAnswer 0 off (q.1.setWidth 64) q.2)

def execMgmtRead64 (off : W32) (s : State) : Out :=
  if off.toNat % 8 != 0 || decide (barBytes ≤ off.toNat) then .next (mctpAnswer 1 off 0 s)
  else
    let q := read64 .mgmt off.toNat s
    .next (mctpAnswer 0 off q.1 q.2)

end Sys2Proof.Machine
end

