-- ==== Sys2Proof/Machine/Mirror.lean ====
section
/-! DEFINITION. The mirror engine (chapter 17): taking a snapshot (R339 to R346), restoring one (R349, R353), replay
verification (R351, R352) and the interval (R348); and RFENCE with the Rhaor companions' completions (R258, R260). -/

namespace Sys2Proof.Machine

/-! ### Slots (R339, R345) -/

/-- SADDLEBAG_BYTES / 2 of the task that owns the regions. -/
def slotSize (T : Task) : Nat := T.hdr.saddleBytes.toNat / 2

def homeState (m : Mirror) (one : Bool) : BagState := if one then m.home1 else m.home0
def homeStep (m : Mirror) (one : Bool) : W32 := if one then m.home1Step else m.home0Step
def setHome (one : Bool) (st : BagState) (step : W32) (m : Mirror) : Mirror :=
  if one then { m with home1 := st, home1Step := step } else { m with home0 := st, home0Step := step }

/-- The slot a snapshot writes: the one that does not hold the newest of the committed steps; slot 0 with none. -/
def otherSlot (a b : Option W32) : Bool :=
  match a, b with
  | none, _ => false
  | some _, none => true
  | some x, some y => decide (y.toNat ≤ x.toNat)

def committed (st : BagState) (step : W32) : Option W32 := if st = .committed then some step else none

/-- The offset of each section in a slot, and where the trailer lies: 4 KiB boundaries from 0x5000. -/
def slotLayout (ss : List Section) : List (Section × Nat) × Nat :=
  ss.foldl (fun acc x => (acc.1 ++ [(x, acc.2)], (acc.2 + x.len + 4095) / 4096 * 4096)) ([], 0x5000)

abbrev snapMagic : Nat := 0x47425348

/-- The 64 B header: the fields in the manual's order, 4 B each but FT and SADDLEBAG_BYTES, which have 8 (log 19). -/
def slotHeader (s : State) (T : Task) (step : W32) (ft nsect : Nat) : List Byte :=
  padTo 64 (natLe 4 snapMagic ++ natLe 4 3 ++ natLe 4 step.toNat ++ natLe 8 ft ++ natLe 4 (ownAddr s).toNat
    ++ natLe 4 (groupAt s 0).count ++ natLe 4 nsect ++ natLe 8 T.hdr.saddleBytes.toNat)

/-- The 2,048 B section table. -/
def slotTable (ss : List (Section × Nat)) : List Byte :=
  padTo 2048 (ss.flatMap fun x => natLe 1 x.1.kind ++ List.replicate 7 0 ++ natLe 8 x.1.addr ++ natLe 8 x.1.len ++ natLe 8 x.2)

/-- The seeds of every enabled context, by core index (R343, R345). -/
def slotSeeds (s : State) (T : Task) : List Byte :=
  padTo 9216 (T.cores.flatMap fun c => (List.finRange 4).flatMap fun k =>
    let x := match T.saved.find? fun r => r.core == c with
      | some r => r.ctx[k]
      | none => s.cores[c].ctx[k]
    if bit T.hdr.contexts k.val then natLe 8 x.seed.toNat ++ natLe 8 x.sctr.toNat else List.replicate 16 0)

/-! ### Taking a snapshot -/

/-- INTERVAL and BASE at a SNAPSHOT of `step`: a pending pair replaces them once STEP reaches NEXT_BASE (R342). -/
def takeInterval (step : W32) (s : State) : State :=
  let n := bitsOf (cfgOf s 23).nextInterval 0 24
  let b := (cfgOf s 23).nextBase
  if n != 0 && decide (b.toNat ≤ step.toNat) then
    { s with mir := { s.mir with interval := BitVec.ofNat 24 n, base := b } }
  else s

def snapDue (m : Mirror) (step : W32) : Bool :=
  m.interval != 0 && decide (m.base.toNat ≤ step.toNat) && (step.toNat - m.base.toNat) % m.interval.toNat == 0

/-- The first SNAPSHOT of the task that holds the regions takes one: what an earlier task left in them counts as EMPTY (R339; log 20). -/
def beginTake (s : State) : State :=
  if !s.mir.fresh then s
  else
    let m := if s.mir.guestFresh then s.mir.emptyHome.emptyGuest else s.mir.emptyHome
    { s with mir := { m with fresh := false, guestFresh := false } }

/-- A take-mode SNAPSHOT that the engine may now begin (R346). -/
def canTake (s : State) (e : Posted) : Bool :=
  Entry.op e.words == 8 && !bit e.words[4] 8 && !e.finished && e.status.isNone && engineTurn s e && s.mir.take.isNone && s.mir.restore.isNone

/-- SNAPSHOT in take mode: NOT_DUE or RHAOR_PENDING at once, else it waits for its capture. -/
def execSnapshot (t : SlotIx) (q : W32) (s : State) : Out :=
  match openEntry s t q 8 with
  | none => .next s
  | some e =>
    let w : Entry := e.words
    if !canTake s e then .next s
    else
      let s := takeInterval w.step (beginTake s)
      if e.rhaor then .next (answerEntry t q 0x20 s)
      else if !(bit w[4] 9 || snapDue s.mir w.step) then .next (answerEntry t q 0x01 s)
      else
        let m := s.mir
        let run : SnapRun :=
          { slot := t, q := q, step := w.step, captured := false, captureFt := 0
            homeSlot := otherSlot (committed m.home0 m.home0Step) (committed m.home1 m.home1Step)
            bagSlot := otherSlot m.bag0Step m.bag1Step, homeSent := false, homeDone := false, bagDone := false
            bagFailed := m.partnerBag == 0, trailerSent := false, tags := [], seg := 0, total := 0, unread := [] }
        .next { s with mir := { m with take := some run } }

/-- Where the home slot of a snapshot lies. -/
def homeBase (s : State) (run : SnapRun) : Nat := s.mir.homeBag.toNat + slotSize s.tasks[run.slot] * b2n run.homeSlot

def putTake (run : SnapRun) (s : State) : State := { s with mir := { s.mir with take := some run } }

/-- Sends `bs` to the partner's slot from offset `o` on, in MIRROR segments; the tags used, none where the partner cannot be
reached, or the next port allows no segment of that length (R329, R340, R344; the event's severity, log 2). -/
def mirrorSend (run : SnapRun) (commit : Bool) (o : Nat) (bs : List Byte) (s : State) : Option (List (W16 × Nat)) × State :=
  let unit := if bit (cfgOf s 23).express 8 then 256 else 1024
  (List.range ((bs.length + unit - 1) / unit)).foldl (fun acc i =>
    match acc.1 with
    | none => acc
    | some tags =>
      let s := acc.2
      let part := (bs.drop (unit * i)).take unit
      let k := packet s 7 (s.mir.partner.setWidth 32) s.net.nextTag
      let k := { k with len := BitVec.ofNat 16 part.length, addr := BitVec.ofNat 64 (o + unit * i)
                        segno := BitVec.ofNat 32 (run.seg + i), payload := part
                        arg := BitVec.ofNat 64 (run.step.toNat + 2 ^ 32 * b2n run.bagSlot + 2 ^ 33 * b2n commit) }
      let s := { s with net := { s.net with nextTag := s.net.nextTag + 1 } }
      if (routePort s k.dest.toNat false).any fun o => !s.links[o].allows k then
        let sev := Config.free 2 s.freeCtr
        (none, record { s with freeCtr := s.freeCtr + 1 } 0x5003 sev 0 0 k.src.toNat 7)
      else match sendPacket k s with
      | none => (none, s)
      | some s => (some (tags ++ [(k.tag, s.time.cycle)]), s)) (some [], s)

/-- One piece of the snapshot, at an offset of the slot, to the home slot and to the partner. -/
def copyPiece (o : Nat) (bs : List Byte) (acc : SnapRun × State) : SnapRun × State :=
  let s := devWrite (homeBase acc.2 acc.1 + o) bs false acc.2
  if acc.1.bagFailed then (acc.1, s)
  else
    let r := mirrorSend acc.1 false o bs s
    match r.1 with
    | none => ({ acc.1 with bagFailed := true }, r.2)
    | some ts => ({ acc.1 with tags := acc.1.tags ++ ts, seg := acc.1.seg + ts.length }, r.2)

def endSnapshot (run : SnapRun) (status : Byte) (s : State) : State :=
  answerEntry run.slot run.q status { s with mir := { s.mir with take := none } }

/-- A snapshot entry whose two copies are settled completes with OK or PARTIAL (R346). -/
def settleSnapshot (run : SnapRun) (s : State) : State :=
  if run.homeDone && (run.bagDone || run.bagFailed) then
    endSnapshot run (if run.bagDone then 0 else 0x22) s
  else putTake run s

/-- LAST_COPY_NS at the commit of a copy: the time since the capture (register table of chapter 17). -/
def noteCopy (run : SnapRun) (s : State) : State :=
  { s with mir := { s.mir with lastCopy := BitVec.ofNat 32 (min 0xFFFFFFFF (nsNow s - run.captureFt)) } }

/-- No block of the task is running (R343). -/
def noBlock (s : State) (t : SlotIx) : Bool :=
  s.tasks[t].cores.all fun c => s.cores[c].slot != some t || s.cores[c].blk.isNone

/-- The capture's work: the header, the section table and the seeds go out; the sections stay to be read, and
writes to them are held until they are (R343 to R345, log 20). The section list is the one that the sequencer read (R226). -/
def captureWork (run : SnapRun) (e : Posted) (s : State) : State :=
  let T := s.tasks[run.slot]
  let lay := slotLayout e.list
  if slotSize T < lay.2 + 64 then endSnapshot run 0x24 s
  else
    let ft := ftNow s
    let s := { s with mir := { setHome run.homeSlot .filling run.step s.mir with tookNow := true } }
    let s := { s with mir := if run.bagSlot then { s.mir with bag1Step := none } else { s.mir with bag0Step := none } }
    let run := { run with captured := true, captureFt := nsNow s, total := lay.2, unread := lay.1.map fun x => (x.1.addr, x.1.len, x.2) }
    let start := copyPiece 0 (slotHeader s T run.step ft lay.1.length ++ slotTable lay.1) (run, s)
    let r := copyPiece 0x1000 (slotSeeds s T) start
    putTake r.1 r.2

/-- The posted entry of the running snapshot, while its capture is still to be made. -/
def captureEntry (s : State) : Option (SnapRun × Posted) :=
  match s.mir.take with
  | none => none
  | some run =>
    if run.captured then none else (s.tasks[run.slot].cmd.posted.find? fun e => e.q == run.q).map fun e => (run, e)

/-- The capture may be made in this cycle. -/
def captureNow (s : State) (run : SnapRun) : Bool := atFrame s && noBlock s run.slot

def execSnapshotCapture (s : State) : Out :=
  match captureEntry s with
  | none => .next s
  | some (run, e) =>
    engineRun (entryKey run.slot run.q) (some run.slot) Rank.open_ (captureNow s run) (captureWork run e) s

/-- The section of the first poisoned part that was to be read. -/
def poisonSource (s : State) (us : List (Nat × Nat × Nat)) : Option Nat :=
  (us.find? fun u => seenPoison s u.1 u.2.1).map (·.1)

/-- The copy's work: every part is read once, in list order, and goes to the home slot and to the partner (R344); a poisoned source byte
ends the snapshot with neither copy committed (R346). -/
def copyWork (run : SnapRun) (s : State) : State :=
  let s := run.unread.foldl (fun s u => see u.1 u.2.1 s) s
  match poisonSource s run.unread with
  | some a => endSnapshot run 0x23 (record s 0x7123 error 0 a run.step.toNat 0)
  | none =>
    let r := run.unread.foldl (fun acc u => copyPiece u.2.2 (seen acc.2 u.1 u.2.1) acc) (run, s)
    putTake { r.1 with unread := [] } r.2

/-- The trailer of a slot. -/
def slotTrailer (run : SnapRun) (digest : BitVec 256) : List Byte :=
  padTo 64 (natLe 32 digest.toNat ++ natLe 8 run.total ++ natLe 4 run.step.toNat ++ natLe 4 snapMagic)

/-- The home slot once all its bytes are visible: its trailer leaves; once that is visible too, the slot is COMMITTED (R344). -/
def commitHome (run : SnapRun) (digest : BitVec 256) (s : State) : Out :=
  let key := entryKey run.slot run.q
  if run.homeDone || running s key then .next s
  else if run.homeSent then
    .next (settleSnapshot { run with homeDone := true } (noteCopy run { s with mir := setHome run.homeSlot .committed run.step s.mir }))
  else engineRun key (some run.slot) Rank.open_ true (fun s =>
    putTake { run with homeSent := true } (devWrite (homeBase s run + run.total) (slotTrailer run digest) false s)) s

/-- The saddlebag once every earlier RESP is in: its trailer leaves in a packet with COMMIT (R344). -/
def commitBag (run : SnapRun) (digest : BitVec 256) (s : State) : Out :=
  if run.trailerSent || run.bagFailed || !run.tags.isEmpty then .next s
  else
    let r := mirrorSend run true run.total (slotTrailer run digest) s
    match r.1 with
    | none => .next (settleSnapshot { run with bagFailed := true } r.2)
    | some ts => .next (putTake { run with trailerSent := true, tags := ts, seg := run.seg + ts.length } r.2)

/-- SNAPSHOT_COMMIT carries a copy on: what is still unread is read and copied, then the trailer of one of the two copies is written and
that copy commits (log 20). `digest` is the SM3 digest of the slot's earlier bytes (log 9). -/
def execSnapshotCommit (home : Bool) (digest : BitVec 256) (s : State) : Out :=
  match s.mir.take with
  | none => .next s
  | some run =>
    if !run.captured then .next s
    else if !run.unread.isEmpty then
      match engineRun (entryKey run.slot run.q) (some run.slot) Rank.open_ true (copyWork run) s with
      | .next t => .next (noteReleased s t)
      | o => o
    else
      let d := run.digest.getD digest
      let run := { run with digest := some d }
      if home then commitHome run d s else commitBag run d s

/-- A MIRROR request of this device is answered, or refused or lost. -/
def mirrorAnswered (tag : W16) (ok : Bool) (s : State) : State :=
  match s.mir.take with
  | none => s
  | some run =>
    if !run.tags.any (fun q => q.1 == tag) then s
    else
      let run := { run with tags := run.tags.filter fun q => q.1 != tag }
      if !ok then settleSnapshot { run with bagFailed := true, tags := [] } s
      else if run.trailerSent && run.tags.isEmpty then
        let m := if run.bagSlot then { s.mir with bag1Step := some run.step } else { s.mir with bag0Step := some run.step }
        settleSnapshot { run with bagDone := true } (noteCopy run { s with mir := m })
      else putTake run s

/-! ### Restore (R349, R353) -/

/-- A section of a slot's table that the engine accepts: fields as R341 has them, on a 4 KiB boundary and within the slot (R345). -/
def rowOk (T : Task) (slot : List Byte) (i : Nat) : Bool :=
  let o := 64 + 32 * i
  let kind := field slot o 1
  let at_ := field slot (o + 24) 8
  let len := field slot (o + 16) 8
  decide (1 ≤ kind) && decide (kind ≤ 6) && field slot (o + 1) 7 == 0 && len % 64 == 0 && decide (64 ≤ len)
  && at_ % 4096 == 0 && decide (0x5000 ≤ at_) && decide (at_ + len ≤ slotSize T)

/-- A slot's section table is accepted. -/
def tableOk (T : Task) (slot : List Byte) : Bool :=
  decide (field slot 28 4 ≤ 64) && (List.range (field slot 28 4)).all (rowOk T slot)

/-- The restore's checks of a slot's header and table, the largest status that applies (R346, R349): MAGIC, FORMAT and the section table,
then the table against the list (NSECT, KIND and LEN). A slot of FORMAT 2 is refused with FORMAT alone (R350). -/
def restoreCheck (T : Task) (ss : List Section) (slot : List Byte) : Byte :=
  let fits := field slot 28 4 == ss.length && (ss.zip (List.range ss.length)).all fun x =>
    field slot (64 + 32 * x.2) 1 == x.1.kind && field slot (64 + 32 * x.2 + 16) 8 == x.1.len
  if field slot 4 4 == 2 then 0x28
  else if !fits then 0x2A
  else if field slot 0 4 != snapMagic || field slot 4 4 != 3 || !tableOk T slot then 0x28
  else 0

/-- The seeds of a slot by core and context. -/
def seedsOf (T : Task) (seeds : List Byte) : List (CoreIx × CtxIx × W64 × W64) :=
  (T.cores.zip (List.range T.cores.length)).flatMap fun q =>
    ((List.finRange 4).filter fun k => bit T.hdr.contexts k.val).map fun k =>
      let o := 64 * q.2 + 16 * k.val
      (q.1, k, BitVec.ofNat 64 (field seeds o 8), BitVec.ofNat 64 (field seeds (o + 8) 8))

/-- Header and section table of a slot. -/
abbrev slotHead : Nat := 64 + 2048

/-- Where the section table places the trailer. -/
def trailerAt (head : List Byte) : Nat := match field head 28 4 with
  | 0 => 0x5000
  | n + 1 => (field head (64 + 32 * n + 24) 8 + field head (64 + 32 * n + 16) 8 + 4095) / 4096 * 4096

/-- Where slot `one` of this device's saddlebag lies on the partner, as a remote address (R320, R349). -/
def bagBase (s : State) (T : Task) (one : Bool) : Nat :=
  2 ^ 63 + s.mir.partner.toNat * 2 ^ 39 + (s.mir.partnerBag.toNat + slotSize T * b2n one) % 2 ^ 39

/-- The head of a slot at `a`, and its trailer where the head places one within the slot. -/
def seeSlot (T : Task) (a : Nat) (s : State) : List Byte × List Byte × Bool × State :=
  let h := devRead a slotHead s
  let o := trailerAt h.1
  if field h.1 28 4 ≤ 64 && decide (o + 64 ≤ slotSize T) then
    let r := devRead (a + o) 64 h.2.2
    (h.1, r.1, h.2.1 || r.2.1, r.2.2)
  else (h.1, [], h.2.1, h.2.2)

/-- The step of a slot that a saddlebag holds committed: its header and its trailer name the same (DESIGN CHOICE, log 20). -/
def bagStep (h tr : List Byte) : Option W32 :=
  if field h 8 4 == field tr 40 4 && field tr 44 4 == snapMagic then some (BitVec.ofNat 32 (field h 8 4)) else none

/-- The slots that this device's saddlebag holds committed: each with its step and its trailer. -/
def bagSlots (T : Task) (s : State) : List (Bool × W32 × List Byte) × State :=
  if s.mir.partnerBag = 0 then ([], s)
  else [false, true].foldl (fun acc one =>
    let r := seeSlot T (bagBase acc.2 T one) acc.2
    (match bagStep r.1 r.2.1 with
      | some x => acc.1 ++ [(one, x, r.2.1)]
      | none => acc.1, r.2.2.2)) ([], s)

/-- What a saddlebag was found to hold is known from then on. -/
def noteBags (bags : List (Bool × W32 × List Byte)) (m : Mirror) : Mirror :=
  { m with bag0Step := (bags.find? fun x => !x.1).map (·.2.1), bag1Step := (bags.find? (·.1)).map (·.2.1) }

/-- The committed home slot of a step. -/
def homeHolds (m : Mirror) (step : W32) : Option Bool :=
  if committed m.home0 m.home0Step = some step then some false
  else if committed m.home1 m.home1Step = some step then some true else none

/-- Verification results of VERIFY_RESULT; a FAIL records an error event, whose code the manual does not give (log 2). -/
def verifyResult (r : BitVec 2) (s : State) : State :=
  let s := { s with mir := { s.mir with verifyResult := r } }
  if r = 2 then
    let code := Config.free 16 s.freeCtr
    record { s with freeCtr := s.freeCtr + 1 } code.toNat error 0 0 0 0
  else s

/-- VERIFY_MODE in force. -/
def verifyMode (s : State) : Nat := bitsOf (cfgOf s 23).mirror 8 2

/-- The work of a restore: the committed home slot of step S is read, else the saddlebag by remote READs; the list's sections are written.
Of several reasons against it the largest status is given (R346). Where digests
are compared, in digest mode or as the fallback of mode 3 (R352), `ok` says of the home slot and of the two saddlebag slots whether the recomputed SM3 digest agrees with the trailer
(log 9), and the two replicas' trailers are compared (R353). -/
def restoreWork (t : SlotIx) (q : W32) (e : Posted) (ok : Bool × Bool × Bool) (s : State) : State :=
  let w : Entry := e.words
  let T := s.tasks[t]
  let digest := verifyMode s == 2
  let compare := digest || verifyMode s == 3
  let home := homeHolds s.mir w.step
  let bags : List (Bool × W32 × List Byte) × State := if home.isNone || compare then bagSlots T s else ([], s)
  let s := if home.isNone || compare then { bags.2 with mir := noteBags bags.1 bags.2.mir } else bags.2
  let bag := bags.1.filter fun x => x.2.1 == w.step
  let base : Option (Nat × Bool) := match home with
    | some one => some (s.mir.homeBag.toNat + slotSize T * b2n one, ok.1)
    | none => bag.head?.map fun x => (bagBase s T x.1, if x.1 then ok.2.2 else ok.2.1)
  match base with
  | none => answerEntry t q 0x26 s
  | some (a, digestOk) =>
    let h := seeSlot T a s
    let seeds := devRead (a + 0x1000) 9216 h.2.2.2
    let parts := if tableOk T h.1 then
        (List.range (field h.1 28 4)).map fun i => (a + field h.1 (64 + 32 * i + 24) 8, field h.1 (64 + 32 * i + 16) 8)
      else []
    let s := parts.foldl (fun s p => see p.1 p.2 s) seeds.2.2
    let poisoned := h.2.2.1 || seeds.2.1 || parts.any fun p => seenPoison s p.1 p.2
    let off := digest && !digestOk
    let bad := max (restoreCheck T e.list h.1).toNat (if poisoned then (if off then 0x29 else 0x27) else 0)
    if bad != 0 then answerEntry t q (BitVec.ofNat 8 bad) (if bad = 0x29 then verifyResult 2 s else s)
    else
      let s := (e.list.zip parts).foldl (fun s x => devWrite x.1.addr (seen s x.2.1 x.1.len) false s) s
      if off then answerEntry t q 0x29 (verifyResult 2 s)
      else
        let twins := home.isNone || bag.all fun x => x.2.2.take 32 == h.2.1.take 32
        let s := if digest then verifyResult (if twins then 1 else 2) s else s
        let run : RestoreRun :=
          { slot := t, q := q, step := w.step, lastWrite := nsNow s, seeds := seedsOf T seeds.1, lossRing := w[5]
            digestOk := digestOk && twins }
        { s with mir := { s.mir with restore := some run } }

/-- A restore that begins takes the interval pair that has come due (R342), and the regions keep what they hold (R350). -/
def beginRestore (step : W32) (s : State) : State :=
  let s := takeInterval step s
  { s with mir := { s.mir with fresh := false, guestFresh := false } }

/-- SNAPSHOT in restore mode; RHAOR_PENDING where a descriptor of the task was outstanding at its posting (R260). -/
def execSnapshotRestore (t : SlotIx) (q : W32) (homeOk bag0Ok bag1Ok : Bool) (s : State) : Out :=
  match openEntry s t q 8 with
  | none => .next s
  | some e =>
    let w : Entry := e.words
    if !bit w[4] 8 || !engineTurn s e || s.mir.take.isSome || s.mir.restore.isSome then .next s
    else
      let s := beginRestore w.step s
      if e.rhaor then .next (answerEntry t q 0x20 s)
      else engineRun (entryKey t q) (some t) Rank.open_ true (restoreWork t q e (homeOk, bag0Ok, bag1Ok)) s

/-- The enabled contexts of a task, cores in segment order. -/
def enabledCtxs (T : Task) : List (CoreIx × CtxIx) :=
  T.cores.flatMap fun c => ((List.finRange 4).filter fun k => bit T.hdr.contexts k.val).map fun k => (c, k)

/-- A context of the restored task waits in CMDWAIT. -/
def atCommand (s : State) (t : SlotIx) (q : CoreIx × CtxIx) : Bool :=
  s.cores[q.1].slot == some t && s.cores[q.1].ctx[q.2].st == .waiting && s.cores[q.1].ctx[q.2].kind == .command

/-- A context of the restored task is HALTED or FAULTED. -/
def hasStopped (s : State) (t : SlotIx) (q : CoreIx × CtxIx) : Bool :=
  s.cores[q.1].slot == some t && (s.cores[q.1].ctx[q.2].st == .halted || s.cores[q.1].ctx[q.2].st == .faulted)

/-- The sections are written, and a context HALTED or FAULTED first, or 10 ms have passed since the last section write (R349). -/
def seedOver (s : State) (r : RestoreRun) : Bool :=
  !running s (entryKey r.slot r.q)
  && ((enabledCtxs s.tasks[r.slot]).any (hasStopped s r.slot) || decide (r.lastWrite + 10000000 ≤ nsNow s))

/-- The core and context that a SEED_TIMEOUT names: the first that is HALTED or FAULTED, else the first that is not in CMDWAIT (R349);
the core in bits 15:0, the context above (DESIGN CHOICE, log 45). -/
def seedCulprit (s : State) (r : RestoreRun) : Nat :=
  let xs := enabledCtxs s.tasks[r.slot]
  match (xs.find? (hasStopped s r.slot)).or (xs.find? fun q => !atCommand s r.slot q) with
  | some q => q.1.val + 65536 * q.2.val
  | none => 0

/-- The sections are written and every enabled context waits in CMDWAIT: the seeds are written and the restore completes with OK. -/
def execRestoreSeedWrite (s : State) : Out :=
  match s.mir.restore with
  | none => .next s
  | some r =>
    let T := s.tasks[r.slot]
    if !running s (entryKey r.slot r.q) && !seedOver s r && (enabledCtxs T).all (atCommand s r.slot) then
      let s := r.seeds.foldl (fun s x => modCtx s x.1 x.2.1 fun y => { y with seed := x.2.2.1, sctr := x.2.2.2 }) s
      let v : Option VerifyRun := if r.lossRing = 0 then none
        else some { slot := r.slot, step := r.step + 1, ring := r.lossRing, ready := false, digestOk := r.digestOk }
      .next (answerEntry r.slot r.q 0 { s with mir := { s.mir with restore := none, verify := v } })
    else .next s

/-- A context HALTED or FAULTED first, or 10 ms from the last section write: SEED_TIMEOUT, and posting stops. -/
def execRestoreSeedTimeout (s : State) : Out :=
  match s.mir.restore with
  | none => .next s
  | some r =>
    if seedOver s r then
      let s := record s 0x7125 error 0 (seedCulprit s r) r.step.toNat 0
      let s := modCmd s r.slot fun x => { x with stopped := true }
      .next (answerEntry r.slot r.q 0x25 { s with mir := { s.mir with restore := none } })
    else .next s

/-! ### Verification and interval -/

/-- The work of a replay verification: the entry of the step in the loss ring is read and compared with a surviving device's (R352). -/
def replayWork (v : VerifyRun) (peerLoss : Option W32) (s : State) : State :=
  let r := devRead (v.ring.toNat + 16 * (v.step.toNat % 256)) 16 s
  let s := { r.2.2 with mir := { r.2.2.mir with verify := none } }
  match peerLoss with
  | some l => verifyResult (if field r.1 4 4 = l.toNat then 1 else 2) s
  | none => if verifyMode s = 3 then verifyResult (if v.digestOk then 1 else 2) s else verifyResult 3 s

/-- Replay verification after the UPDATE of step S + 1, in modes 1 and 3 (R351, R352). -/
def execVerifyReplay (peerLoss : Option W32) (s : State) : Out :=
  match s.mir.verify with
  | none => .next s
  | some v =>
    if !v.ready || !(verifyMode s == 1 || verifyMode s == 3) then .next s
    else engineRun (taskKey v.slot 4) (some v.slot) Rank.open_ true (replayWork v peerLoss) s

/-- interval (R348) with C = num / den, exactly. -/
def snapInterval (num den : Nat) (gaps : List Nat) (prior : Nat) : Nat :=
  let nd := if num * 65536 < den then (1, 65536) else (num, atLeast1 den)
  let ws := (List.range 16).map fun i => (3 ^ i * 4 ^ (15 - i), gaps.getD i prior)
  let mn := ws.foldl (fun n x => n + x.1 * x.2) 0
  let md := ws.foldl (fun n x => n + x.1) 0
  let a := 2 * nd.1 * mn
  let b := nd.2 * md
  let q := isqrt ((a + b - 1) / b)
  let n := if q * q * b < a then q + 1 else q
  min (max n 1) 16777215

/-- This device's snapshot cost in steps, as a fraction: (D_snap - D_plain) / D_plain, not below 0 (R348); 0 before both have been
measured. -/
def ownCost (m : Mirror) : Nat × Nat :=
  if m.plain.isEmpty || m.snapTime = 0 then (0, 1) else (m.plain.length * m.snapTime - m.plain.sum, m.plain.sum)

/-- The larger of two costs. -/
def largerCost (a b : Nat × Nat) : Nat × Nat := if a.1 * b.2 < b.1 * a.2 then b else a

/-- NEXT_BASE lies at least 1,000 steps ahead, on a due step of the old interval (R348). -/
def baseOk (m : Mirror) (base : W32) : Bool :=
  decide (m.lastStep.toNat + 1000 ≤ base.toNat)
  && (m.interval == 0 || (decide (m.base.toNat ≤ base.toNat) && (base.toNat - m.base.toNat) % m.interval.toNat == 0))

/-- The time master's firmware computes the interval and writes the pair (R348): from the largest cost, `costNum / costDen` being the
largest that the other devices report, and from the gaps kept in the nonvolatile store, which gain `gaps`, those of the failures since,
newest first. -/
def execIntervalCompute (costNum costDen : Nat) (gaps : List Nat) (base : W32) (s : State) : Out :=
  let m := s.mir
  if !s.time.isMaster || !baseOk m base then .next s
  else
    let c := largerCost (costNum, costDen) (ownCost m)
    let all := (gaps ++ s.sec.gaps).take 16
    let n := snapInterval c.1 c.2 all m.snapPrior.toNat
    .next { s with
      sec := { s.sec with gaps := all }
      staging := { s.staging with shadow := { s.staging.shadow with nextInterval := BitVec.ofNat 32 n, nextBase := base } } }

/-! ### Rhaor companions (R258, R260) -/

/-- RFENCE completes when no descriptor of its task is outstanding. -/
def execRfence (t : SlotIx) (q : W32) (s : State) : Out :=
  match openEntry s t q 9 with
  | none => .next s
  | some e =>
    if !engineTurn s e || rhaorOpen s t then .next s
    else
      let bad := s.tasks[t].cmd.rhaorErr
      .next (answerEntry t q (if bad then 0x21 else 0) (modCmd s t fun x => { x with rhaorErr := false }))

def modRhaor (i : Fin 8) (s : State) (f : Rhaor → Rhaor) : State := { s with rhaor := s.rhaor.set i (f s.rhaor[i]) }

/-- The completion entry of a companion (R258). -/
def rhaorEntry (q : RhTag) (status : Byte) (skipped : W32) : List Byte :=
  natLe 2 q.tag ++ natLe 1 status.toNat ++ [0] ++ natLe 4 q.rstep.toNat ++ natLe 4 skipped.toNat ++ natLe 4 0

/-- A companion's completion entry, written by UIO to the next place of its ring (log 104): its tag retires; a stray one is discarded,
its event of a severity the manual does not state (log 2). A ring outside the CXL.mem window cannot be written, and the tag stays
(R309). -/
def execRhaorCompletion (comp : Fin 8) (tag : W16) (report : RhReport) (s : State) : Out :=
  let x := s.rhaor[comp]
  let a := x.cmpl.toNat + 16 * x.ring
  if !(inWindow s a && inWindow s (a + 15)) then .next (emit s .unsupported)
  else match x.tags.find? fun q => q.tag == tag.toNat with
  | none =>
    let sev := Config.free 2 s.freeCtr
    let s := modRhaor comp { s with freeCtr := s.freeCtr + 1 } fun x => { x with stray := satInc x.stray }
    .next (record s 0x6110 sev comp.val 0 tag.toNat 0)
  | some q =>
    let s := modRhaor comp s fun x => { x with tags := x.tags.erase q, ring := (x.ring + 1) % 32 }
    let s := sendReq { id := s.nextId, agent := .peer, write := true, addr := a, len := 16, gran := 0, data := rhaorEntry q report.status report.skipped,
                       poison := [], rt := false, deadline := BitVec.ofNat 32 (ftNow s + bitsOf (cfgOf s 20).memHorizon 0 16),
                       snooped := false, due := 0 }
      { s with nextId := s.nextId + 1 }
    if report.status = 0 then .next s
    else
      let s := modRhaor comp s fun x => { x with errCount := satInc x.errCount }
      let s := modCmd s q.task fun x => { x with rhaorErr := true }
      .next (record s (0x6100 + report.status.toNat) error comp.val 0 tag.toNat 0)

/-- A tag of a companion is outstanding longer than RH_TIMEOUT. -/
def rhaorOver (s : State) (comp : Fin 8) (q : RhTag) : Bool :=
  decide (q.at_ + ccOf s (1000 * atLeast1 s.rhaor[comp].timeout.toNat) < s.time.cycle)

/-- A tag retires without a completion: an error is counted, the companion is disabled, and a fatal event is recorded (R258). The next
RFENCE knows nothing of it, since no completion carried a STATUS (R260). -/
def retireTag (comp : Fin 8) (q : RhTag) (s : State) : State :=
  let s := modRhaor comp s fun x => { x with tags := x.tags.erase q, errCount := satInc x.errCount, enable := false }
  record s 0x6111 fatal comp.val 0 q.tag 0

/-- A tag outstanding longer than RH_TIMEOUT (R258). -/
def execRhaorTimeout (comp : Fin 8) (tag : Fin 32) (s : State) : Out :=
  match s.rhaor[comp].tags.find? fun q => q.tag == tag.val with
  | none => .next s
  | some q =>
    if !rhaorOver s comp q then .next s else .next (retireTag comp q s)

end Sys2Proof.Machine
end

