-- ==== Sys2Proof/Machine/Links.lean ====
section
/-! DEFINITION. Hyfalon links (chapter 16): frames, replay and retraining (R326, R327), training and negotiation (R317, R328),
what a device refuses (R336, R337), and what each packet type does on arrival (R324, R325). -/

namespace Sys2Proof.Machine

/-! ### Refusals (R336) -/

def hopLocal (k : Packet) : Bool := k.ptype == 0 || k.ptype == 6 || k.ptype == 8

/-- A field of a packet out of range, or a reserved one nonzero. -/
def badHeader (k : Packet) : Bool :=
  let coll := k.ptype == 5
  k.rest != 0 || k.pflags.toNat / 8 != 0
  || (if k.ptype == 9 then k.reason == 0 || decide (13 < k.reason.toNat) || decide (9 < k.orig.toNat) || k.orig == 9 else k.reason != 0 || k.orig != 0)
  || (!coll && (k.step != 0 || k.coll != 0)) || (!coll && k.ptype != 7 && k.segno != 0)
  || ((k.ptype == 1 || k.ptype == 2) && k.addr.toNat / 2 ^ 39 != 0)
  || (k.ptype == 2 && !([64, 128, 192, 256].contains k.arg.toNat))
  || (k.ptype == 4 && (k.addr.toNat / 4096 != 0 || k.arg.toNat / 65536 != 0))
  || (k.ptype == 6 && k.arg.toNat / 2 ^ 33 != 0)
  || (k.ptype == 7 && (k.addr.toNat % 64 != 0 || k.arg.toNat / 2 ^ 34 != 0))

/-- LEN is one that the type allows and the payload has. -/
def lenAllowed (k : Packet) : Bool :=
  let n := k.len.toNat
  let steps := fun lo hi : Nat => n % 64 == 0 && decide (lo ≤ n) && decide (n ≤ hi)
  k.payload.length == n && match k.ptype.toNat with
    | 1 => steps 64 256
    | 3 => n == 0 || steps 64 256
    | 5 => steps 64 1024
    | 7 => steps 64 1024
    | 8 => decide (n ≤ 256)
    | _ => n == 0

/-- The reason for which a device refuses a packet on port `p` whatever its type, the lowest of those that apply; 0 where it
takes it (R336). EPOCH is compared for packets addressed to this device, on a port that checks it (R328). -/
def refusal (s : State) (p : Fin 8) (k : Packet) : Byte :=
  let x := s.links[p]
  if 9 < k.ptype.toNat then 1
  else if badHeader k then 2
  else if !lenAllowed k || !x.allows k then 3
  else if k.ver != x.version.setWidth 8 then 4
  else if !hopLocal k && !namesDevice s k.dest then 5
  else if !hopLocal k && k.dest == ownAddr s && x.checksEpoch && k.epoch != linkEpoch s (linkUnit p) then 7
  else 0

/-- A request that a RESP or a NAK answers (R324). -/
def isRequest (k : Packet) : Bool := k.ptype == 1 || k.ptype == 2 || k.ptype == 7

/-- Turns a packet away: VIOL, an event and a NAK to its source (R336). The rule states no severity (log 2); R215, R255 and R321
state error. -/
def turnAway (p : Fin 8) (k : Packet) (reason : Byte) (s : State) : State :=
  let stated := reason == 8 || reason == 9 || reason == 10
  let sev := if stated then error else Config.free 2 s.freeCtr
  let s := { s with freeCtr := if stated then s.freeCtr else s.freeCtr + 1 }
  let s := record s (0x5000 + reason.toNat) sev p.val 0 k.src.toNat k.ptype.toNat
  let s := modLink s p fun x => if x.viol then { x with violAt := s.time.cycle + 1 } else
    { x with viol := true, violAt := s.time.cycle + 1, violReason := reason, violType := k.ptype, violSrc := k.src }
  if hopLocal k || k.ptype == 9 then s
  else
    let n := packet s 9 k.src k.tag
    sendOrDrop { n with reason := reason, orig := k.ptype } (modLink s p fun x => { x with nakSent := satInc x.nakSent })

/-- A remote request of this device whose READ or WRITE packet of a TAG has been refused fails at its destination (R203, R336). -/
def remoteRefused (write : Bool) (tag : W16) (s : State) : State :=
  match s.net.remote.find? fun q => q.1 == tag && (q.2.1.write && !s.net.fetching.contains tag) == write with
  | none => s
  | some q => failReq q.2.1 { s with net := { s.net with remote := s.net.remote.erase q, fetching := s.net.fetching.erase tag } }

/-- What this device does of a request of its own that comes back refused, by TYPE and TAG. -/
def ownRefused (ty : Byte) (tag : W16) (s : State) : State :=
  match ty.toNat with
  | 1 => remoteRefused true tag s
  | 2 => remoteRefused false tag s
  | 7 => mirrorAnswered tag false s
  | _ => s

/-! ### Port states (R317, R327, R328, R337) -/

/-- A packet that waited on a port which has become FAILED: hop-local ones are lost, the others are routed anew (R321, R322, R329). One
that no port leads on, or that the next port does not allow, is refused to its source; where this device is the source, the request
fails. -/
def reroute (q : Packet × Option (Fin 8)) (s : State) : State :=
  let k := q.1
  let back := fun (reason : Byte) (s : State) => match q.2 with
    | some p => turnAway p k reason s
    | none => ownRefused k.ptype k.tag (record s (0x5000 + reason.toNat) error (wantedPort s k.dest.toNat) 0 k.src.toNat k.ptype.toNat)
  if hopLocal k then s
  else match routePort s k.dest.toNat (q.2.any fun p => decide (6 ≤ p.val)) with
  | some o => if s.links[o].allows k then sendFrame o k q.2 s else back 3 s
  | none => if isRequest k then back 13 s else record s 0x500D error (wantedPort s k.dest.toNat) 0 k.src.toNat k.ptype.toNat

/-- A port becomes FAILED: its unacknowledged frames are lost, and what waited to be sent is routed anew (R321, R327). No rule states the severity of the event (log 2). -/
def portFails (p : Fin 8) (s : State) : State :=
  let sev := Config.free 2 s.freeCtr
  let w := s.links[p].waiting
  let s := record (modLink { s with freeCtr := s.freeCtr + 1 } p fun x =>
    { x with st := .failed, version := 0, width := 0, replay := [], waiting := [] }) 0x5103 sev p.val 0 0 0
  w.foldl (fun s q => reroute q s) s

/-- A port retrains: its replay buffer is kept. -/
def portRetrains (p : Fin 8) (s : State) : State :=
  modLink s p fun x => { x with st := .retraining, retrains := if x.retrains = 0xFFFF then x.retrains else x.retrains + 1, attempts := 0 }

/-- A counted violation (R337): VIOL_LIMIT of them within 1 ms retrain the port; the third such retrain within 1 s makes it
FAILED. -/
def countViolation (p : Fin 8) (s : State) : State :=
  let now := nsNow s
  let ts := (s.links[p].violTimes.filter fun t => decide (now < t + 1000000)) ++ [now]
  let limit := atLeast1 (bitsOf (cfgOf s (linkUnit p)).epoch 8 8)
  if ts.length < limit then modLink s p fun x => { x with violTimes := ts }
  else
    let rs := (s.links[p].violRetrains.filter fun t => decide (now < t + 1000000000)) ++ [now]
    let s := record s 0x5102 error p.val 0 0 0
    if 3 ≤ rs.length then portFails p (modLink s p fun x => { x with violTimes := [], violRetrains := [] })
    else portRetrains p (modLink s p fun x => { x with violTimes := [], violRetrains := rs })

/-- Refuses a packet that arrives on a port: turned away, and counted where its reason counts toward a retrain (R336, R337). -/
def refuse (p : Fin 8) (k : Packet) (reason : Byte) (s : State) : State :=
  let s := turnAway p k reason s
  if decide (1 ≤ reason.toNat) && decide (reason.toNat ≤ 5) then countViolation p s else s

/-- The unacknowledged frames of a port are sent again, in order. -/
def resendAll (p : Fin 8) (s : State) : State :=
  s.links[p].replay.foldl (fun s q => emit s (.packet p (s.links[p].linkOf q.1 q.2) q.2)) s

/-- How far frame number `b` lies after `a`, modulo 2^16. -/
def seqAfter (a b : W16) : Nat := (b - a).toNat

/-- The packet that leaves a port next: the first that waits of class 0, then of class 1, where it may (R325, R326). -/
def LinkPort.nextOut (x : LinkPort) : Option (Packet × Option (Fin 8)) :=
  let first := fun c : Bool => (x.waiting.find? fun q => classZero q.1 == c).filter fun q => x.canLeave q.1
  (first true).or (first false)

/-- Waiting packets leave as there is room. -/
def drainLink (p : Fin 8) : Nat → State → State
  | 0, s => s
  | n + 1, s => match s.links[p].nextOut with
    | none => s
    | some q => drainLink p n (putFrame p q.1 (modLink s p fun x => { x with waiting := x.waiting.erase q }))

/-- An ACK: acknowledged frames leave the replay buffer, and waiting ones are sent as it has room (R326). -/
def takeAck (p : Fin 8) (ack : W16) (s : State) : State :=
  let x := s.links[p]
  let n := match x.replay with
    | [] => 0
    | q :: _ => let d := seqAfter q.1 ack; if d < x.replay.length then d + 1 else 0
  let s := modLink s p fun x => { x with replay := x.replay.drop n, attempts := if 0 < n then 0 else x.attempts }
  drainLink p s.links[p].waiting.length s

/-- The partner's address that a port expects (R390): its neighbour's on the torus; none of an express port. -/
def neighbour (s : State) (p : Fin 8) : Option W32 :=
  if 6 ≤ p.val then none
  else
    let i := p.val / 2
    let n := atLeast1 (coordAt s.net.dims.toNat i)
    let c := coordAt s.net.coord.toNat i
    let d := if p.val % 2 = 0 then (c + 1) % n else (c + n - 1) % n
    some (BitVec.ofNat 32 (s.net.coord.toNat - c * 256 ^ i + d * 256 ^ i))

/-- A port's stored seeds are those of this device and of the partner it expects; an express port expects any (R390; log 117). -/
def seedsMatch (s : State) (p : Fin 8) : Bool := match s.links[p].seeds with
  | some x => x.own == ownAddr s && (neighbour s p).all (· == x.partner)
  | none => false

/-- ENABLE of a port (R327): 0 holds it DOWN, 1 starts training from DOWN, from stored seeds where they match, else from defaults (R389,
R390); HL_MAX2 is written with it. -/
def enablePort (p : Fin 8) (on hlMax2 : Bool) (s : State) : State :=
  let x := s.links[p]
  if !on then
    modLink s p fun x => { x with enable := false, hlMax2 := hlMax2, st := .down, version := 0, width := 0, lanesOk := 0,
                                  replay := [], waiting := [], txNext := 0, rxNext := 0, attempts := 0, trainFails := 0,
                                  feats := 0, rate400 := false, credit0 := 0, credit1 := 0 }
  else if x.enable then modLink s p fun x => { x with hlMax2 := hlMax2 }
  else modLink s p fun x => { x with enable := true, hlMax2 := hlMax2, st := .training, fromSeeds := seedsMatch s p }

/-- The highest version that a port of this device offers, and the features of each version (R328). -/
def LinkPort.offers (x : LinkPort) : Nat := if x.hlMax2 then 2 else 3
def featsOf (version : Nat) : BitVec 5 := if 3 ≤ version then 0x1F else 0x18

/-- The capability frame of a port (R328). -/
def capsOf (s : State) (p : Fin 8) : Caps :=
  let v := s.links[p].offers
  { src := ownAddr s, version := BitVec.ofNat 8 v, rate400 := decide (3 ≤ v), feats := featsOf v }

/-- The lanes have trained: the port negotiates, and sends its capability frame (R328). -/
def lanesTrained (p : Fin 8) (width : BitVec 2) (s : State) : State :=
  let k := packet s 8 0 0
  let s := modLink s p fun x => { x with width := width, st := .negotiating, version := BitVec.ofNat 2 x.offers
                                         credit0 := Config.linkCredits, credit1 := Config.linkCredits }
  putFrame p { k with len := 64, payload := (List.range 64).map (Config.capByte (capsOf s p)) } s

/-- Lane training ends (R317). Seeds that fail to train are discarded, and the port goes on from defaults (R390). -/
def execPortTrainingDone (p : Fin 8) (lanes : Byte) (s : State) : Out :=
  if s.links[p].st != .training then .next s
  else
    let s := modLink s p fun x => { x with lanesOk := lanes }
    if lanes = 0xFF then .next (lanesTrained p 3 s)
    else if lanes &&& 0x0F = 0x0F then .next (record (lanesTrained p 1 s) 0x5101 notice p.val 0 0 0)
    else if lanes &&& 0xF0 = 0xF0 then .next (record (lanesTrained p 2 s) 0x5101 notice p.val 0 0 0)
    else if s.links[p].fromSeeds then .next (modLink s p fun x => { x with seeds := none, fromSeeds := false })
    else .next (portFails p s)

/-- The partner's capability frame has come, its frame 0 (R328): the port runs at the highest version that both speak, at 400 Gb/s
a lane and with the features that both name. The port's equalisation settings, free values, are stored with both addresses (R390;
log 2). Without a common version the port is FAILED. -/
def execLinkNegotiation (p : Fin 8) (caps : Caps) (s : State) : Out :=
  let x := s.links[p]
  if x.st != .negotiating then .next s
  else
    let v := min x.offers caps.version.toNat
    if 2 ≤ v then
      .next (modLink { s with freeCtr := s.freeCtr + 1 } p fun x =>
        { x with st := .up, version := BitVec.ofNat 2 v, trainFails := 0, rxNext := x.rxNext + 1
                 feats := featsOf v &&& caps.feats, rate400 := decide (3 ≤ v) && caps.rate400
                 seeds := some { own := ownAddr s, partner := caps.src, settings := Config.free 64 s.freeCtr } })
    else .next (modLink (record s 0x5104 error p.val 0 caps.version.toNat 0) p fun x =>
      { x with st := .failed, version := 0, width := 0, replay := [] })

/-- A retrain ends (R327): it resumes from the last acknowledged frame; three failures in a row make the port FAILED. -/
def execLinkRetrain (p : Fin 8) (ok : Bool) (s : State) : Out :=
  let x := s.links[p]
  if x.st != .retraining then .next s
  else if ok then .next (resendAll p (modLink s p fun x => { x with st := .up, trainFails := 0 }))
  else if 2 ≤ x.trainFails then .next (portFails p (modLink s p fun x => { x with trainFails := 0 }))
  else .next (modLink s p fun x => { x with trainFails := x.trainFails + 1 })

/-- A RETRY: the frames from ACK + 1 on are replayed. Where they have been replayed 8 times without an acknowledgement, the port retrains
(R326, R327). -/
def replayFrom (p : Fin 8) (ack : W16) (s : State) : State :=
  let s := takeAck p ack s
  if s.links[p].replay.isEmpty then s
  else
    let s := modLink s p fun x => { x with retryCount := satInc x.retryCount }
    if 8 ≤ s.links[p].attempts then portRetrains p s else resendAll p (modLink s p fun x => { x with attempts := x.attempts + 1 })

def execLinkReplay (p : Fin 8) (ack : W16) (s : State) : Out :=
  if s.links[p].st != .up then .next s else .next (replayFrom p ack s)

/-- What every good frame brings in its link field: credits, and an ACK or a RETRY (R326). -/
def takeLink (p : Fin 8) (l : FrameLink) (s : State) : State :=
  let s := modLink s p fun x => { x with credit0 := x.credit0 + l.credit0.toNat, credit1 := x.credit1 + l.credit1.toNat }
  if l.retry then replayFrom p l.ack s else takeAck p l.ack s

/-! ### Arrival by type (R324) -/

/-- Forwards a packet (R321, R322, R329). A request with no way on is refused with UNREACHABLE, any other packet dropped. -/
def forward (p : Fin 8) (k : Packet) (s : State) : State :=
  match routePort s k.dest.toNat (decide (6 ≤ p.val)) with
  | none =>
    if isRequest k then refuse p k 13 s
    else record s 0x500D error (wantedPort s k.dest.toNat) 0 k.src.toNat k.ptype.toNat
  | some o =>
    if s.links[o].allows k then sendFrame o k (some p) s else refuse p k 3 s

/-- How a request that arrives on a port ranks (R325, R329): by CLASS0 and DEADLINE, or, where the port carries no deadline, in class 1 with
its arrival FT plus RX_HORIZON. -/
def arrivalRank (s : State) (p : Fin 8) (k : Packet) : Rank :=
  if s.links[p].carriesDeadline then { rt := classZero k, lookup := false, deadline := some k.deadline }
  else { rt := false, lookup := false, deadline := some (BitVec.ofNat 32 (ftNow s + bitsOf (cfgOf s (linkUnit p)).epoch 16 16)) }

/-- A READ or WRITE becomes a request to its stack port (R325, R329). -/
def remoteAccess (p : Fin 8) (k : Packet) (write : Bool) (s : State) : State :=
  let n := if write then k.len.toNat else k.arg.toNat
  let a := k.addr.toNat
  if directEnd < a + n then refuse p k 6 s
  else
    let r := arrivalRank s p k
    enterMesh { id := s.nextId, agent := .remote k.src k.tag, write := write, addr := a, len := n, gran := 0, data := k.payload,
                poison := List.replicate ((k.payload.length + 63) / 64) (bit k.pflags 0), rt := r.rt, deadline := r.deadline.getD 0,
                snooped := false, due := 0 } { s with nextId := s.nextId + 1 }

/-- A RESP answers the request of its TAG (R324): it brings the granules that a write covers in part, which leave whole then, or what the
request asked. -/
def remoteResponse (k : Packet) (s : State) : State :=
  let fetching := s.net.fetching.contains k.tag
  match s.net.remote.find? fun q => q.1 == k.tag && BitVec.ofNat 32 (q.2.1.addr / 2 ^ 39 % 2 ^ 24) == k.src with
  | some q =>
    let r := q.2.1
    let s := { s with net := { s.net with remote := s.net.remote.erase q, fetching := s.net.fetching.erase k.tag } }
    if fetching then remotePacket r true (mergedSpan r k.payload) (bit k.pflags 0 || r.poison.any id) s
    else answerMem r ((k.payload.drop (r.addr % 64)).take r.len) (List.replicate ((granuleSpan r).2 / 64) (bit k.pflags 0)) s
  | none => mirrorAnswered k.tag true s

/-- A signal packet (R215): NUMBER and overflow are refused with a NAK and an error event. -/
def signalArrives (p : Fin 8) (k : Packet) (s : State) : State :=
  let g : Fin 4096 := Fin.ofNat 4096 k.addr.toNat
  let n := k.arg.toNat % 65536
  if (gget s g).holder.isNone then refuse p k 9 { s with gregs := { s.gregs with dropped := satInc s.gregs.dropped } }
  else if n = 0 then s
  else { s with gsigs := s.gsigs ++ [{ g := g, op := .packet p k, due := s.time.cycle, core := 0, ctx := 0, pc := 0, src := none }] }

/-- What reached counter `g` at the hub in the hub cycle that ends: the ADDs, local and from other devices, are summed, checked and applied
(R215; log 101), then the others act in order, then the barrier completes. An ADD that does not fit is discarded: a local one is
reported to its context, a packet refused. A barrier collective's entry completes with it (R333). ADDs to other devices leave as SIGNAL packets; one that no port leads to its destination is
discarded with an error event (R321). -/
def execGlobalSignalApply (g : Fin 4096) (s : State) : Out :=
  if !globalDue s g then .next s
  else
    let due := s.gsigs.filter fun i => i.g == g && decide (i.due ≤ s.time.cycle)
    let s := { s with gsigs := s.gsigs.filter fun i => !(i.g == g && decide (i.due ≤ s.time.cycle)) }
    let away := due.filter fun i => i.src.isSome
    let here := due.filter fun i => i.src.isNone
    let adds := here.filter fun i => decide (0 < i.amount)
    let sum := adds.foldl (fun a i => a + i.amount) 0
    let x := gget s g
    let at_ := here.foldl (fun a i => max a i.due) (if here.isEmpty then s.time.cycle else 0)
    let s := if gfits x sum then gset g { x with value := x.value + BitVec.ofNat 24 sum } s
      else adds.foldl (fun s i => match i.op with
        | .packet p k => refuse p k 10 s
        | .add _ => { s with reports := s.reports ++ [{ core := i.core, ctx := i.ctx, pc := i.pc, info := gctrInfo g 0, due := s.time.cycle }] }
        | _ => s) { s with gregs := { s.gregs with govf := satAdd s.gregs.govf adds.length } }
    let s := completeBarrier g at_ (here.foldl (fun s i => gsigOp i s) s)
    let s := gset g { gget s g with sumAt := hubCycle s + 1 } s
    let s := here.foldl (fun s i => match i.op with
      | .barrier t q => answerEntry t q 0 s
      | _ => s) s
    .next (away.foldl (fun s i =>
      let k := packet s 4 (i.src.getD 0) s.net.nextTag
      let s := { s with net := { s.net with nextTag := s.net.nextTag + 1 } }
      sendOrDrop { k with addr := BitVec.ofNat 64 g.val, arg := BitVec.ofNat 64 i.amount } s) s)

/-- The posted collective entry that a segment belongs to. -/
def collEntry (s : State) (c : W16) : Option (SlotIx × Posted) :=
  (List.finRange 16).findSome? fun t =>
    (s.tasks[t].cmd.posted.find? fun e => (Entry.engine e.words == 2 || Entry.engine e.words == 1) && !e.finished
      && e.status.isNone && collOf s t e == c).map fun e => (t, e)

/-- A COLL segment (R255, R335, R336): matched to its posted entry, or held. -/
def collArrives (p : Fin 8) (k : Packet) (s : State) : State :=
  match collEntry s k.coll with
  | some (_, e) =>
    let w : Entry := e.words
    if (groupRank s (groupAt s w.group) k.src.toNat).isNone then refuse p k 12 s
    else if k.step != w.step then refuse p k 8 { s with net := { s.net with skewed := s.net.skewed ++ [(k.coll, k.src)] } }
    else s
  | none =>
    let held := s.net.held
    let bytes := held.foldl (fun n h => n + h.pkt.payload.length) 0
    let kinds := (k.coll :: held.map fun h => h.pkt.coll).eraseDups.length
    if 16 * 2 ^ 20 < bytes + k.payload.length || 64 < kinds then refuse p k 11 s
    else { s with net := { s.net with held := held ++ [{ port := p, pkt := k, at_ := s.time.cycle }] } }

/-- A MIRROR segment to the guest region (R340): its bytes are written, and it is answered once they are visible. -/
def mirrorArrives (p : Fin 8) (k : Packet) (s : State) : State :=
  let m := s.mir
  let one := bit k.arg 32
  let commit := bit k.arg 33
  let step : W32 := loW k.arg
  let newest := otherSlot (committed m.guest0 m.guest0Step) (committed m.guest1 m.guest1Step)
  let any := m.guest0 == .committed || m.guest1 == .committed
  match m.owner with
  | none => refuse p k 6 s
  | some t =>
    let size := slotSize s.tasks[t]
    if k.src != m.guest.setWidth 32 || decide (size < k.addr.toNat + k.len.toNat) || (any && one != newest) then refuse p k 6 s
    else
      let u : EngRun := { key := guestKey s.nextId, t := none, got := [], ids := [], done := false }
      let ack : BagAck := { key := u.key, src := k.src, tag := k.tag, commit := if commit then some (one, step) else none }
      let s := { s with nextId := s.nextId + 1, mir := { setGuest one .filling step s.mir with guestFresh := false }, net := { s.net with acks := s.net.acks ++ [ack] } }
      runCommit u (arrivalRank s p k) [(m.guestBag.toNat + size * b2n one + k.addr.toNat, k.payload, bit k.pflags 0)] s

/-- A time-sync packet (R24, R324): a request is answered on its port, with no residence correction, which only a switch that relays the
packet adds (R25); any of the upstream shows that it lives. -/
def tsyncArrives (p : Fin 8) (k : Packet) (s : State) : State :=
  let s := if s.time.upstream.toNat = p.val then { s with time := { s.time with lastSync := nsNow s } } else s
  if bit k.arg 32 then s
  else
    let r := packet s 6 0 k.tag
    sendFrame p { r with addr := BitVec.ofNat 64 (ftNow s), arg := BitVec.ofNat 64 (2 ^ 32) } none s

/-- A NAK refuses an earlier packet (R336), by ORIG and TAG. Which collective entry a refused COLL belongs to, of those whose group has the
sender of the NAK, and what the segment held, is free (log 22). -/
def nakArrives (p : Fin 8) (k : Packet) (s : State) : State :=
  let s := modLink s p fun x => { x with nakRcvd := satInc x.nakRcvd }
  if k.orig != 5 then ownRefused k.orig k.tag s
  else
    let open_ := (List.finRange 16).flatMap fun t => (s.tasks[t].cmd.posted.filter fun e =>
      Entry.engine e.words == 2 && !e.finished && e.status.isNone && !adding s t e.q
        && (groupRank s (groupAt s (Entry.group e.words)) k.src.toNat).isSome).map fun e => (t, e)
    if open_.isEmpty then s
    else
      let r := freePick open_.length s
      match open_[r.1]? with
      | none => s
      | some (t, e) =>
        if k.reason = 8 then answerEntry t e.q 0x10 r.2
        else if k.reason = 11 then
          let n := packet s 5 k.src k.tag
          let n := { n with len := 64, step := Entry.step e.words, coll := collOf s t e, payload := openBytes r.2.freeCtr 64 }
          let s := { r.2 with freeCtr := r.2.freeCtr + 64 }
          { s with net := { s.net with resend := s.net.resend ++ [{ port := p, pkt := n, at_ := s.time.cycle }] } }
        else s

/-- An accepted packet: refused, forwarded, or taken by its type. -/
def arrive (p : Fin 8) (k : Packet) (s : State) : State :=
  let r := refusal s p k
  if r != 0 then refuse p k r s
  else if !hopLocal k && k.dest != ownAddr s then forward p k s
  else match k.ptype.toNat with
    | 1 => remoteAccess p k true s
    | 2 => remoteAccess p k false s
    | 3 => remoteResponse k s
    | 4 => signalArrives p k s
    | 5 => collArrives p k s
    | 6 => tsyncArrives p k s
    | 7 => mirrorArrives p k s
    | 9 => nakArrives p k s
    | _ => s

/-- A packet of one TYPE arrives on a port that is UP, its frame accepted. -/
def typed (ty : Byte) (p : Fin 8) (k : Packet) (s : State) : Out :=
  if s.links[p].st == .up && k.ptype == ty then .next (arrive p k s) else .next s

def execWrite (p : Fin 8) (k : Packet) (s : State) : Out := typed 1 p k s
def execRead (p : Fin 8) (k : Packet) (s : State) : Out := typed 2 p k s
def execResp (p : Fin 8) (k : Packet) (s : State) : Out := typed 3 p k s
def execSignal (p : Fin 8) (k : Packet) (s : State) : Out := typed 4 p k s
def execColl (p : Fin 8) (k : Packet) (s : State) : Out := typed 5 p k s
def execTsync (p : Fin 8) (k : Packet) (s : State) : Out := typed 6 p k s
def execMirror (p : Fin 8) (k : Packet) (s : State) : Out := typed 7 p k s

/-- A hop-local MGMT packet: its capabilities act through LINK_NEGOTIATION, its firmware messages change nothing the manual
gives; a malformed one is refused. -/
def execMgmt (p : Fin 8) (k : Packet) (s : State) : Out := typed 8 p k s

def execNak (p : Fin 8) (k : Packet) (s : State) : Out := typed 9 p k s

/-- A packet for another device. -/
def execPacketForward (p : Fin 8) (k : Packet) (s : State) : Out :=
  if s.links[p].st == .up && !hopLocal k && k.dest != ownAddr s then .next (arrive p k s) else .next s

/-! ### Frames (R326) -/

/-- An IDLE frame of a port: it bears the last number sent, an ACK or a RETRY of the last good frame, and credits (R326). -/
def idleFrame (p : Fin 8) (retry : Bool) (credit0 : BitVec 16) (credit1 : BitVec 15) (s : State) : FrameLink :=
  let x := s.links[p]
  sealFrame { lseq := x.txNext - 1, ack := x.rxNext - 1, retry := retry, good := true, corr := 0, credit0 := credit0, credit1 := credit1 }
    (x.onHop (packet s 0 0 0))

/-- Asks for a replay from the last good frame. -/
def askReplay (p : Fin 8) (s : State) : State :=
  let s := modLink s p fun x => { x with retryCount := satInc x.retryCount }
  emit s (.hop p (idleFrame p true 0 0 s))

/-- Acknowledges the frame just accepted, and returns the credits that it took (R326). -/
def acknowledge (p : Fin 8) (k : Packet) (s : State) : State :=
  let n := frameUnits k
  emit s (.hop p (if classZero k then idleFrame p false (BitVec.ofNat 16 n) 0 s else idleFrame p false 0 (BitVec.ofNat 15 n) s))

/-- A frame arrives: the codewords that FEC corrected in it count (R326). -/
def countFec (p : Fin 8) (l : FrameLink) (s : State) : State :=
  modLink s p fun x => { x with fecCorr := satAdd x.fecCorr l.corr.toNat }

/-- A frame number outside the replay window: 512 or more away either way (R326, R327). -/
def outsideWindow (expected n : W16) : Bool := decide (512 ≤ seqAfter expected n) && decide (512 ≤ seqAfter n expected)

/-- A frame whose number is not the expected one: a number outside the replay window retrains the port, another asks for a replay. -/
def gapAt (p : Fin 8) (expected n : W16) (s : State) : State := if outsideWindow expected n then portRetrains p s else askReplay p s

/-- An IDLE frame returns an ACK and credits; its LSEQ is the last number sent, so another one than the last accepted is a gap. A
malformed one is discarded and counted (R336). -/
def execIdle (p : Fin 8) (f : Frame) (s : State) : Out :=
  let l := f.link
  let k := f.pkt
  if s.links[p].st != .up || k.ptype != 0 then .next s
  else
    let s := countFec p l s
    if !frameGood l k then .next (askReplay p s)
    else if refusal s p k != 0 then .next (refuse p k (refusal s p k) s)
    else
      let s := takeLink p l s
      let last := s.links[p].rxNext - 1
      if l.lseq = last || s.links[p].st != .up then .next s else .next (gapAt p last l.lseq s)

/-- A numbered frame: accepted when good and next in order, and acknowledged; else a RETRY; a number outside the replay
window retrains the port. -/
def execLinkFrameReceive (p : Fin 8) (l : FrameLink) (k : Packet) (s : State) : Out :=
  if s.links[p].st != .up then .next s
  else
    let s := countFec p l s
    if !frameGood l k then .next (askReplay p s)
    else
      let s := takeLink p l s
      let x := s.links[p]
      if x.st != .up then .next s
      else if l.lseq = x.rxNext then .next (arrive p k (acknowledge p k (modLink s p fun x => { x with rxNext := x.rxNext + 1 })))
      else .next (gapAt p x.rxNext l.lseq s)

/-! ### Remote requests (R327) -/

/-- REMOTE_TIMEOUT in cycles. -/
def remoteLimit (s : State) : Nat := ccOf s (1000 * atLeast1 (bitsOf (cfgOf s 21).timeouts 0 16))

/-- REMOTE_TIMEOUT has passed since a cycle. -/
def remoteOver (s : State) (since : Nat) : Bool := decide (since + remoteLimit s < s.time.cycle)

/-- A remote request or a MIRROR segment has waited too long. -/
def remoteDue (s : State) : Bool :=
  s.net.remote.any (fun q => remoteOver s q.2.2) || match s.mir.take with
    | none => false
    | some run => run.tags.any fun q => remoteOver s q.2

/-- A remote request, or a MIRROR segment, whose answer has not come within REMOTE_TIMEOUT. -/
def execRemoteTimeout (tag : W16) (s : State) : Out :=
  match s.net.remote.find? fun q => q.1 == tag with
  | some q =>
    if !remoteOver s q.2.2 then .next s
    else .next (failReq q.2.1 { s with net := { s.net with remote := s.net.remote.erase q, fetching := s.net.fetching.erase tag } })
  | none =>
    match s.mir.take with
    | none => .next s
    | some run =>
      match run.tags.find? fun q => q.1 == tag with
      | none => .next s
      | some q => if !remoteOver s q.2 then .next s else .next (mirrorAnswered tag false s)

end Sys2Proof.Machine
end

