-- ==== Sys2Proof/Machine/Registers.lean ====
section
/-! DEFINITION. Writing BAR0 (chapter 21): what a write does to each register that holds a writable field (R404), the rows of
registers with a step of their own, and MCTP writes (R407). -/

namespace Sys2Proof.Machine

/-- Replaces a field of a staged word or register: bits [l + n - 1 : l] of a write. -/
def fieldOf (v : W32) (l n : Nat) : Nat := bitsOf v l n

/-- A wc bit after a write: a 1 clears it, unless the device set it in the same core cycle, whose number plus one is `at_` (R9). -/
def clearBit (old clear : Bool) (at_ now : Nat) : Bool := old && (!clear || at_ == now + 1)

/-! ### Registers with a row of their own -/

/-- TAG_CHECK is written only while the core belongs to no active segment (R62). -/
def writeTagCheck (r : Req) (c : CoreIx) (v : Bool) (s : State) : State :=
  match runningOn s c with
  | some _ => ignoreWrite r 0x100400 s
  | none => modCore s c fun x => { x with girth := { x.girth with tagCheck := v } }

def reasonOff (t : SlotIx) : Nat := 0x10104 + 8 * t.val

/-- RELEASE of a FAULTED task frees its slot, once its segments are Girth-idle (R59); on any other slot it is ignored and recorded (table of chapter 06). -/
def writeRelease (r : Req) (t : SlotIx) (s : State) : State :=
  if s.tasks[t].st == .faulted then releaseWhenIdle t s else ignoreWrite r (reasonOff t) s

/-- ABORT halts the task as a fault under R117 with halt: REASON 0x80. -/
def writeAbort (t : SlotIx) (s : State) : State := if s.tasks[t].live then haltTask t 0x80 s else s

/-- CMD_TAIL is accepted when CMD_TAIL < q' ≤ CMD_DONE + N modulo 2^32 (R220). -/
def writeCmdTail (r : Req) (t : SlotIx) (v : W32) (s : State) : State :=
  let x := s.tasks[t].cmd
  if decide (0 < (v - x.tail).toInt) && decide ((v - (x.done + BitVec.ofNat 32 x.n)).toInt ≤ 0) then
    modCmd s t fun x => { x with tail := v }
  else ignoreWrite r (0x10300 + 32 * t.val) s

/-- A doorbell that is ignored: ERROR and a notice (R310). -/
def badDoorbell (q : Fin 8) (s : State) : State :=
  record (modQueue s q fun x => { x with error := true, errorAt := s.time.cycle + 1 }) 0x6202 notice q.val 0 0 0

def writeSqTail (q : Fin 8) (v : W32) (s : State) : State :=
  let x := s.queues[q]
  let i := fieldOf v 0 12
  if x.enable && decide (i < x.sqSize.toNat) then modQueue s q fun x => { x with sqTail := BitVec.ofNat 12 i } else badDoorbell q s

/-- CQ_HEAD frees room, so held completions are written (R313). -/
def writeCqHead (q : Fin 8) (v : W32) (s : State) : State :=
  let x := s.queues[q]
  let i := fieldOf v 0 12
  if x.enable && decide (i < x.cqSize.toNat) then
    let s := modQueue s q fun x => { x with cqHead := BitVec.ofNat 12 i }
    drainHeld q (s.queues[q].held.length + 1) s
  else badDoorbell q s

/-- ENABLE of a queue (R310): a 1 written to a disabled queue starts it; bit 2 clears ERROR. -/
def writeQueueCtrl (q : Fin 8) (v : W32) (s : State) : State :=
  modQueue s q fun x =>
    let x := { x with error := clearBit x.error (bit v 2) x.errorAt s.time.cycle }
    if !bit v 0 then { x with enable := false }
    else if x.enable then x
    else { x with enable := true, sqHead := 0, cqTail := 0, sqTail := 0, cqHead := 0, phase := true, full := false, held := [] }

/-! ### Registers of the hub -/

/-- A write that a rule allows only under a condition; otherwise it changes nothing. -/
def onlyIf (c : Bool) (f : State → State) (s : State) : State := if c then f s else s

/-- The same, where the rule has the ignored write recorded. -/
def onlyIfElse (c : Bool) (r : Req) (off : Nat) (f : State → State) (s : State) : State := if c then f s else ignoreWrite r off s

def modShadow (s : State) (f : Staged → Staged) : State := { s with staging := { s.staging with shadow := f s.staging.shadow } }

def writeStash (r : Req) (t : SlotIx) (o off : Nat) (v : W32) (s : State) : State :=
  let m := fun f : Stash → Stash => modTask s t fun T => { T with stash := f T.stash }
  if !s.tasks[t].stash.ovf.isEmpty then ignoreWrite r off s
  else if o = 16 then m fun x => { x with ovfBase := setLo x.ovfBase v }
  else if o = 20 then m fun x => { x with ovfBase := setHi x.ovfBase v }
  else if o = 24 then m fun x => { x with ovfLimit := v.setWidth 24 }
  else s

/-- The Rhaor registers (R256, R294): firmware enables a companion after it has reported descriptor version 1, which its write
stands for (log 27); in 68 B mode none can be enabled. RH_QUEUE and RH_CMPL are written only while ENABLE is 0. -/
def writeRhaor (r : Req) (i : Fin 8) (off : Nat) (v : W32) (s : State) : State :=
  let x := s.rhaor[i]
  let put := fun y : Rhaor => { s with rhaor := s.rhaor.set i y }
  if off = 0x10804 then
    if !bit v 0 then put { x with enable := false }
    else
      let ok := x.versionOk || r == .fw
      if ok && s.cxl.uioEn then put { x with enable := true, versionOk := true } else put { x with versionOk := ok }
  else if off = 0x10824 then put { x with timeout := v.setWidth 16 }
  else if x.enable then ignoreWrite r off s
  else if off = 0x10808 then put { x with queue := setLo x.queue v }
  else if off = 0x1080C then put { x with queue := setHi x.queue v }
  else if off = 0x10810 then put { x with cmpl := setLo x.cmpl v }
  else put { x with cmpl := setHi x.cmpl v }

/-- The queue settings are written only while ENABLE is 0 (R310). -/
def writeQueue (q : Fin 8) (off : Nat) (v : W32) (s : State) : State :=
  if off = 0x10B18 then writeQueueCtrl q v s
  else onlyIf (!s.queues[q].enable) (fun s => modQueue s q fun x =>
    if off = 0x10B04 then { x with sqBase := setLo x.sqBase v }
    else if off = 0x10B08 then { x with sqBase := setHi x.sqBase v }
    else if off = 0x10B0C then { x with cqBase := setLo x.cqBase v }
    else if off = 0x10B10 then { x with cqBase := setHi x.cqBase v }
    else { x with sqSize := BitVec.ofNat 13 (fieldOf v 0 13), cqSize := BitVec.ofNat 13 (fieldOf v 16 13) }) s

def pokeHub (r : Req) (off : Nat) (v : W32) (s : State) : State :=
  let x := reqCopy s r
  match inArray 0x10100 8 16 off, inArray 0x10300 32 16 off, inArray 0x10500 32 16 off, inArray 0x10A00 8 8 off with
  | some (t, _), _, _, _ =>
    let s := if bit v 8 then writeRelease r t s else s
    if bit v 9 then writeAbort t s else s
  | _, some (t, _), _, _ => writeCmdTail r t v s
  | _, _, some (t, o), _ => writeStash r t o off v s
  | _, _, _, some (i, o) => if o = 0 then writeSqTail (Fin.ofNat 8 i.val) v s else writeCqHead (Fin.ofNat 8 i.val) v s
  | none, none, none, none =>
    if off = 0x10200 then modReq s r fun x => { x with gctrSel := v.setWidth 12 }
    else if off = 0x10220 then modShadow s fun y => { y with skew := v &&& 0xFFFF }
    else if off = 0x10700 then { s with stashTimeout := v.setWidth 16 }
    else if off = 0x10800 then modReq s r fun x => { x with rhSel := v.setWidth 3 }
    else if off < 0x10828 then writeRhaor r x.comp off v s
    else if off = 0x10B00 then modReq s r fun x => { x with queueSel := v.setWidth 3 }
    else if off < 0x10B24 then writeQueue x.queue off v s
    else if off = 0x10C04 then onlyIf (!s.cxl.memEn) (fun s => { s with cxl := { s.cxl with
      hdmBase := BitVec.ofNat 11 (fieldOf v 0 11), hdmSize := BitVec.ofNat 9 (fieldOf v 16 9) } }) s
    else if off = 0x10C0C then
      modShadow { s with cxl := { s.cxl with timeout := v.setWidth 16 } } fun y => { y with memHorizon := BitVec.ofNat 32 (fieldOf v 16 16) }
    else if off = 0x10D00 then
      let s := { s with staging := { s.staging with profileLock := bit v 1 } }
      if bit v 0 then commitShadow s else s
    else if off = 0x10D08 then modReq s r fun x => { x with unitSel := v.setWidth 6 }
    else s

/-! ### Registers of the cores -/

/-- Clearing FAULTED clears CAUSE, INFO and FAULT_PC (table of chapter 06); a fault of the same cycle stays (R9). -/
def clearFaulted (now : Nat) (k : Ctx) : Ctx :=
  if k.faultAt = some now then k else { k with faulted := false, cause := 0, info := 0, faultPc := 0, faultAt := none }

/-- Clears VFLAGS bits; those set in the same cycle stay (R9). -/
def clearVflags (now : Nat) (m : BitVec 4) (k : Ctx) : Ctx :=
  { k with vflags := k.vflags &&& (~~~m ||| if k.vflagsAt.1 = now + 1 then k.vflagsAt.2 else 0) }

def pokeCore (r : Req) (off : Nat) (v : W32) (s : State) : State :=
  let x := reqCopy s r
  let m := modCore s x.core
  let now := s.time.cycle
  if off = 0x100400 then writeTagCheck r x.core (bit v 0) s
  else if off = 0x100404 then m fun c => { c with girth :=
    { c.girth with
      tagFault := clearBit c.girth.tagFault (bit v 0) c.girth.tagFaultAt now,
      slotFault := clearBit c.girth.slotFault (bit v 1) c.girth.slotFaultAt now } }
  else if off = 0x100440 then m fun c => { c with array := { c.array with fault := clearBit c.array.fault (bit v 0) c.array.faultAt now } }
  else if off = 0x100480 then
    let f := fun (c : Core) (i : CtxIx) => clearVflags now (BitVec.ofNat 4 (fieldOf v (4 * i.val) 4)) c.ctx[i]
    m fun c => { c with ctx := Vector.ofFn (f c) }
  else if off = 0x10048C then modReq s r fun x => { x with srCtx := v.setWidth 2 }
  else if off = 0x100508 then modReq s r fun x => { x with ctxSel := v.setWidth 2 }
  else if off = 0x100510 then if bit v 8 then modCtx s x.core x.ctx (clearFaulted now) else s
  else if off = 0x100520 then modReq s r fun x => { x with sregIdx := v.setWidth 5 }
  else if off = 0x100540 then m fun c => { c with timed := { c.timed with fault := clearBit c.timed.fault (bit v 0) c.timed.faultAt now } }
  else if off = 0x10058C then modReq s r fun x => { x with winSel := v.setWidth 3 }
  else if off = 0x1005A0 then m fun c => { c with winRegs := { c.winRegs with fault := clearBit c.winRegs.fault (bit v 0) c.winRegs.faultAt now } }
  else if off = 0x1005C0 then modReq s r fun x => { x with streamSel := v.setWidth 5 }
  else if off = 0x100600 then modReq s r fun x => { x with ctrSel := v.setWidth 8 }
  else if off = 0x10060C then m fun c => { c with ctrRegs := { c.ctrRegs with drift := clearBit c.ctrRegs.drift (bit v 0) c.ctrRegs.driftAt now } }
  else if off = 0x10F000 then { s with buckleNext := v.setWidth 12 }
  else s

/-! ### Stack and link blocks -/

def pokeStack (r : Req) (off : Nat) (v : W32) (s : State) : State :=
  let x := reqCopy s r
  if off = 0x200014 then modPort s x.stack fun p => { p with ueLatched := clearBit p.ueLatched (bit v 0) p.ueLatchedAt s.time.cycle }
  else if off = 0x200150 then modPort s x.stack fun p => { p with skewLatched := clearBit p.skewLatched (bit v 0) p.skewLatchedAt s.time.cycle }
  else if off = 0x20F000 then modShadow s fun y => { y with arb := v &&& 0x1FFFFF }
  else if off = 0x20F004 then modShadow s fun y => { y with policy := v &&& 1 }
  else if off = 0x20F008 then modShadow s fun y => { y with horizon := v &&& 0xFFFF }
  else if off = 0x20F00C then modShadow s fun y => { y with scrub := v &&& 0xFF }
  else s

/-- An entry that names group `g` is posted (chapter 16). -/
def groupPosted (s : State) (g : Fin 16) : Bool := s.tasks.any fun T => T.cmd.posted.any fun e =>
  !e.finished && (Entry.engine e.words == 1 || Entry.engine e.words == 2) && Entry.group e.words == g.val

def writeGroup (r : Req) (g : Fin 16) (o off : Nat) (v : W32) (s : State) : State :=
  onlyIfElse (!groupPosted s g) r off (fun s =>
    let y := s.net.groups[g]
    let y := if o = 0 then { y with origin := v.setWidth 24, valid := bit v 31 } else { y with extent := v.setWidth 24 }
    { s with net := { s.net with groups := s.net.groups.set g y } }) s

def allDown (s : State) : Bool := s.links.all fun p => p.st == .down

def pokeMirror (off : Nat) (v : W32) (s : State) : State :=
  let m := s.mir
  if off = 0x30F200 then { s with mir := { m with partner := v.setWidth 24 } }
  else if off = 0x30F204 then { s with mir := { m with guest := v.setWidth 24 } }
  else if off = 0x30F208 then { s with mir := { m with partnerBag := setLo m.partnerBag v } }
  else if off = 0x30F20C then { s with mir := { m with partnerBag := setHi m.partnerBag v } }
  else if off = 0x30F23C then modShadow s fun y => { y with nextInterval := v &&& 0xFFFFFF }
  else if off = 0x30F240 then modShadow s fun y => { y with nextBase := v }
  else if off = 0x30F244 then modShadow s fun y => { y with mirror := v &&& 0x3FF }
  else if off = 0x30F248 then { s with mir := { m with snapPrior := v } }
  else s

def pokeLink (r : Req) (off : Nat) (v : W32) (s : State) : State :=
  let x := reqCopy s r
  if off = 0x300000 then enablePort x.port (bit v 0) (bit v 8) s
  else if off = 0x300018 then modLink s x.port fun p => { p with viol := clearBit p.viol (bit v 0) p.violAt s.time.cycle }
  else if off = 0x30F000 then onlyIf (allDown s) (fun s => { s with net := { s.net with coord := v.setWidth 24 } }) s
  else if off = 0x30F004 then onlyIf (allDown s) (fun s => { s with net := { s.net with dims := v.setWidth 24 } }) s
  else if off = 0x30F008 then modShadow s fun y => { y with express := v &&& 0x1FF }
  else if off = 0x30F00C then modShadow s fun y => { y with epoch := v }
  else if off = 0x30F010 then modShadow s fun y => { y with timeouts := v }
  else if off = 0x30F014 then modShadow s fun y => { y with collLo := v }
  else if off = 0x30F018 then modShadow s fun y => { y with collHi := v }
  else match inArray 0x30F100 8 16 off with
    | some (g, o) => writeGroup r g o off v s
    | none => pokeMirror off v s

/-! ### Power, recorder, mailbox, time, selection -/

/-- NEXT_CORE_STEP, NEXT_QUAD_STEP, NEXT_HUB_STEP: a code outside its table is ignored and recorded (R355). -/
def writeNextSteps (r : Req) (v : W32) (s : State) : State :=
  let cs := fieldOf v 4 3
  let qs := fieldOf v 10 2
  let p := s.power
  let s := { s with power := { p with
    nextCoreStep := if cs < 6 then BitVec.ofNat 3 cs else p.nextCoreStep
    nextQuadStep := if qs < 3 then BitVec.ofNat 2 qs else p.nextQuadStep
    nextHubStep := bit v 13 } }
  if cs < 6 ∧ qs < 3 then s else ignoreWrite r 0x400000 s

/-- WARN_TH and ALARM_TH: an ALARM_TH at or above WARN_TH is ignored and recorded (R360). -/
def writeThresholds (r : Req) (i : Fin 29) (v : W32) (s : State) : State :=
  let w : Byte := BitVec.ofNat 8 (fieldOf v 0 8)
  let a : Byte := BitVec.ofNat 8 (fieldOf v 8 8)
  let s := modRegion s i fun x => { x with warnTh := w }
  if a.toNat < w.toNat then modRegion s i fun x => { x with alarmTh := a } else ignoreWrite r 0x400104 s

def pokePower (r : Req) (off : Nat) (v : W32) (s : State) : State :=
  let x := reqCopy s r
  if off = 0x400000 then writeNextSteps r v s
  else if off = 0x400004 then { s with power := { s.power with modeNext := bit v 0 } }
  else if off = 0x400008 then setTdpCap v s
  else if off = 0x400020 then setVoltOffset v s
  else if off = 0x400024 then { s with power := { s.power with tjWarn := BitVec.ofNat 8 (max 70 (min 100 (fieldOf v 0 8))) } }
  else if off = 0x400100 then modRegion s x.region fun y => { y with lostLock := clearBit y.lostLock (bit v 1) y.lostLockAt s.time.cycle }
  else if off = 0x400104 then writeThresholds r x.region v s
  else s

/-- ARM acts under the FREEZE bits before the write, then ARM_REFUSED clears and FREEZE takes its new value. -/
def pokeRecorder (r : Req) (off : Nat) (v : W32) (s : State) : State :=
  if off = 0x540000 then
    let s := { s with recorder := { s.recorder with
      armRefused := clearBit s.recorder.armRefused (bit v 3) s.recorder.armRefusedAt s.time.cycle } }
    let s := if bit v 0 then armLog r s else s
    setFreeze r (bit v 1) s
  else if off = 0x54001C then
    { s with recorder := { s.recorder with rlWindow := BitVec.ofNat 16 (fieldOf v 0 16), rlRate := BitVec.ofNat 8 (fieldOf v 16 8),
                                           rlBurst := BitVec.ofNat 8 (fieldOf v 24 8) } }
  else s

/-- OPCODE, ARG_LEN, GO and MB_DATA: ignored and recorded while BUSY (R395). GO runs the command in MB_DATA. -/
def pokeMailbox (r : Req) (off : Nat) (v : W32) (s : State) : State :=
  if off = 0x60000C then { s with stTimeout := v }
  else if s.mbHost.busy then ignoreWrite r off s
  else if off = 0x600000 then
    let s := { s with mbHost := { s.mbHost with opcode := BitVec.ofNat 8 (fieldOf v 0 8), argLen := BitVec.ofNat 13 (fieldOf v 16 13) } }
    if bit v 8 then
      let m := s.mbHost
      mbArrive .host m.opcode m.argLen.toNat ((List.range ((m.argLen.toNat + 3) / 4)).map fun i => tget 0 m.data i) s
    else s
  else { s with mbHost := { s.mbHost with data := tset 0 s.mbHost.data ((off - 0x601000) / 4) v } }

def pokeTime (off : Nat) (v : W32) (s : State) : State :=
  if off = 0x70000C then
    let s := { s with time := { s.time with prio := v.setWidth 8, eligible := bit v 8 } }
    if bit v 9 then acquireTime s else s
  else { s with time := { s.time with holdLimit := v.setWidth 16 } }

def pokeSelect (r : Req) (off : Nat) (v : W32) (s : State) : State :=
  modReq s r fun x =>
    if off = 0x100 then { x with coreSel := v.setWidth 8 }
    else if off = 0x104 then { x with stackSel := v.setWidth 4 }
    else if off = 0x108 then { x with lkupSel := v.setWidth 4 }
    else if off = 0x10C then { x with portSel := v.setWidth 3 }
    else { x with regionSel := v.setWidth 5 }

/-- What a write does to the writable fields of a register, by region. -/
def poke (r : Req) (off : Nat) (v : W32) (s : State) : State :=
  if off < 0x10000 then pokeSelect r off v s
  else if off < 0x100000 then pokeHub r off v s
  else if off < 0x200000 then pokeCore r off v s
  else if off < 0x300000 then pokeStack r off v s
  else if off < 0x400000 then pokeLink r off v s
  else if off < 0x500000 then pokePower r off v s
  else if off < 0x600000 then pokeRecorder r off v s
  else if off < 0x700000 then pokeMailbox r off v s
  else pokeTime off v s

/-! ### Writes (R403 to R405) -/

/-- A write that reaches a register: it is not discarded, its block answers, its select value names a unit, the unit's clock runs. -/
def reach (r : Req) (off : Nat) (f : State → State) (s : State) : State :=
  let x := reqCopy s r
  if discards s r || !answers s off || !served r off then s
  else if !selValid x off then refuseAccess r 1 off s
  else if !unitLive s x off then s
  else f s

/-- A write of one aligned word. -/
def write32 (r : Req) (off : Nat) (v : W32) (s : State) : State :=
  if discards s r || !awake s r off then s
  else match regKind off with
    | some true => reach r off (poke r off v) s
    | _ => ignoreWrite r off s

/-- A write of `size` bytes: short and misaligned ones change nothing and are recorded (R403). -/
def writeReg (r : Req) (off size : Nat) (v : W64) (s : State) : State :=
  if size = 4 && off % 4 == 0 then write32 r off (loW v) s
  else if size = 8 && off % 8 == 0 then write32 r (off + 4) (hiW v) (write32 r off (loW v) s)
  else if discards s r || !awake s r off then s
  else ignoreWrite r off s

def execRegisterWrite (r : Req) (off : W32) (size : Nat) (v : W64) (s : State) : Out := .next (writeReg r off.toNat size v s)

/-- An MCTP write of 32 bits: the response gives back the layout of the request, its data with it (R407). -/
def execMgmtWrite32 (off data : W32) (s : State) : Out :=
  if off.toNat % 4 != 0 || decide (barBytes ≤ off.toNat) then .next (mctpAnswer 1 off (data.setWidth 64) s)
  else .next (mctpAnswer 0 off (data.setWidth 64) (write32 .mgmt off.toNat data s))

def execCfgCommit (r : Req) (s : State) : Out := .next (reach r 0x10D00 commitShadow s)

def execTagCheckWrite (r : Req) (v : Bool) (s : State) : Out :=
  .next (reach r 0x100400 (writeTagCheck r (reqCopy s r).core v) s)

def execTaskRelease (r : Req) (t : SlotIx) (s : State) : Out := .next (reach r (reasonOff t) (writeRelease r t) s)

def execTaskAbort (r : Req) (t : SlotIx) (s : State) : Out := .next (reach r (reasonOff t) (writeAbort t) s)

def execCmdTailWrite (r : Req) (t : SlotIx) (v : W32) (s : State) : Out :=
  .next (reach r (0x10300 + 32 * t.val) (writeCmdTail r t v) s)

def execSqDoorbell (r : Req) (q : Fin 8) (v : W32) (s : State) : Out := .next (reach r (0x10A00 + 8 * q.val) (writeSqTail q v) s)

def execCqDoorbell (r : Req) (q : Fin 8) (v : W32) (s : State) : Out := .next (reach r (0x10A04 + 8 * q.val) (writeCqHead q v) s)

def execQueueEnable (r : Req) (s : State) : Out := .next (reach r 0x10B18 (writeQueueCtrl (reqCopy s r).queue 1) s)

def execTdpCapWrite (r : Req) (v : W32) (s : State) : Out := .next (reach r 0x400008 (setTdpCap v) s)

def execVoltOffsetWrite (r : Req) (v : W32) (s : State) : Out := .next (reach r 0x400020 (setVoltOffset v) s)

def execPortEnable (r : Req) (v : W32) (s : State) : Out :=
  .next (reach r 0x300000 (enablePort (reqCopy s r).port (bit v 0) (bit v 8)) s)

end Sys2Proof.Machine
end

