-- ==== Sys2Proof/Machine/Attach.lean ====
section
/-! DEFINITION. The host attachment (chapter 15): the CXL link (R294), slow-tier answers (R300, R303, R304), the CXL.mem
window (R305 to R309), MSI-X unmasking (R297), DOE (R298); and the resets of R314 and R315. -/

namespace Sys2Proof.Machine

/-! ### The link and the slow tier -/

/-- The link comes up; in 68 B mode UIO and back-invalidation are unavailable, no companion stays enabled, and a notice is recorded
(R294). -/
def execCxlLinkUp (width : Nat) (rate flit : BitVec 2) (s : State) : Out :=
  if s.cxl.linkUp || !([4, 8, 16].contains width) || flit = 3 then .next s
  else
    let s := { s with cxl := { s.cxl with linkUp := true, inReset := false, width := BitVec.ofNat 5 width, rate := rate.setWidth 3, flit := flit,
                                          uioEn := flit != 0, biEn := flit != 0 } }
    .next (if flit = 0 then
        record { s with rhaor := s.rhaor.map fun x => { x with enable := false } } 0x6201 notice 0 0 0 0
      else s)

/-- One message of a slow-tier request is answered with `got`, or has failed; with the last of them the request is. -/
def slowAnswered (m : MemReq) (got : List (Nat × List Byte × Bool)) (failed : Bool) (s : State) : State :=
  let s := { s with cxl := { s.cxl with outstanding := s.cxl.outstanding.filter fun q => q.1.id != m.id } }
  let s := slowDrain s.cxl.waiting.length s
  match s.cxl.slow.find? fun q => q.left.contains m.id with
  | none => s
  | some q =>
   if q.req.write && !m.write && !failed then
    let old := got.headD (m.addr, [], false)
    let w := mergedLine q.req s.nextId m.addr old.2.1 old.2.2
    let v : SlowReq := { q with left := w.id :: q.left.erase m.id }
    slowDrain (s.cxl.waiting.length + 1)
      { s with nextId := s.nextId + 1
               cxl := { s.cxl with slow := s.cxl.slow.map fun u => if u = q then v else u, waiting := s.cxl.waiting ++ [w] } }
   else
    let v : SlowReq := { q with left := q.left.erase m.id, got := q.got ++ got, failed := q.failed || failed }
    let s := { s with cxl := { s.cxl with slow := s.cxl.slow.filter fun u => u != q } }
    if !v.left.isEmpty then { s with cxl := { s.cxl with slow := s.cxl.slow ++ [v] } }
    else if v.failed then failMem v.req s
    else if v.req.write then answerMem v.req [] [] s
    else
      let gs := unitParts 64 v.req.addr v.req.len
      let x := fun u : Nat × Nat => (v.got.find? fun e => decide (e.1 ≤ u.1) && decide (u.1 + u.2 ≤ e.1 + e.2.1.length)).map fun e =>
        ((e.2.1.drop (u.1 - e.1)).take u.2, e.2.2)
      answerMem v.req (gs.flatMap fun u => ((x u).map (·.1)).getD (List.replicate u.2 0)) (gs.map fun u => ((x u).map (·.2)).getD true) s

/-- A slow-tier message fails (R304): its counter, an event whose severity the manual does not state (log 2), and R203. -/
def slowFails (r : MemReq) (s : State) : State :=
  let uio := byUio r.addr
  let sev := Config.free 2 s.freeCtr
  let x := s.cxl
  let x := if uio then { x with uioErr := satInc x.uioErr } else { x with cacheErr := satInc x.cacheErr }
  slowAnswered r [] true (record { s with cxl := x, freeCtr := s.freeCtr + 1 } (if uio then 0x6002 else 0x6001) sev 0 r.addr 0 0)

/-- The answer to an outstanding message: data for a read, GO or completion for a write, an error (R300, R304). -/
def execCxlResponse (id : Nat) (a : SlowAnswer) (s : State) : Out :=
  match s.cxl.outstanding.find? fun q => q.1.id == id with
  | none => .next s
  | some q =>
    let r := q.1
    match a with
    | .data bytes poison =>
      if r.write then .next s else .next (slowAnswered r [(r.addr, padTo r.len bytes, poison)] false s)
    | .done => if r.write then .next (slowAnswered r [] false s) else .next s
    | .error => .next (slowFails r s)

/-- CXL_TIMEOUT has passed since a request left. -/
def cxlOver (s : State) (q : MemReq × Nat) : Bool := decide (q.2 + ccOf s (1000 * atLeast1 s.cxl.timeout.toNat) < s.time.cycle)

/-- No answer within CXL_TIMEOUT (R304). -/
def execCxlTimeout (id : Nat) (s : State) : Out :=
  match s.cxl.outstanding.find? fun q => q.1.id == id with
  | none => .next s
  | some q =>
    if cxlOver s q then .next (slowFails q.1 s) else .next s

/-- Firmware's measurement while the port is idle (R303). -/
def execSlowLatMeasure (cache uio : W16) (s : State) : Out :=
  if s.cxl.linkUp && s.cxl.outstanding.isEmpty && s.sec.fw == .ready then
    .next { s with cxl := { s.cxl with slowLat := cache, uioLat := uio } }
  else .next s

/-- A snoop of the host: the device holds no line (R300). -/
def execHostSnoop (line : W64) (s : State) : Out := .next (emit s (.snoopResp line))

def execCacheEnable (on : Bool) (s : State) : Out := .next { s with cxl := { s.cxl with cacheEn := on } }

/-! ### The window (R305 to R309) -/

/-- Bytes of the window. -/
def windowBytes (s : State) : Nat := s.cxl.hdmSize.toNat * 2 ^ 28

/-- The host commits or uncommits decoder 0 (R305): a window of 1 to 256 units that ends at or below 288 GiB, exposed only
with back-invalidation (R294), at a host physical address, interleaved 1, 2, 4, 8 or 16 ways at 256 B to 16 KiB. An uncommitted window
has no tracked lines. -/
def execHdmDecoderCommit (commit : Option HdmDecoder) (s : State) : Out :=
  let x := s.cxl
  let fits := decide (1 ≤ x.hdmSize.toNat) && decide (x.hdmSize.toNat ≤ 256) && decide (x.hdmBase.toNat + x.hdmSize.toNat ≤ 1152)
  match commit with
  | none => .next { s with cxl := { x with memEn := false, filter := [] } }
  | some d =>
    let shares := [1, 2, 4, 8, 16].contains d.ways && [256, 512, 1024, 2048, 4096, 8192, 16384].contains d.gran
    if x.biEn && fits && shares then
      .next { s with cxl := { x with memEn := true, hpaBase := d.base, ways := d.ways, gran := d.gran } }
    else .next s

/-- The DPA that a host physical address of the window names; none outside the window's host physical range (R305, R309). -/
def dpaOf (s : State) (hpa : Nat) : Option Nat :=
  let x := s.cxl
  if hpa < x.hpaBase.toNat ∨ x.hpaBase.toNat + windowBytes s * x.ways ≤ hpa then none
  else
    let o := hpa - x.hpaBase.toNat
    some (o / (x.gran * atLeast1 x.ways) * x.gran + o % atLeast1 x.gran)

/-- A request to the window enters its stack port in class 1 with a deadline of FT plus MEM_HORIZON (R306). -/
def windowReq (who : Agent) (x : ExtReq) (dpa n : Nat) (bytes : List Byte) (s : State) : State :=
  let r : MemReq :=
    { id := s.nextId, agent := who, write := x.write, addr := s.cxl.hdmBase.toNat * 2 ^ 28 + dpa, len := n, gran := 0, data := bytes,
      poison := if x.write then List.replicate ((n + 63) / 64) x.poison else [], rt := false,
      deadline := BitVec.ofNat 32 (ftNow s + bitsOf (cfgOf s 20).memHorizon 0 16), snooped := false, due := s.time.cycle }
  { s with nextId := s.nextId + 1, fabric := s.fabric ++ [r] }

/-- The bytes a request covers. -/
def extBytes (x : ExtReq) : Nat := if x.write then x.bytes.length else x.len

/-- A host CXL.mem request names, by its host physical address, bytes of one 64 B line of the committed window. -/
def execHostMemRequest (x : ExtReq) (s : State) : Out :=
  let a := x.addr.toNat
  let n := extBytes x
  if s.cxl.linkUp && s.cxl.memEn && n != 0 && decide (a % 64 + n ≤ 64) then
    match dpaOf s a with
    | none => .next s
    | some d => .next (windowReq .host x d n x.bytes s)
  else .next s

/-- A peer's UIO request of up to 256 B, by 256 B granule; outside the window's host physical range it is an unsupported request
(R309). -/
def execUioPeerRequest (x : ExtReq) (s : State) : Out :=
  let a := x.addr.toNat
  let n := extBytes x
  if !s.cxl.linkUp || !s.cxl.uioEn || n = 0 || decide (256 < n) then .next s
  else if !s.cxl.memEn || (dpaOf s a).isNone || (dpaOf s (a + n - 1)).isNone then .next (emit s .unsupported)
  else .next ((unitParts 256 a n).foldl (fun s u =>
    windowReq .peer x ((dpaOf s u.1).getD 0) u.2 ((x.bytes.drop (u.1 - a)).take u.2) s) s)

/-! ### MSI-X and DOE -/

/-- What the configuration space and BAR4 report (R296, R305, R314, R386): the sizes of DVSEC ranges 1 and 2, Mem_Active, the CXL Reset
timeout in ms, BAR4. -/
structure ConfigSpace where
  range1 : Nat
  range2 : Nat
  memActive : Bool
  resetTimeout : Nat
  bar4 : Nat
deriving DecidableEq, Repr

/-- No command reads it (log 115). -/
def configSpace (s : State) : ConfigSpace :=
  { range1 := windowBytes s, range2 := 0, memActive := s.cxl.memActive, resetTimeout := 100, bar4 := 0 }


/-- A vector is unmasked: its pending bit gives one message (R297). -/
def execMsixVectorUnmask (v : Byte) (s : State) : Out :=
  let x := s.cxl
  let due := tget false x.pendingBits v.toNat
  let s := { s with cxl := { x with masked := tset true x.masked v.toNat false, pendingBits := tset false x.pendingBits v.toNat false } }
  .next (if due then msix v s else s)

/-- DOE Discovery lists the protocols; CDAT Table Access returns the DSMAS and the DSLBIS entries (R298). -/
def execCdatTableAccess (discovery : Bool) (s : State) : Out :=
  if discovery then .next (emit s (.doeProtocols [.discovery, .cdatAccess, .spdm, .securedSpdm]))
  else .next (emit s (.cdat [.dsmas 0 (windowBytes s), .readLatency 320, .writeLatency 320, .readBandwidth 100, .writeBandwidth 100]))

/-! ### Resets of the host attachment (R314) -/

/-- Tasks from queues are aborted as under R117 and released; those that firmware submitted survive. -/
def abortQueueTasks (s : State) : State :=
  (List.finRange 16).foldl (fun s t =>
    let T := s.tasks[t]
    if T.queue.isNone then s
    else if T.st == .faulted then releaseWhenIdle t s
    else if T.live then haltTask t 0x80 (modTask s t fun x => { x with queue := none, autoRelease := true })
    else s) s

/-- Every slow-tier request that is outstanding fails at its destination (R203, R315). -/
def failSlow (s : State) : State :=
  s.cxl.slow.foldl (fun s q => failMem q.req s) { s with cxl := { s.cxl with outstanding := [], waiting := [], slow := [] } }

/-- Every tag outstanding at a companion is retired with an error, and the companion disabled (R315; log 120). -/
def retireTags (s : State) : State :=
  (List.finRange 8).foldl (fun s i => s.rhaor[i].tags.foldl (fun s q => retireTag i q s) s) s

/-- CXL.io, queues and MSI-X are reset, with the host's own copies, once tasks and requests have ended without a completion (R314,
R315, R409). -/
def resetIo (s : State) : State :=
  let s := retireTags (failSlow (abortQueueTasks s))
  { s with submit := none, runs := s.runs.filter fun u => u.key != submitKey
           queues := Vector.replicate 8 Queue.reset, rrQueue := 7, reqHost := ReqCopy.reset,
           cxl := { s.cxl with masked := [], pendingBits := [] } }

/-- The decoder is uncommitted, the snoop filter cleared, the IDE keys discarded; accesses that waited for a snoop proceed. -/
def resetMem (s : State) : State :=
  { s with
    fabric := s.cxl.snoops.map (fun q => { q.2.2 with snooped := true }) ++ s.fabric
    cxl := { s.cxl with memEn := false, filter := [], snoops := [], ide := false } }

/-- A hot reset or the link going down: the link is down, and the configuration space with Cache_Enable is reset. -/
def hotReset (s : State) : State :=
  let s := resetMem (resetIo s)
  { s with cxl := { s.cxl with linkUp := false, inReset := true, width := 0, rate := 0, flit := 0, cacheEn := false, uioEn := false, biEn := false } }

def execHotReset (s : State) : Out := .next (hotReset s)

def execFlr (s : State) : Out := .next (resetIo s)

/-- Mem Clr zeroes the window. -/
def clearWindow (s : State) : State :=
  let a := s.cxl.hdmBase.toNat * 2 ^ 28
  let b := a + windowBytes s
  { s with dram := s.dram.filter (fun q => decide (q.1 < a) || decide (b ≤ q.1))
           loose := s.loose.flatMap (Loose.cut a (b - a))
           dramPoison := s.dramPoison.filter fun q => decide (32 * q.1 < a) || decide (b ≤ 32 * q.1) }

/-- CXL.io, CXL.cache and CXL.mem are reset as at a hot reset; the link stays up, and with it what its flit mode gives (R294, R314). -/
def execCxlReset (memClr : Bool) (s : State) : Out :=
  let s := resetMem (resetIo s)
  let s := { s with cxl := { s.cxl with cacheEn := false } }
  .next (if memClr then clearWindow s else s)

end Sys2Proof.Machine
end

