-- ==== Sys2Proof/Machine/Bringup.lean ====
section
/-! DEFINITION. Loss of clock (R357), PERST_N and power (R374, R386 to R390), firmware update (R394), SPDM (R392). -/

namespace Sys2Proof.Machine

/-! ### Loss of lock (R357) -/

/-- A core region: every task that holds a segment containing the sector is FAULTED, its blocks there stop, and segment launches
across the sector are refused until reset. -/
def lostCore (p : SecIx) (s : State) : State :=
  let s := (List.finRange 16).foldl (fun s t =>
    if s.tasks[t].live && bit s.tasks[t].sectors p.val then faultTask t 0xFE false s else s) s
  let s := (sectorCores p).foldl (fun s c => modCore s c fun x => { x with blk := none, pend := none }) s
  modDuty s p fun d => { d with refused := true }

/-- A port region: what the port holds fails at its destination. -/
def lostPort (p : SecIx) (s : State) : State :=
  let x := s.ports[p]
  let members := x.entries.flatMap fun e => if e.returned then [] else e.members
  let writes := (x.queue.filter fun q => q.req.write).map Queued.req ++ x.records.flatMap RecordAsm.waiting
  let s := modPort s p fun x => { x with entries := [], queue := [], records := [] }
  (members ++ writes).foldl (fun s r => failMem r s) s

/-- A link port goes DOWN; its ENABLE stays. -/
def portDown (p : Fin 8) (s : State) : State :=
  let on := s.links[p].enable
  let s := enablePort p false s.links[p].hlMax2 s
  modLink s p fun x => { x with enable := on }

/-- A quadrant: its two link ports go DOWN; Q0 takes the CXL link down as a hot reset does. -/
def lostQuadrant (k : Nat) (s : State) : State :=
  let s := portDown (Fin.ofNat 8 (2 * k)) (portDown (Fin.ofNat 8 (2 * k + 1)) s)
  if k = 0 then hotReset s else s

def execLostLock (r : Fin 29) (s : State) : Out :=
  let s := modRegion s r fun x => { x with locked := false, lostLock := true, lostLockAt := s.time.cycle + 1 }
  let s := record s 0x8100 fatal r.val 0 0 0
  if h : r.val < 12 then .next (lostCore ⟨r.val, h⟩ s)
  else if h : r.val < 24 then .next (lostPort ⟨r.val - 12, by omega⟩ s)
  else if r.val < 28 then .next (lostQuadrant (r.val - 24) s)
  else .next (thermalShutdown 4 s)

/-! ### Reset of the device -/

/-- A sensor reads above 90 °C, which keeps the device in thermal shutdown (R374). -/
def tooHot (s : State) : Bool :=
  s.power.shutdown && (s.regions.any (fun r => decide (90 < r.temp.toNat)) || s.ports.any fun p => decide (90 < p.temp.toNat))

/-- The state after a reset of the whole device: every register at its reset value; the nonvolatile store, the fuses, the flash
with its images and link seeds, and what the sensors read are kept; FT counts from 0. -/
def deviceReset (s : State) : State :=
  let x := s.sec
  let y := State.reset.sec
  let fresh := { State.reset with
    pending := s.pending, out := s.out, freeCtr := s.freeCtr, nextId := s.nextId
    links := s.links.map fun p => { LinkPort.reset with seeds := p.seeds }
    regions := s.regions.map fun r => { Region.reset with temp := r.temp }
    ports := s.ports.map fun p => { Port.reset with temp := p.temp, tempMax := p.temp }
    time := { Time.reset with cycle := s.time.cycle }
    sec := { y with idKey := x.idKey, chain := x.chain, signedFuse := x.signedFuse, minSvn := x.minSvn, flashA := x.flashA, flashB := x.flashB, idn := x.idn,
                    stepping := x.stepping, gaps := x.gaps, updated := x.updated, fused := x.fused } }
  rebase 0 3 fresh

/-- Assertion of PERST_N (R388): what is outstanding at the slow tier and at companions fails as at every reset (R315), every task ends with REASON 0xFE and no completion; the recorder, ENERGY and SHUTDOWN_CAUSE
are kept. Refused while a sensor is too hot in thermal shutdown. -/
def execPerstN (s : State) : Out :=
  if tooHot s then .next s
  else
    let ended := s.tasks.map fun T => T.live
    let s := retireTags (failSlow s)
    let s := (List.finRange 16).foldl (fun s t => if s.tasks[t].live then faultTask t 0xFE true s else s) s
    let f := deviceReset s
    let tasks := Vector.ofFn fun t : Fin 16 => if ended[t] then { Task.reset with st := .faulted, reason := 0xFE } else Task.reset
    .next { f with
      tasks := tasks
      recorder := { s.recorder with boundary := s.recorder.window }
      power := { f.power with energy := s.power.energy, shutdownCause := s.power.shutdownCause } }

/-- Power is removed from the hub (R374, R375): the log, ENERGY and SHUTDOWN_CAUSE are lost. -/
def execPowerRemoval (s : State) : Out := if tooHot s then .next s else .next (deviceReset s)

/-! ### Boot (R386, R387) -/

/-- The ROM accepts an image whose signature verifies and whose SVN is at least the fused minimum. -/
def bootAccepts (s : State) (m : FwImage) : Bool := m.valid && decide (s.sec.minSvn.toNat ≤ m.svn.toNat)

/-- A firmware signature that does not verify (R401); the image address is free (log 2). -/
def badSignature (m : FwImage) (s : State) : State :=
  if m.valid then s
  else record { s with freeCtr := s.freeCtr + 1 } 0xA101 error 0 (Config.free 64 s.freeCtr).toNat 0 0

/-- The accepted image runs: its versions, coefficients, and the core, quadrant and hub generators; an updated slot is activated. -/
def runImage (slotB : Bool) (m : FwImage) (s : State) : State :=
  let s := { s with
    sec := { s.sec with fwSlot := slotB, svn := m.svn, digest := m.digest, coef := m.coef, taskKeys := m.keys.take 4, build := m.build, minor := m.minor, major := m.major, updated := none }
    power := { s.power with coefLoaded := true }
    regions := Vector.ofFn fun r : Fin 29 => if r.val < 12 ∨ 24 ≤ r.val then { s.regions[r] with locked := true } else s.regions[r] }
  record s (if slotB then 0xA002 else 0xA001) info 0 m.svn.toNat 0 0

/-- Power-up after PERST_N is released: the fuses and the flash are read once; the slot with the higher SVN is tried first (which
of two equal ones is free, log 2), then the other, and with neither accepted the device is in recovery. -/
def execPowerUp (a b : FwImage) (f : Fuses) (s : State) : Out :=
  if s.sec.fw != .booting || s.regions[(28 : Fin 29)].locked then .next s
  else
    let s := if s.sec.fused then s
      else { s with sec := { s.sec with fused := true, flashA := a, flashB := b, idn := f.idn, idKey := f.idKey, chain := f.chain, stepping := f.b0,
                                        signedFuse := f.signedTasks, minSvn := f.minSvn } }
    let x := s.sec
    let tie := x.flashA.svn = x.flashB.svn
    let bFirst := if tie then Config.free 1 s.freeCtr = 1 else decide (x.flashA.svn.toNat < x.flashB.svn.toNat)
    let s := if tie then { s with freeCtr := s.freeCtr + 1 } else s
    let m1 := if bFirst then x.flashB else x.flashA
    let m2 := if bFirst then x.flashA else x.flashB
    let boot := fun (slotB : Bool) (m : FwImage) (s : State) =>
      let s := if x.updated = some slotB then record s 0xA302 notice 0 m.svn.toNat 0 0 else s
      runImage slotB m s
    if bootAccepts s m1 then .next (boot bFirst m1 s)
    else
      let s := badSignature m1 s
      if bootAccepts s m2 then .next (boot (!bFirst) m2 s)
      else
        let s := badSignature m2 s
        let svn := Config.free 16 s.freeCtr
        let s := { s with freeCtr := s.freeCtr + 1, sec := { s.sec with fw := .recovery } }
        .next (record (modRegion s 28 fun r => { r with locked := true }) 0xA003 fatal 0 svn.toNat 0 0)

/-- The stacks are trained and written with zeros, the scrubber starts, Mem_Active is set, FW_STATE reads READY. -/
def execStackInitDone (s : State) : Out :=
  if s.sec.fw == .booting && s.regions[(28 : Fin 29)].locked then
    .next { s with
      dram := [], loose := [], dramPoison := []
      ports := s.ports.map fun p => { p with scrub := 0 }
      regions := Vector.ofFn fun r : Fin 29 => { s.regions[r] with locked := true }
      cxl := { s.cxl with memActive := true }
      sec := { s.sec with fw := .ready } }
  else .next s

/-! ### Firmware update (R394) and SPDM (R392) -/

/-- A PLDM update writes the slot that is not running; it is activated at the next PERST_N. -/
def execFirmwareUpdate (u : FwUpdate) (s : State) : Out :=
  let x := s.sec
  if x.fw == .booting then .next s
  else match u with
    | .start svn =>
      if x.updating then .next s
      else .next (record { s with sec := { x with updating := true } } 0xA301 notice 0 svn.toNat 0 0)
    | .finish img =>
      if !x.updating then .next s
      else
        let y := { x with updating := false, updated := some (!x.fwSlot) }
        .next { s with sec := if x.fwSlot then { y with flashA := img } else { y with flashB := img } }
    | .fail svn =>
      if !x.updating then .next s
      else .next (record { s with sec := { x with updating := false } } 0xA303 error 0 svn.toNat 0 0)

/-- The measurement blocks (R392): the digests are those of the ROM, of the running image and its table, and of the keys it brought. -/
def measured (s : State) : Measured :=
  let x := s.sec
  { rom := Config.romDigest, image := x.digest, svn := x.svn, signedFuse := x.signedFuse,
    signedMode := x.signedMode, minSvn := x.minSvn, coef := x.coef, keys := x.taskKeys.map Config.keyHash,
    stepping := x.stepping, profile31 := x.stepping && !s.staging.profileInForce }

/-- The device certificate of R391. -/
def deviceCert (s : State) : DevCert := { idn := s.sec.idn, key := Config.sm2Public s.sec.idKey, chain := s.sec.chain }

/-- An SPDM request over DOE or MCTP: versions 1.2 and 1.3 are answered with the measurements, a request for the certificate with it; a session is established or refused; an IDE key is taken
only inside a secured session. -/
def execSpdmMessage (m : Spdm) (s : State) : Out :=
  if s.sec.fw != .ready then .next s
  else match m with
    | .measurements v =>
      if v == 0x12 || v == 0x13 then .next (emit s (.measured (measured s))) else .next (emit s (.spdm false v))
    | .certificate => .next (emit s (.certificate (deviceCert s)))
    | .session id ok =>
      if ok then .next (record (emit { s with sec := { s.sec with sessions := s.sec.sessions ++ [id] } } (.spdm true 0)) 0xA201 info 0 id.toNat 0 0)
      else .next (record (emit s (.spdm false 0)) 0xA202 error 0 id.toNat 0 0)
    | .ideKey inSession =>
      let ok := inSession && !s.sec.sessions.isEmpty
      .next (emit (if ok then { s with cxl := { s.cxl with ide := true } } else s) (.spdm ok 0))

end Sys2Proof.Machine
end

