-- ==== Sys2Proof/Machine/Clock.lean ====
section
/-! DEFINITION. The passing of one core cycle: what a running block does by itself in a cycle (R68, R132, R134, R135,
R146, R159, R161), and the clock. Time passes only once every event that belongs to the current cycle has been
commanded (log 6). -/

namespace Sys2Proof.Machine

/-! ### What is still outstanding in the current cycle -/

/-- A slot of the current bundle, or a timed event of the block, still waits for its command in this cycle. -/
def blockOutstanding (s : State) (c : CoreIx) : Bool :=
  match blockNow s c with
  | none => false
  | some (b, t) =>
    (match bundleNow s c with
      | some (_, _, bu) => (slotM bu != 0 && b.mUsed != some t) || (slotT bu != 0 && b.tUsed != some t)
          || (slotV bu != 0 && b.vUsed != some t)
      | none => false)
    || injectDue s c .outer || injectDue s c .inner || (consumer b t).isSome || (boundaryDue b t).isSome
    || (drainDue b t).isSome || b.vres.any (fun r => decide (r.due ≤ t))
    || b.writes.any (fun w => w.agent == 7 && decide (w.due ≤ t)) || blockOver s c b t

/-- A launch that starts, or a segment arrival that is sent, in the current cycle (R112). -/
def launchOutstanding (s : State) (c : CoreIx) : Bool :=
  blockStarts s c || match s.cores[c].pend with
    | none => false
    | some l => l.form == .seg && launchAllowed s c && l.arrived.isNone && s.cores[c].blk.isNone

/-- A context of a core is to issue in this cycle (R103), or wakes in it (R208). -/
def contextOutstanding (s : State) (c : CoreIx) : Bool :=
  (nextIssuer s c).isSome || wakeDue s.cores[c] s.time.cycle

/-- A control-engine read of a core whose bank is free is still to be made (R107, R171). -/
def readOutstanding (s : State) (c : CoreIx) : Bool :=
  (List.finRange 4).any fun k => (ldDue s c k).isSome || (descDue s c k).isSome

/-- A stream acknowledgment, or the end of a close, is still to reach a core's slots; either signals a counter at once. -/
def slotOutstanding (s : State) (c : CoreIx) : Bool :=
  (List.finRange 32).any fun i => (ackDue s c i).isSome || closeDue s c i

/-- A stream engine of a core has something to do: a request that wins, a half to read, a response to place, a miss to note (R191,
R197, R199, R200). -/
def streamOutstanding (s : State) (c : CoreIx) : Bool :=
  (s.cores[c].lastReq != s.time.cycle + 1 && (List.finRange 32).any fun i => (candOf s c i).isSome)
  || ((List.finRange 3).any fun q => match halfNow s c q with
    | some (_, a, n) => bgFree s c 4 a n
    | none => false)
  || (landNow s c).isSome || (List.finRange 32).any (missDue s c)

/-- A window of a core has something to do: a write to judge or to place, a notice, a marker (R179 to R184). -/
def windowOutstanding (s : State) (c : CoreIx) : Bool :=
  [Side.up, .down].any (fun d => (judgeNow s c d).isSome || (markerNow s c d).isSome || (winNext s c d).isSome)
  || (noticeNow s c).isSome

/-- A window of a core closes in this cycle. -/
def closeOutstanding (s : State) (c : CoreIx) : Bool := (List.finRange 8).any (closedNow s c)

/-- Whatever can still add to a core's counters in this cycle, or lets an instruction issue that reads them, has been commanded: step 1
of R206 is over, and the increments of the cycle are one sum (R207). -/
def signalsIn (s : State) (c : CoreIx) : Bool :=
  !contextOutstanding s c && !readOutstanding s c && !blockOutstanding s c && !launchOutstanding s c && !slotOutstanding s c
  && (landNow s c).isNone && !closeOutstanding s c && !releaseOutstanding s && !globalsOutstanding s
  && !(List.finRange 16).any fun t => stashDue s t

/-- Steps 2 and 3 of R206 for one counter, once per cycle, when step 1 is over. -/
def execCounterSignalApply (c : CoreIx) (ctr : Byte) (s : State) : Out :=
  .next (if signalsIn s c then applyCounter c ctr s else s)

/-- A counter has its step of R206 still to make. -/
def countersOutstanding (s : State) : Bool :=
  s.incs.any (fun i => counterDue s i.core i.ctr && decide (i.due ≤ s.time.cycle))
  || (List.finRange 144).any fun c => s.cores[c].serveDue.any (counterDue s c)

/-- A core has something to do in the current cycle. -/
def coreOutstanding (s : State) (c : CoreIx) : Bool :=
  blockOutstanding s c || launchOutstanding s c
  || ((s.cores[c].slot.isSome || !s.cores[c].fromUp.isEmpty || !s.cores[c].fromDown.isEmpty || !s.cores[c].notices.isEmpty
        || !s.cores[c].markersDue.isEmpty) &&
      (contextOutstanding s c || readOutstanding s c || slotOutstanding s c || streamOutstanding s c || windowOutstanding s c
        || closeOutstanding s c))
  || (correctionNow s c).isSome

/-- The sequencer has something to do for a task: a post, or an entry that reaches its contexts or is carried out (R223, R229). -/
def taskOutstanding (s : State) (t : SlotIx) : Bool :=
  !s.tasks[t].cmd.posted.isEmpty && ([1, 2, 3, 10, 11].any (fun op => s.tasks[t].cmd.posted.any fun e => (deliverDue s t e.q op).isSome)
      || [12, 13].any fun op => s.tasks[t].cmd.posted.any fun e => (findPosted s t e.q op).isSome)
  || postDue s t

/-- A stack port closes a combining entry, drops a record whose parts are too far apart, or deals with a postponed refresh (R201, R251,
R292). -/
def portOutstanding (s : State) (p : SecIx) : Bool :=
  let pc := pcNow s p
  s.ports[p].entries.any (fun e => e.over pc) || s.ports[p].records.any (fun x => x.late pc) || refreshOver s p

/-- A reservation's lead or start is due (R127). -/
def resvOutstanding (s : State) (r : Fin 16) : Bool := match s.resv[r] with
  | none => false
  | some v => leadDue s v || startDue s r v

/-- A snapshot captures at this frame boundary, what it needs having been read (R343). -/
def captureOutstanding (s : State) : Bool := match captureEntry s with
  | none => false
  | some (run, e) => captureNow s run && runDue s (entryKey run.slot run.q) (some run.slot) (captureWork run e)

/-- A SNAPSHOT in take mode that the engine may begin (R342, R346): it begins before the cycle ends, so that it meets the first boundary
after its posting (R343). -/
def snapshotOutstanding (s : State) : Bool := s.tasks.any fun T => T.cmd.posted.any (canTake s)

/-- A time-out or interval of the tasks and of the links has run out (R124, R234, R255, R258, R304, R349, R399, R400). -/
def timersOutstanding (s : State) : Bool :=
  (List.finRange 16).any (fun t => stashDue s t || quantumOver s.tasks[t] (ftNow s))
  || remoteDue s || s.cxl.outstanding.any (cxlOver s) || (List.finRange 8).any (fun k => s.rhaor[k].tags.any (rhaorOver s k))
  || (match s.mir.restore with
    | none => false
    | some r => seedOver s r)
  || resendDue s || (match s.quiesce with
    | none => false
    | some z => quiesceLate s z)
  || s.sec.tests.any (testLate s) || (List.finRange 16).any fun r => match s.resv[r] with
    | none => false
    | some v => resvOver s v

/-- A unit of the device has something to do at this moment: a pending register set, the recorder, the clock, power, a rest, a clear
(R32, R33, R365, R371, R372, R381 to R383, R390). -/
def unitsOutstanding (s : State) : Bool :=
  (List.finRange 36).any (cfgDue s) || rateDue s || writeDue s || arrivalDue s || holdoverDue s || upstreamLost s || stepDue s || windowDue s
  || (List.finRange 12).any (restDue s)
  || (List.finRange 144).any fun c => s.cores[c].sp.clearing != 0 && (List.finRange 6).any (clearOver s c)

/-- Every event of the current cycle whose moment the manual fixes has been commanded (log 6). -/
def settled (s : State) : Bool :=
  !(List.finRange 144).any (coreOutstanding s)
  && !((List.finRange 12).any (dutyOutstanding s))
  && !(s.flits.any (hopDue s))
  && !countersOutstanding s
  && !globalsOutstanding s
  && !releaseOutstanding s
  && !(s.reports.any fun r => decide (r.due + 21 ≤ s.time.cycle))
  && !(List.finRange 16).any (taskOutstanding s) && !(List.finRange 12).any (portOutstanding s)
  && !(List.finRange 16).any (resvOutstanding s) && !captureOutstanding s && !snapshotOutstanding s && !timersOutstanding s && !unitsOutstanding s

/-! ### Activity (R366) -/

/-- What a running block does in a cycle, as the power model counts it. -/
def blockActivity (s : State) (c : CoreIx) (a : Activity) : Activity :=
  match blockNow s c with
  | none => a
  | some (b, t) =>
    let groups := b.mmas.filter fun m => decide (0 < m.t) && m.entry + m.t == t + 1
    let ofG := fun g => (groups.filter fun m => fmtG m.fmt == g).length
    let op := match bundleNow s c with
      | some (_, _, bu) => (slotV bu).toNat / 2 ^ 34
      | none => 0
    let special := decide (0x10 ≤ op) && decide (op ≤ 0x16)
    let vec := b.vUsed == some t
    { a with kgroup2 := a.kgroup2 + ofG 2, kgroup4 := a.kgroup4 + ofG 4, kgroup8 := a.kgroup8 + ofG 8
             vectors := a.vectors + b2n (vec && !special), specials := a.specials + b2n (vec && special)
             issues := a.issues + b2n (b.mUsed == some t) + b2n (b.tUsed == some t) + b2n vec
             banks := a.banks + (blockUses s c).length }

/-- A core's activity of the cycle is counted: its block, its control issue, its bank accesses (R366). -/
def countCycle (c : CoreIx) (s : State) : State :=
  let x := s.cores[c]
  let issued := match x.lastIssue with
    | some (n, _) => n == s.time.cycle
    | none => false
  let bg := (x.sp.uses.filter fun u => u.agent == 8).length
  if x.blk.isNone && !issued && bg == 0 then s
  else actAdd (actOf (sectorOf c)) (fun a =>
    let a := blockActivity s c a
    { a with issues := a.issues + b2n issued, banks := a.banks + bg }) s

/-! ### Reads of the array and the feeders -/

/-- A 256 B or shorter local range as a line. -/
def toLine (bs : List Byte) : Line := BitVec.ofNat 2048 (leNat bs)

/-- Replaces the MMA issued at the same cycle. -/
def putMma (m : Mma) (b : Block) : Block := { b with mmas := b.mmas.map fun q => if q.issued = m.issued then m else q }

/-- The local line and scale lines one MMA reads in the cycle (R68). -/
def mmaReads (c : CoreIx) (us : List BankUse) (t : Nat) (m : Mma) (s : State) : State :=
  let ls : Option (LocalLine × Bool) := match m.lineNow t with
    | none => none
    | some l =>
      let ps := (m.lineAt l).zip (List.range 2)
      let rs : List (List Byte × Bool × Bool) := ps.map fun p => rangeRead s c us 1 m.issued p.2 p.1
      some (({ t := l, l0 := toLine ((rs.map (·.1)).getD 0 []), l1 := toLine ((rs.map (·.1)).getD 1 []),
               poison := rs.any fun r => r.2.1
               grans := ps.flatMap fun p => (granules p.1.1 p.1.2).filter fun g => granDone s c us 1 m.issued p.2 (64 * g) }
               : LocalLine), rs.any fun r => r.2.2)
  let ss : List (ScaleLine × Bool) := (m.scalesNow t).map fun q =>
    let a := m.scaleAt q
    let r := rangeRead s c us 2 m.issued 0 (a, 64)
    (({ b := q, line := BitVec.ofNat 512 (leNat r.1), poison := r.2.1
        gran := if granDone s c us 2 m.issued 0 (a / 64 * 64) then some (a / 64) else none } : ScaleLine), r.2.2)
  let s := match ls with
    | some (l, bad) =>
      let s := modCore s c fun x => x.modBlk (putMma { m with lines := m.lines ++ [l], scaleLines := m.scaleLines ++ ss.map (·.1) })
      if bad then addrError c 1 s else s
    | none => if ss.isEmpty then s else
        modCore s c fun x => x.modBlk (putMma { m with scaleLines := m.scaleLines ++ ss.map (·.1) })
  if ss.any (fun r => r.2) then addrError c 2 s else s

/-- The source bytes a feeder job reads in the cycle (R146). -/
def feedReads (c : CoreIx) (us : List BankUse) (t : Nat) (f : Feed) (s : State) : State :=
  let ps := (f.readsAt (t - f.issued))
  let rs := (ps.zip (List.range ps.length)).map fun r =>
    ((r.1.1, granRead s c us f.agent f.issued r.2 r.1.1) : Nat × List Byte × Bool × Bool)
  if rs.isEmpty then s
  else
    let f' := rs.foldl (fun (f : Feed) r =>
      { f with buf := writeBytes f.buf r.1 r.2.1, bufPoison := if r.2.2.1 then f.bufPoison ++ [r.1 / 64] else f.bufPoison }) f
    let s := modCore s c fun x => x.modBlk fun b => { b with feeds := b.feeds.map fun g => if g = f then f' else g }
    if rs.any (fun r => r.2.2.2) then addrError c f.agent s else s

/-- The VST writes of the cycle, one granule at a time with its own poison (R159). -/
def vstWrites (c : CoreIx) (b : Block) (t : Nat) (s : State) : State :=
  let ws := b.writes.filter fun w => w.agent == 6 && decide (w.due ≤ t)
  if ws.isEmpty then s
  else
    let s := modCore s c fun x => x.modBlk fun b =>
      { b with writes := b.writes.filter fun w => !(w.agent == 6 && decide (w.due ≤ t)), lastEvent := t }
    ws.foldl (fun s w => (List.range 4).foldl (fun s i =>
      blockWrite c 6 w.issued w.part (w.addr + 64 * i) (natLe 64 (w.line.toNat / 2 ^ (512 * i))) (bit w.poison i) s) s) s

/-! ### Bank conflicts (R161) -/

/-- The order in which R161 looks for the block's first conflict: bank, then the loser. -/
def BankUse.firstBefore (a b : BankUse) : Bool := a.bank < b.bank || (a.bank == b.bank && a.before b)

/-- The losing accesses of a cycle, the first conflict in front. -/
def losers (us : List BankUse) : List BankUse :=
  let ls := us.filter (losesIn us)
  match ls with
  | [] => []
  | l :: r => let f := r.foldl (fun a u => if u.firstBefore a then u else a) l; f :: ls.erase f

/-- Latches, counts and reports the conflicts of a cycle; a FAULT bit that is already 1 is set again (R9). -/
def bankConflicts (c : CoreIx) (us : List BankUse) (t : Nat) (s : State) : State :=
  match losers us, s.cores[c].blk with
  | u :: r, some b =>
    if b.bankFault.isSome then
      modCore s c fun x => { x with timed := { x.timed with conflicts := satAdd x.timed.conflicts (r.length + 1) } }
    else
      let s := record s (0x1500 + u.agent) error c.val t u.bank s.cores[c].timed.digest.toNat
      modCore s c fun x =>
        { (x.modBlk fun b => { b with bankFault := some (BitVec.ofNat 16 (u.bank + 256 * u.agent)) }) with
          timed := if x.timed.fault then { x.timed with faultAt := s.time.cycle + 1, conflicts := satAdd x.timed.conflicts (r.length + 1) }
                   else { x.timed with fault := true, faultAt := s.time.cycle + 1, bank := BitVec.ofNat 5 u.bank,
                                       loser := BitVec.ofNat 3 u.agent,
                                       faultCycle := BitVec.ofNat 32 t, conflicts := satAdd x.timed.conflicts r.length } }
  | _, _ => s

/-! ### The end of a cycle in the scratchpad (R161, R163, R171) -/

/-- The parts of a write by granule: address and bytes. -/
def splitGranules (a : Nat) (bs : List Byte) : List (Nat × List Byte) :=
  (granules a bs.length).map fun g =>
    let lo := max a (64 * g)
    (lo, (bs.drop (lo - a)).take (64 * g + 64 - lo))

/-- The part of a staged write that lies at `q`, as an access to its bank. -/
def SpWrite.use (w : SpWrite) (a : Nat) : BankUse :=
  { bank := bankOf a, agent := w.agent, issued := w.issued, addr := a / 64 * 64, part := w.part }

/-- A part of a staged write loses its bank (R161). -/
def SpWrite.loses (us : List BankUse) (w : SpWrite) (a : Nat) : Bool := decide (w.agent < 8) && losesIn us (w.use a)

/-- Performs the parts of one staged write that do not lose their banks. -/
def commitWrite (us : List BankUse) (p : Scratchpad) (w : SpWrite) : Scratchpad :=
  (splitGranules w.addr w.bytes).foldl (fun p q => if w.loses us q.1 then p else spCommit p q.1 q.2 w.poison) p

/-- A block's losing parts are not performed and their granules are poisoned, whatever else is written to them (R161). -/
def poisonLost (us : List BankUse) (p : Scratchpad) (w : SpWrite) : Scratchpad :=
  (splitGranules w.addr w.bytes).foldl (fun p q =>
    if w.loses us q.1 then { p with poison := tset false p.poison (q.1 / 64) true } else p) p

/-- A descriptor read of the core that stalled before cycle `issued` still waits for the bank of address `a`. -/
def descBefore (x : Core) (a issued : Nat) : Bool := x.ctx.toList.any fun y => decide (y.stallAt < issued) && match y.stall.range with
  | some r => (granules r.1 r.2).any fun g => bankOf (64 * g) == bankOf a
  | none => false

/-- Control-engine stores whose bank is free, oldest first and in order within a bank (R171); each is a bank access (R366). -/
def performStores (c : CoreIx) (s : State) : State :=
  let r := s.cores[c].sp.stores.foldl (fun (a : State × List SpWrite) w =>
    if bgFree a.1 c 5 w.addr 8 && !descBefore s.cores[c] w.addr w.issued && !a.2.any (fun v => bankOf v.addr == bankOf w.addr) then
      (actAdd (actOf (sectorOf c)) (fun n => { n with banks := n.banks + 1 }) <|
        modCore (takeBanks a.1 c w.addr 8) c fun x => x.modSp fun p => { p with staged := p.staged ++ [w] }, a.2)
    else (a.1, a.2 ++ [w])) (s, [])
  modCore r.1 c fun x => x.modSp fun p => { p with stores := r.2 }

def endScratchpad (c : CoreIx) (us : List BankUse) (s : State) : State :=
  let p := s.cores[c].sp
  let s := if p.stores.isEmpty then s else performStores c s
  let p := s.cores[c].sp
  if p.staged.isEmpty && p.uses.isEmpty then s
  else modCore s c fun x => x.modSp fun p =>
    { p.staged.foldl (poisonLost us) (p.staged.foldl (commitWrite us) p) with staged := [], uses := [] }

/-! ### Registers and the bundle pointer (R134, R135) -/

/-- One update of a block address or tag register. -/
def Block.upd (b : Block) : RegUpd → Block
  | .baAdd r n => { b with ba := b.ba.set r (b.ba[r] + BitVec.ofNat 22 n) }
  | .trSet r f v => { b with tr := b.tr.set r (trPut b.tr[r] (trSpan f).1 (trSpan f).2 v.toNat) }
  | .trAdd r f v =>
    let o := trSpan f
    { b with tr := b.tr.set r (trPut b.tr[r] o.1 o.2 (b.tr[r].toNat / 2 ^ o.1 + (v.signExtend 64).toNat)) }
  | .kblock r n => { b with tr := b.tr.set r (trPut b.tr[r] 10 12 (trKblock b.tr[r] + n)) }
  | .nextTile r => { b with tr := b.tr.set r (trPut (trPut b.tr[r] 22 12 (trTile b.tr[r] + 1)) 10 12 0) }

/-- The bundle after bundle `n` and the loops left active; the innermost is tested first. A LOOP that stands on the last bundle of
another body is entered when that body's count has run out: the bodies are tested for their next iteration first (DEDUCED, log 97). -/
def nextBundle (n : BitVec 12) : List LoopFrame → BitVec 12 × List LoopFrame
  | [] => (n + 1, [])
  | f :: r =>
    if f.first = n + 1 then
      let q := nextBundle n r
      if q.1 = n + 1 then (n + 1, f :: q.2) else q
    else if f.last = n then (if 1 < f.left then (f.first, { f with left := f.left - 1 } :: r) else nextBundle n r)
    else (n + 1, f :: r)

/-- A block at the end of an enabled cycle `t`: the updates in slot order, then the next bundle. -/
def Block.advance (b : Block) (t : Nat) (bendBit : Bool) : Block :=
  let b := ((b.updM ++ b.updT ++ b.updV).foldl Block.upd b)
  let b := { b with updM := [], updT := [], updV := [] }
  if b.issuing then
    let n := nextBundle b.bundle b.loops
    if bendBit then { b with issuing := false, loops := [], lastEvent := t }
    else { b with bundle := n.1, loops := n.2, lastEvent := t }
  else b

/-- An accumulator whose last cell is read in block cycle `t` becomes DONE (R71). -/
def accDone (b : Block) (t : Nat) (x : ArrayState) : ArrayState :=
  let past := fun acc : Bool => b.ends.all fun q =>
    q.1 != acc || decide (t < q.2.1 + q.2.2.1 + 4) || decide (q.2.1 + q.2.2.1 + 4 + skew q.2.2.2 ≤ t)
  let x := if past false && x.stA = .draining then { x with stA := .done } else x
  if past true && x.stB = .draining then { x with stB := .done } else x

/-! ### One cycle -/

/-- A core's part in the end of a cycle. -/
def coreCycle (c : CoreIx) (s : State) : State :=
  match blockNow s c with
  | none => endScratchpad c [] s
  | some (b, t) =>
    let us := blockUses s c
    let bu := s.cores[c].bundle b.bundle
    let s := b.mmas.foldl (fun s m => mmaReads c us t m s) s
    let s := b.feeds.foldl (fun s f => feedReads c us t f s) s
    let s := vstWrites c b t s
    let s := bankConflicts c us t s
    let s := endScratchpad c us s
    modCore s c fun x =>
      let x := openStarts t x
      { (x.modBlk fun b => b.advance t (bend bu)) with
        array := accDone b t x.array
        timed := { x.timed with blockCycles := x.timed.blockCycles + 1
                                bundle := if b.issuing then b.bundle else x.timed.bundle
                                depth := BitVec.ofNat 3 b.loops.length } }

/-- Faults of a completed block reach their context (R114). -/
def deliverFaults (c : CoreIx) (s : State) : State :=
  let fs := s.cores[c].faultsDue
  if fs.isEmpty then s
  else fs.foldl (fun s f => faultCtx c f.1 f.2.1 f.2.2.1 f.2.2.2 s) (modCore s c fun x => { x with faultsDue := [] })

/-- The clock: a core cycle, and an enabled cycle of every sector whose beat is enabled (R132, R362). -/
def advanceClock (s : State) : State :=
  let b := beatNow s
  { s with
    time := { s.time with cycle := s.time.cycle + 1 }
    duty := s.duty.map fun d => if d.enabled && d.beat == b then { d with ecyc := d.ecyc + 1 } else d
    flits := s.flits.filter fun g => !g.absorbed }

/-- What falls at the start of a core's cycle: the faults of a block that has ended, the signals of the fills that ended with the
last cycle (R191), the granules that leave for the windows of its neighbours (R180). -/
def beginCycle (c : CoreIx) (s : State) : State := leavePorts c (deliverFills c (deliverFaults c s))

/-- One core cycle passes. -/
def oneCycle (s : State) : State :=
  let s := if atBeat s then (List.finRange 16).foldl (fun s t => noteRipe t s) s else s
  let s := (List.finRange 144).foldl (fun s c => coreCycle c (countCycle c s)) s
  (List.finRange 144).foldl (fun s c => beginCycle c s) (advanceClock s)

/-- What step does on an empty queue (log 1, log 6): one core cycle passes where the current one is settled. -/
def tick (s : State) : State := if settled s then oneCycle s else s

end Sys2Proof.Machine
end

