-- ==== Sys2Proof/Machine/Dispatch.lean ====
section
/-! DEFINITION. The effect of each command on everything but the queue: one arm per row of the table of commands. -/

namespace Sys2Proof.Machine

/-- The effect of a command. -/
def exec (i : Instr) (s : State) : Host.Outcome State Fault Refusal :=
  match i with
  | .add c k rd ra rb => Sys2Proof.Machine.execAdd c k rd ra rb s
  | .sub c k rd ra rb => Sys2Proof.Machine.execSub c k rd ra rb s
  | .and c k rd ra rb => Sys2Proof.Machine.execAnd c k rd ra rb s
  | .or c k rd ra rb => Sys2Proof.Machine.execOr c k rd ra rb s
  | .xor c k rd ra rb => Sys2Proof.Machine.execXor c k rd ra rb s
  | .shl c k rd ra rb => Sys2Proof.Machine.execShl c k rd ra rb s
  | .shr c k rd ra rb => Sys2Proof.Machine.execShr c k rd ra rb s
  | .sra c k rd ra rb => Sys2Proof.Machine.execSra c k rd ra rb s
  | .slt c k rd ra rb => Sys2Proof.Machine.execSlt c k rd ra rb s
  | .sltu c k rd ra rb => Sys2Proof.Machine.execSltu c k rd ra rb s
  | .min c k rd ra rb => Sys2Proof.Machine.execMin c k rd ra rb s
  | .max c k rd ra rb => Sys2Proof.Machine.execMax c k rd ra rb s
  | .mul c k rd ra rb => Sys2Proof.Machine.execMul c k rd ra rb s
  | .addi c k rd ra imm => Sys2Proof.Machine.execAddi c k rd ra imm s
  | .andi c k rd ra imm => Sys2Proof.Machine.execAndi c k rd ra imm s
  | .ori c k rd ra imm => Sys2Proof.Machine.execOri c k rd ra imm s
  | .xori c k rd ra imm => Sys2Proof.Machine.execXori c k rd ra imm s
  | .movz c k rd imm h => Sys2Proof.Machine.execMovz c k rd imm h s
  | .movk c k rd imm h => Sys2Proof.Machine.execMovk c k rd imm h s
  | .ld c k rd ad imm => Sys2Proof.Machine.execLd c k rd ad imm s
  | .ldBankRead c k found => Sys2Proof.Machine.execLdBankRead c k found s
  | .st c k rs ad imm => Sys2Proof.Machine.execSt c k rs ad imm s
  | .mova c k ad ra => Sys2Proof.Machine.execMova c k ad ra s
  | .adda c k ad ad2 imm => Sys2Proof.Machine.execAdda c k ad ad2 imm s
  | .movs c k rd ad => Sys2Proof.Machine.execMovs c k rd ad s
  | .beq c k ra rb off => Sys2Proof.Machine.execBeq c k ra rb off s
  | .bne c k ra rb off => Sys2Proof.Machine.execBne c k ra rb off s
  | .blt c k ra rb off => Sys2Proof.Machine.execBlt c k ra rb off s
  | .bge c k ra rb off => Sys2Proof.Machine.execBge c k ra rb off s
  | .bltu c k ra rb off => Sys2Proof.Machine.execBltu c k ra rb off s
  | .bgeu c k ra rb off => Sys2Proof.Machine.execBgeu c k ra rb off s
  | .jal c k rd imm => Sys2Proof.Machine.execJal c k rd imm s
  | .jr c k ra => Sys2Proof.Machine.execJr c k ra s
  | .sig c k ctr n => Sys2Proof.Machine.execSig c k ctr n s
  | .sigUp c k ctr n => Sys2Proof.Machine.execSigUp c k ctr n s
  | .sigDn c k ctr n => Sys2Proof.Machine.execSigDn c k ctr n s
  | .sigC c k ra rb ctr => Sys2Proof.Machine.execSigC c k ra rb ctr s
  | .gsigAdd c k ra rb => Sys2Proof.Machine.execGsigAdd c k ra rb s
  | .gsigArm c k ra rb => Sys2Proof.Machine.execGsigArm c k ra rb s
  | .gsigArmAt c k ra rb => Sys2Proof.Machine.execGsigArmAt c k ra rb s
  | .gsigDisarm c k ra rb => Sys2Proof.Machine.execGsigDisarm c k ra rb s
  | .wait c k ctr n => Sys2Proof.Machine.execWait c k ctr n s
  | .take c k ctr n => Sys2Proof.Machine.execTake c k ctr n s
  | .ctrrd c k rd ctr => Sys2Proof.Machine.execCtrrd c k rd ctr s
  | .launch c k blk ctr => Sys2Proof.Machine.execLaunch c k blk ctr s
  | .launchSeg c k blk ctr => Sys2Proof.Machine.execLaunchSeg c k blk ctr s
  | .launchAt c k blk ctr rf => Sys2Proof.Machine.execLaunchAt c k blk ctr rf s
  | .scfg c k slot ad => Sys2Proof.Machine.execScfg c k slot ad s
  | .scfgDescriptorRead c k found => Sys2Proof.Machine.execScfgDescriptorRead c k found s
  | .swait c k slot => Sys2Proof.Machine.execSwait c k slot s
  | .swap c k slot => Sys2Proof.Machine.execSwap c k slot s
  | .sclose c k slot => Sys2Proof.Machine.execSclose c k slot s
  | .wopen c k w ad => Sys2Proof.Machine.execWopen c k w ad s
  | .wopenDescriptorRead c k found => Sys2Proof.Machine.execWopenDescriptorRead c k found s
  | .wclose c k w => Sys2Proof.Machine.execWclose c k w s
  | .cmdwait c k rd => Sys2Proof.Machine.execCmdwait c k rd s
  | .cmdrd c k rd w => Sys2Proof.Machine.execCmdrd c k rd w s
  | .cmddone c k imm => Sys2Proof.Machine.execCmddone c k imm s
  | .ftrd c k rd => Sys2Proof.Machine.execFtrd c k rd s
  | .srset c k ra rb => Sys2Proof.Machine.execSrset c k ra rb s
  | .vflg c k rd imm => Sys2Proof.Machine.execVflg c k rd imm s
  | .yield c k => Sys2Proof.Machine.execYield c k s
  | .nop c k => Sys2Proof.Machine.execNop c k s
  | .halt c k => Sys2Proof.Machine.execHalt c k s
  | .trap c k imm => Sys2Proof.Machine.execTrap c k imm s
  | .trapReturn c k => Sys2Proof.Machine.execTrapReturn c k s
  | .illegal c k word => Sys2Proof.Machine.execIllegal c k word s
  | .contextWake c k => Sys2Proof.Machine.execContextWake c k s
  | .counterSignalApply c ctr => Sys2Proof.Machine.execCounterSignalApply c ctr s
  | .counterOverflowReport c => Sys2Proof.Machine.execCounterOverflowReport c s
  | .mnop c => Sys2Proof.Machine.execMnop c s
  | .mmaF c m => Sys2Proof.Machine.execMmaF c m s
  | .mmaH c m => Sys2Proof.Machine.execMmaH c m s
  | .mmaQ c m => Sys2Proof.Machine.execMmaQ c m s
  | .mmaN c m => Sys2Proof.Machine.execMmaN c m s
  | .mmaS c m => Sys2Proof.Machine.execMmaS c m s
  | .kgroupConsume c found => Sys2Proof.Machine.execKgroupConsume c found s
  | .tileBoundary c => Sys2Proof.Machine.execTileBoundary c s
  | .drainRow c => Sys2Proof.Machine.execDrainRow c s
  | .tnop c => Sys2Proof.Machine.execTnop c s
  | .ginj c g => Sys2Proof.Machine.execGinj c g s
  | .flitInject c lane found => Sys2Proof.Machine.execFlitInject c lane found s
  | .flitHop lane c upset => Sys2Proof.Machine.execFlitHop lane c upset s
  | .gcap c g => Sys2Proof.Machine.execGcap c g s
  | .gcapS c g => Sys2Proof.Machine.execGcapS c g s
  | .gcapWrite c => Sys2Proof.Machine.execGcapWrite c s
  | .gsink c station => Sys2Proof.Machine.execGsink c station s
  | .tsig c target ctr n => Sys2Proof.Machine.execTsig c target ctr n s
  | .trset c tr field imm => Sys2Proof.Machine.execTrset c tr field imm s
  | .tradd c tr field imm => Sys2Proof.Machine.execTradd c tr field imm s
  | .baadd c ba imm => Sys2Proof.Machine.execBaadd c ba imm s
  | .loop c len count => Sys2Proof.Machine.execLoop c len count s
  | .vnop c => Sys2Proof.Machine.execVnop c s
  | .vadd c vd va vb bf => Sys2Proof.Machine.execVadd c vd va vb bf s
  | .vsub c vd va vb bf => Sys2Proof.Machine.execVsub c vd va vb bf s
  | .vmul c vd va vb bf => Sys2Proof.Machine.execVmul c vd va vb bf s
  | .vfma c vd va vb vc bf => Sys2Proof.Machine.execVfma c vd va vb vc bf s
  | .vmin c vd va vb bf => Sys2Proof.Machine.execVmin c vd va vb bf s
  | .vmax c vd va vb bf => Sys2Proof.Machine.execVmax c vd va vb bf s
  | .vabs c vd va bf => Sys2Proof.Machine.execVabs c vd va bf s
  | .vneg c vd va bf => Sys2Proof.Machine.execVneg c vd va bf s
  | .vmov c vd va => Sys2Proof.Machine.execVmov c vd va s
  | .vcmp c vd va vb bf rel => Sys2Proof.Machine.execVcmp c vd va vb bf rel s
  | .vsel c vd va vb vc bf => Sys2Proof.Machine.execVsel c vd va vb vc bf s
  | .vand c vd va vb => Sys2Proof.Machine.execVand c vd va vb s
  | .vor c vd va vb => Sys2Proof.Machine.execVor c vd va vb s
  | .vxor c vd va vb => Sys2Proof.Machine.execVxor c vd va vb s
  | .vrcp c vd va => Sys2Proof.Machine.execVrcp c vd va s
  | .vsqrt c vd va => Sys2Proof.Machine.execVsqrt c vd va s
  | .vrsqrt c vd va => Sys2Proof.Machine.execVrsqrt c vd va s
  | .vexp2 c vd va => Sys2Proof.Machine.execVexp2 c vd va s
  | .vlog2 c vd va => Sys2Proof.Machine.execVlog2 c vd va s
  | .vtanh c vd va => Sys2Proof.Machine.execVtanh c vd va s
  | .vsigm c vd va => Sys2Proof.Machine.execVsigm c vd va s
  | .vcvt c vd va fmt sr sat => Sys2Proof.Machine.execVcvt c vd va fmt sr sat s
  | .vext c vd va fmt => Sys2Proof.Machine.execVext c vd va fmt s
  | .vred c vd va => Sys2Proof.Machine.execVred c vd va s
  | .vbs c vd tr => Sys2Proof.Machine.execVbs c vd tr s
  | .vld c vd ba au off found => Sys2Proof.Machine.execVld c vd ba au off found s
  | .vst c vs ba au off => Sys2Proof.Machine.execVst c vs ba au off s
  | .vectorResultWrite c => Sys2Proof.Machine.execVectorResultWrite c s
  | .localBlockStart c => Sys2Proof.Machine.execLocalBlockStart c s
  | .segmentArrival c => Sys2Proof.Machine.execSegmentArrival c s
  | .segmentLaunchStart c => Sys2Proof.Machine.execSegmentLaunchStart c s
  | .timedLaunchStart c => Sys2Proof.Machine.execTimedLaunchStart c s
  | .blockComplete c => Sys2Proof.Machine.execBlockComplete c s
  | .dutyBeat sec => Sys2Proof.Machine.execDutyBeat sec s
  | .segmentRest sec => Sys2Proof.Machine.execSegmentRest sec s
  | .spCorrectionWriteback c => Sys2Proof.Machine.execSpCorrectionWriteback c s
  | .segmentClearDone c seg => Sys2Proof.Machine.execSegmentClearDone c seg s
  | .windowWriteArrival c side => Sys2Proof.Machine.execWindowWriteArrival c side s
  | .windowGranuleWrite c side => Sys2Proof.Machine.execWindowGranuleWrite c side s
  | .windowFaultReturn c => Sys2Proof.Machine.execWindowFaultReturn c s
  | .closeNoticeArrival c => Sys2Proof.Machine.execCloseNoticeArrival c s
  | .drainMarkerSend c side => Sys2Proof.Machine.execDrainMarkerSend c side s
  | .windowClosed c w => Sys2Proof.Machine.execWindowClosed c w s
  | .streamRequestIssue c slot => Sys2Proof.Machine.execStreamRequestIssue c slot s
  | .streamReadResponse c slot => Sys2Proof.Machine.execStreamReadResponse c slot s
  | .streamHalfRead c slot found => Sys2Proof.Machine.execStreamHalfRead c slot found s
  | .streamWriteAck c slot => Sys2Proof.Machine.execStreamWriteAck c slot s
  | .streamCloseDone c slot => Sys2Proof.Machine.execStreamCloseDone c slot s
  | .rtDeadlineMiss c slot => Sys2Proof.Machine.execRtDeadlineMiss c slot s
  | .stashTimeout t => Sys2Proof.Machine.execStashTimeout t s
  | .stackPortRequest p => Sys2Proof.Machine.execStackPortRequest p s
  | .stackRequestServe p chan found => Sys2Proof.Machine.execStackRequestServe p chan found s
  | .dramReadReturn p => Sys2Proof.Machine.execDramReadReturn p s
  | .combineEntryClose p => Sys2Proof.Machine.execCombineEntryClose p s
  | .recordPartArrival p found => Sys2Proof.Machine.execRecordPartArrival p found s
  | .recordAssemblyTimeout p => Sys2Proof.Machine.execRecordAssemblyTimeout p s
  | .refresh p bank waiting => Sys2Proof.Machine.execRefresh p bank waiting s
  | .scrubRead p found => Sys2Proof.Machine.execScrubRead p found s
  | .stackTempSample p celsius => Sys2Proof.Machine.execStackTempSample p celsius s
  | .globalSignalApply g => Sys2Proof.Machine.execGlobalSignalApply g s
  | .barrierReleaseApply g => Sys2Proof.Machine.execBarrierReleaseApply g s
  | .timedRelease g => Sys2Proof.Machine.execTimedRelease g s
  | .submissionFetch q entry => Sys2Proof.Machine.execSubmissionFetch q entry s
  | .taskLoadDone t => Sys2Proof.Machine.execTaskLoadDone t s
  | .taskLaunch t => Sys2Proof.Machine.execTaskLaunch t s
  | .taskEnd t => Sys2Proof.Machine.execTaskEnd t s
  | .taskHaltDone t => Sys2Proof.Machine.execTaskHaltDone t s
  | .quantumExpiry t => Sys2Proof.Machine.execQuantumExpiry t s
  | .preemptSave t => Sys2Proof.Machine.execPreemptSave t s
  | .taskResume t => Sys2Proof.Machine.execTaskResume t s
  | .reservationLead r => Sys2Proof.Machine.execReservationLead r s
  | .reservationStart r => Sys2Proof.Machine.execReservationStart r s
  | .entryPost t => Sys2Proof.Machine.execEntryPost t s
  | .entryComplete t q => Sys2Proof.Machine.execEntryComplete t q s
  | .fwd t q => Sys2Proof.Machine.execFwd t q s
  | .bwd t q => Sys2Proof.Machine.execBwd t q s
  | .update t q => Sys2Proof.Machine.execUpdate t q s
  | .lookupForward t q routed => Sys2Proof.Machine.execLookupForward t q routed s
  | .lookupBackward t q routed => Sys2Proof.Machine.execLookupBackward t q routed s
  | .exchange t q parts => Sys2Proof.Machine.execExchange t q parts s
  | .reduce t q peers => Sys2Proof.Machine.execReduce t q peers s
  | .gather t q peers => Sys2Proof.Machine.execGather t q peers s
  | .gatherBarrier t q arrived => Sys2Proof.Machine.execGatherBarrier t q arrived s
  | .snapshot t q => Sys2Proof.Machine.execSnapshot t q s
  | .snapshotRestore t q homeOk bag0Ok bag1Ok => Sys2Proof.Machine.execSnapshotRestore t q homeOk bag0Ok bag1Ok s
  | .rfence t q => Sys2Proof.Machine.execRfence t q s
  | .run t q => Sys2Proof.Machine.execRun t q s
  | .endEntry t q => Sys2Proof.Machine.execEndEntry t q s
  | .mark t q => Sys2Proof.Machine.execMark t q s
  | .pipecfg t q => Sys2Proof.Machine.execPipecfg t q s
  | .snapshotCapture => Sys2Proof.Machine.execSnapshotCapture s
  | .snapshotCommit home digest => Sys2Proof.Machine.execSnapshotCommit home digest s
  | .restoreSeedWrite => Sys2Proof.Machine.execRestoreSeedWrite s
  | .restoreSeedTimeout => Sys2Proof.Machine.execRestoreSeedTimeout s
  | .verifyReplay peerLoss => Sys2Proof.Machine.execVerifyReplay peerLoss s
  | .intervalCompute costNum costDen gaps base => Sys2Proof.Machine.execIntervalCompute costNum costDen gaps base s
  | .collTimeout t q late => Sys2Proof.Machine.execCollTimeout t q late s
  | .collResend => Sys2Proof.Machine.execCollResend s
  | .idle p f => Sys2Proof.Machine.execIdle p f s
  | .write p k => Sys2Proof.Machine.execWrite p k s
  | .read p k => Sys2Proof.Machine.execRead p k s
  | .resp p k => Sys2Proof.Machine.execResp p k s
  | .signal p k => Sys2Proof.Machine.execSignal p k s
  | .coll p k => Sys2Proof.Machine.execColl p k s
  | .tsync p k => Sys2Proof.Machine.execTsync p k s
  | .mirror p k => Sys2Proof.Machine.execMirror p k s
  | .mgmt p k => Sys2Proof.Machine.execMgmt p k s
  | .nak p k => Sys2Proof.Machine.execNak p k s
  | .packetForward p k => Sys2Proof.Machine.execPacketForward p k s
  | .linkFrameReceive p l k => Sys2Proof.Machine.execLinkFrameReceive p l k s
  | .linkReplay p ack => Sys2Proof.Machine.execLinkReplay p ack s
  | .linkRetrain p ok => Sys2Proof.Machine.execLinkRetrain p ok s
  | .portTrainingDone p lanes => Sys2Proof.Machine.execPortTrainingDone p lanes s
  | .linkNegotiation p caps => Sys2Proof.Machine.execLinkNegotiation p caps s
  | .remoteTimeout tag => Sys2Proof.Machine.execRemoteTimeout tag s
  | .tsyncExchange p roundTrip offset => Sys2Proof.Machine.execTsyncExchange p roundTrip offset s
  | .upstreamLoss => Sys2Proof.Machine.execUpstreamLoss s
  | .masterElection others => Sys2Proof.Machine.execMasterElection others s
  | .timeLock offset => Sys2Proof.Machine.execTimeLock offset s
  | .ftStepApply => Sys2Proof.Machine.execFtStepApply s
  | .ftReplicaCorrect => Sys2Proof.Machine.execFtReplicaCorrect s
  | .trimOutOfRange trim => Sys2Proof.Machine.execTrimOutOfRange trim s
  | .holdoverTick => Sys2Proof.Machine.execHoldoverTick s
  | .controlWindow core dram rest leakage => Sys2Proof.Machine.execControlWindow core dram rest leakage s
  | .packageSensorRead watts mean10ms => Sys2Proof.Machine.execPackageSensorRead watts mean10ms s
  | .marginReport r slack => Sys2Proof.Machine.execMarginReport r slack s
  | .calibration r => Sys2Proof.Machine.execCalibration r s
  | .droopStretch p ns => Sys2Proof.Machine.execDroopStretch p ns s
  | .lostLock r => Sys2Proof.Machine.execLostLock r s
  | .crossingMarginLoss sec => Sys2Proof.Machine.execCrossingMarginLoss sec s
  | .junctionTemp r celsius => Sys2Proof.Machine.execJunctionTemp r celsius s
  | .energyIntegrate microjoules => Sys2Proof.Machine.execEnergyIntegrate microjoules s
  | .eventQueue => Sys2Proof.Machine.execEventQueue s
  | .eventWrite => Sys2Proof.Machine.execEventWrite s
  | .rateWindow => Sys2Proof.Machine.execRateWindow s
  | .logArm r => Sys2Proof.Machine.execLogArm r s
  | .logFreeze r => Sys2Proof.Machine.execLogFreeze r s
  | .logUnfreeze r => Sys2Proof.Machine.execLogUnfreeze r s
  | .getVersion p => Sys2Proof.Machine.execGetVersion p s
  | .setVersion p v => Sys2Proof.Machine.execSetVersion p v s
  | .quiesce p waitUs => Sys2Proof.Machine.execQuiesce p waitUs s
  | .quiesceApply => Sys2Proof.Machine.execQuiesceApply s
  | .reserve p slot sectors ftStart ftEnd => Sys2Proof.Machine.execReserve p slot sectors ftStart ftEnd s
  | .unreserve p n => Sys2Proof.Machine.execUnreserve p n s
  | .setQuantum p frames => Sys2Proof.Machine.execSetQuantum p frames s
  | .selfTest p sectors kind => Sys2Proof.Machine.execSelfTest p sectors kind s
  | .selfTestRun n failing => Sys2Proof.Machine.execSelfTestRun n failing s
  | .selfTestTimeout n => Sys2Proof.Machine.execSelfTestTimeout n s
  | .testResult p n => Sys2Proof.Machine.execTestResult p n s
  | .setSignedMode p => Sys2Proof.Machine.execSetSignedMode p s
  | .commitSvn p => Sys2Proof.Machine.execCommitSvn p s
  | .logRead p first count => Sys2Proof.Machine.execLogRead p first count s
  | .mgmtRead32 off => Sys2Proof.Machine.execMgmtRead32 off s
  | .mgmtWrite32 off data => Sys2Proof.Machine.execMgmtWrite32 off data s
  | .mgmtRead64 off => Sys2Proof.Machine.execMgmtRead64 off s
  | .cfgCommit r => Sys2Proof.Machine.execCfgCommit r s
  | .cfgApply unit => Sys2Proof.Machine.execCfgApply unit s
  | .tagCheckWrite r v => Sys2Proof.Machine.execTagCheckWrite r v s
  | .ftAcquire r => Sys2Proof.Machine.execFtAcquire r s
  | .taskRelease r t => Sys2Proof.Machine.execTaskRelease r t s
  | .taskAbort r t => Sys2Proof.Machine.execTaskAbort r t s
  | .cmdTailWrite r t v => Sys2Proof.Machine.execCmdTailWrite r t v s
  | .sqDoorbell r q v => Sys2Proof.Machine.execSqDoorbell r q v s
  | .cqDoorbell r q v => Sys2Proof.Machine.execCqDoorbell r q v s
  | .queueEnable r => Sys2Proof.Machine.execQueueEnable r s
  | .tdpCapWrite r v => Sys2Proof.Machine.execTdpCapWrite r v s
  | .voltOffsetWrite r v => Sys2Proof.Machine.execVoltOffsetWrite r v s
  | .portEnable r v => Sys2Proof.Machine.execPortEnable r v s
  | .lowHalfRead r off => Sys2Proof.Machine.execLowHalfRead r off s
  | .readClear r off size => Sys2Proof.Machine.execReadClear r off size s
  | .registerWrite r off size v => Sys2Proof.Machine.execRegisterWrite r off size v s
  | .hostMemRequest x => Sys2Proof.Machine.execHostMemRequest x s
  | .bisnpResponse line => Sys2Proof.Machine.execBisnpResponse line s
  | .uioPeerRequest x => Sys2Proof.Machine.execUioPeerRequest x s
  | .cxlResponse id a => Sys2Proof.Machine.execCxlResponse id a s
  | .cxlTimeout id => Sys2Proof.Machine.execCxlTimeout id s
  | .slowLatMeasure cache uio => Sys2Proof.Machine.execSlowLatMeasure cache uio s
  | .cxlLinkUp width rate flit => Sys2Proof.Machine.execCxlLinkUp width rate flit s
  | .rhaorCompletion comp tag report => Sys2Proof.Machine.execRhaorCompletion comp tag report s
  | .rhaorTimeout comp tag => Sys2Proof.Machine.execRhaorTimeout comp tag s
  | .perstN => Sys2Proof.Machine.execPerstN s
  | .hotReset => Sys2Proof.Machine.execHotReset s
  | .flr => Sys2Proof.Machine.execFlr s
  | .cxlReset memClr => Sys2Proof.Machine.execCxlReset memClr s
  | .powerUp a b f => Sys2Proof.Machine.execPowerUp a b f s
  | .stackInitDone => Sys2Proof.Machine.execStackInitDone s
  | .firmwareUpdate u => Sys2Proof.Machine.execFirmwareUpdate u s
  | .spdmMessage m => Sys2Proof.Machine.execSpdmMessage m s
  | .reservationEnd r => Sys2Proof.Machine.execReservationEnd r s
  | .quiesceTimeout => Sys2Proof.Machine.execQuiesceTimeout s
  | .hostSnoop line => Sys2Proof.Machine.execHostSnoop line s
  | .hdmDecoderCommit commit => Sys2Proof.Machine.execHdmDecoderCommit commit s
  | .cacheEnable on => Sys2Proof.Machine.execCacheEnable on s
  | .msixVectorUnmask v => Sys2Proof.Machine.execMsixVectorUnmask v s
  | .cdatTableAccess discovery => Sys2Proof.Machine.execCdatTableAccess discovery s
  | .powerRemoval => Sys2Proof.Machine.execPowerRemoval s

end Sys2Proof.Machine
end

