-- ==== Sys2Proof/Safety.lean ====
section
/-! DEFINITION. What the claims mean by a safe state and a safe run: the sparse memories stay in their canonical form, so that
equal memories are equal data, and no command ends the run. -/

namespace Sys2Proof.Machine

/-- Stacked memory and its poison marks are in canonical form. -/
def State.memOk (s : State) : Bool := Memory.wf s.dram && twf false s.dramPoison

/-- A scratchpad's bytes and poison marks are in canonical form. -/
def Scratchpad.memOk (p : Scratchpad) : Bool := Memory.wf p.mem && twf false p.poison

/-- Every memory of the machine is in canonical form. -/
def State.safe (s : State) : Bool := s.memOk && s.cores.all fun x => x.sp.memOk

/-- The sparse tables that registers, counters, the recorder and the mailboxes keep are in canonical form. -/
def State.tablesOk (s : State) : Bool :=
  twf GCounter.reset s.gctr && twf noEvent s.recorder.log && (s.ports.all fun p => twf 0 p.postponed)
  && (s.cores.all fun x => twf 0 x.wb) && twf 0 s.mbHost.data && twf 0 s.mbMgmt.data && twf true s.cxl.masked
  && twf false s.cxl.pendingBits

/-- The machine goes on: a command's outcome is a next state. -/
def Runs (o : Out) : Prop := ∃ t, o = .next t

/-- `t` is reached from `s` by some number of steps. -/
inductive Reaches : State → State → Prop where
  | here (s : State) : Reaches s s
  | step (s t u : State) (h : step s = .next t) (r : Reaches t u) : Reaches s u

end Sys2Proof.Machine
end

