-- ==== Sys2Proof/WellFormed.lean ====
section
/-! DEFINITION. Which commands are well formed: what the manual's encodings and message layouts admit, beyond what the types of
the operands already say (R136, R138, R144, R154, R323, R407). An ill-formed command is no command of the block. -/

namespace Sys2Proof

/-- XU 3 is reserved (R136, R138). -/
def MFields.ok (m : MFields) : Bool := m.xu != 3

/-- The formats a VCVT or VEXT may name (R136, R155): ten of the sixteen codes. -/
def laneFormat (fmt : BitVec 4) : Bool := decide (fmt.toNat < 10)

/-- A register access inside BAR0's 32 MiB, of 1, 2, 4 or 8 bytes (R407). -/
def accessOk (off : W32) (size : Nat) : Bool :=
  (size == 1 || size == 2 || size == 4 || size == 8) && decide (off.toNat < 2 ^ 25)

/-- A request to stacked memory: its length as its kind gives it, within the protocol's unit. -/
def ExtReq.ok (x : ExtReq) (unit : Nat) : Bool :=
  decide (1 ≤ x.len) && decide (x.len ≤ unit) && (!x.write || x.bytes.length == x.len)

/-- A packet's payload is as long as its header says (R323). -/
def Packet.ok (k : Packet) : Bool := k.payload.length == k.len.toNat

/-- The check of a command. -/
def Instr.wellFormed : Instr → Bool
  | .add _ _ _ _ _ => true
  | .sub _ _ _ _ _ => true
  | .and _ _ _ _ _ => true
  | .or _ _ _ _ _ => true
  | .xor _ _ _ _ _ => true
  | .shl _ _ _ _ _ => true
  | .shr _ _ _ _ _ => true
  | .sra _ _ _ _ _ => true
  | .slt _ _ _ _ _ => true
  | .sltu _ _ _ _ _ => true
  | .min _ _ _ _ _ => true
  | .max _ _ _ _ _ => true
  | .mul _ _ _ _ _ => true
  | .addi _ _ _ _ _ => true
  | .andi _ _ _ _ _ => true
  | .ori _ _ _ _ _ => true
  | .xori _ _ _ _ _ => true
  | .movz _ _ _ _ _ => true
  | .movk _ _ _ _ _ => true
  | .ld _ _ _ _ _ => true
  | .ldBankRead _ _ _ => true
  | .st _ _ _ _ _ => true
  | .mova _ _ _ _ => true
  | .adda _ _ _ _ _ => true
  | .movs _ _ _ _ => true
  | .beq _ _ _ _ _ => true
  | .bne _ _ _ _ _ => true
  | .blt _ _ _ _ _ => true
  | .bge _ _ _ _ _ => true
  | .bltu _ _ _ _ _ => true
  | .bgeu _ _ _ _ _ => true
  | .jal _ _ _ _ => true
  | .jr _ _ _ => true
  | .sig _ _ _ _ => true
  | .sigUp _ _ _ _ => true
  | .sigDn _ _ _ _ => true
  | .sigC _ _ _ _ _ => true
  | .gsigAdd _ _ _ _ => true
  | .gsigArm _ _ _ _ => true
  | .gsigArmAt _ _ _ _ => true
  | .gsigDisarm _ _ _ _ => true
  | .wait _ _ _ _ => true
  | .take _ _ _ _ => true
  | .ctrrd _ _ _ _ => true
  | .launch _ _ _ _ => true
  | .launchSeg _ _ _ _ => true
  | .launchAt _ _ _ _ _ => true
  | .scfg _ _ _ _ => true
  | .scfgDescriptorRead _ _ _ => true
  | .swait _ _ _ => true
  | .swap _ _ _ => true
  | .sclose _ _ _ => true
  | .wopen _ _ _ _ => true
  | .wopenDescriptorRead _ _ _ => true
  | .wclose _ _ _ => true
  | .cmdwait _ _ _ => true
  | .cmdrd _ _ _ _ => true
  | .cmddone _ _ _ => true
  | .ftrd _ _ _ => true
  | .srset _ _ _ _ => true
  | .vflg _ _ _ _ => true
  | .yield _ _ => true
  | .nop _ _ => true
  | .halt _ _ => true
  | .trap _ _ _ => true
  | .trapReturn _ _ => true
  | .illegal _ _ _ => true
  | .contextWake _ _ => true
  | .counterSignalApply _ _ => true
  | .counterOverflowReport _ => true
  | .mnop _ => true
  | .mmaF _ m => m.ok && m.xb == 0
  | .mmaH _ m => m.ok
  | .mmaQ _ m => m.ok
  | .mmaN _ m => m.ok && decide (m.xb.val < 4)
  | .mmaS _ m => m.ok && m.xb == 0
  | .kgroupConsume _ _ => true
  | .tileBoundary _ => true
  | .drainRow _ => true
  | .tnop _ => true
  | .ginj _ g => g.xu != 3
  | .flitInject _ _ _ => true
  | .flitHop _ _ _ => true
  | .gcap _ _ => true
  | .gcapS _ _ => true
  | .gcapWrite _ => true
  | .gsink _ _ => true
  | .tsig _ _ _ _ => true
  | .trset _ _ _ _ => true
  | .tradd _ _ _ _ => true
  | .baadd _ _ _ => true
  | .loop _ n _ => n != 0
  | .vnop _ => true
  | .vadd _ _ _ _ _ => true
  | .vsub _ _ _ _ _ => true
  | .vmul _ _ _ _ _ => true
  | .vfma _ _ _ _ _ _ => true
  | .vmin _ _ _ _ _ => true
  | .vmax _ _ _ _ _ => true
  | .vabs _ _ _ _ => true
  | .vneg _ _ _ _ => true
  | .vmov _ _ _ => true
  | .vcmp _ _ _ _ _ rel => rel != 3
  | .vsel _ _ _ _ _ _ => true
  | .vand _ _ _ _ => true
  | .vor _ _ _ _ => true
  | .vxor _ _ _ _ => true
  | .vrcp _ _ _ => true
  | .vsqrt _ _ _ => true
  | .vrsqrt _ _ _ => true
  | .vexp2 _ _ _ => true
  | .vlog2 _ _ _ => true
  | .vtanh _ _ _ => true
  | .vsigm _ _ _ => true
  | .vcvt _ _ _ fmt _ _ => laneFormat fmt
  | .vext _ _ _ fmt => laneFormat fmt
  | .vred _ _ _ => true
  | .vbs _ _ _ => true
  | .vld _ _ _ _ _ _ => true
  | .vst _ _ _ _ _ => true
  | .vectorResultWrite _ => true
  | .localBlockStart _ => true
  | .segmentArrival _ => true
  | .segmentLaunchStart _ => true
  | .timedLaunchStart _ => true
  | .blockComplete _ => true
  | .dutyBeat _ => true
  | .segmentRest _ => true
  | .spCorrectionWriteback _ => true
  | .segmentClearDone _ _ => true
  | .windowWriteArrival _ _ => true
  | .windowGranuleWrite _ _ => true
  | .windowFaultReturn _ => true
  | .closeNoticeArrival _ => true
  | .drainMarkerSend _ _ => true
  | .windowClosed _ _ => true
  | .streamRequestIssue _ _ => true
  | .streamReadResponse _ _ => true
  | .streamHalfRead _ _ _ => true
  | .streamWriteAck _ _ => true
  | .streamCloseDone _ _ => true
  | .rtDeadlineMiss _ _ => true
  | .stashTimeout _ => true
  | .stackPortRequest _ => true
  | .stackRequestServe _ _ _ => true
  | .dramReadReturn _ => true
  | .combineEntryClose _ => true
  | .recordPartArrival _ _ => true
  | .recordAssemblyTimeout _ => true
  | .refresh _ _ _ => true
  | .scrubRead _ _ => true
  | .stackTempSample _ _ => true
  | .globalSignalApply _ => true
  | .barrierReleaseApply _ => true
  | .timedRelease _ => true
  | .submissionFetch _ _ => true
  | .taskLoadDone _ => true
  | .taskLaunch _ => true
  | .taskEnd _ => true
  | .taskHaltDone _ => true
  | .quantumExpiry _ => true
  | .preemptSave _ => true
  | .taskResume _ => true
  | .reservationLead _ => true
  | .reservationStart _ => true
  | .entryPost _ => true
  | .entryComplete _ _ => true
  | .fwd _ _ => true
  | .bwd _ _ => true
  | .update _ _ => true
  | .lookupForward _ _ _ => true
  | .lookupBackward _ _ _ => true
  | .exchange _ _ _ => true
  | .reduce _ _ _ => true
  | .gather _ _ _ => true
  | .gatherBarrier _ _ _ => true
  | .snapshot _ _ => true
  | .snapshotRestore _ _ _ _ _ => true
  | .rfence _ _ => true
  | .run _ _ => true
  | .endEntry _ _ => true
  | .mark _ _ => true
  | .pipecfg _ _ => true
  | .snapshotCapture => true
  | .snapshotCommit _ _ => true
  | .restoreSeedWrite => true
  | .restoreSeedTimeout => true
  | .verifyReplay _ => true
  | .intervalCompute _ _ _ _ => true
  | .collTimeout _ _ _ => true
  | .collResend => true
  | .idle _ _ => true
  | .write _ k => k.ok
  | .read _ k => k.ok
  | .resp _ k => k.ok
  | .signal _ k => k.ok
  | .coll _ k => k.ok
  | .tsync _ k => k.ok
  | .mirror _ k => k.ok
  | .mgmt _ k => k.ok
  | .nak _ k => k.ok
  | .packetForward _ k => k.ok
  | .linkFrameReceive _ _ k => k.ok
  | .linkReplay _ _ => true
  | .linkRetrain _ _ => true
  | .portTrainingDone _ _ => true
  | .linkNegotiation _ _ => true
  | .remoteTimeout _ => true
  | .tsyncExchange _ _ _ => true
  | .upstreamLoss => true
  | .masterElection _ => true
  | .timeLock _ => true
  | .ftStepApply => true
  | .ftReplicaCorrect => true
  | .trimOutOfRange _ => true
  | .holdoverTick => true
  | .controlWindow _ _ _ _ => true
  | .packageSensorRead _ _ => true
  | .marginReport _ _ => true
  | .calibration _ => true
  | .droopStretch _ _ => true
  | .lostLock _ => true
  | .crossingMarginLoss _ => true
  | .junctionTemp _ _ => true
  | .energyIntegrate _ => true
  | .eventQueue => true
  | .eventWrite => true
  | .rateWindow => true
  | .logArm _ => true
  | .logFreeze _ => true
  | .logUnfreeze _ => true
  | .getVersion _ => true
  | .setVersion _ _ => true
  | .quiesce _ _ => true
  | .quiesceApply => true
  | .reserve _ _ _ _ _ => true
  | .unreserve _ _ => true
  | .setQuantum _ _ => true
  | .selfTest _ _ _ => true
  | .selfTestRun _ _ => true
  | .selfTestTimeout _ => true
  | .testResult _ _ => true
  | .setSignedMode _ => true
  | .commitSvn _ => true
  | .logRead _ _ _ => true
  | .mgmtRead32 _ => true
  | .mgmtWrite32 _ _ => true
  | .mgmtRead64 _ => true
  | .cfgCommit _ => true
  | .cfgApply _ => true
  | .tagCheckWrite _ _ => true
  | .ftAcquire _ => true
  | .taskRelease _ _ => true
  | .taskAbort _ _ => true
  | .cmdTailWrite _ _ _ => true
  | .sqDoorbell _ _ _ => true
  | .cqDoorbell _ _ _ => true
  | .queueEnable _ => true
  | .tdpCapWrite _ _ => true
  | .voltOffsetWrite _ _ => true
  | .portEnable _ _ => true
  | .lowHalfRead _ off => accessOk off 4
  | .readClear _ off size => accessOk off size
  | .registerWrite _ off size _ => accessOk off size
  | .hostMemRequest x => x.ok 64
  | .bisnpResponse _ => true
  | .uioPeerRequest x => x.ok 256
  | .cxlResponse _ _ => true
  | .cxlTimeout _ => true
  | .slowLatMeasure _ _ => true
  | .cxlLinkUp width _ flit => (width == 4 || width == 8 || width == 16) && flit != 3
  | .rhaorCompletion _ _ _ => true
  | .rhaorTimeout _ _ => true
  | .perstN => true
  | .hotReset => true
  | .flr => true
  | .cxlReset _ => true
  | .powerUp _ _ _ => true
  | .stackInitDone => true
  | .firmwareUpdate _ => true
  | .spdmMessage _ => true
  | .reservationEnd _ => true
  | .quiesceTimeout => true
  | .hostSnoop _ => true
  | .hdmDecoderCommit _ => true
  | .cacheEnable _ => true
  | .msixVectorUnmask _ => true
  | .cdatTableAccess _ => true
  | .powerRemoval => true

end Sys2Proof
end

