-- ==== Sys2Proof/Certificates/Slice0/Obligations.lean ====
section
/-! DEFINITION. The statements of this row: what the block does with each family of commands, which commands complete where, what
they leave alone, and what every step keeps. A statement that answers `∃ t, exec i s = .next t` from hypotheses on the state and
the operands alone says where the command completes. -/

namespace Sys2Proof.Claims

open Sys2Proof Sys2Proof.Machine

/-- Context `k` of core `c`. -/
def ctx (s : State) (c : CoreIx) (k : CtxIx) : Ctx := s.cores[c].ctx[k]

/-- Only core `c` differs. -/
def OnlyCore (s t : State) (c : CoreIx) : Prop := t = { s with cores := s.cores.set c t.cores[c] }

/-- Context `k` of core `c` issued an instruction and its registers are now `y`: every other context, core and unit is as it was,
and the core has noted the issue. -/
def Issued (s t : State) (c : CoreIx) (k : CtxIx) (y : Ctx) : Prop :=
  t = { s with cores := s.cores.set c { s.cores[c] with
    ctx := s.cores[c].ctx.set k y, lastIssue := some (s.time.cycle, k), yielded := none } }

/-- The context after a result `v` for register `rd`, ready after `lat` cycles: S0 discards it, a pending LD of the same register
is superseded, execution goes on at the next word, and everything else of the context is as it was. -/
def wrote (s : State) (y : Ctx) (rd : SReg) (v : W64) (lat : Nat) : Ctx :=
  if rd.val = 0 then { y with pc := y.pc + 1 }
  else { y with pc := y.pc + 1, s := y.s.set rd v, ready := y.ready.set rd (s.time.cycle + lat),
                lds := y.lds.map fun l => if l.rd = rd then { l with rd := 0 } else l }

/-- The value an instruction reads in a scalar register: 0 in S0 (R104). -/
def reads (s : State) (c : CoreIx) (k : CtxIx) (r : SReg) : W64 := if r.val = 0 then 0 else (ctx s c k).s[r]

/-- The task that core `c` runs, if it may issue. -/
def runs (s : State) (c : CoreIx) (t : SlotIx) : Bool := s.cores[c].slot == some t && s.tasks[t].issues

/-! ### Control instructions -/

/-- The rows of opcode 0x00 (R107): the command, its fn, its result latency, and its result on two 64-bit numbers. -/
def aluRows : List ((CoreIx → CtxIx → SReg → SReg → SReg → Instr) × Nat × Nat × (W64 → W64 → W64)) :=
  [(.add, 0x000, 1, fun a b => BitVec.ofNat 64 (a.toNat + b.toNat)),
   (.sub, 0x001, 1, fun a b => BitVec.ofInt 64 ((a.toNat : Int) - b.toNat)),
   (.and, 0x002, 1, fun a b => a &&& b),
   (.or, 0x003, 1, fun a b => a ||| b),
   (.xor, 0x004, 1, fun a b => a ^^^ b),
   (.shl, 0x005, 1, fun a b => BitVec.ofNat 64 (a.toNat * 2 ^ (b.toNat % 64))),
   (.shr, 0x006, 1, fun a b => BitVec.ofNat 64 (a.toNat / 2 ^ (b.toNat % 64))),
   (.sra, 0x007, 1, fun a b => BitVec.ofInt 64 (a.toInt / 2 ^ (b.toNat % 64))),
   (.slt, 0x008, 1, fun a b => if a.toInt < b.toInt then 1 else 0),
   (.sltu, 0x009, 1, fun a b => if a.toNat < b.toNat then 1 else 0),
   (.min, 0x00A, 1, fun a b => BitVec.ofInt 64 (min a.toInt b.toInt)),
   (.max, 0x00B, 1, fun a b => BitVec.ofInt 64 (max a.toInt b.toInt)),
   (.mul, 0x010, 3, fun a b => BitVec.ofNat 64 (a.toNat * b.toNat))]

/-- ANDI, ORI, XORI and ADDI (R107): the command, its opcode, and its result. -/
def immRows : List ((CoreIx → CtxIx → SReg → SReg → W16 → Instr) × Nat × (W64 → W16 → W64)) :=
  [(.addi, 0x01, fun a i => BitVec.ofInt 64 (a.toNat + i.toInt)),
   (.andi, 0x02, fun a i => BitVec.ofNat 64 (a.toNat &&& i.toNat)),
   (.ori, 0x03, fun a i => BitVec.ofNat 64 (a.toNat ||| i.toNat)),
   (.xori, 0x04, fun a i => BitVec.ofNat 64 (a.toNat ^^^ i.toNat))]

/-- The branches (R107): the command, its opcode, its condition. -/
def branchRows : List ((CoreIx → CtxIx → SReg → SReg → W16 → Instr) × Nat × (W64 → W64 → Bool)) :=
  [(.beq, 0x10, fun a b => decide (a.toNat = b.toNat)),
   (.bne, 0x11, fun a b => decide (a.toNat ≠ b.toNat)),
   (.blt, 0x12, fun a b => decide (a.toInt < b.toInt)),
   (.bge, 0x13, fun a b => decide (b.toInt ≤ a.toInt)),
   (.bltu, 0x14, fun a b => decide (a.toNat < b.toNat)),
   (.bgeu, 0x15, fun a b => decide (b.toNat ≤ a.toNat))]

/-- PC + 1 + sext(off) among the 8,192 words of control memory. -/
def target (pc : BitVec 13) (off : W16) : BitVec 13 := BitVec.ofInt 13 (pc.toNat + 1 + off.toInt)

end Sys2Proof.Claims

open Sys2Proof Sys2Proof.Machine Sys2Proof.Claims

/-- R107: a register-register instruction that may issue writes its result, ready after its latency, and changes nothing else. -/
def Obligations.AluResult : Prop :=
  ∀ e ∈ aluRows, ∀ (c : CoreIx) (k : CtxIx) (rd ra rb : SReg) (s : State),
    issueOk s c k (encR 0 rd.val ra.val rb.val e.2.1) 0 [ra, rb] = true →
    ∃ t, exec (e.1 c k rd ra rb) s = .next t ∧
      Issued s t c k (wrote s (ctx s c k) rd (e.2.2.2 (reads s c k ra) (reads s c k rb)) e.2.2.1)

/-- R107: the instructions with an immediate. MOVZ and MOVK place the immediate at bit 16 h, over zeros or over the old bits. -/
def Obligations.AluImmediateResult : Prop :=
  (∀ e ∈ immRows, ∀ (c : CoreIx) (k : CtxIx) (rd ra : SReg) (imm : W16) (s : State),
    issueOk s c k (encI e.2.1 rd.val ra.val imm) 0 [ra] = true →
    ∃ t, exec (e.1 c k rd ra imm) s = .next t ∧ Issued s t c k (wrote s (ctx s c k) rd (e.2.2 (reads s c k ra) imm) 1)) ∧
  (∀ (c : CoreIx) (k : CtxIx) (rd : SReg) (imm : W16) (h : Fin 4) (s : State),
    issueOk s c k (encI 0x05 rd.val h.val imm) 0 [] = true →
    ∃ t, exec (.movz c k rd imm h) s = .next t ∧
      Issued s t c k (wrote s (ctx s c k) rd (BitVec.ofNat 64 (imm.toNat * 2 ^ (16 * h.val))) 1)) ∧
  (∀ (c : CoreIx) (k : CtxIx) (rd : SReg) (imm : W16) (h : Fin 4) (s : State),
    issueOk s c k (encI 0x06 rd.val h.val imm) 0 [rd] = true →
    ∃ t v, exec (.movk c k rd imm h) s = .next t ∧ Issued s t c k (wrote s (ctx s c k) rd v 1) ∧
      ∀ i : Nat, i < 64 → v.getLsbD i =
        if 16 * h.val ≤ i ∧ i < 16 * h.val + 16 then imm.getLsbD (i - 16 * h.val) else (reads s c k rd).getLsbD i)

/-- R107: the address registers. -/
def Obligations.AddressRegisterResult : Prop :=
  (∀ (c : CoreIx) (k : CtxIx) (ad : AReg) (ra : SReg) (s : State),
    issueOk s c k (encI 0x0A ad.val ra.val 0) 0 [ra] = true →
    ∃ t, exec (.mova c k ad ra) s = .next t ∧
      Issued s t c k { ctx s c k with ad := (ctx s c k).ad.set ad (BitVec.ofNat 22 (reads s c k ra).toNat), pc := (ctx s c k).pc + 1 }) ∧
  (∀ (c : CoreIx) (k : CtxIx) (ad ad2 : AReg) (imm : W16) (s : State),
    issueOk s c k (encI 0x0B ad.val ad2.val imm) 0 [] = true →
    ∃ t, exec (.adda c k ad ad2 imm) s = .next t ∧
      Issued s t c k { ctx s c k with
        ad := (ctx s c k).ad.set ad (BitVec.ofInt 22 ((ctx s c k).ad[ad2].toNat + 64 * imm.toInt)), pc := (ctx s c k).pc + 1 }) ∧
  (∀ (c : CoreIx) (k : CtxIx) (rd : SReg) (ad : AReg) (s : State),
    issueOk s c k (encI 0x0C rd.val ad.val 0) 0 [] = true →
    ∃ t, exec (.movs c k rd ad) s = .next t ∧
      Issued s t c k (wrote s (ctx s c k) rd (BitVec.ofNat 64 (ctx s c k).ad[ad].toNat) 1))

/-- R107: a branch goes on at PC + 1 + sext(off) when its condition holds, 2 cc later, and at the next word when not. JAL and JR
always jump. -/
def Obligations.BranchResult : Prop :=
  (∀ e ∈ branchRows, ∀ (c : CoreIx) (k : CtxIx) (ra rb : SReg) (off : W16) (s : State),
    issueOk s c k (encI e.2.1 ra.val rb.val off) 0 [ra, rb] = true →
    ∃ t, exec (e.1 c k ra rb off) s = .next t ∧ Issued s t c k
      (if e.2.2 (reads s c k ra) (reads s c k rb) = true
       then { ctx s c k with pc := target (ctx s c k).pc off, pcReady := s.time.cycle + 2 }
       else { ctx s c k with pc := (ctx s c k).pc + 1 })) ∧
  (∀ (c : CoreIx) (k : CtxIx) (rd : SReg) (imm : W16) (s : State),
    issueOk s c k (encI 0x16 rd.val 0 imm) 0 [] = true →
    ∃ t, exec (.jal c k rd imm) s = .next t ∧ Issued s t c k
      { wrote s (ctx s c k) rd (BitVec.ofNat 64 (((ctx s c k).pc.toNat + 1) % 8192)) 2 with
        pc := target (ctx s c k).pc imm, pcReady := s.time.cycle + 2 }) ∧
  (∀ (c : CoreIx) (k : CtxIx) (ra : SReg) (s : State),
    issueOk s c k (encI 0x17 0 ra.val 0) 0 [ra] = true →
    ∃ t, exec (.jr c k ra) s = .next t ∧ Issued s t c k
      { ctx s c k with pc := BitVec.ofNat 13 (reads s c k ra).toNat, pcReady := s.time.cycle + 2 })

/-! ### LD and ST -/

namespace Sys2Proof.Claims
open Sys2Proof Sys2Proof.Machine

/-- AD[ad] + 8 x sext(imm), the address an LD or ST names (R107). -/
def accessAt (s : State) (c : CoreIx) (k : CtxIx) (ad : AReg) (imm : W16) : Int := ((ctx s c k).ad[ad].toNat : Int) + 8 * imm.toInt

/-- The address is a multiple of 8 whose eight bytes the running task holds (R108). -/
def accessGood (s : State) (c : CoreIx) (k : CtxIx) (ad : AReg) (imm : W16) : Prop :=
  accessAt s c k ad imm % 8 = 0 ∧ 0 ≤ accessAt s c k ad imm ∧ spHeld s c (accessAt s c k ad imm).toNat 8 = true

/-- A cause was latched in a context that held none, at a PC: CTX_FAULT names it, the fault is counted and an event of code
0x1000 + cause is on its way to the recorder (R116, R377). -/
def Latched (s t : State) (c : CoreIx) (k : CtxIx) (cause : Byte) (pc : BitVec 13) : Prop :=
  (ctx t c k).faulted = true ∧ (ctx t c k).cause = cause ∧ (ctx t c k).faultPc = pc ∧
  (ctx t c k).faultCount = satInc (ctx s c k).faultCount ∧
  ∃ e, t.recorder.arriving = s.recorder.arriving ++ [e] ∧ e.code = 0x1000 + cause.setWidth 16 ∧ e.unit = BitVec.ofNat 8 c.val

/-- A context fault: every register an instruction reads but S30 and S31, every counter's value and limit, every scratchpad,
stream, window, array and running block is as it was; only contexts' states, wait queues, pending launches, tasks, the recorder
and one free value may differ. -/
def FaultFrame (s t : State) : Prop :=
  t = { s with cores := t.cores, tasks := t.tasks, recorder := t.recorder, freeCtr := t.freeCtr } ∧
  ∀ c : CoreIx,
    t.cores[c] = { s.cores[c] with ctx := t.cores[c].ctx, counters := t.cores[c].counters, serveDue := t.cores[c].serveDue,
                                   pend := t.cores[c].pend, lastIssue := t.cores[c].lastIssue, yielded := t.cores[c].yielded } ∧
    (∀ n : Fin 256, (t.cores[c].counters[n]).value = (s.cores[c].counters[n]).value ∧
      (t.cores[c].counters[n]).limit = (s.cores[c].counters[n]).limit) ∧
    ∀ k : CtxIx, (ctx t c k).ad = (ctx s c k).ad ∧ (ctx t c k).vflags = (ctx s c k).vflags ∧ (ctx t c k).seed = (ctx s c k).seed ∧
      (ctx t c k).sctr = (ctx s c k).sctr ∧ ∀ r : SReg, r.val < 30 → (ctx t c k).s[r] = (ctx s c k).s[r]

end Sys2Proof.Claims

/-- R107, R108: an LD or ST whose address is good issues: the LD waits for its bank with its address, and supersedes an older LD
of its register; the ST joins the core's store queue with the register's eight bytes. R108: an address that is no multiple of 8
faults ALIGN (cause 0x02), one that the task does not hold ADDRESS (0x03), at the instruction's own PC; no register but S30 and
S31, and no scratchpad byte or queued store, changes. R107, R108, R172: the bank read of an LD whose bank is free for it:
without poison the register takes the eight bytes, least significant first, ready 6 cc later; from a poisoned granule, or after
an uncorrectable error, the context faults POISON (0x04) at the LD's PC. The scratchpad's bytes and stacked memory are as they
were. -/
def Obligations.LoadsAndStores : Prop :=
  (∀ (c : CoreIx) (k : CtxIx) (rd : SReg) (ad : AReg) (imm : W16) (s : State),
    issueOk s c k (encI 0x08 rd.val ad.val imm) 0 [] = true → accessGood s c k ad imm →
    ∃ t, exec (.ld c k rd ad imm) s = .next t ∧ Issued s t c k { ctx s c k with
      pc := (ctx s c k).pc + 1
      lds := ((ctx s c k).lds.map fun l => if l.rd = rd then { l with rd := 0 } else l) ++
        [{ rd := rd, addr := (accessAt s c k ad imm).toNat, pc := (ctx s c k).pc, issued := s.time.cycle }] }) ∧
  (∀ (c : CoreIx) (k : CtxIx) (rs : SReg) (ad : AReg) (imm : W16) (s : State),
    issueOk s c k (encI 0x09 rs.val ad.val imm) 0 [rs] = true → accessGood s c k ad imm →
    ∃ t bs, exec (.st c k rs ad imm) s = .next t ∧ bs.length = 8 ∧ leNat bs = (reads s c k rs).toNat ∧
      Issued { s with cores := s.cores.set c { s.cores[c] with sp := { s.cores[c].sp with
          stores := s.cores[c].sp.stores ++
            [{ addr := (accessAt s c k ad imm).toNat, bytes := bs, poison := false, agent := 8, issued := s.time.cycle, part := 0 }] } } }
        t c k { ctx s c k with pc := (ctx s c k).pc + 1 }) ∧
  (∀ (load : Bool) (c : CoreIx) (k : CtxIx) (r : SReg) (ad : AReg) (imm : W16) (s : State),
    issueOk s c k (encI (if load then 0x08 else 0x09) r.val ad.val imm) 0 (if load then [] else [r]) = true →
    (ctx s c k).faulted = false → ¬ accessGood s c k ad imm →
    ∃ t, exec (if load then .ld c k r ad imm else .st c k r ad imm) s = .next t ∧ FaultFrame s t ∧
      Latched s t c k (if accessAt s c k ad imm % 8 = 0 then 0x03 else 0x02) (ctx s c k).pc) ∧
  (∀ (c : CoreIx) (k : CtxIx) (found : Ecc) (l : LdPend) (s : State),
    ldDue s c k = some l → (ctx s c k).faulted = false →
    ∃ t, exec (.ldBankRead c k found) s = .next t ∧ t.cores[c].sp.mem = s.cores[c].sp.mem ∧ t.dram = s.dram ∧
      (found ≠ .uncorrectable → spPoisoned s.cores[c] l.addr 8 = false →
        (ctx t c k).sget l.rd = (if l.rd.val = 0 then 0 else BitVec.ofNat 64 (leNat (readBytes s.cores[c].sp.mem l.addr 8))) ∧
        (l.rd.val ≠ 0 → (ctx t c k).ready[l.rd] = s.time.cycle + 6) ∧
        (ctx t c k).faulted = false ∧ (∀ r : SReg, r ≠ l.rd → (ctx t c k).s[r] = (ctx s c k).s[r])) ∧
      ((found = .uncorrectable ∨ spPoisoned s.cores[c] l.addr 8 = true) →
        (ctx t c k).faulted = true ∧ (ctx t c k).cause = 0x04 ∧ (ctx t c k).faultPc = l.pc ∧
        ∀ r : SReg, r.val < 30 → (ctx t c k).s[r] = (ctx s c k).s[r]))

/-! ### Signals and counters -/

namespace Sys2Proof.Claims
open Sys2Proof Sys2Proof.Machine

/-- The machine with a signal of `n` to counter `ctr` of core `d` on its way, applied `lat` cycles from now; a signal of 0 is
none (R209). -/
def signalled (s : State) (c : CoreIx) (k : CtxIx) (d : CoreIx) (ctr : Byte) (n : W16) (lat : Nat) (src : BitVec 3) : State :=
  if n = 0 then s
  else { s with incs := s.incs ++ [{ core := d, ctr := ctr, n := n.toNat, due := s.time.cycle + lat, source := src, tsig := false,
                                     fcore := c, fctx := k, fpc := (ctx s c k).pc }] }

/-- The context goes on at the next word. -/
def passed (s : State) (c : CoreIx) (k : CtxIx) : Ctx := { ctx s c k with pc := (ctx s c k).pc + 1 }

/-- The n of a K-format instruction. -/
def amount (s : State) (c : CoreIx) (k : CtxIx) : NOp → W16
  | .imm n => n
  | .reg rs => BitVec.ofNat 16 (reads s c k rs).toNat

/-- Core `d` lies in the task that core `c` runs. -/
def inTask (s : State) (c d : CoreIx) : Bool :=
  match s.cores[c].slot with
  | some t => s.tasks[t].hasCore d
  | none => false

/-- Counter `ctr` of core `c` is below the running task's COUNTERS. -/
def counterNamed (s : State) (c : CoreIx) (ctr : Nat) : Bool :=
  match s.cores[c].slot with
  | some t => decide (ctr < s.tasks[t].hdr.counters)
  | none => false

/-- The GSIG words of R214: op in bits [14:12], GCTR in [11:0], REMOTE in [15], the destination in [63:32]. -/
def gsigHeld (s : State) (c : CoreIx) (a : W64) : Bool :=
  match s.cores[c].slot with
  | some t => decide (s.tasks[t].gctrFirst ≤ a.toNat % 4096) && decide (a.toNat % 4096 < s.tasks[t].gctrFirst + s.tasks[t].hdr.globals)
  | none => false

/-- A GSIG without REMOTE whose range bits are 0, of a counter the task holds. -/
def gsigLocal (s : State) (c : CoreIx) (a : W64) (op : Nat) : Prop :=
  gsigHeld s c a = true ∧ a.toNat / 4096 = op

/-- The machine with a GSIG on its way to the hub, 19 cc away (R214). -/
def gsent (s : State) (c : CoreIx) (k : CtxIx) (a : W64) (o : GOp) (dest : Option W32) : State :=
  { s with gsigs := s.gsigs ++ [{ g := ⟨a.toNat % 4096, by omega⟩, op := o, due := s.time.cycle + 19, core := c, ctx := k,
                                  pc := (ctx s c k).pc, src := dest }] }

/-- Core `c` with counter `ctr` changed. -/
def withCounter (s : State) (c : CoreIx) (ctr : Byte) (q : Counter) : State :=
  { s with cores := s.cores.set c { s.cores[c] with counters := s.cores[c].counters.set ctr.toNat q } }

def counterOf (s : State) (c : CoreIx) (ctr : Byte) : Counter := s.cores[c].counters[ctr.toNat]

/-- The sum of the increments that reach a counter in the current cycle. -/
def dueSum (s : State) (c : CoreIx) (ctr : Byte) : Nat := ((s.incs.filter fun i => i.hits c ctr s.time.cycle).map CtrInc.n).sum

end Sys2Proof.Claims

/-- R107, R109, R204, R209: SIG reaches the core's own counter after 1 cc, SIG.UP and SIG.DN a neighbour of the same task over a
wire no buckle closes after 3 cc, SIG.C any core of the task after 19 cc; a signal of 0 is none. R109: each of the four faults
COUNTER_RANGE (0x0A), with the counter as information, where the counter is at or above COUNTERS; SIG.UP and SIG.DN fault ROUTE
(0x0B) for a neighbour across a closed buckle or outside the task, SIG.C for a core outside the task, with counter and target as
information; a fault sends no signal. -/
def Obligations.CounterSignals : Prop :=
  (∀ (c : CoreIx) (k : CtxIx) (ctr : Byte) (n : NOp) (s : State),
    issueOk s c k (encK 0x18 ctr n) 0 (nsrc n) = true → counterNamed s c ctr.toNat = true →
    ∃ t, exec (.sig c k ctr n) s = .next t ∧ Issued (signalled s c k c ctr (amount s c k n) 1 0) t c k (passed s c k)) ∧
  (∀ (c : CoreIx) (k : CtxIx) (ctr : Byte) (n : NOp) (s : State),
    issueOk s c k (encK 0x19 ctr n) 0 (nsrc n) = true → counterNamed s c ctr.toNat = true →
    inTask s c (upCore c) = true → buckleBelow s (upCore c) = false →
    ∃ t, exec (.sigUp c k ctr n) s = .next t ∧ Issued (signalled s c k (upCore c) ctr (amount s c k n) 3 3) t c k (passed s c k)) ∧
  (∀ (c : CoreIx) (k : CtxIx) (ctr : Byte) (n : NOp) (s : State),
    issueOk s c k (encK 0x1A ctr n) 0 (nsrc n) = true → counterNamed s c ctr.toNat = true →
    inTask s c (downCore c) = true → buckleBelow s c = false →
    ∃ t, exec (.sigDn c k ctr n) s = .next t ∧ Issued (signalled s c k (downCore c) ctr (amount s c k n) 3 2) t c k (passed s c k)) ∧
  (∀ (c d : CoreIx) (k : CtxIx) (ra rb : SReg) (ctr : Byte) (s : State),
    issueOk s c k (encR 0x1B 0 ra.val rb.val ctr.toNat) 0 [ra, rb] = true → counterNamed s c ctr.toNat = true →
    (reads s c k ra).toNat % 256 = d.val → inTask s c d = true →
    ∃ t, exec (.sigC c k ra rb ctr) s = .next t ∧
      Issued (signalled s c k d ctr (BitVec.ofNat 16 (reads s c k rb).toNat) 19 4) t c k (passed s c k)) ∧
  (∀ e ∈ ([(.sig, 0x18), (.sigUp, 0x19), (.sigDn, 0x1A)] : List ((CoreIx → CtxIx → Byte → NOp → Instr) × Nat)),
    ∀ (c : CoreIx) (k : CtxIx) (ctr : Byte) (n : NOp) (s : State),
    issueOk s c k (encK e.2 ctr n) 0 (nsrc n) = true → counterNamed s c ctr.toNat = false → (ctx s c k).faulted = false →
    ∃ t, exec (e.1 c k ctr n) s = .next t ∧ FaultFrame s t ∧ Latched s t c k 0x0A (ctx s c k).pc ∧
      (ctx t c k).info = BitVec.ofNat 16 ctr.toNat) ∧
  (∀ (c : CoreIx) (k : CtxIx) (ra rb : SReg) (ctr : Byte) (s : State),
    issueOk s c k (encR 0x1B 0 ra.val rb.val ctr.toNat) 0 [ra, rb] = true → counterNamed s c ctr.toNat = false →
    (ctx s c k).faulted = false →
    ∃ t, exec (.sigC c k ra rb ctr) s = .next t ∧ FaultFrame s t ∧ Latched s t c k 0x0A (ctx s c k).pc ∧
      (ctx t c k).info = BitVec.ofNat 16 ctr.toNat) ∧
  (∀ (up : Bool) (c : CoreIx) (k : CtxIx) (ctr : Byte) (n : NOp) (s : State),
    issueOk s c k (encK (if up then 0x19 else 0x1A) ctr n) 0 (nsrc n) = true → counterNamed s c ctr.toNat = true →
    (inTask s c (if up then upCore c else downCore c) = false ∨ buckleBelow s (if up then upCore c else c) = true) →
    (ctx s c k).faulted = false →
    ∃ t, exec (if up then .sigUp c k ctr n else .sigDn c k ctr n) s = .next t ∧ FaultFrame s t ∧
      Latched s t c k 0x0B (ctx s c k).pc ∧
      (ctx t c k).info = BitVec.ofNat 16 (ctr.toNat + 256 * (if up then upCore c else downCore c).val)) ∧
  (∀ (c : CoreIx) (k : CtxIx) (ra rb : SReg) (ctr : Byte) (s : State),
    issueOk s c k (encR 0x1B 0 ra.val rb.val ctr.toNat) 0 [ra, rb] = true → counterNamed s c ctr.toNat = true →
    (∀ d : CoreIx, (reads s c k ra).toNat % 256 = d.val → inTask s c d = false) → (ctx s c k).faulted = false →
    ∃ t, exec (.sigC c k ra rb ctr) s = .next t ∧ FaultFrame s t ∧ Latched s t c k 0x0B (ctx s c k).pc ∧
      (ctx t c k).info = BitVec.ofNat 16 (ctr.toNat + 256 * ((reads s c k ra).toNat % 256)))

/-- R214, R219: a GSIG on a counter the task holds leaves for the hub, 19 cc away: ADD with its amount (none for 0), ARM with
expected count, release counter and flags, ARM AT with an FT, DISARM. -/
def Obligations.GlobalSignalsSent : Prop :=
  (∀ (c : CoreIx) (k : CtxIx) (ra rb : SReg) (s : State),
    issueOk s c k (encR 0x1C 0 ra.val rb.val 0) 0 [ra, rb] = true → gsigLocal s c (reads s c k ra) 0 →
    ∃ t, exec (.gsigAdd c k ra rb) s = .next t ∧
      Issued (if (reads s c k rb).toNat % 65536 = 0 then s
        else gsent s c k (reads s c k ra) (.add ((reads s c k rb).toNat % 65536)) none) t c k (passed s c k)) ∧
  (∀ (c : CoreIx) (k : CtxIx) (ra rb : SReg) (e : BitVec 24) (r : Byte) (s : State),
    issueOk s c k (encR 0x1C 0 ra.val rb.val 0) 0 [ra, rb] = true → gsigLocal s c (reads s c k ra) 1 →
    (reads s c k rb).toNat % 2 ^ 32 = e.toNat + r.toNat * 2 ^ 24 → (reads s c k rb).toNat < 2 ^ 34 → e ≠ 0 →
    counterNamed s c r.toNat = true →
    ∃ t, exec (.gsigArm c k ra rb) s = .next t ∧
      Issued (gsent s c k (reads s c k ra) (.arm e r ((reads s c k rb).getLsbD 32) ((reads s c k rb).getLsbD 33)) none) t c k
        (passed s c k)) ∧
  (∀ (c : CoreIx) (k : CtxIx) (ra rb : SReg) (s : State),
    issueOk s c k (encR 0x1C 0 ra.val rb.val 0) 0 [ra, rb] = true → gsigLocal s c (reads s c k ra) 2 →
    ∃ t, exec (.gsigArmAt c k ra rb) s = .next t ∧
      Issued (gsent s c k (reads s c k ra) (.armAt (reads s c k rb)) none) t c k (passed s c k)) ∧
  (∀ (c : CoreIx) (k : CtxIx) (ra rb : SReg) (s : State),
    issueOk s c k (encR 0x1C 0 ra.val rb.val 0) 0 [ra, rb] = true → gsigLocal s c (reads s c k ra) 3 → reads s c k rb = 0 →
    ∃ t, exec (.gsigDisarm c k ra rb) s = .next t ∧
      Issued (gsent s c k (reads s c k ra) .disarm none) t c k (passed s c k))

/-- R107, R208, R209: WAIT of a counter the task holds goes on where n is 0, consumes n where no context waits and VALUE covers
it, and else becomes WAITING at the queue's tail; TAKE consumes n where VALUE covers it and faults UNDERFLOW (0x09) where it
does not; CTRRD reads LIMIT in bits 31 to 16 and VALUE in bits 15 to 0, ready after 2 cc. A counter at or above COUNTERS, and a
WAIT for more than LIMIT, fault COUNTER_RANGE (0x0A); a fault consumes nothing. -/
def Obligations.CounterInstructions : Prop :=
  (∀ (c : CoreIx) (k : CtxIx) (ctr : Byte) (n : NOp) (s : State),
    issueOk s c k (encK 0x1D ctr n) 0 (nsrc n) = true → counterNamed s c ctr.toNat = true →
    (amount s c k n).toNat ≤ (counterOf s c ctr).limit.toNat →
    ∃ t, exec (.wait c k ctr n) s = .next t ∧
      (if amount s c k n = 0 then Issued s t c k (passed s c k)
       else if (counterOf s c ctr).queue = [] ∧ (amount s c k n).toNat ≤ (counterOf s c ctr).value.toNat
       then Issued (withCounter s c ctr { counterOf s c ctr with value := (counterOf s c ctr).value - amount s c k n }) t c k
              (passed s c k)
       else Issued (withCounter s c ctr { counterOf s c ctr with
              queue := (counterOf s c ctr).queue ++ [{ ctx := k, n := amount s c k n }] }) t c k
              { ctx s c k with st := .waiting, kind := .counter, waitObj := ctr, waitN := amount s c k n })) ∧
  (∀ (c : CoreIx) (k : CtxIx) (ctr : Byte) (n : NOp) (s : State),
    issueOk s c k (encK 0x1E ctr n) 0 (nsrc n) = true → counterNamed s c ctr.toNat = true →
    (amount s c k n).toNat ≤ (counterOf s c ctr).value.toNat →
    ∃ t, exec (.take c k ctr n) s = .next t ∧
      Issued (withCounter s c ctr { counterOf s c ctr with value := (counterOf s c ctr).value - amount s c k n }) t c k
        (passed s c k)) ∧
  (∀ (c : CoreIx) (k : CtxIx) (rd : SReg) (ctr : Byte) (s : State),
    issueOk s c k (encI 0x1F rd.val 0 (ctr.setWidth 16)) 0 [] = true → counterNamed s c ctr.toNat = true →
    ∃ t, exec (.ctrrd c k rd (ctr.setWidth 16)) s = .next t ∧
      Issued s t c k (wrote s (ctx s c k) rd
        (BitVec.ofNat 64 ((counterOf s c ctr).limit.toNat * 65536 + (counterOf s c ctr).value.toNat)) 2)) ∧
  (∀ (wait : Bool) (c : CoreIx) (k : CtxIx) (ctr : Byte) (n : NOp) (s : State),
    issueOk s c k (encK (if wait then 0x1D else 0x1E) ctr n) 0 (nsrc n) = true → counterNamed s c ctr.toNat = false →
    (ctx s c k).faulted = false →
    ∃ t, exec (if wait then .wait c k ctr n else .take c k ctr n) s = .next t ∧ FaultFrame s t ∧
      Latched s t c k 0x0A (ctx s c k).pc) ∧
  (∀ (c : CoreIx) (k : CtxIx) (rd : SReg) (ctr : W16) (s : State),
    issueOk s c k (encI 0x1F rd.val 0 ctr) 0 [] = true → counterNamed s c ctr.toNat = false → (ctx s c k).faulted = false →
    ∃ t, exec (.ctrrd c k rd ctr) s = .next t ∧ FaultFrame s t ∧ Latched s t c k 0x0A (ctx s c k).pc) ∧
  (∀ (c : CoreIx) (k : CtxIx) (ctr : Byte) (n : NOp) (s : State),
    issueOk s c k (encK 0x1D ctr n) 0 (nsrc n) = true → counterNamed s c ctr.toNat = true →
    (counterOf s c ctr).limit.toNat < (amount s c k n).toNat → (ctx s c k).faulted = false →
    ∃ t, exec (.wait c k ctr n) s = .next t ∧ FaultFrame s t ∧ Latched s t c k 0x0A (ctx s c k).pc) ∧
  (∀ (c : CoreIx) (k : CtxIx) (ctr : Byte) (n : NOp) (s : State),
    issueOk s c k (encK 0x1E ctr n) 0 (nsrc n) = true → counterNamed s c ctr.toNat = true →
    (counterOf s c ctr).value.toNat < (amount s c k n).toNat → (ctx s c k).faulted = false →
    ∃ t, exec (.take c k ctr n) s = .next t ∧ FaultFrame s t ∧ Latched s t c k 0x09 (ctx s c k).pc)

/-- R206 to R208, R210: once every signal of the cycle is in, the increments due at a counter are summed. Where the sum is
within LIMIT it is added, and the queue is served from its head: each context that the value covers consumes its n and wakes 5
cc later. Where it is not, none is applied: OVF_DISCARDS counts them, an event 0x1301 names core and counter, the queue is
served from the value as it was, and each of the increments that another core sent is reported to its source. Each increment
leaves the wires. A context whose wait has been served goes on when it wakes: READY behind its instruction, a CMDWAIT with the
entry of its queue's head. The report of a discarded increment latches COUNTER_OVERFLOW (0x08). -/
def Obligations.CounterEvents : Prop :=
  (∀ (c : CoreIx) (ctr : Byte) (s : State),
    signalsIn s c = true → (counterOf s c ctr).appliedAt ≠ s.time.cycle + 1 → (∃ i ∈ s.incs, i.hits c ctr s.time.cycle = true) →
    (counterOf s c ctr).value.toNat + dueSum s c ctr ≤ (counterOf s c ctr).limit.toNat →
    ∃ t, exec (.counterSignalApply c ctr) s = .next t ∧
      (counterOf t c ctr).value.toNat = (serveQueue ((counterOf s c ctr).value.toNat + dueSum s c ctr) (counterOf s c ctr).queue).1 ∧
      (counterOf t c ctr).queue = (serveQueue ((counterOf s c ctr).value.toNat + dueSum s c ctr) (counterOf s c ctr).queue).2.1 ∧
      (∀ k : CtxIx, ctx t c k =
        if k ∈ (serveQueue ((counterOf s c ctr).value.toNat + dueSum s c ctr) (counterOf s c ctr).queue).2.2
        then { ctx s c k with wakeAt := some (s.time.cycle + 5) } else ctx s c k) ∧
      t.incs = s.incs.filter (fun i => !i.hits c ctr s.time.cycle) ∧
      (∀ d : Byte, d ≠ ctr → counterOf t c d = counterOf s c d) ∧ t = { s with cores := t.cores, incs := t.incs }) ∧
  (∀ (c : CoreIx) (ctr : Byte) (s : State),
    signalsIn s c = true → (counterOf s c ctr).appliedAt ≠ s.time.cycle + 1 → (∃ i ∈ s.incs, i.hits c ctr s.time.cycle = true) →
    (counterOf s c ctr).limit.toNat < (counterOf s c ctr).value.toNat + dueSum s c ctr →
    ∃ t, exec (.counterSignalApply c ctr) s = .next t ∧
      (counterOf t c ctr).value.toNat = (serveQueue (counterOf s c ctr).value.toNat (counterOf s c ctr).queue).1 ∧
      t.incs = s.incs.filter (fun i => !i.hits c ctr s.time.cycle) ∧
      t.cores[c].ctrRegs.ovfDiscards =
        satAdd s.cores[c].ctrRegs.ovfDiscards (s.incs.filter fun i => i.hits c ctr s.time.cycle).length ∧
      (∃ e ∈ t.recorder.arriving, e.code = 0x1301 ∧ e.unit = BitVec.ofNat 8 c.val ∧ e.arg1 = BitVec.ofNat 32 ctr.toNat) ∧
      t.reports = s.reports ++ (((s.incs.filter fun i => i.hits c ctr s.time.cycle).filter fun i =>
        !i.tsig && (i.source == 2 || i.source == 3 || i.source == 4)).map fun i =>
          { core := i.fcore, ctx := i.fctx, pc := i.fpc, info := BitVec.ofNat 16 (ctr.toNat + i.source.toNat * 256)
            due := s.time.cycle }) ∧
      t = { s with cores := t.cores, incs := t.incs, tasks := t.tasks, recorder := t.recorder, reports := t.reports }) ∧
  (∀ (c : CoreIx) (k : CtxIx) (w : Nat) (s : State),
    (ctx s c k).wakeAt = some w → w ≤ s.time.cycle → (ctx s c k).st = .waiting → (ctx s c k).kind ≠ .command →
    (∃ t, runs s c t = true) →
    ∃ t, exec (.contextWake c k) s = .next t ∧ OnlyCore s t c ∧
      ctx t c k = { ctx s c k with wakeAt := none, pc := (ctx s c k).pc + 1, st := .ready } ∧
      ∀ j, j ≠ k → ctx t c j = ctx s c j) ∧
  (∀ (c : CoreIx) (k : CtxIx) (w : Nat) (q : W32) (rest : List W32) (i : SlotIx) (s : State),
    (ctx s c k).wakeAt = some w → w ≤ s.time.cycle → (ctx s c k).st = .waiting → (ctx s c k).kind = .command →
    (ctx s c k).queued = q :: rest → runs s c i = true →
    ∃ t, exec (.contextWake c k) s = .next t ∧ OnlyCore s t c ∧ (ctx t c k).st = .ready ∧ (ctx t c k).pc = (ctx s c k).pc + 1 ∧
      (ctx t c k).wakeAt = none ∧ (ctx t c k).cur = some q ∧ (ctx t c k).queued = rest ∧
      (∀ e, (s.tasks[i].cmd.posted.find? fun e => e.q == q) = some e → (ctx s c k).waitRd.val ≠ 0 →
        (ctx t c k).s[(ctx s c k).waitRd] = e.words[0]) ∧
      ∀ j, j ≠ k → ctx t c j = ctx s c j) ∧
  (∀ (c : CoreIx) (r : OvfReport) (s : State),
    (s.reports.find? fun r => r.core == c) = some r → (ctx s c r.ctx).faulted = false →
    ∃ t, exec (.counterOverflowReport c) s = .next t ∧ t.reports = s.reports.erase r ∧ Latched s t c r.ctx 0x08 r.pc)

/-! ### The other control instructions -/

/-- R107: FTRD reads fabric time in ns, SRSET sets both SR registers, VFLG reads VFLAGS and clears the flags named, YIELD and NOP
only pass, HALT ends the context. -/
def Obligations.SpecialInstructions : Prop :=
  (∀ (c : CoreIx) (k : CtxIx) (rd : SReg) (s : State),
    issueOk s c k (encI 0x30 rd.val 0 0) 0x001FFFFF [] = true →
    ∃ t, exec (.ftrd c k rd) s = .next t ∧ Issued s t c k (wrote s (ctx s c k) rd (BitVec.ofNat 64 (ftNow s)) 2)) ∧
  (∀ (c : CoreIx) (k : CtxIx) (ra rb : SReg) (s : State),
    issueOk s c k (encR 0x31 0 ra.val rb.val 0) 0 [ra, rb] = true →
    ∃ t, exec (.srset c k ra rb) s = .next t ∧
      Issued s t c k { passed s c k with seed := reads s c k ra, sctr := reads s c k rb }) ∧
  (∀ (c : CoreIx) (k : CtxIx) (rd : SReg) (imm : W16) (s : State),
    issueOk s c k (encI 0x32 rd.val 0 imm) 0x001F0000 [] = true →
    ∃ t f, exec (.vflg c k rd imm) s = .next t ∧
      Issued s t c k { wrote s (ctx s c k) rd (BitVec.ofNat 64 (ctx s c k).vflags.toNat) 1 with vflags := f } ∧
      ∀ i : Nat, i < 4 → f.getLsbD i = ((ctx s c k).vflags.getLsbD i && !imm.getLsbD i)) ∧
  (∀ (c : CoreIx) (k : CtxIx) (s : State),
    issueOk s c k (encI 0x38 0 0 0) 0 [] = true →
    ∃ t, exec (.yield c k) s = .next t ∧ OnlyCore s t c ∧ ctx t c k = passed s c k ∧ (∀ j, j ≠ k → ctx t c j = ctx s c j) ∧
      t.cores[c].yielded = some k ∧ t.cores[c].lastIssue = some (s.time.cycle, k)) ∧
  (∀ (c : CoreIx) (k : CtxIx) (s : State),
    issueOk s c k (encI 0x39 0 0 0) 0 [] = true →
    ∃ t, exec (.nop c k) s = .next t ∧ Issued s t c k (passed s c k)) ∧
  (∀ (c : CoreIx) (k : CtxIx) (s : State),
    issueOk s c k (encI 0x3A 0 0 0) 0 [] = true →
    ∃ t, exec (.halt c k) s = .next t ∧ Issued s t c k { ctx s c k with st := .halted })

/-- R106, R116, R117: TRAP latches cause 0x12 with its immediate as information, a word the table does not list latches ILLEGAL
(0x01), and TRAP 0xFFFF in a notified handler clears the latch and goes on behind the word S31 names. -/
def Obligations.TrapsAndReturn : Prop :=
  (∀ (c : CoreIx) (k : CtxIx) (imm : W16) (s : State),
    issueOk s c k (encI 0x3B 0 0 imm) 0x03FF0000 [] = true → (ctx s c k).faulted = false →
    ∃ t, exec (.trap c k imm) s = .next t ∧ FaultFrame s t ∧ Latched s t c k 0x12 (ctx s c k).pc ∧ (ctx t c k).info = imm) ∧
  (∀ (c : CoreIx) (k : CtxIx) (i : SlotIx) (s : State),
    issueOk s c k (encI 0x3B 0 0 0xFFFF) 0x03FF0000 [31] = true → (ctx s c k).faulted = true →
    runs s c i = true → s.tasks[i].hdr.flags.getLsbD 6 = true →
    ∃ t, exec (.trapReturn c k) s = .next t ∧
      Issued s t c k { ctx s c k with faulted := false, cause := 0, info := 0, faultPc := 0, faultAt := none,
                                      pc := BitVec.ofNat 13 ((ctx s c k).s[31].toNat + 1) }) ∧
  (∀ (c : CoreIx) (k : CtxIx) (w : W32) (s : State),
    issueOk s c k w 0 [] = true → ctlLegal w = false → (ctx s c k).faulted = false →
    ∃ t, exec (.illegal c k w) s = .next t ∧ FaultFrame s t ∧ Latched s t c k 0x01 (ctx s c k).pc)

/-- R117: a fault in a task that asks for notification enters its handler: S31 names cause and PC, S30 the information, and the
context goes on at FAULT_HANDLER. -/
def Obligations.NotifiedFaultEntersHandler : Prop :=
  ∀ (c : CoreIx) (k : CtxIx) (imm : W16) (i : SlotIx) (s : State),
    issueOk s c k (encI 0x3B 0 0 imm) 0x03FF0000 [] = true → (ctx s c k).faulted = false → runs s c i = true →
    s.tasks[i].hdr.flags.getLsbD 6 = true →
    ∃ t, exec (.trap c k imm) s = .next t ∧ (ctx t c k).st = .ready ∧
      (ctx t c k).pc = BitVec.ofNat 13 s.tasks[i].hdr.faultHandler.toNat ∧
      (ctx t c k).s[31] = BitVec.ofNat 64 (0x12 * 65536 + (ctx s c k).pc.toNat) ∧
      (ctx t c k).s[30] = BitVec.ofNat 64 imm.toNat ∧
      (∀ r : SReg, r.val < 30 → (ctx t c k).s[r] = (ctx s c k).s[r]) ∧ t.tasks = s.tasks

/-! ### Launches -/

namespace Sys2Proof.Claims
open Sys2Proof Sys2Proof.Machine

/-- The pending launch of R111: the block, its counter, the context and its PC, and copies of AD0 to AD15 and S24 to S31. -/
def launchOf (s : State) (c : CoreIx) (k : CtxIx) (blk : BitVec 12) (ctr : Byte) (form : LaunchForm) (ft : W64) (beat : Nat) : Launch :=
  { blk := blk, ctr := ctr, ctx := k, pc := (ctx s c k).pc, form := form, ft := ft, beat := beat, issued := s.time.cycle,
    arrived := none, digest := blockDigest s.cores[c] blk, ads := (ctx s c k).ad,
    trs := Vector.ofFn fun i => (ctx s c k).s[24 + i.val]'(by omega) }

/-- The machine with a launch pending on core `c`. -/
def withLaunch (s : State) (c : CoreIx) (l : Launch) : State :=
  { s with cores := s.cores.set c { s.cores[c] with pend := some l } }

/-- A launch instruction may issue, its counter is one of the task's, and none is pending. -/
def launchReady (s : State) (c : CoreIx) (k : CtxIx) (w : W32) (srcs : List SReg) (ctr : Byte) : Prop :=
  issueOk s c k w 0 srcs = true ∧ counterNamed s c ctr.toNat = true ∧ s.cores[c].pend = none

/-- The three launch instructions: the command, its word, the registers it reads. -/
def launchForms (c : CoreIx) (k : CtxIx) (blk : BitVec 12) (ctr : Byte) (rf : SReg) : List (Instr × W32 × List SReg) :=
  [(.launch c k blk ctr, encL 0x20 blk ctr 0, launchSrcs), (.launchSeg c k blk ctr, encL 0x21 blk ctr 0, launchSrcs),
   (.launchAt c k blk ctr rf, encL 0x22 blk ctr rf.val, rf :: launchSrcs)]

/-- The running block of core `c`. -/
def blockOf (s : State) (c : CoreIx) : Option Block := s.cores[c].blk

/-- A block started from launch `l` in this cycle: its bundle, counter and context, BA and TR from the copies, V0 to V30 zero, SR
from the context. -/
def StartedFrom (s t : State) (c : CoreIx) (l : Launch) : Prop :=
  t.cores[c].pend = none ∧ ∃ b, blockOf t c = some b ∧ b.blk = l.blk ∧ b.bundle = l.blk ∧ b.ctr = l.ctr ∧ b.ctx = l.ctx ∧
    b.issuing = true ∧ b.ba = l.ads ∧ b.tr = l.trs ∧ b.v = Vector.replicate 31 { bits := 0, poison := 0 } ∧
    b.seed = (ctx s c l.ctx).seed ∧ b.sctr = (ctx s c l.ctx).sctr ∧ b.flags = 0 ∧ b.start = s.duty[sectorOf c].ecyc

end Sys2Proof.Claims

/-- R111, R112, R36: the launch instructions record one pending launch; LAUNCH.AT resolves its FT to the first beat at or after
it. Where one is pending already the context waits with KIND LAUNCH and the pending launch stays; a counter at or above COUNTERS
faults COUNTER_RANGE (0x0A). A LAUNCH.AT whose beat has started (with its first cycle, the model's choice, log 94) faults
SEGMENT_SKEW (0x10), counts in FT_LATE_COUNT and advances the core's Girth epoch. -/
def Obligations.LaunchInstructions : Prop :=
  (∀ (c : CoreIx) (k : CtxIx) (blk : BitVec 12) (ctr : Byte) (s : State),
    launchReady s c k (encL 0x20 blk ctr 0) launchSrcs ctr →
    ∃ t, exec (.launch c k blk ctr) s = .next t ∧
      Issued (withLaunch s c (launchOf s c k blk ctr .local_ 0 0)) t c k (passed s c k)) ∧
  (∀ (c : CoreIx) (k : CtxIx) (blk : BitVec 12) (ctr : Byte) (s : State),
    launchReady s c k (encL 0x21 blk ctr 0) launchSrcs ctr →
    ∃ t, exec (.launchSeg c k blk ctr) s = .next t ∧
      Issued (withLaunch s c (launchOf s c k blk ctr .seg 0 0)) t c k (passed s c k)) ∧
  (∀ (c : CoreIx) (k : CtxIx) (blk : BitVec 12) (ctr : Byte) (rf : SReg) (s : State),
    launchReady s c k (encL 0x22 blk ctr rf.val) (rf :: launchSrcs) ctr →
    s.time.cycle < 32 * beatAt s (reads s c k rf).toNat →
    ∃ t, exec (.launchAt c k blk ctr rf) s = .next t ∧
      Issued (withLaunch s c (launchOf s c k blk ctr .at_ (reads s c k rf) (beatAt s (reads s c k rf).toNat))) t c k (passed s c k)) ∧
  (∀ (c : CoreIx) (k : CtxIx) (blk : BitVec 12) (ctr : Byte) (rf : SReg) (s : State),
    ∀ e ∈ launchForms c k blk ctr rf,
    issueOk s c k e.2.1 0 e.2.2 = true → counterNamed s c ctr.toNat = true → s.cores[c].pend ≠ none →
    ∃ t o n, exec e.1 s = .next t ∧
      Issued { s with freeCtr := t.freeCtr } t c k { ctx s c k with st := .waiting, kind := .launch, waitObj := o, waitN := n }) ∧
  (∀ (c : CoreIx) (k : CtxIx) (blk : BitVec 12) (ctr : Byte) (rf : SReg) (s : State),
    ∀ e ∈ launchForms c k blk ctr rf,
    issueOk s c k e.2.1 0 e.2.2 = true → counterNamed s c ctr.toNat = false → (ctx s c k).faulted = false →
    ∃ t, exec e.1 s = .next t ∧ FaultFrame s t ∧ Latched s t c k 0x0A (ctx s c k).pc) ∧
  (∀ (c : CoreIx) (k : CtxIx) (blk : BitVec 12) (ctr : Byte) (rf : SReg) (s : State),
    launchReady s c k (encL 0x22 blk ctr rf.val) (rf :: launchSrcs) ctr → (ctx s c k).faulted = false →
    32 * beatAt s (reads s c k rf).toNat ≤ s.time.cycle →
    ∃ t, exec (.launchAt c k blk ctr rf) s = .next t ∧ (ctx t c k).faulted = true ∧ (ctx t c k).cause = 0x10 ∧
      (ctx t c k).faultPc = (ctx s c k).pc ∧ t.time.lateCount = satInc s.time.lateCount ∧
      t.cores[c].epoch = s.cores[c].epoch + 1 ∧ t.cores[c].pend = none)

/-- R112, R133: a local launch starts 4 cc after its issue on a core with no block; a segment launch first sends its arrival,
and starts on every core of the segment at the first beat that begins 32 cc after the last; a timed launch starts at its beat.
R113: where the launches of a segment differ in block or digest no block starts and every launching context faults
LAUNCH_MISMATCH (0x0F); a timed launch whose core is busy at its beat is discarded and its context faults SEGMENT_SKEW (0x10). -/
def Obligations.BlockStart : Prop :=
  (∀ (c : CoreIx) (l : Launch) (i : SlotIx) (s : State),
    s.cores[c].pend = some l → l.form = .local_ → l.issued + 4 ≤ s.time.cycle → blockOf s c = none → runs s c i = true →
    ∃ t, exec (.localBlockStart c) s = .next t ∧ StartedFrom s t c l ∧ (∀ d, d ≠ c → t.cores[d] = s.cores[d]) ∧
      t = { s with cores := t.cores, duty := t.duty, power := t.power }) ∧
  (∀ (c : CoreIx) (l : Launch) (i : SlotIx) (s : State),
    s.cores[c].pend = some l → l.form = .seg → l.arrived = none → blockOf s c = none → runs s c i = true →
    ∃ t, exec (.segmentArrival c) s = .next t ∧
      t = { s with cores := s.cores.set c { s.cores[c] with pend := some { l with arrived := some s.time.cycle } } }) ∧
  (∀ (c : CoreIx) (l : Launch) (i : SlotIx) (n : Nat) (s : State),
    runs s c i = true → c ∈ s.tasks[i].segmentOf c → (s.tasks[i].segmentOf c).Nodup →
    lastArrival s (s.tasks[i].segmentOf c) = some n → s.time.cycle % 32 = 0 → n + 32 ≤ s.time.cycle →
    launchRefused s (s.tasks[i].segmentOf c) = false → s.cores[c].pend = some l →
    (∀ d ∈ s.tasks[i].segmentOf c, ∃ m, s.cores[d].pend = some m ∧ m.blk = l.blk ∧ m.digest = l.digest) →
    ∃ t, exec (.segmentLaunchStart c) s = .next t ∧
      (∀ d ∈ s.tasks[i].segmentOf c, ∀ m, s.cores[d].pend = some m → StartedFrom s t d m ∧ t.cores[d].epoch = s.cores[d].epoch + 1) ∧
      (∀ d, d ∉ s.tasks[i].segmentOf c → t.cores[d] = s.cores[d]) ∧
      t = { s with cores := t.cores, duty := t.duty, power := t.power }) ∧
  (∀ (c : CoreIx) (l : Launch) (i : SlotIx) (s : State),
    runs s c i = true → c ∈ s.tasks[i].segmentOf c → (s.tasks[i].segmentOf c).Nodup →
    launchRefused s (s.tasks[i].segmentOf c) = false →
    s.cores[c].pend = some l → l.form = .at_ → 32 * l.beat = s.time.cycle →
    (∀ d ∈ s.tasks[i].segmentOf c, blockOf s d = none ∧
      ∀ m, s.cores[d].pend = some m → m.form = .at_ → s.time.cycle ≤ 32 * m.beat) →
    ∃ t, exec (.timedLaunchStart c) s = .next t ∧ StartedFrom s t c l ∧ t.cores[c].epoch = s.cores[c].epoch + 1 ∧
      (∀ d, d ∉ s.tasks[i].segmentOf c → t.cores[d] = s.cores[d]) ∧
      t = { s with cores := t.cores, duty := t.duty, power := t.power }) ∧
  (∀ (c d : CoreIx) (l m : Launch) (i : SlotIx) (n : Nat) (s : State),
    runs s c i = true → (s.tasks[i].segmentOf c).Nodup → d ∈ s.tasks[i].segmentOf c →
    lastArrival s (s.tasks[i].segmentOf c) = some n → s.time.cycle % 32 = 0 → n + 32 ≤ s.time.cycle →
    launchRefused s (s.tasks[i].segmentOf c) = false → s.cores[c].pend = some l → s.cores[d].pend = some m →
    (m.blk ≠ l.blk ∨ m.digest ≠ l.digest) →
    ∃ t, exec (.segmentLaunchStart c) s = .next t ∧ ∀ x ∈ s.tasks[i].segmentOf c, ∀ y, s.cores[x].pend = some y →
      (ctx s x y.ctx).faulted = false →
      (ctx t x y.ctx).faulted = true ∧ (ctx t x y.ctx).cause = 0x0F ∧ t.cores[x].epoch = s.cores[x].epoch ∧
      t.cores[x].pend = none ∧ t.cores[x].blk = s.cores[x].blk) ∧
  (∀ (c : CoreIx) (l : Launch) (b : Block) (i : SlotIx) (s : State),
    runs s c i = true → c ∈ s.tasks[i].segmentOf c → (s.tasks[i].segmentOf c).Nodup →
    s.cores[c].pend = some l → l.form = .at_ → 32 * l.beat = s.time.cycle → blockOf s c = some b → (ctx s c l.ctx).faulted = false →
    ∃ t, exec (.timedLaunchStart c) s = .next t ∧ (ctx t c l.ctx).faulted = true ∧ (ctx t c l.ctx).cause = 0x10 ∧
      t.cores[c].pend = none ∧ t.cores[c].blk = some b ∧ t.cores[c].epoch = s.cores[c].epoch + 1)

/-- R114, R164: a block that is over ends: its counter is signalled 1 cc later and the context takes the advanced SR_CTR and the
block's flags. R362: at a beat the level of a segment is fixed, at most 16, and the beat is enabled by the pattern of that level
in its slot, counted from FT_STEP. R371: a segment quiet for 5 us with no ramp counts as rested. -/
def Obligations.BlockEndAndDuty : Prop :=
  (∀ (c : CoreIx) (b : Block) (n : Nat) (s : State),
    blockNow s c = some (b, n) → blockOver s c b n = true →
    ∃ t, exec (.blockComplete c) s = .next t ∧ blockOf t c = none ∧ (ctx t c b.ctx).sctr = b.sctr ∧
      (ctx t c b.ctx).vflags = (ctx s c b.ctx).vflags ||| b.flags ∧
      (∃ i, t.incs = s.incs ++ [i] ∧ i.core = c ∧ i.ctr = b.ctr ∧ i.n = 1 ∧ i.due = s.time.cycle + 1) ∧
      t = { s with cores := t.cores, incs := t.incs, freeCtr := t.freeCtr } ∧ ∀ d, d ≠ c → t.cores[d] = s.cores[d]) ∧
  (∀ (p : SecIx) (s : State),
    s.time.cycle % 32 = 0 → s.duty[p].beat ≠ s.time.cycle / 32 → s.power.shutdown = false →
    windowDue s = false →
    ∃ t, exec (.dutyBeat p) s = .next t ∧ t.duty[p].beat = s.time.cycle / 32 ∧
      t.duty[p].enabled =
        decide (patternSlot s * t.duty[p].dEff / 16 < (patternSlot s + 1) * t.duty[p].dEff / 16) ∧
      t.duty[p].dEff ≤ 16 ∧ (∀ q ∈ girthSegment s p, t.duty[q].dEff = t.duty[p].dEff ∧ t.duty[q].beat = s.time.cycle / 32) ∧
      t = { s with duty := t.duty, power := t.power }) ∧
  (∀ (p : SecIx) (s : State),
    (∀ q ∈ girthSegment s p, s.duty[q].rampFrom = none ∧ s.duty[q].rested = false ∧ s.duty[q].quietFrom + ccOf s 5000 ≤ s.time.cycle) →
    ∃ t, exec (.segmentRest p) s = .next t ∧ (∀ q ∈ girthSegment s p, t.duty[q].rested = true) ∧ t = { s with duty := t.duty })


/-! ### Streams -/

namespace Sys2Proof.Claims
open Sys2Proof Sys2Proof.Machine

def streamOf (s : State) (c : CoreIx) (i : Fin 32) : Stream := s.cores[c].streams[i]

/-- Core `c` with stream slot `i` changed. -/
def withStream (s : State) (c : CoreIx) (i : Fin 32) (x : Stream) : State :=
  { s with cores := s.cores.set c { s.cores[c] with streams := s.cores[c].streams.set i x } }

/-- Slot `i` is below STREAMS of the task that core `c` runs. -/
def slotNamed (s : State) (c : CoreIx) (i : Fin 32) : Bool :=
  match s.cores[c].slot with
  | some t => decide (i.val < s.tasks[t].hdr.streams)
  | none => false

/-- Core `c` reads or writes its scratchpad in the background, and every other core, every memory byte and every task is as it
was. -/
def CoreFrame (s t : State) (c : CoreIx) : Prop :=
  (∀ d, d ≠ c → t.cores[d] = s.cores[d]) ∧ t.dram = s.dram ∧ t.tasks = s.tasks

/-- A SWAP of slot `i` would find its half released already or no fill left (R193). -/
def swapSpent (s : State) (c : CoreIx) (i : Fin 32) : Bool :=
  if (streamOf s c i).d.kind = 1 then
    (if (streamOf s c i).cur then (streamOf s c i).pendB else (streamOf s c i).pendA)
    || decide ((streamOf s c i).d.fills ≤ (streamOf s c i).holdFill (streamOf s c i).cur)
  else decide ((streamOf s c i).d.total ≤ (streamOf s c i).relG)

/-- A stream instruction's own fault: STREAM_CONFIG (0x0D) with a reason and the slot (R190). -/
def StreamFault (s t : State) (c : CoreIx) (k : CtxIx) (i : Fin 32) (reason : Nat) : Prop :=
  FaultFrame s t ∧ Latched s t c k 0x0D (ctx s c k).pc ∧ (ctx t c k).info = BitVec.ofNat 16 (reason + 16 * i.val)

/-- The granules of a response that find no bank free in the cycle (R171). -/
def waits (s : State) (c : CoreIx) (r : MemResp) : List Nat :=
  r.left.filter fun i => !(landable s c r).any fun q => q.1 == i

end Sys2Proof.Claims

/-- R107, R188 to R194: SCFG of a free slot with a good address stalls its context until the 48 B descriptor is read; SWAIT
consumes a count of the current half's counter, or waits with KIND STREAM at the tail of its queue; SWAP of a READ stream
releases the current half, at once or when its fill completes, and switches; SWAP of another stream hands the half over and
switches; SCLOSE begins the close; SWAP and SCLOSE of a CLOSING slot only pass. R190: a slot at or above STREAMS, one that is
not configured, an SCFG of a configured slot or with a bad address, and a SWAIT or SWAP with nothing left, fault STREAM_CONFIG
(0x0D) with reason and slot. R188, R190, R191: the descriptor of an SCFG is read when its banks are free and the core's older stores there are done: a good one without an
uncorrectable error activates the slot and the context goes on, and a WRITE or WINDOW stream signals both halves as free 1 cc
later; another faults with its reason, and so does a slot that was configured meanwhile. -/
def Obligations.StreamInstructions : Prop :=
  (∀ (c : CoreIx) (k : CtxIx) (i : Fin 32) (ad : AReg) (s : State),
    issueOk s c k (encI 0x24 i.val ad.val 0) 0 [] = true → slotNamed s c i = true → (streamOf s c i).st = .unconfigured →
    (ctx s c k).ad[ad].toNat % 16 = 0 → spHeld s c (ctx s c k).ad[ad].toNat 48 = true →
    ∃ t, exec (.scfg c k i ad) s = .next t ∧
      Issued s t c k { ctx s c k with stall := .scfg i (ctx s c k).ad[ad].toNat (ctx s c k).pc, stallAt := s.time.cycle }) ∧
  (∀ (c : CoreIx) (k : CtxIx) (i : Fin 32) (s : State),
    issueOk s c k (encI 0x25 i.val 0 0) 0x001FFFFF [] = true → slotNamed s c i = true → (streamOf s c i).st ≠ .unconfigured →
    swaitGone s c i = false →
    ∃ t, exec (.swait c k i) s = .next t ∧
      (if (counterOf s c ((streamOf s c i).halfCtr (streamOf s c i).cur)).queue = [] ∧
          (counterOf s c ((streamOf s c i).halfCtr (streamOf s c i).cur)).value ≠ 0
       then Issued (withCounter s c ((streamOf s c i).halfCtr (streamOf s c i).cur)
              { counterOf s c ((streamOf s c i).halfCtr (streamOf s c i).cur) with
                value := (counterOf s c ((streamOf s c i).halfCtr (streamOf s c i).cur)).value - 1 }) t c k (passed s c k)
       else Issued (withCounter s c ((streamOf s c i).halfCtr (streamOf s c i).cur)
              { counterOf s c ((streamOf s c i).halfCtr (streamOf s c i).cur) with
                queue := (counterOf s c ((streamOf s c i).halfCtr (streamOf s c i).cur)).queue ++ [{ ctx := k, n := 1 }] }) t c k
              { ctx s c k with st := .waiting, kind := .stream, waitObj := BitVec.ofNat 8 i.val, waitN := 1 })) ∧
  (∀ (c : CoreIx) (k : CtxIx) (i : Fin 32) (s : State),
    issueOk s c k (encI 0x26 i.val 0 0) 0x001FFFFF [] = true → slotNamed s c i = true → (streamOf s c i).st = .active →
    swapSpent s c i = false →
    ∃ t, exec (.swap c k i) s = .next t ∧ OnlyCore s t c ∧ ctx t c k = passed s c k ∧
      (streamOf t c i).cur = !(streamOf s c i).cur ∧
      (if (streamOf s c i).d.kind = 1 then
         if s.cores[c].fillDone i ((streamOf s c i).holdFill (streamOf s c i).cur) = true
         then tget 0 (streamOf t c i).rel ((streamOf s c i).holdFill (streamOf s c i).cur) = ftNow s + 1
         else (if (streamOf s c i).cur then (streamOf t c i).pendB else (streamOf t c i).pendA) = true
       else (streamOf t c i).nrel = (streamOf s c i).nrel + 1) ∧
      ∀ j, j ≠ i → streamOf t c j = streamOf s c j) ∧
  (∀ (c : CoreIx) (k : CtxIx) (i : Fin 32) (s : State),
    issueOk s c k (encI 0x27 i.val 0 0) 0x001FFFFF [] = true → slotNamed s c i = true → (streamOf s c i).st = .active →
    ∃ t, exec (.sclose c k i) s = .next t ∧
      Issued (withStream s c i { streamOf s c i with st := .closing, closeAt := some (s.time.cycle + 2) }) t c k (passed s c k)) ∧
  (∀ (swap : Bool) (c : CoreIx) (k : CtxIx) (i : Fin 32) (s : State),
    issueOk s c k (encI (if swap then 0x26 else 0x27) i.val 0 0) 0x001FFFFF [] = true → slotNamed s c i = true →
    (streamOf s c i).st = .closing →
    ∃ t, exec (if swap then .swap c k i else .sclose c k i) s = .next t ∧ Issued s t c k (passed s c k)) ∧
  (∀ e ∈ ([(.swait, 0x25), (.swap, 0x26), (.sclose, 0x27)] : List ((CoreIx → CtxIx → Fin 32 → Instr) × Nat)),
    ∀ (c : CoreIx) (k : CtxIx) (i : Fin 32) (s : State),
    issueOk s c k (encI e.2 i.val 0 0) 0x001FFFFF [] = true → (ctx s c k).faulted = false →
    (slotNamed s c i = false ∨ (streamOf s c i).st = .unconfigured) →
    ∃ t, exec (e.1 c k i) s = .next t ∧ StreamFault s t c k i (if slotNamed s c i = true then 1 else 2)) ∧
  (∀ (c : CoreIx) (k : CtxIx) (i : Fin 32) (ad : AReg) (s : State),
    issueOk s c k (encI 0x24 i.val ad.val 0) 0 [] = true → (ctx s c k).faulted = false →
    (slotNamed s c i = false ∨ (streamOf s c i).st ≠ .unconfigured ∨ (ctx s c k).ad[ad].toNat % 16 ≠ 0 ∨
      spHeld s c (ctx s c k).ad[ad].toNat 48 = false) →
    ∃ t, exec (.scfg c k i ad) s = .next t ∧
      StreamFault s t c k i (if slotNamed s c i = false then 2 else if (streamOf s c i).st ≠ .unconfigured then 3 else 4)) ∧
  (∀ (c : CoreIx) (k : CtxIx) (i : Fin 32) (s : State),
    issueOk s c k (encI 0x25 i.val 0 0) 0x001FFFFF [] = true → slotNamed s c i = true → (streamOf s c i).st ≠ .unconfigured →
    swaitGone s c i = true → (ctx s c k).faulted = false →
    ∃ t, exec (.swait c k i) s = .next t ∧ StreamFault s t c k i 9) ∧
  (∀ (c : CoreIx) (k : CtxIx) (i : Fin 32) (s : State),
    issueOk s c k (encI 0x26 i.val 0 0) 0x001FFFFF [] = true → slotNamed s c i = true → (streamOf s c i).st = .active →
    swapSpent s c i = true → (ctx s c k).faulted = false →
    ∃ t, exec (.swap c k i) s = .next t ∧ StreamFault s t c k i 9) ∧
  (∀ (c : CoreIx) (k : CtxIx) (i : Fin 32) (a : Nat) (pc : BitVec 13) (found : Finds) (s : State),
    (ctx s c k).stall = .scfg i a pc → descDue s c k = some (a, 48) → (∀ q ∈ found, q.2 ≠ .uncorrectable) →
    (streamOf s c i).st = .unconfigured →
    scfgReason s c (parseSDesc (readBytes s.cores[c].sp.mem a 48)) (readBytes s.cores[c].sp.mem a 48)
      (spPoisoned s.cores[c] a 48) = 0 →
    ∃ t, exec (.scfgDescriptorRead c k found) s = .next t ∧ CoreFrame s t c ∧
      (streamOf t c i).st = .active ∧ (streamOf t c i).d = parseSDesc (readBytes s.cores[c].sp.mem a 48) ∧
      (streamOf t c i).ctx = k ∧ (streamOf t c i).pc = pc ∧ (streamOf t c i).cur = false ∧
      ctx t c k = { ctx s c k with stall := .none, pc := (ctx s c k).pc + 1 } ∧
      (∀ j, j ≠ i → streamOf t c j = streamOf s c j) ∧
      ((parseSDesc (readBytes s.cores[c].sp.mem a 48)).kind = 1 → t.incs = s.incs) ∧
      ((parseSDesc (readBytes s.cores[c].sp.mem a 48)).kind ≠ 1 → ∃ x y, t.incs = s.incs ++ [x, y] ∧
        x.core = c ∧ x.ctr = (parseSDesc (readBytes s.cores[c].sp.mem a 48)).ctrA ∧ x.n = 1 ∧ x.due = s.time.cycle + 1 ∧
        y.core = c ∧ y.ctr = (parseSDesc (readBytes s.cores[c].sp.mem a 48)).ctrB ∧ y.n = 1 ∧ y.due = s.time.cycle + 1)) ∧
  (∀ (c : CoreIx) (k : CtxIx) (i : Fin 32) (a : Nat) (pc : BitVec 13) (found : Finds) (s : State),
    (ctx s c k).stall = .scfg i a pc → descDue s c k = some (a, 48) → (∀ q ∈ found, q.2 ≠ .uncorrectable) →
    (ctx s c k).faulted = false →
    ((streamOf s c i).st ≠ .unconfigured ∨ scfgReason s c (parseSDesc (readBytes s.cores[c].sp.mem a 48))
      (readBytes s.cores[c].sp.mem a 48) (spPoisoned s.cores[c] a 48) ≠ 0) →
    ∃ t, exec (.scfgDescriptorRead c k found) s = .next t ∧ Latched s t c k 0x0D pc ∧ t.dram = s.dram ∧
      (ctx t c k).info = BitVec.ofNat 16 ((if (streamOf s c i).st ≠ .unconfigured then 3
        else scfgReason s c (parseSDesc (readBytes s.cores[c].sp.mem a 48)) (readBytes s.cores[c].sp.mem a 48)
          (spPoisoned s.cores[c] a 48)) + 16 * i.val) ∧
      ∀ j, streamOf t c j = streamOf s c j)

/-- R189, R191, R194, R197, R198, R200, R203, R234: the stream engine. A slot's request that wins the cycle leaves with its address,
length and deadline, and nothing else of the core issues a request in the cycle; of the responses that can land in the cycle the one
that ranks first lands the granules whose banks are free (R171) at the pattern's place, with poison, zeros where it failed, and the
others wait; a write's acknowledgment is taken; a
released half of a WRITE stream is read, when its turn comes (log 98), into a request that may leave six cycles later, one of a
WINDOW stream into a granule that may; a drained slot that closes becomes UNCONFIGURED and signals END_CTR; a real-time fill that is
not complete at its deadline counts as missed; a stream's writes held past the stash time-out are dropped. -/
def Obligations.StreamEngine : Prop :=
  (∀ (c : CoreIx) (i : Fin 32) (q : Cand) (s : State),
    candOf s c i = some q → s.cores[c].lastReq ≠ s.time.cycle + 1 → issueNow s c = some i →
    ∃ r u, exec (.streamRequestIssue c i) s = .next (sendReq r u) ∧ r.agent = .stream c i ∧ r.write = q.write ∧ r.addr = q.addr ∧
      r.len = q.len ∧ r.deadline = fillDeadline s (streamOf s c i) q.fill ∧ r.rt = (streamOf s c i).d.rt ∧
      OnlyCore { s with nextId := s.nextId + 1 } u c ∧ u.cores[c].lastReq = s.time.cycle + 1 ∧
      (∀ j, j ≠ i → streamOf u c j = streamOf s c j) ∧
      (q.write = false → (streamOf u c i).outR = (streamOf s c i).outR + 1) ∧
      (q.write = true → (streamOf u c i).outW = (streamOf s c i).outW + 1 ∧
        (streamOf u c i).outbox = (streamOf s c i).outbox.tail)) ∧
  (∀ (c : CoreIx) (i : Fin 32) (r : MemResp) (s : State),
    landNow s c = some r → r.req.agent = .stream c i →
    ∃ t, exec (.streamReadResponse c i) s = .next t ∧ CoreFrame s t c ∧
      (if waits s c r = [] then t.resps = s.resps.erase r ∧ (streamOf t c i).outR = (streamOf s c i).outR - 1
       else t.resps = (s.resps.map fun q => if q = r then { q with left := waits s c r } else q) ∧
         (streamOf t c i).outR = (streamOf s c i).outR) ∧
      (streamOf t c i).errCount =
        (if r.failed = true ∧ r.part = false then satInc (streamOf s c i).errCount else (streamOf s c i).errCount) ∧
      t.cores[c].sp.staged = s.cores[c].sp.staged ++ (landable s c r).map fun q =>
        { addr := q.2, bytes := if r.failed then List.replicate 64 0 else (r.data.drop (64 * q.1)).take 64
          poison := r.failed || r.poison.getD q.1 false, agent := 8, issued := s.time.cycle, part := 0 }) ∧
  (∀ (c : CoreIx) (i : Fin 32) (r : MemResp) (s : State),
    ackDue s c i = some r →
    ∃ t, exec (.streamWriteAck c i) s = .next t ∧ CoreFrame s t c ∧ t.resps = s.resps.erase r ∧
      (streamOf t c i).outW = (streamOf s c i).outW - 1) ∧
  (∀ (c : CoreIx) (i : Fin 32) (g a m sp n : Nat) (found : Finds) (s : State),
    halfNow s c (readPath c (streamOf s c i).d) = some (i, sp, n) → bgFree s c 4 sp n = true → (streamOf s c i).d.kind = 2 →
    (streamOf s c i).nextPiece = some (g, a, m) →
    ∃ t o, exec (.streamHalfRead c i found) s = .next t ∧ CoreFrame s t c ∧
      (streamOf t c i).readG = (streamOf s c i).readG + n / 64 ∧ (streamOf t c i).outbox = (streamOf s c i).outbox ++ [o] ∧
      o.addr = a ∧ o.bytes = readBytes s.cores[c].sp.mem sp n ∧ o.ready = s.time.cycle + 6 ∧
      t.cores[c].sp.mem = s.cores[c].sp.mem) ∧
  (∀ (c : CoreIx) (i : Fin 32) (sp n : Nat) (found : Finds) (s : State),
    halfNow s c (readPath c (streamOf s c i).d) = some (i, sp, n) → bgFree s c 4 sp n = true → (streamOf s c i).d.kind = 3 →
    ∃ t g, exec (.streamHalfRead c i found) s = .next t ∧ CoreFrame s t c ∧
      (streamOf t c i).readG = (streamOf s c i).readG + 1 ∧
      t.cores[c].port (winTarget c (streamOf s c i).d).2 = s.cores[c].port (winTarget c (streamOf s c i).d).2 ++ [g] ∧
      g.slot = i ∧ g.win = winNumber (streamOf s c i).d ∧ g.epoch = (streamOf s c i).d.wepoch ∧ g.ready = s.time.cycle + 6 ∧
      g.offset = (streamOf s c i).d.rowAddr ((streamOf s c i).readG / (streamOf s c i).d.rowG) ∧
      g.data = BitVec.ofNat 512 (leNat (readBytes s.cores[c].sp.mem sp 64)) ∧ t.cores[c].sp.mem = s.cores[c].sp.mem) ∧
  (∀ (c : CoreIx) (i : Fin 32) (s : State),
    closeDue s c i = true →
    ∃ t x, exec (.streamCloseDone c i) s = .next t ∧ (streamOf t c i).st = .unconfigured ∧
      (∀ j, j ≠ i → streamOf t c j = streamOf s c j) ∧ CoreFrame s t c ∧ t.incs = s.incs ++ [x] ∧ x.core = c ∧
      x.ctr = (streamOf s c i).d.endCtr ∧ x.n = 1 ∧ x.due = s.time.cycle) ∧
  (∀ (c : CoreIx) (i : Fin 32) (s : State),
    slotsAct s c = true → (streamOf s c i).st ≠ .unconfigured → (streamOf s c i).d.rt = true → (streamOf s c i).judged < (streamOf s c i).d.fills →
    0 ≤ (BitVec.ofNat 32 (ftNow s) - fillDeadline s (streamOf s c i) (streamOf s c i).judged).toInt →
    ∃ t, exec (.rtDeadlineMiss c i) s = .next t ∧ CoreFrame s t c ∧ (streamOf t c i).judged = (streamOf s c i).judged + 1 ∧
      (if s.cores[c].fillDone i (streamOf s c i).judged = true
       then (streamOf t c i).missCount = (streamOf s c i).missCount ∧ t.recorder = s.recorder
       else (streamOf t c i).missCount = satInc (streamOf s c i).missCount ∧ (streamOf t c i).missed = true)) ∧
  (∀ (i : SlotIx) (h : HeldWrite) (c : CoreIx) (j : Fin 32) (s : State),
    heldStream s.tasks[i] = some (h, c, j) → s.tasks[i].st = .running →
    max h.since s.tasks[i].stash.freedAt + (if s.stashTimeout = 0 then 1 else s.stashTimeout.toNat) * 1000 ≤ nsNow s →
    ∃ t, exec (.stashTimeout i) s = .next t ∧ (∀ q ∈ t.tasks[i].stash.held, q.req.agent ≠ h.req.agent) ∧ t.dram = s.dram ∧
      ((ctx s c (streamOf s c j).ctx).faulted = false →
        (ctx t c (streamOf s c j).ctx).faulted = true ∧ (ctx t c (streamOf s c j).ctx).cause = 0x0E ∧
        (ctx t c (streamOf s c j).ctx).info = BitVec.ofNat 16 h.sid))

/-! ### Windows and the scratchpad -/

namespace Sys2Proof.Claims
open Sys2Proof Sys2Proof.Machine

def windowOf (s : State) (c : CoreIx) (w : Fin 8) : Window := s.cores[c].windows[w]

/-- Window `w` is below WINDOWS of the task that core `c` runs. -/
def windowNamed (s : State) (c : CoreIx) (w : Fin 8) : Bool :=
  match s.cores[c].slot with
  | some t => decide (w.val < s.tasks[t].hdr.windows)
  | none => false

end Sys2Proof.Claims

/-- R107, R178, R183: WOPEN of a CLOSED window stalls its context for the 32 B descriptor; a good descriptor opens the window
from the next cycle; WCLOSE begins the close of an OPEN one, with the writers it must hear from, and only passes otherwise.
R178, R186: a WOPEN of a window that is not CLOSED, at issue or when its descriptor is read, faults WINDOW (0x0C) with reason
REOPEN (9), and one with a bad address or descriptor DESCRIPTOR (0xA). -/
def Obligations.WindowInstructions : Prop :=
  (∀ (c : CoreIx) (k : CtxIx) (w : Fin 8) (ad : AReg) (s : State),
    issueOk s c k (encI 0x28 w.val ad.val 0) 0x03000000 [] = true → windowNamed s c w = true → (windowOf s c w).st = .closed →
    (ctx s c k).ad[ad].toNat % 32 = 0 → spHeld s c (ctx s c k).ad[ad].toNat 32 = true →
    ∃ t, exec (.wopen c k w ad) s = .next t ∧
      Issued s t c k { ctx s c k with stall := .wopen w (ctx s c k).ad[ad].toNat (ctx s c k).pc, stallAt := s.time.cycle }) ∧
  (∀ (c : CoreIx) (k : CtxIx) (w : Fin 8) (a : Nat) (pc : BitVec 13) (found : Finds) (s : State),
    (ctx s c k).stall = .wopen w a pc → descDue s c k = some (a, 32) → (∀ q ∈ found, q.2 ≠ .uncorrectable) →
    spPoisoned s.cores[c] a 32 = false → winDescOk s c (readBytes s.cores[c].sp.mem a 32) = true → (windowOf s c w).st = .closed →
    ∃ t, exec (.wopenDescriptorRead c k found) s = .next t ∧ OnlyCore s t c ∧ (windowOf t c w).st = .open_ ∧
      (windowOf t c w).base = field (readBytes s.cores[c].sp.mem a 32) 0 2 ∧
      (windowOf t c w).len = field (readBytes s.cores[c].sp.mem a 32) 2 2 ∧ (windowOf t c w).opener = k ∧
      (windowOf t c w).openAt = s.time.cycle + 1 ∧ ctx t c k = { ctx s c k with stall := .none, pc := (ctx s c k).pc + 1 } ∧
      (∀ v, v ≠ w → windowOf t c v = windowOf s c v) ∧ t.cores[c].sp.mem = s.cores[c].sp.mem) ∧
  (∀ (c : CoreIx) (k : CtxIx) (w : Fin 8) (s : State),
    issueOk s c k (encI 0x29 w.val 0 0) 0x031FFFFF [] = true → windowNamed s c w = true → (windowOf s c w).st = .open_ →
    (windowOf s c w).openAt ≤ s.time.cycle →
    ∃ t, exec (.wclose c k w) s = .next t ∧ (windowOf t c w).st = .closing ∧ (windowOf t c w).noticeAt = s.time.cycle + 3 ∧
      (windowOf t c w).markers = closeSides s c (windowOf s c w) ∧
      ctx t c k = passed s c k ∧ (∀ v, v ≠ w → windowOf t c v = windowOf s c v) ∧ t = { s with cores := t.cores }) ∧
  (∀ (c : CoreIx) (k : CtxIx) (w : Fin 8) (s : State),
    issueOk s c k (encI 0x29 w.val 0 0) 0x031FFFFF [] = true → (windowNamed s c w = false ∨ (windowOf s c w).st ≠ .open_ ∨ s.time.cycle < (windowOf s c w).openAt) →
    ∃ t, exec (.wclose c k w) s = .next t ∧ Issued s t c k (passed s c k)) ∧
  (∀ (c : CoreIx) (k : CtxIx) (w : Fin 8) (ad : AReg) (s : State),
    issueOk s c k (encI 0x28 w.val ad.val 0) 0x03000000 [] = true → (ctx s c k).faulted = false →
    (windowNamed s c w = false ∨ (windowOf s c w).st ≠ .closed ∨ (ctx s c k).ad[ad].toNat % 32 ≠ 0 ∨
      spHeld s c (ctx s c k).ad[ad].toNat 32 = false) →
    ∃ t, exec (.wopen c k w ad) s = .next t ∧ FaultFrame s t ∧ Latched s t c k 0x0C (ctx s c k).pc ∧
      (ctx t c k).info = BitVec.ofNat 16
        ((if windowNamed s c w = true ∧ (windowOf s c w).st ≠ .closed then 9 else 10) + 16 * w.val)) ∧
  (∀ (c : CoreIx) (k : CtxIx) (w : Fin 8) (a : Nat) (pc : BitVec 13) (found : Finds) (s : State),
    (ctx s c k).stall = .wopen w a pc → descDue s c k = some (a, 32) → (∀ q ∈ found, q.2 ≠ .uncorrectable) →
    (ctx s c k).faulted = false →
    ((windowOf s c w).st ≠ .closed ∨ spPoisoned s.cores[c] a 32 = true ∨
      winDescOk s c (readBytes s.cores[c].sp.mem a 32) = false) →
    ∃ t, exec (.wopenDescriptorRead c k found) s = .next t ∧ Latched s t c k 0x0C pc ∧ t.dram = s.dram ∧
      (ctx t c k).info = BitVec.ofNat 16 ((if (windowOf s c w).st ≠ .closed then 9 else 10) + 16 * w.val) ∧
      ∀ v, windowOf t c v = windowOf s c v)

/-- R179 to R184, R186: what the owner and the writers of a window do: judging a write by its first granule (an accepted one
takes the window's base, counter, amount and opener with it; a rejected one is counted and returned to its writer), placing its
granules one by one (after the last one the window's counter rises by SIG_N), taking back a rejection (the writing context
faults WINDOW, 0x0C), learning of a close, sending the drain marker, and the end of the close, which signals DONE_CTR. -/
def Obligations.WindowEvents : Prop :=
  (∀ (c : CoreIx) (d : Side) (w : WinWrite) (s : State),
    judgeNow s c d = some w → winJudge s c d w = 0 →
    ∃ t, exec (.windowWriteArrival c d) s = .next t ∧ OnlyCore s t c ∧
      t.cores[c].winWrites d = (s.cores[c].winWrites d).map fun v => if v = w then { w with
        judged := some true, base := (windowOf s c w.win).base, ctr := (windowOf s c w.win).ctr
        sigN := (windowOf s c w.win).sigN, opener := (windowOf s c w.win).opener, opc := (windowOf s c w.win).pc } else v) ∧
  (∀ (c : CoreIx) (d : Side) (w : WinWrite) (s : State),
    judgeNow s c d = some w → winJudge s c d w ≠ 0 →
    ∃ t, exec (.windowWriteArrival c d) s = .next t ∧ (windowOf t c w.win).rejects = satInc (windowOf s c w.win).rejects ∧
      t.cores[c].sp = s.cores[c].sp ∧ t.cores[c].winRegs.fault = true ∧
      ∃ r, t.cores[coreAt c d].returns = s.cores[coreAt c d].returns ++ [r] ∧ r.ctx = w.ctx ∧ r.pc = w.pc) ∧
  (∀ (c : CoreIx) (d : Side) (w : WinWrite) (g : WinGran) (n : Nat) (s : State),
    winNext s c d = some (w, g, n) → bgFree s c (sidePrio d) (64 * n) 64 = true →
    ∃ t u, exec (.windowGranuleWrite c d) s = .next t ∧ CoreFrame s t c ∧
      t.cores[c].sp.staged = s.cores[c].sp.staged ++ [u] ∧ u.addr = 64 * n ∧ leNat u.bytes = g.data.toNat ∧ u.poison = g.poison ∧
      (if w.past + 1 = w.count then (windowOf t c w.win).writes = satInc (windowOf s c w.win).writes ∧
         ∃ x, t.incs = s.incs ++ [x] ∧ x.core = c ∧ x.ctr = w.ctr ∧ x.n = w.sigN.toNat ∧ x.due = s.time.cycle + 1
       else t.incs = s.incs ∧ (windowOf t c w.win).writes = (windowOf s c w.win).writes)) ∧
  (∀ (c : CoreIx) (r : WinReturn) (rs : List WinReturn) (s : State),
    s.cores[c].returns = r :: rs → (ctx s c r.ctx).faulted = false →
    ∃ t, exec (.windowFaultReturn c) s = .next t ∧ t.cores[c].returns = rs ∧ Latched s t c r.ctx 0x0C r.pc ∧
      (ctx t c r.ctx).info = r.info) ∧
  (∀ (c : CoreIx) (n : CloseNotice) (s : State),
    (s.cores[c].notices.find? fun n => decide (n.due ≤ s.time.cycle)) = some n →
    ∃ t, exec (.closeNoticeArrival c) s = .next t ∧ t = { s with cores := s.cores.set c { s.cores[c] with
      notices := s.cores[c].notices.erase n, barred := s.cores[c].barred ++ [(n.owner, n.win, n.epoch)]
      markersDue := s.cores[c].markersDue ++ [(n.owner, n.win, s.time.cycle + 1)] } }) ∧
  (∀ (c : CoreIx) (d : Side) (m : Side × Fin 8 × Nat) (s : State),
    markerNow s c d = some m →
    ∃ t, exec (.drainMarkerSend c d) s = .next t ∧ t.cores[c].markersDue = s.cores[c].markersDue.erase m ∧
      (windowOf t (coreAt c d) m.2.1).markers = (windowOf s (coreAt c d) m.2.1).markers.erase (opposite d) ∧
      ((windowOf s (coreAt c d) m.2.1).st = .closing → (windowOf t (coreAt c d) m.2.1).markers = [] →
        (windowOf t (coreAt c d) m.2.1).closeAt = some (s.time.cycle + 7))) ∧
  (∀ (c : CoreIx) (w : Fin 8) (a : Nat) (s : State),
    (windowOf s c w).closeAt = some a → a ≤ s.time.cycle → (windowOf s c w).st = .closing →
    ∃ t x, exec (.windowClosed c w) s = .next t ∧ CoreFrame s t c ∧ (windowOf t c w).st = .closed ∧ t.incs = s.incs ++ [x] ∧
      x.core = c ∧ x.ctr = (windowOf s c w).doneCtr ∧ x.n = 1 ∧ x.due = s.time.cycle ∧
      (∀ v, v ≠ w → windowOf t c v = windowOf s c v))

/-- R172, R174: a corrected word is written back in a cycle that leaves its bank free to the access of least priority, and a
power segment becomes accessible when its clear is over; no byte changes. -/
def Obligations.ScratchpadUpkeep : Prop :=
  (∀ (c : CoreIx) (a : Nat) (s : State),
    (s.cores[c].sp.corrections.find? fun a => bgFree s c 6 a 8) = some a →
    ∃ t, exec (.spCorrectionWriteback c) s = .next t ∧ OnlyCore s t c ∧
      t.cores[c].sp.corrections = s.cores[c].sp.corrections.erase a ∧ t.cores[c].sp.mem = s.cores[c].sp.mem) ∧
  (∀ (c : CoreIx) (g : Fin 6) (s : State),
    s.cores[c].sp.clearing.getLsbD g.val = true → s.cores[c].sp.clearAt[g] ≤ s.time.cycle →
    ∃ t, exec (.segmentClearDone c g) s = .next t ∧ OnlyCore s t c ∧ t.cores[c].sp.clearing.getLsbD g.val = false ∧
      (∀ h : Fin 6, h ≠ g → t.cores[c].sp.clearing.getLsbD h.val = s.cores[c].sp.clearing.getLsbD h.val) ∧
      t.cores[c].sp.mem = s.cores[c].sp.mem)

/-! ### Command entries in a context -/

namespace Sys2Proof.Claims
open Sys2Proof Sys2Proof.Machine

/-- Word `i` of posted entry `q` of the task that core `c` runs; 0 where there is none. -/
def wordOf (s : State) (c : CoreIx) (q : Option W32) (i : Fin 8) : W64 :=
  match q, s.cores[c].slot with
  | some q, some t => match s.tasks[t].cmd.posted.find? fun e => e.q == q with
    | some e => e.words[i]
    | none => 0
  | _, _ => 0

end Sys2Proof.Claims

/-- R224: CMDWAIT takes the oldest queued entry as the current one and reads its word 0, and waits with KIND COMMAND where none
is queued; a current entry that was not reported is reported UNREPORTED (0x82) first. CMDRD reads a word of the current entry, 0
where there is none. CMDDONE reports the current entry, once, with the status of its immediate, 0x7F for a value from 0x80 on,
and with the MISSED bits of the core's streams, which it clears (R200); without a current entry it only records a notice. -/
def Obligations.CommandInstructions : Prop :=
  (∀ (c : CoreIx) (k : CtxIx) (rd : SReg) (q : W32) (rest : List W32) (s : State),
    issueOk s c k (encI 0x2C rd.val 0 0) 0x001FFFFF [] = true → (ctx s c k).cur = none → (ctx s c k).queued = q :: rest →
    ∃ t, exec (.cmdwait c k rd) s = .next t ∧
      Issued s t c k { wrote s (ctx s c k) rd (wordOf s c (some q) 0) 1 with cur := some q, queued := rest }) ∧
  (∀ (c : CoreIx) (k : CtxIx) (rd : SReg) (s : State),
    issueOk s c k (encI 0x2C rd.val 0 0) 0x001FFFFF [] = true → (ctx s c k).cur = none → (ctx s c k).queued = [] →
    ∃ t, exec (.cmdwait c k rd) s = .next t ∧ (ctx t c k).st = .waiting ∧ (ctx t c k).kind = .command ∧
      (ctx t c k).pc = (ctx s c k).pc ∧ (ctx t c k).s = (ctx s c k).s ∧ t = { s with cores := t.cores, freeCtr := t.freeCtr }) ∧
  (∀ (c : CoreIx) (k : CtxIx) (rd : SReg) (p : W32) (i : SlotIx) (s : State),
    issueOk s c k (encI 0x2C rd.val 0 0) 0x001FFFFF [] = true → (ctx s c k).cur = some p → runs s c i = true →
    ∃ t, exec (.cmdwait c k rd) s = .next t ∧ t = { s with cores := t.cores, tasks := t.tasks, freeCtr := t.freeCtr } ∧
      (ctx t c k).cur = (ctx s c k).queued.head? ∧ (ctx t c k).queued = (ctx s c k).queued.tail ∧
      (ctx t c k).st = (if (ctx s c k).queued = [] then .waiting else .ready) ∧
      ∀ e ∈ s.tasks[i].cmd.posted, e.q = p → e.finished = false →
        { e with reports := e.reports ++ [{ core := c, ctx := k, status := 0x82, misses := 0 }] } ∈ t.tasks[i].cmd.posted) ∧
  (∀ (c : CoreIx) (k : CtxIx) (rd : SReg) (i : Fin 8) (s : State),
    issueOk s c k (encI 0x2D rd.val 0 (BitVec.ofNat 16 i.val)) 0x001F0000 [] = true →
    ∃ t, exec (.cmdrd c k rd i) s = .next t ∧ Issued s t c k (wrote s (ctx s c k) rd (wordOf s c (ctx s c k).cur i) 2)) ∧
  (∀ (c : CoreIx) (k : CtxIx) (imm : W16) (q : W32) (i : SlotIx) (s : State),
    issueOk s c k (encI 0x2E 0 0 imm) 0x03FF0000 [] = true → (ctx s c k).cur = some q → runs s c i = true →
    ∃ t, exec (.cmddone c k imm) s = .next t ∧ (ctx t c k).cur = none ∧ (ctx t c k).pc = (ctx s c k).pc + 1 ∧
      (ctx t c k).s = (ctx s c k).s ∧ t = { s with cores := t.cores, tasks := t.tasks } ∧
      (∀ j, streamOf t c j = { streamOf s c j with missed := false }) ∧
      ∀ e ∈ s.tasks[i].cmd.posted, e.q = q → e.finished = false →
        { e with reports := e.reports ++ [{ core := c, ctx := k
                                            status := if imm.toNat % 256 < 0x80 then BitVec.ofNat 8 imm.toNat else 0x7F
                                            misses := (s.cores[c].streams.toList.filter fun x => x.missed).length }] } ∈
          t.tasks[i].cmd.posted) ∧
  (∀ (c : CoreIx) (k : CtxIx) (imm : W16) (s : State),
    issueOk s c k (encI 0x2E 0 0 imm) 0x03FF0000 [] = true → (ctx s c k).cur = none →
    ∃ t e, exec (.cmddone c k imm) s = .next t ∧ Issued { s with recorder := t.recorder } t c k (passed s c k) ∧
      t.recorder.arriving = s.recorder.arriving ++ [e] ∧
      e.code = BitVec.ofNat 16 (0x1600 + if imm.toNat % 256 < 0x80 then imm.toNat % 256 else 0x7F))


/-! ### The slots of a bundle -/

namespace Sys2Proof.Claims
open Sys2Proof Sys2Proof.Machine

/-- Core `c`'s block `b` issues in block cycle `n` a bundle whose M, T or V slot (0, 1, 2) holds `w`, not issued yet. -/
def mSlot (s : State) (c : CoreIx) (w : BitVec 44) (b : Block) (n : Nat) : Prop :=
  ∃ bu, bundleNow s c = some (b, n, bu) ∧ slotM bu = w ∧ b.mUsed ≠ some n

def tSlot (s : State) (c : CoreIx) (w : BitVec 40) (b : Block) (n : Nat) : Prop :=
  ∃ bu, bundleNow s c = some (b, n, bu) ∧ slotT bu = w ∧ b.tUsed ≠ some n

/-- A reader of DRN follows the delivery of its cycle (R153). -/
def vSlot (s : State) (c : CoreIx) (w : BitVec 40) (srcs : List (Fin 32)) (b : Block) (n : Nat) : Prop :=
  ∃ bu, bundleNow s c = some (b, n, bu) ∧ slotV bu = w ∧ b.vUsed ≠ some n ∧ (drnSettled b n = true ∨ (31 : Fin 32) ∉ srcs)

/-- The machine with core `c`'s running block now `b`; everything else as it was. -/
def withBlock (s : State) (c : CoreIx) (b : Block) : State :=
  { s with cores := s.cores.set c { s.cores[c] with blk := some b } }

/-- The five shapes with their opcodes (R138). -/
def mmaRows : List ((CoreIx → MFields → Instr) × Nat × Shape) :=
  [(.mmaF, 1, .f), (.mmaH, 2, .h), (.mmaQ, 3, .q), (.mmaN, 4, .n), (.mmaS, 5, .s)]

/-- A command of the array or the Girth touches one core, and of it neither contexts nor scratchpad bytes, and the recorder. -/
def ArrayFrame (s t : State) (c : CoreIx) : Prop :=
  t = { s with cores := t.cores, recorder := t.recorder } ∧ (∀ d, d ≠ c → t.cores[d] = s.cores[d]) ∧
  t.cores[c].ctx = s.cores[c].ctx ∧ t.cores[c].sp = s.cores[c].sp

/-- Lane `i` of a register of `w`-bit lanes. -/
def laneAt (w i : Nat) (x : Line) : Nat := x.toNat / 2 ^ (w * i) % 2 ^ w

/-- Lanes and lane width of a mode: 128 BF16 or 64 FP32 (R153). -/
def laneCount (bf : Bool) : Nat := if bf then 128 else 64
def laneWidth (bf : Bool) : Nat := if bf then 16 else 32

/-- The block of core `c` has a result `r` on its way to `vd`, due `lat` cycles after block cycle `n` (R156). -/
def VResult (s t : State) (c : CoreIx) (b : Block) (n : Nat) (vd : Fin 32) (lat : Nat) (r : VReg) (f : VF) : Prop :=
  t = withBlock s c { b with vUsed := some n, vres := b.vres ++ [{ vd := vd, due := n + lat - 1, issued := n, val := r, flags := f }] }

/-- Every lane of `r` is `g` of its lane number, and a flag is raised when a lane raises it. -/
def Lanewise (bf : Bool) (g : Nat → Nat × VF) (r : VReg) (f : VF) : Prop :=
  (∀ i, i < laneCount bf → laneAt (laneWidth bf) i r.bits = (g i).1 % 2 ^ laneWidth bf) ∧
  ∀ j : Nat, j < 4 → (f.getLsbD j = true ↔ ∃ i, i < laneCount bf ∧ (g i).2.getLsbD j = true)

/-- Lane `i` of source `x` in a mode. -/
def srcLane (bf : Bool) (i : Nat) (x : VReg) : Nat := laneAt (laneWidth bf) i x.bits

/-- The lane operations of two sources: command, opcode, latency, one lane (R155, R156). -/
def vRows2 : List ((CoreIx → Fin 32 → Fin 32 → Fin 32 → Bool → Instr) × Nat × Nat × (Bool → Nat → Nat → Nat × VF)) :=
  [(.vadd, 0x01, 4, fun bf x y => (laneFmt bf).add ((laneFmt bf).decode x) ((laneFmt bf).decode y)),
   (.vsub, 0x02, 4, fun bf x y => (laneFmt bf).sub ((laneFmt bf).decode x) ((laneFmt bf).decode y)),
   (.vmul, 0x03, 4, fun bf x y => (laneFmt bf).mul ((laneFmt bf).decode x) ((laneFmt bf).decode y)),
   (.vmin, 0x05, 2, fun bf x y => (laneFmt bf).minmax false x y),
   (.vmax, 0x06, 2, fun bf x y => (laneFmt bf).minmax true x y)]

/-- The lane operations of one source: VABS clears the sign, VNEG changes it; a NaN gives QNAN (R155). -/
def vRows1 : List ((CoreIx → Fin 32 → Fin 32 → Bool → Instr) × Nat × (Bool → Nat → Nat)) :=
  [(.vabs, 0x07, fun bf x => x % 2 ^ (laneWidth bf - 1)),
   (.vneg, 0x08, fun bf x => if x < 2 ^ (laneWidth bf - 1) then x + 2 ^ (laneWidth bf - 1) else x - 2 ^ (laneWidth bf - 1))]

/-- Granule `i` of the 256 B that a VLD of the bundle of block cycle `n` reads: bytes, poison, and whether its address is an error,
beside every other access of the cycle (R161, R162). -/
def vldGran (s : State) (c : CoreIx) (b : Block) (n : Nat) (base : BitVec 22) (off : BitVec 14) (i : Nat) :
    List Byte × Bool × Bool :=
  granRead s c (blockUses (withBlock s c { b with vUsed := some n }) c
    ++ (useOf 5 n 0 (vAddr base off, 256)).filter fun u => spHeld s c u.addr 64) 5 n 0 (vAddr base off + 64 * i)

/-- The special functions (R155, R166). -/
def sfuRows : List ((CoreIx → Fin 32 → Fin 32 → Instr) × Nat) :=
  [(.vrcp, 0x10), (.vsqrt, 0x11), (.vrsqrt, 0x12), (.vexp2, 0x13), (.vlog2, 0x14), (.vtanh, 0x15), (.vsigm, 0x16)]

/-- The bitwise operations. -/
def bitRows : List ((CoreIx → Fin 32 → Fin 32 → Fin 32 → Instr) × Nat × (Bool → Bool → Bool)) :=
  [(.vand, 0x0C, fun a b => a && b), (.vor, 0x0D, fun a b => a || b), (.vxor, 0x0E, fun a b => a != b)]

end Sys2Proof.Claims

/-- R131: a slot that holds an empty instruction passes: it has issued and nothing else changes. R138 to R143: an MMA of any
shape joins the block's MMAs with the tag registers and bases it names at its issue, its register updates are queued, and both
accumulators keep their values. R80, R141: it is poisoned exactly where a check of R80 fails or its format is reserved. With no
failed check and a format that is not reserved, no event is recorded and no accumulator is marked; with a failed check its
accumulator is marked, the lowest reason is the block's where it is the block's first, with its event, and it is latched where
no earlier fault stands; a reserved format marks the accumulator and is an event. A predecessor that has not read its last local
line is cut and its accumulator marked. -/
def Obligations.MatrixSlot : Prop :=
  (∀ (c : CoreIx) (b : Block) (n : Nat) (s : State),
    (mSlot s c 0 b n → ∃ t, exec (.mnop c) s = .next t ∧ t = withBlock s c { b with mUsed := some n }) ∧
    (tSlot s c 0 b n → ∃ t, exec (.tnop c) s = .next t ∧ t = withBlock s c { b with tUsed := some n }) ∧
    (vSlot s c 0 [] b n → ∃ t, exec (.vnop c) s = .next t ∧ t = withBlock s c { b with vUsed := some n })) ∧
  (∀ e ∈ mmaRows, ∀ (c : CoreIx) (m : MFields) (b : Block) (n : Nat) (s : State),
    mSlot s c (encM e.2.1 m) b n →
    ∃ t b' i, exec (e.1 c m) s = .next t ∧ ArrayFrame s t c ∧ t.cores[c].blk = some b' ∧ b'.mUsed = some n ∧
      b'.mmas.getLast? = some i ∧ b'.mmas.length = b.mmas.length + 1 ∧
      i.shape = e.2.2 ∧ i.f = m ∧ i.issued = n ∧ i.base = b.ba[m.la] ∧ i.base1 = b.ba[m.la + 1] ∧
      i.x0 = b.tr[m.xa] ∧ i.x1 = b.tr[m.xb] ∧ i.t = 0 ∧
      (i.pois = true ↔ mmaReasons s.cores[c] b (mkMma b n e.2.2 m) b.mmas.getLast? ≠ [] ∨ isReserved i.fmt = true) ∧
      b'.updM = b.updM ++ mmaUpdates i ∧ t.cores[c].array.a = s.cores[c].array.a ∧ t.cores[c].array.b = s.cores[c].array.b ∧
      (mmaReasons s.cores[c] b (mkMma b n e.2.2 m) b.mmas.getLast? = [] → isReserved i.fmt = false →
        t.recorder = s.recorder ∧ b'.arrayFault = b.arrayFault ∧
        t.cores[c].array = { s.cores[c].array with tileK := t.cores[c].array.tileK }) ∧
      (i.pois = true → (if m.acc then t.cores[c].array.poisonB else t.cores[c].array.poisonA) = true) ∧
      (∀ r rs, mmaReasons s.cores[c] b (mkMma b n e.2.2 m) b.mmas.getLast? = r :: rs →
        (b.arrayFault = none → t.cores[c].array.fault = true ∧ b'.arrayFault = some (BitVec.ofNat 16 (r + 16 * b2n m.acc)) ∧
          (s.cores[c].array.fault = false → t.cores[c].array.reason = BitVec.ofNat 4 r ∧ t.cores[c].array.faultAcc = m.acc ∧
            t.cores[c].array.faultCycle = BitVec.ofNat 32 n) ∧
          ∃ x xs, t.recorder.arriving = s.recorder.arriving ++ x :: xs ∧ x.code = BitVec.ofNat 16 (0x2300 + r) ∧
            x.unit = BitVec.ofNat 8 c.val) ∧
        (b.arrayFault ≠ none → b'.arrayFault = b.arrayFault)) ∧
      (∀ q, b.mmas.getLast? = some q → q.cut = none → n < q.issued + q.f.lg.toNat →
        (∃ p ∈ b'.mmas, p.issued = q.issued ∧ p.cut = some n) ∧
        (if q.f.acc then t.cores[c].array.poisonB else t.cores[c].array.poisonA) = true))

/-- R60, R67: a k-group is consumed in the cycle of its MMA once its stations have settled: it takes the payloads at the
stations and its local line, counts one issue and the shape's active cells, and leaves the other accumulator and the
scratchpad's bytes as they were; its own accumulator changes with the last k-group of a k-block only, by the close of the block
(R86), unless the format is reserved. R70: a START clears its accumulator and opens it in the cycle before its entry. R71: a
tile boundary makes the accumulator DRAINING and starts a drain of its values. R74 to R76: a drain delivers its next row: DEST 1
to the scratchpad addresses the task holds, 2 to DRN, 3 into the wide-buffer slot, 4 added to it, with the poison of the drain.
R86: the close of a k-block in MMA.F gives cell (i, j) the closed value of row i of the local operand and column j of the
travelling one, with their scales; in any shape an inactive cell keeps its value. -/
def Obligations.MatrixEvents : Prop :=
  ((∀ (c : CoreIx) (found : Finds) (b : Block) (n : Nat) (m : Mma) (s : State),
    blockNow s c = some (b, n) → consumer b n = some m → (m.stations.all fun st => stationSettled s st.1 c) = true →
    ∃ t b' m' kg, exec (.kgroupConsume c found) s = .next t ∧ t.cores[c].blk = some b' ∧ m' ∈ b'.mmas ∧ m'.issued = m.issued ∧
      m'.t = m.t + 1 ∧ b'.lastEvent = n ∧ t.cores[c].array.issue = s.cores[c].array.issue + 1 ∧
      t.cores[c].array.useful = s.cores[c].array.useful + BitVec.ofNat 64 (activeCells m.shape) ∧
      m'.kbuf.getLast? = some kg ∧
      kg.x0 = ((stationFlit s (trLane m.x0) c).map fun g => g.flit.payload).getD 0 ∧
      kg.l0 = ((m.lines.find? fun l => l.t == m.t).map (·.l0)).getD 0 ∧
      ((m.t + 1) % fmtF m.fmt ≠ 0 ∨ isReserved m.fmt = true →
        t.cores[c].array.a = s.cores[c].array.a ∧ t.cores[c].array.b = s.cores[c].array.b) ∧
      (if m.f.acc then t.cores[c].array.a = s.cores[c].array.a else t.cores[c].array.b = s.cores[c].array.b) ∧
      ((m.t + 1) % fmtF m.fmt = 0 → isReserved m.fmt = false →
        (if m.f.acc then t.cores[c].array.b else t.cores[c].array.a) =
          closeBlock m' m'.kbuf (((m.scaleLines.find? fun l => l.b == m.t / fmtF m.fmt).map (·.line)).getD 0)
            (if m.f.acc then s.cores[c].array.b else s.cores[c].array.a)) ∧
      t.duty[sectorOf c].quietFrom = s.time.cycle ∧ t.cores[c].sp.mem = s.cores[c].sp.mem ∧
      (found = [] → t.cores[c].sp = s.cores[c].sp) ∧ t.dram = s.dram) ∧
  (∀ (n : Nat) (x : Core) (b : Block) (m : Mma),
    x.blk = some b → (b.mmas.filter fun q => !q.f.keep && q.entry == n + 1) = [m] →
    (openStarts n x).array.stateOf m.f.acc = .open_ ∧ (openStarts n x).array.shape = m.shape ∧
    (if m.f.acc then (openStarts n x).array.b = [] ∧ (openStarts n x).array.a = x.array.a
     else (openStarts n x).array.a = [] ∧ (openStarts n x).array.b = x.array.b)) ∧
  (∀ (c : CoreIx) (b : Block) (n : Nat) (m : Mma) (s : State),
    blockNow s c = some (b, n) → boundaryDue b n = some m →
    ∃ t b' d, exec (.tileBoundary c) s = .next t ∧ OnlyCore s t c ∧ t.cores[c].blk = some b' ∧ b'.drains = b.drains ++ [d] ∧
      d.shape = m.shape ∧ d.dest = m.f.dest ∧ d.dn = m.f.dn ∧ d.row = 0 ∧ d.rows = drainRows m.shape ∧
      d.vals = (if m.f.acc then s.cores[c].array.b else s.cores[c].array.a) ∧
      d.poison = (m.dpois || m.pois || (if m.f.acc then s.cores[c].array.poisonB else s.cores[c].array.poisonA)) ∧
      t.cores[c].array.stateOf m.f.acc = .draining) ∧
  (∀ (c : CoreIx) (b : Block) (n : Nat) (d : Drain) (s : State),
    blockNow s c = some (b, n) → drainDue b n = some d →
    ∃ t b', exec (.drainRow c) s = .next t ∧ t.cores[c].blk = some b' ∧ b'.lastEvent = n ∧
      (d.row + 1 < d.rows → ∃ e ∈ b'.drains, e = { d with row := d.row + 1 }) ∧
      (d.dest = 2 → ∃ r, b'.drn = some (n, r) ∧ r.poison = (if d.poison then 15 else 0) ∧
        ∀ j, j < 64 → laneAt 32 j r.bits = ((d.row? d.row)[j]?.getD 0).toNat) ∧
      (d.dest = 3 → ∀ j v, j < 64 → (cellOff d.shape d.row j).isSome = true → v = tget 0 d.vals (64 * d.row + j) →
        (v ≠ 0 ∨ twf 0 s.cores[c].wb = true) → tget 0 t.cores[c].wb (d.dn.toNat * 4096 + 64 * d.row + j) = v) ∧
      (d.dest = 4 → ∀ j, j < 64 → (cellOff d.shape d.row j).isSome = true → twf 0 s.cores[c].wb = true →
        tget 0 t.cores[c].wb (d.dn.toNat * 4096 + 64 * d.row + j) =
          wbAdd (tget 0 s.cores[c].wb (d.dn.toNat * 4096 + 64 * d.row + j)) (tget 0 d.vals (64 * d.row + j))) ∧
      ((d.dest = 3 ∨ d.dest = 4) → d.poison = true → t.cores[c].wbPoison.getLsbD d.dn.toNat = true) ∧
      (d.dest = 1 → t.cores[c].wb = s.cores[c].wb ∧
        ((∀ p ∈ d.pieces d.row, spHeld s c p.1 p.2.length = true) →
          t.cores[c].sp.staged = s.cores[c].sp.staged ++ ((d.pieces d.row).zip (List.range 4)).map fun p =>
            { addr := p.1.1, bytes := p.1.2, poison := d.poison, agent := 0, issued := d.entry, part := p.2 })) ∧
      t.cores[c].sp.mem = s.cores[c].sp.mem ∧ t.dram = s.dram)) ∧
  (∀ (m : Mma) (ks : List KGroup) (sl : Gran) (acc : Tbl W32) (i j : Nat), i < 64 → j < 64 → m.shape = .f →
    tget 0 (closeBlock m ks sl acc) (64 * i + j) =
      BitVec.ofNat 32 (closeKblock (tget 0 acc (64 * i + j)).toNat
        (ks.flatMap fun g => groupElems m.fmt g.l0 i) (ks.flatMap fun g => groupElems m.fmt g.x0 j)
        (if isMx m.fmt then sl.toNat / 2 ^ (8 * i) % 256 else 127) (if isMx m.fmt then m.xs0.toNat / 2 ^ (8 * j) % 256 else 127))) ∧
  (∀ (m : Mma) (ks : List KGroup) (sl : Gran) (acc : Tbl W32) (i j : Nat), i < 64 → j < 64 → cellOff m.shape i j = none →
    tget 0 (closeBlock m ks sl acc) (64 * i + j) = tget 0 acc (64 * i + j))

/-! ### The T slot and the Girth -/

/-- R145, R147: GINJ starts a feeder job with the tag register and the bases it names and queues AU and XU; SRC FP32 with a
16-bit or a reserved format is an event. R151: TSIG signals a counter, with 0 it only passes; of a counter the task does not
hold it leaves fault 0x0A for the block's end, of a core that is no neighbour of the segment fault 0x0B, and signals nothing.
R152: TRSET, TRADD and BAADD queue their register update. R135: LOOP puts its body on the block's loops. -/
def Obligations.TransferSlot : Prop :=
  (∀ (c : CoreIx) (g : GinjFields) (b : Block) (n : Nat) (s : State),
    tSlot s c (encGinj g) b n →
    ∃ t b' f, exec (.ginj c g) s = .next t ∧ ArrayFrame s t c ∧ t.cores[c].blk = some b' ∧ b'.tUsed = some n ∧
      b'.feeds = b.feeds ++ [f] ∧ f.issued = n ∧ f.trans = g.trans ∧ f.fp32 = g.fp32 ∧ f.tagReg = b.tr[g.tr] ∧
      f.base = b.ba[g.ba] ∧ f.scaleBase = b.ba[g.ba + 1] ∧ f.nf = (if g.nf = 0 then 4096 else g.nf.toNat) ∧ f.placed = 0 ∧
      f.buf = [] ∧ (g.au = false → g.xu = 0 → b'.updT = b.updT) ∧
      (g.au = true → RegUpd.baAdd g.ba (feedBytes g.trans g.fp32 (trFormat b.tr[g.tr]) f.nf) ∈ b'.updT) ∧
      (g.xu = 1 → RegUpd.kblock g.tr (f.nf / feedF g.fp32 (trFormat b.tr[g.tr])) ∈ b'.updT) ∧
      (g.xu = 2 → RegUpd.nextTile g.tr ∈ b'.updT) ∧
      (if isReserved (trFormat b.tr[g.tr]) = true ∨ (g.fp32 = true ∧ trFormat b.tr[g.tr] ≤ 1)
       then ∃ x, t.recorder.arriving = s.recorder.arriving ++ [x] ∧ x.code = 0x2310 ∧ x.unit = BitVec.ofNat 8 c.val
       else t.recorder = s.recorder)) ∧
  (∀ (c d : CoreIx) (tg : TsigTarget) (ctr : Byte) (k : W16) (b : Block) (n : Nat) (s : State),
    tSlot s c (encT 4 (targetN tg * 2 ^ 33 + ctr.toNat * 2 ^ 25 + k.toNat * 2 ^ 9)) b n →
    d = (match tg with
      | .own => c
      | .up => upCore c
      | .down => downCore c) →
    counterNamed s c ctr.toNat = true → inTask s c d = true →
    (tg = .up → buckleBelow s (upCore c) = false) → (tg = .down → buckleBelow s c = false) → k ≠ 0 →
    ∃ t i, exec (.tsig c tg ctr k) s = .next t ∧
      t = { withBlock s c { b with tUsed := some n } with incs := s.incs ++ [i] } ∧ i.core = d ∧ i.ctr = ctr ∧ i.n = k.toNat ∧
      i.due = s.time.cycle + (if tg = .own then 1 else 3) ∧ i.tsig = true) ∧
  (∀ (c d : CoreIx) (tg : TsigTarget) (ctr : Byte) (k : W16) (b : Block) (n : Nat) (s : State),
    tSlot s c (encT 4 (targetN tg * 2 ^ 33 + ctr.toNat * 2 ^ 25 + k.toNat * 2 ^ 9)) b n →
    d = (match tg with
      | .own => c
      | .up => upCore c
      | .down => downCore c) →
    (counterNamed s c ctr.toNat = false →
      ∃ t i, exec (.tsig c tg ctr k) s = .next t ∧
        t = withBlock s c { b with tUsed := some n, tsigFaults := b.tsigFaults ++ [(0x0A, i)] }) ∧
    (counterNamed s c ctr.toNat = true →
      (inTask s c d = false ∨ (tg = .up ∧ buckleBelow s (upCore c) = true) ∨ (tg = .down ∧ buckleBelow s c = true)) →
      ∃ t i, exec (.tsig c tg ctr k) s = .next t ∧
        t = withBlock s c { b with tUsed := some n, tsigFaults := b.tsigFaults ++ [(0x0B, i)] }) ∧
    (counterNamed s c ctr.toNat = true → inTask s c d = true → (tg = .up → buckleBelow s (upCore c) = false) →
      (tg = .down → buckleBelow s c = false) → k = 0 →
      ∃ t, exec (.tsig c tg ctr k) s = .next t ∧ t = withBlock s c { b with tUsed := some n })) ∧
  (∀ (c : CoreIx) (tr : Fin 8) (f : TrField) (imm : BitVec 12) (b : Block) (n : Nat) (s : State),
    tSlot s c (encTr 5 tr f imm) b n →
    ∃ t, exec (.trset c tr f imm) s = .next t ∧
      t = withBlock s c { b with tUsed := some n, updT := b.updT ++ [.trSet tr f imm] }) ∧
  (∀ (c : CoreIx) (tr : Fin 8) (f : TrField) (imm : BitVec 12) (b : Block) (n : Nat) (s : State),
    tSlot s c (encTr 6 tr f imm) b n →
    ∃ t, exec (.tradd c tr f imm) s = .next t ∧
      t = withBlock s c { b with tUsed := some n, updT := b.updT ++ [.trAdd tr f imm] }) ∧
  (∀ (c : CoreIx) (ba : Fin 16) (imm : W16) (b : Block) (n : Nat) (s : State),
    tSlot s c (encT 7 (ba.val * 2 ^ 31 + imm.toNat * 2 ^ 15)) b n →
    ∃ t k, exec (.baadd c ba imm) s = .next t ∧
      t = withBlock s c { b with tUsed := some n, updT := b.updT ++ [.baAdd ba k] } ∧ (k : Int) = (64 * imm.toInt) % 4194304) ∧
  (∀ (c : CoreIx) (len : BitVec 12) (count : W16) (b : Block) (n : Nat) (s : State),
    tSlot s c (encT 8 (len.toNat * 2 ^ 23 + count.toNat * 2 ^ 7)) b n →
    ∃ t, exec (.loop c len count) s = .next t ∧
      t = withBlock s c { b with
        tUsed := some n
        loops := { first := b.bundle + 1, last := b.bundle + len, left := if count = 0 then 65536 else count.toNat } :: b.loops })

/-- R53 to R56, R145: a feeder job places its next flit, with its tag and parity, on a free station after an absorption of the
cycle; on a station whose flit is not absorbed it is discarded with SLOT_FAULT. R172: an uncorrectable error that the job's
reads found is counted and recorded, poisons the granule and what is built from it. R39, R58, R63: a flit whose hop is due moves
to the next station, absorbed where it is back at its injector; a parity error there sets POISON and is an event. R57, R149:
GCAP copies the flit at a settled station, and GCAP.S the one before an injection, for a write three cycles on, with poison
where the flit has it, and the scale field of a FIRST flit under CS; an empty station writes nothing; GCAP.S and GSINK take the
flit off the lane. R149, R162: captured lines go to the banks when due, one at an address the task does not hold leaves ADDRESS
for the block's end. -/
def Obligations.GirthEvents : Prop :=
  (∀ (c : CoreIx) (lane : Lane) (found : Finds) (b : Block) (n : Nat) (f : Feed) (s : State),
    blockNow s c = some (b, n) →
    (b.feeds.find? fun f => f.lane == lane && decide (f.placed < f.nf) && f.placeAt f.placed == n) = some f →
    arrived s lane c = true → sinkPending s c lane = false →
    (s.flits.find? fun g => g.lane == lane && g.core == c && g.at_ == ecyc s c && !g.absorbed) = none →
    (∀ q ∈ found, q.2 ≠ .uncorrectable) →
    ∃ t g b', exec (.flitInject c lane found) s = .next t ∧ t.flits = s.flits ++ [g] ∧ g.lane = lane ∧ g.core = c ∧
      g.absorbed = false ∧ g.flit.payload = (f.build f.placed).1 ∧ g.flit.scales = (f.build f.placed).2.1 ∧
      g.flit.tag = setBit (f.tag c s.cores[c].epoch f.placed) 3 (f.build f.placed).2.2.1 ∧
      g.flit.parity = flitParity g.flit.payload g.flit.scales g.flit.tag ∧ t = { s with cores := t.cores, flits := t.flits } ∧
      t.cores[c].blk = some b' ∧ (f.placed + 1 < f.nf → { f with placed := f.placed + 1 } ∈ b'.feeds) ∧
      ∀ d, d ≠ c → t.cores[d] = s.cores[d]) ∧
  (∀ (c : CoreIx) (lane : Lane) (b : Block) (n : Nat) (f : Feed) (a : Nat) (s : State),
    blockNow s c = some (b, n) →
    (b.feeds.find? fun f => f.lane == lane && decide (f.placed < f.nf) && f.placeAt f.placed == n) = some f →
    arrived s lane c = true → sinkPending s c lane = false →
    (s.flits.find? fun g => g.lane == lane && g.core == c && g.at_ == ecyc s c && !g.absorbed) = none →
    f.hasRead n (a / 64) = true → twf false s.cores[c].sp.poison = true →
    ∃ t g e, exec (.flitInject c lane [(a, .uncorrectable)]) s = .next t ∧ t.flits = s.flits ++ [g] ∧
      g.flit.poisoned = (({ f with bufPoison := a / 64 :: f.bufPoison } : Feed).build f.placed).2.2.1 ∧
      tget false t.cores[c].sp.poison (a / 64) = true ∧
      t.cores[c].sp.uncorrCount = satInc s.cores[c].sp.uncorrCount ∧
      t.recorder.arriving = s.recorder.arriving ++ [e] ∧ e.code = BitVec.ofNat 16 (0x1400 + f.agent % 256) ∧
      e.unit = BitVec.ofNat 8 c.val ∧ e.arg0 = BitVec.ofNat 64 a ∧ t.cores[c].sp.mem = s.cores[c].sp.mem) ∧
  (∀ (c : CoreIx) (lane : Lane) (b : Block) (n : Nat) (f : Feed) (g : OnGirth) (s : State),
    blockNow s c = some (b, n) →
    (b.feeds.find? fun f => f.lane == lane && decide (f.placed < f.nf) && f.placeAt f.placed == n) = some f →
    arrived s lane c = true → sinkPending s c lane = false →
    (s.flits.find? fun g => g.lane == lane && g.core == c && g.at_ == ecyc s c && !g.absorbed) = some g →
    ∃ t, exec (.flitInject c lane []) s = .next t ∧ t.flits = s.flits ∧ t.cores[c].girth.slotFault = true ∧
      (b.girthFault = none → s.cores[c].girth.tagFault = false → s.cores[c].girth.slotFault = false →
        t.cores[c].girth.reason = 9 ∧ t.cores[c].girth.observed = g.flit.tag ∧ t.cores[c].girth.lane = (lane == .inner) ∧
        t.cores[c].girth.empty = false)) ∧
  (∀ (lane : Lane) (c : CoreIx) (upset : BitVec 2608) (g : OnGirth) (s : State),
    (s.flits.find? fun g => g.lane == lane && g.core == c && hopDue s g) = some g →
    ∃ t h, exec (.flitHop lane c upset) s = .next t ∧ t.flits = s.flits.erase g ++ [h] ∧
      t = { s with flits := t.flits, act := t.act, recorder := t.recorder } ∧
      h.lane = (nextStation s lane c).1 ∧ h.core = (nextStation s lane c).2.1 ∧ h.at_ = ecyc s h.core ∧
      h.flit.payload = g.flit.payload ^^^ upset.setWidth 2048 ∧
      (h.absorbed = true ↔ trInjector h.flit.word = h.core.val ∧ bit h.flit.tag 2 = (h.lane == .inner)) ∧
      (if flitParity (g.flit.payload ^^^ upset.setWidth 2048) (g.flit.scales ^^^ upset.extractLsb' 2048 512)
          (g.flit.tag ^^^ upset.extractLsb' 2560 48) = g.flit.parity
       then h.flit.tag = g.flit.tag ^^^ upset.extractLsb' 2560 48 ∧ t.recorder = s.recorder
       else h.flit.poisoned = true ∧ ∃ e, t.recorder.arriving = s.recorder.arriving ++ [e] ∧
         e.code = BitVec.ofNat 16 (0x2100 + laneN h.lane) ∧ e.unit = BitVec.ofNat 8 h.core.val)) ∧
  (∀ (c : CoreIx) (g : GcapFields) (sink : Bool) (b : Block) (n : Nat) (s : State),
    tSlot s c (encGcap g sink) b n → (if sink then arrived s g.station c else stationSettled s g.station c) = true → g.chk = false →
    ∃ t b', exec (if sink then .gcapS c g else .gcap c g) s = .next t ∧
      (sink = false → t.flits = s.flits) ∧
      (sink = true → ∀ h ∈ t.flits, h.lane = g.station → h.core = c → h.at_ = ecyc s c → h.absorbed = true) ∧
      t.cores[c].blk = some b' ∧ b'.tUsed = some n ∧ t.cores[c].sp = s.cores[c].sp ∧ t.recorder = s.recorder ∧
      (stationFlit s g.station c = none → b'.writes = b.writes) ∧
      (∀ f, stationFlit s g.station c = some f → ∃ w, w ∈ b'.writes ∧ w.due = n + 3 ∧ w.line = f.flit.payload ∧ w.len = 256 ∧
        w.agent = 7 ∧ w.addr = (b.ba[g.ba]).toNat / 64 * 64 ∧ w.poison = (if f.flit.poisoned then 15 else 0) ∧
        (g.cs = true → f.flit.first = true → ∃ v, b'.writes = b.writes ++ [w, v] ∧ v.due = n + 3 ∧ v.len = 64 ∧
          v.line = f.flit.scales.setWidth 2048 ∧ v.addr = (b.ba[g.ba + 1]).toNat / 64 * 64 ∧ v.poison = w.poison)) ∧
      (g.au = false → b'.updT = b.updT) ∧ (g.au = true → RegUpd.baAdd g.ba 256 ∈ b'.updT)) ∧
  (∀ (c : CoreIx) (g : GcapFields) (f : OnGirth) (b : Block) (n : Nat) (s : State),
    tSlot s c (encGcap g false) b n → stationSettled s g.station c = true → stationFlit s g.station c = some f →
    ∃ t b' w, exec (.gcap c g) s = .next t ∧ t.flits = s.flits ∧ t.cores[c].blk = some b' ∧ b'.tUsed = some n ∧
      w ∈ b'.writes ∧ w.due = n + 3 ∧ w.line = f.flit.payload ∧ w.len = 256 ∧ w.addr = (b.ba[g.ba]).toNat / 64 * 64 ∧
      t.cores[c].sp = s.cores[c].sp) ∧
  (∀ (c : CoreIx) (g : GcapFields) (f : OnGirth) (b : Block) (n : Nat) (s : State),
    tSlot s c (encGcap g true) b n → arrived s g.station c = true → stationFlit s g.station c = some f →
    ∃ t b' w, exec (.gcapS c g) s = .next t ∧
      (∀ h ∈ t.flits, h.lane = g.station → h.core = c → h.at_ = ecyc s c → h.absorbed = true) ∧ t.cores[c].blk = some b' ∧
      b'.tUsed = some n ∧ w ∈ b'.writes ∧ w.due = n + 3 ∧ w.line = f.flit.payload ∧ w.addr = (b.ba[g.ba]).toNat / 64 * 64) ∧
  (∀ (c : CoreIx) (lane : Lane) (b : Block) (n : Nat) (s : State),
    tSlot s c (encT 3 (laneN lane * 2 ^ 34)) b n → arrived s lane c = true →
    ∃ t, exec (.gsink c lane) s = .next t ∧
      t = { withBlock s c { b with tUsed := some n, lastEvent := max b.lastEvent n } with
            flits := s.flits.map fun g => if g.lane = lane ∧ g.core = c ∧ g.at_ = ecyc s c then { g with absorbed := true } else g }) ∧
  (∀ (c : CoreIx) (b : Block) (n : Nat) (s : State),
    blockNow s c = some (b, n) → (∀ w ∈ b.writes, w.agent = 7 → w.due = n → spHeld s c w.addr w.len = true) →
    ∃ t, exec (.gcapWrite c) s = .next t ∧ OnlyCore s t c ∧
      t.cores[c].sp.staged = s.cores[c].sp.staged ++ (b.writes.filter fun w => w.agent == 7 && w.due == n).map (fun w =>
        { addr := w.addr, bytes := natLe w.len w.line.toNat, poison := w.poison != 0, agent := 7, issued := w.issued
          part := w.part }) ∧
      t.cores[c].sp.mem = s.cores[c].sp.mem) ∧
  (∀ (c : CoreIx) (b : Block) (n : Nat) (w : BlockWrite) (s : State),
    blockNow s c = some (b, n) → (b.writes.filter fun w => w.agent == 7 && w.due == n) = [w] → spHeld s c w.addr w.len = false →
    ∃ t b', exec (.gcapWrite c) s = .next t ∧ t.cores[c].sp = s.cores[c].sp ∧ t.cores[c].blk = some b' ∧
      b'.addrFault.isSome = true)

/-! ### The V slot -/

/-- R153 to R156: VADD, VSUB, VMUL, VMIN, VMAX, VFMA, VABS, VNEG, VCMP and VSEL work lane by lane, 64 FP32 or 128 BF16 lanes,
raise the flags their lanes raise, and a quarter of the result is poisoned where that quarter of a source is. -/
def Obligations.VectorLanes : Prop :=
  (∀ e ∈ vRows2, ∀ (c : CoreIx) (vd va vb : Fin 32) (bf : Bool) (b : Block) (n : Nat) (s : State),
    vSlot s c (encV e.2.1 vd.val va.val vb.val 0 bf 0) [va, vb] b n →
    ∃ t r f, exec (e.1 c vd va vb bf) s = .next t ∧ VResult s t c b n vd e.2.2.1 r f ∧
      Lanewise bf (fun i => e.2.2.2 bf (srcLane bf i (b.vsrc n va)) (srcLane bf i (b.vsrc n vb))) r f ∧
      r.poison = (b.vsrc n va).poison ||| (b.vsrc n vb).poison) ∧
  (∀ (c : CoreIx) (vd va vb vc : Fin 32) (bf : Bool) (b : Block) (n : Nat) (s : State),
    vSlot s c (encV 0x04 vd.val va.val vb.val vc.val bf 0) [va, vb, vc] b n →
    ∃ t r f, exec (.vfma c vd va vb vc bf) s = .next t ∧ VResult s t c b n vd 4 r f ∧
      Lanewise bf (fun i => (laneFmt bf).fma ((laneFmt bf).decode (srcLane bf i (b.vsrc n va)))
        ((laneFmt bf).decode (srcLane bf i (b.vsrc n vb))) ((laneFmt bf).decode (srcLane bf i (b.vsrc n vc)))) r f ∧
      r.poison = (b.vsrc n va).poison ||| (b.vsrc n vb).poison ||| (b.vsrc n vc).poison) ∧
  (∀ e ∈ vRows1, ∀ (c : CoreIx) (vd va : Fin 32) (bf : Bool) (b : Block) (n : Nat) (s : State),
    vSlot s c (encV e.2.1 vd.val va.val 0 0 bf 0) [va] b n →
    ∃ t r f, exec (e.1 c vd va bf) s = .next t ∧ VResult s t c b n vd 1 r f ∧ r.poison = (b.vsrc n va).poison ∧
      (∀ i, i < laneCount bf → laneAt (laneWidth bf) i r.bits =
        if ((laneFmt bf).decode (srcLane bf i (b.vsrc n va))).isNan = true then (laneFmt bf).qnan
        else e.2.2 bf (srcLane bf i (b.vsrc n va))) ∧
      ∀ j : Nat, j < 4 → (f.getLsbD j = true ↔ ∃ i, i < laneCount bf ∧
        ((laneFmt bf).decode (srcLane bf i (b.vsrc n va))).isNan = true ∧
        (nanFlag [(laneFmt bf).decode (srcLane bf i (b.vsrc n va))]).getLsbD j = true)) ∧
  (∀ (c : CoreIx) (vd va vb : Fin 32) (bf : Bool) (rel : BitVec 2) (b : Block) (n : Nat) (s : State),
    rel ≠ 3 → vSlot s c (encV 0x0A vd.val va.val vb.val 0 bf rel.toNat) [va, vb] b n →
    ∃ t r f, exec (.vcmp c vd va vb bf rel) s = .next t ∧ VResult s t c b n vd 2 r f ∧
      r.poison = (b.vsrc n va).poison ||| (b.vsrc n vb).poison ∧
      Lanewise bf (fun i => laneCmp bf rel.toNat (srcLane bf i (b.vsrc n va)) (srcLane bf i (b.vsrc n vb))) r f ∧
      ∀ i, i < laneCount bf → laneAt (laneWidth bf) i r.bits = 0 ∨ laneAt (laneWidth bf) i r.bits = 2 ^ laneWidth bf - 1) ∧
  (∀ (c : CoreIx) (vd va vb vc : Fin 32) (bf : Bool) (b : Block) (n : Nat) (s : State),
    vSlot s c (encV 0x0B vd.val va.val vb.val vc.val bf 0) [va, vb, vc] b n →
    ∃ t r, exec (.vsel c vd va vb vc bf) s = .next t ∧ VResult s t c b n vd 2 r 0 ∧
      (∀ i, i < laneCount bf → laneAt (laneWidth bf) i r.bits =
        if srcLane bf i (b.vsrc n vc) = 0 then srcLane bf i (b.vsrc n vb) else srcLane bf i (b.vsrc n va)) ∧
      r.poison = (b.vsrc n va).poison ||| (b.vsrc n vb).poison ||| (b.vsrc n vc).poison)

/-- R153, R155: VMOV copies a register with its poison; VAND, VOR and VXOR work bit by bit on 256 B; VBS broadcasts the low 32
bits of a tag register to every lane. R94, R155, R156, R165, R166: the special functions take each of 64 FP32 lanes, 12 cc after
issue, 10 cc in a task of profile 3.1. R90, R95, R97, R157 to R160: VCVT packs 64 converted lanes, each by itself for an element
format without block scales, in blocks of 32 with their scale for an MX format, and a stochastic one advances SR_CTR by one;
VEXT expands 64 elements; VRED gives the sum of the tree of R157 in every lane; any poison poisons the whole result of VCVT,
VEXT and VRED. -/
def Obligations.VectorMovesAndConversions : Prop :=
  ((∀ (c : CoreIx) (vd va : Fin 32) (bf : Bool) (b : Block) (n : Nat) (s : State),
    vSlot s c (encV 0x09 vd.val va.val 0 0 bf 0) [va] b n →
    ∃ t, exec (.vmov c vd va) s = .next t ∧ VResult s t c b n vd 1 (b.vsrc n va) 0) ∧
  (∀ e ∈ bitRows, ∀ (c : CoreIx) (vd va vb : Fin 32) (b : Block) (n : Nat) (s : State),
    vSlot s c (encV e.2.1 vd.val va.val vb.val 0 false 0) [va, vb] b n →
    ∃ t r, exec (e.1 c vd va vb) s = .next t ∧ VResult s t c b n vd 2 r 0 ∧
      (∀ i, i < 2048 → r.bits.getLsbD i = e.2.2 ((b.vsrc n va).bits.getLsbD i) ((b.vsrc n vb).bits.getLsbD i)) ∧
      r.poison = (b.vsrc n va).poison ||| (b.vsrc n vb).poison) ∧
  (∀ (c : CoreIx) (vd : Fin 32) (tr : Fin 8) (b : Block) (n : Nat) (s : State),
    vSlot s c (encV 0x1B vd.val 0 0 0 false tr.val) [] b n →
    ∃ t r, exec (.vbs c vd tr) s = .next t ∧ VResult s t c b n vd 1 r 0 ∧ r.poison = 0 ∧
      ∀ i, i < 64 → laneAt 32 i r.bits = (b.tr[tr]).toNat % 2 ^ 32)) ∧
  (∀ e ∈ sfuRows, ∀ (c : CoreIx) (vd va : Fin 32) (b : Block) (n : Nat) (i : SlotIx) (s : State),
    vSlot s c (encV e.2 vd.val va.val 0 0 false 0) [va] b n → s.cores[c].slot = some i →
    ∃ t r f, exec (e.1 c vd va) s = .next t ∧
      VResult s t c b n vd (if s.tasks[i].hdr.profile = 0x31 then 10 else 12) r f ∧
      Lanewise false (fun j => special e.2 (srcLane false j (b.vsrc n va))) r f ∧ r.poison = (b.vsrc n va).poison) ∧
  (∀ (c : CoreIx) (vd va : Fin 32) (fmt : BitVec 4) (sr sat : Bool) (b : Block) (n : Nat) (s : State),
    fmt.toNat < 10 → vSlot s c (encV 0x18 vd.val va.val 0 0 false (fmt.toNat + 16 * b2n sr + 32 * b2n sat)) [va] b n →
    ∃ t r f, exec (.vcvt c vd va fmt sr sat) s = .next t ∧
      t = withBlock s c { b with
        vUsed := some n
        sctr := if sr then b.sctr + 1 else b.sctr
        vres := b.vres ++ [{ vd := vd, due := n + 6 - 1, issued := n, val := r, flags := f }] } ∧
      (r.poison = if (b.vsrc n va).poison = 0 then 0 else 15) ∧
      (isMx fmt.toNat = false → ∀ i, i < 64 → laneAt (elemBits fmt.toNat) i r.bits =
        (convertElem fmt.toNat (if sr then .sr (srBits b.seed b.sctr i) else .rne) sat (laneAt 32 i (b.vsrc n va).bits)).1
          % 2 ^ elemBits fmt.toNat) ∧
      (isMx fmt.toNat = true → ∀ h, h < 2 →
        laneAt 8 (192 + h) r.bits = (quantiseMx fmt.toNat ((List.range 32).map fun j => laneAt 32 (32 * h + j) (b.vsrc n va).bits)
          fun l => if sr then .sr (srBits b.seed b.sctr (l + 32 * h)) else .rne).1 ∧
        ∀ i, i < 32 → laneAt (elemBits fmt.toNat) (32 * h + i) r.bits =
          (quantiseMx fmt.toNat ((List.range 32).map fun j => laneAt 32 (32 * h + j) (b.vsrc n va).bits)
            fun l => if sr then .sr (srBits b.seed b.sctr (l + 32 * h)) else .rne).2.1.getD i 0 % 2 ^ elemBits fmt.toNat)) ∧
  (∀ (c : CoreIx) (vd va : Fin 32) (fmt : BitVec 4) (b : Block) (n : Nat) (s : State),
    fmt.toNat < 10 → vSlot s c (encV 0x19 vd.val va.val 0 0 false fmt.toNat) [va] b n →
    ∃ t r f, exec (.vext c vd va fmt) s = .next t ∧ VResult s t c b n vd 4 r f ∧
      (r.poison = if (b.vsrc n va).poison = 0 then 0 else 15) ∧
      ∀ i, i < 64 → laneAt 32 i r.bits = (extLane fmt.toNat (laneAt (elemBits fmt.toNat) i (b.vsrc n va).bits)
        (if isMx fmt.toNat then laneAt 8 (192 + i / 32) (b.vsrc n va).bits else 127)).1 % 2 ^ 32) ∧
  (∀ (c : CoreIx) (vd va : Fin 32) (b : Block) (n : Nat) (s : State),
    vSlot s c (encV 0x1A vd.val va.val 0 0 false 0) [va] b n →
    ∃ t r f, exec (.vred c vd va) s = .next t ∧ VResult s t c b n vd 12 r f ∧
      (r.poison = if (b.vsrc n va).poison = 0 then 0 else 15) ∧
      (∀ i, i < 64 → laneAt 32 i r.bits =
        (vredLevels 6 ((List.range 64).map fun j => laneAt 32 j (b.vsrc n va).bits) 0).1 % 2 ^ 32) ∧
      ∀ i j, i < 64 → j < 64 → laneAt 32 i r.bits = laneAt 32 j r.bits)

/-- R153, R156, R159, R161, R162: VLD brings 256 B from the banks, 6 cc after issue: of each granule the task holds and whose
bank it does not lose, the bytes and the poison, of another one zeros and poison; an address that is not held leaves ADDRESS for
the block's end. VST sends a register to the banks in the next block cycle. Results that are due are written to their registers,
V31 discards one, and their flags are raised. -/
def Obligations.VectorMemory : Prop :=
  (∀ (c : CoreIx) (vd : Fin 32) (ba : Fin 16) (au : Bool) (off : BitVec 14) (found : Finds) (b : Block) (n : Nat)
      (s : State),
    vSlot s c (encVmem 0x1C vd.val ba au off) [] b n →
    ∃ t b' r, exec (.vld c vd ba au off found) s = .next t ∧ t.cores[c].blk = some b' ∧ b'.vUsed = some n ∧
      b'.vres = b.vres ++ [{ vd := vd, due := n + 6 - 1, issued := n, val := r, flags := 0 }] ∧
      b'.updV = b.updV ++ (if au then [.baAdd ba 256] else []) ∧ t.cores[c].sp.mem = s.cores[c].sp.mem ∧
      t = { s with cores := t.cores, recorder := t.recorder, freeCtr := t.freeCtr } ∧
      (∀ d, d ≠ c → t.cores[d] = s.cores[d]) ∧
      (found = [] → ∀ i, i < 4 →
        laneAt 512 i r.bits = leNat (vldGran s c b n b.ba[ba] off i).1 ∧ (r.poison.getLsbD i = (vldGran s c b n b.ba[ba] off i).2.1) ∧
        ((vldGran s c b n b.ba[ba] off i).2.2 = true → b'.addrFault.isSome = true))) ∧
  (∀ (c : CoreIx) (vs : Fin 32) (ba : Fin 16) (au : Bool) (off : BitVec 14) (b : Block) (n : Nat) (s : State),
    vSlot s c (encVmem 0x1D vs.val ba au off) [vs] b n →
    ∃ t, exec (.vst c vs ba au off) s = .next t ∧
      t = withBlock s c { b with
        vUsed := some n
        updV := b.updV ++ (if au then [.baAdd ba 256] else [])
        writes := b.writes ++ [{ due := n + 1, agent := 6, issued := n, part := 0, addr := vAddr b.ba[ba] off,
                                 line := (b.vsrc n vs).bits, len := 256, poison := (b.vsrc n vs).poison }] }) ∧
  (∀ (c : CoreIx) (b : Block) (n : Nat) (s : State),
    blockNow s c = some (b, n) → (b.vres.filter fun r => decide (r.due ≤ n)) ≠ [] → vSlotDone s c = true →
    ∃ t b', exec (.vectorResultWrite c) s = .next t ∧ t = withBlock s c b' ∧ b'.vres = (b.vres.filter fun r => !decide (r.due ≤ n)) ∧
      (∀ j : Nat, j < 4 → (b'.flags.getLsbD j = true ↔ b.flags.getLsbD j = true ∨ ∃ r ∈ b.vres, r.due ≤ n ∧ r.flags.getLsbD j = true)) ∧
      ∀ i : Nat, (h : i < 31) → b'.v[i] =
        (((b.vres.filter fun r => decide (r.due ≤ n) && r.vd.val == i).getLast?).map (·.val)).getD b.v[i])



/-! ### Stacked memory -/

namespace Sys2Proof.Claims
open Sys2Proof Sys2Proof.Machine

/-- The port is powered and its generator locked, so it serves. -/
def portOf (s : State) (p : SecIx) : Port := s.ports[p]

/-- A write of the stack port: the bytes it names hold its data, and every other byte of stacked memory is as it was. -/
def Wrote (s t : State) (a : Nat) (bs : List Byte) : Prop :=
  (∀ i : Nat, (h : i < bs.length) → readByte t.dram (a + i) = bs[i]) ∧
  ∀ x, x < a ∨ a + bs.length ≤ x → readByte t.dram x = readByte s.dram x

end Sys2Proof.Claims

/-- R199, R307: of the requests of the fabric that have reached a port, the one that ranks first is taken: one whose lines the
host may hold sends its snoops and waits for them; a write, and a read whose granule has no open combining entry, join the
port's queue; R201: a read joins the open entry of its granule. R199, R202, R287, R288: the request that the channel picks is
served, a write with its bytes and nothing else of memory and with its answer, a read with the 256 B of its granule. R201: a
served entry answers each of its members, and entries whose 64 port cycles are over close. -/
def Obligations.StackPortService : Prop :=
  (∀ (p : SecIx) (r : MemReq) (s : State),
    portNext s p = some r → portRuns s p = true → snoopsFor s r = [] →
    (r.write = false → (portOf s p).openEntry r.granule = none) →
    ∃ t q, exec (.stackPortRequest p) s = .next t ∧ t.fabric = s.fabric.erase r ∧
      (portOf t p).queue = (portOf s p).queue ++ [q] ∧ q.req = r ∧ q.passed = 0 ∧ t.dram = s.dram) ∧
  (∀ (p : SecIx) (r : MemReq) (s : State),
    portNext s p = some r → portRuns s p = true → snoopsFor s r ≠ [] →
    ∃ t, exec (.stackPortRequest p) s = .next t ∧ t.fabric = s.fabric.erase r ∧ t.ports = s.ports ∧ t.dram = s.dram ∧
      t.cxl.snoops = s.cxl.snoops ++ (snoopsFor s r).map fun l => (l, r.write, r)) ∧
  (∀ (p : SecIx) (r : MemReq) (e : Combine) (s : State),
    portNext s p = some r → portRuns s p = true → snoopsFor s r = [] → r.write = false →
    (portOf (closeOld p s) p).openEntry r.granule = some e → e.returned = false →
    ∃ t e', exec (.stackPortRequest p) s = .next t ∧ t.fabric = s.fabric.erase r ∧ (portOf t p).queue = (portOf s p).queue ∧
      (portOf t p).combined = satInc (portOf s p).combined ∧ e' ∈ (portOf t p).entries ∧ e'.id = e.id ∧
      e'.members = e.members ++ [r] ∧ t.dram = s.dram) ∧
  (∀ (p : SecIx) (ch : Fin 64) (found : Finds) (w : Queued) (forced : Bool) (s : State),
    pickRequest s p (chanQueue s p ch.val) = some (w, forced) → w.part = false →
    w.req.write = true → Memory.wf s.dram = true →
    ∃ t, exec (.stackRequestServe p ch found) s = .next t ∧ Wrote s t (directOf w.req.addr) w.req.data ∧
      (portOf t p).queue.length < (portOf s p).queue.length ∧
      ∀ c i, w.req.agent = .stream c i → ∃ x, t.resps = s.resps ++ [x] ∧ x.req = w.req ∧ x.failed = false) ∧
  (∀ (p : SecIx) (ch : Fin 64) (found : Finds) (w : Queued) (forced : Bool) (e : Combine) (s : State),
    pickRequest s p (chanQueue s p ch.val) = some (w, forced) → w.part = false →
    w.req.write = false → e ∈ (portOf s p).entries → e.id = w.req.id →
    ∃ t e', exec (.stackRequestServe p ch found) s = .next t ∧ t.dram = s.dram ∧ e' ∈ (portOf t p).entries ∧ e'.id = e.id ∧
      e'.served = true ∧ e'.data = dramBytes s (w.req.granule * 256) 256) ∧
  (∀ (p : SecIx) (e : Combine) (s : State),
    ((portOf s p).entries.find? fun e => e.served && !e.returned) = some e → (∀ r ∈ e.members, ∃ c i, r.agent = .stream c i) →
    ∃ t xs, exec (.dramReadReturn p) s = .next t ∧ t.dram = s.dram ∧ t.resps = s.resps ++ xs ∧
      xs.map (fun x : MemResp => x.req) = e.members ∧
      ∀ x ∈ xs, x.data = (e.part x.req).1 ∧ x.poison = (e.part x.req).2 ∧ x.failed = false) ∧
  (∀ (p : SecIx) (s : State),
    ∃ t, exec (.combineEntryClose p) s = .next t ∧ t = { s with ports := t.ports } ∧ (∀ q, q ≠ p → portOf t q = portOf s q) ∧
      (∀ e ∈ (portOf s p).entries, e.over (pcNow s p) = true → (portOf t p).openEntry e.gran = none) ∧
      ∀ e ∈ (portOf s p).entries, (∀ f ∈ (portOf s p).entries, f.over (pcNow s p) = true → f.gran ≠ e.gran) →
        e ∈ (portOf t p).entries)

/-- R251, R252, R254: a record that arrives whole in one write through the parameter aperture is judged. Unpoisoned and for the
step after the stored one, its 192 bytes are written and nothing else of memory; poisoned, or with a poisoned stored header
word, it is discarded and counted with its event; for any other step it is counted as skewed with its event, and written with
HFLAGS.ADOPTED set under ADOPT only. R251: an assembly whose next part is late is discarded and counted, with its event where no
write waits for it, and memory is as it was. -/
def Obligations.RecordAdmission : Prop :=
  (∀ (p : SecIx) (w : Queued) (forced : Bool) (s : State),
    partNext s p = some (w, forced) → recordAlias w.req.addr = some .param → directOf w.req.addr % 192 = 0 → w.req.data.length = 192 →
    (portOf s p).records = [] → Memory.wf s.dram = true →
    ∃ t, exec (.recordPartArrival p []) s = .next t ∧ (portOf t p).queue.length < (portOf s p).queue.length ∧ (portOf t p).records = [] ∧
      (w.req.poison.any id = false → tget false s.dramPoison ((directOf w.req.addr + 160) / 32) = false →
        (BitVec.ofNat 32 (leNat ((w.req.data.drop 164).take 4)) =
            (BitVec.ofNat 32 (leNat (readBytes s.dram (directOf w.req.addr + 164) 4)) : W32) + 1 →
          Wrote s t (directOf w.req.addr) w.req.data ∧ (portOf t p).skew = (portOf s p).skew) ∧
        (BitVec.ofNat 32 (leNat ((w.req.data.drop 164).take 4)) ≠
            (BitVec.ofNat 32 (leNat (readBytes s.dram (directOf w.req.addr + 164) 4)) : W32) + 1 →
          (portOf t p).skew = satInc (portOf s p).skew ∧
          (∃ e es, t.recorder.arriving = s.recorder.arriving ++ e :: es ∧ e.code = 0x3101) ∧
          (if bit (cfgOf s (portUnit p)).policy 0 = true
           then Wrote s t (directOf w.req.addr) (adopted w.req.data) ∧ (portOf t p).adopt = satInc (portOf s p).adopt
           else t.dram = s.dram ∧ (portOf t p).adopt = (portOf s p).adopt))) ∧
      ((∃ i, i < 4 ∧ w.req.poison.getD i false = true ∧ 64 * i < directOf w.req.addr % 64 + 192) ∨
          tget false s.dramPoison ((directOf w.req.addr + 160) / 32) = true →
        t.dram = s.dram ∧ (portOf t p).poisonDiscard = satInc (portOf s p).poisonDiscard ∧
        ∃ e es, t.recorder.arriving = s.recorder.arriving ++ e :: es ∧ e.code = 0x3102)) ∧
  (∀ (p : SecIx) (x : RecordAsm) (s : State),
    ((portOf s p).records.find? fun x => x.late (pcNow s p)) = some x →
    ∃ t, exec (.recordAssemblyTimeout p) s = .next t ∧ t.dram = s.dram ∧ (portOf t p).records = (portOf s p).records.erase x ∧
      (portOf t p).partialDiscard = satInc (portOf s p).partialDiscard ∧
      (x.waiting = [] → ∃ e, t.recorder.arriving = s.recorder.arriving ++ [e] ∧ e.code = 0x3103))

/-- R292: the refreshes of a bank that have come due, or postponed ones that may be made up: they are postponed while a class-0
request waits for the bank and the limit allows it, else performed with those postponed; before that nothing changes. R290: the
scrubber, at its pace of a pass in SCRUB_HOURS (evenly, log 102), goes on to its next word and counts a pass. R291: a temperature is taken with its levels, and from 100 °C the device shuts down.
Of these, the refresh and the scrubber leave stacked memory's bytes as they are, and so does a temperature below 100 °C. -/
def Obligations.StackUpkeep : Prop :=
  (∀ (p : SecIx) (bank : Nat) (waiting : Bool) (n at_ gap m : Nat) (held : Bool) (s : State),
    portRuns s p = true → twf 0 (portOf s p).postponed = true → twf 0 (portOf s p).refreshAt = true →
    n = tget 0 (portOf s p).postponed bank → at_ = tget 0 (portOf s p).refreshAt bank →
    gap = (if (portOf s p).refresh2x then 1950 else 3900) → m = (nsNow s - at_) / gap → held = (waiting && urgent s p) →
    ∃ t, exec (.refresh p bank waiting) s = .next t ∧ t = { s with ports := t.ports } ∧
      (if 0 < m ∨ (0 < n ∧ held = false) then
         tget 0 (portOf t p).refreshAt bank = at_ + m * gap ∧
         (if held = true ∧ n + m ≤ (if (portOf s p).refresh2x then 4 else 8)
          then tget 0 (portOf t p).postponed bank = n + m ∧ (portOf t p).refreshes = (portOf s p).refreshes
          else tget 0 (portOf t p).postponed bank = 0 ∧ (portOf t p).refreshes = (portOf s p).refreshes + (n + m : Nat))
       else t = s)) ∧
  (∀ (p : SecIx) (found : Ecc) (hours : Nat) (y : Port) (s : State),
    portRuns s p = true → hours = bitsOf (cfgOf s (portUnit p)).scrub 0 8 → hours ≠ 0 → y = (portOf s p).scrubAt (nsNow s) hours →
    ∃ t, exec (.scrubRead p found) s = .next t ∧ t.dram = s.dram ∧
      (if y.scrubFrom + (y.scrub * (hours * 3600000000000) / 805306368 : Nat) ≤ (nsNow s : Int) then
         (portOf t p).scrub = (if y.scrub + 1 < 805306368 then y.scrub + 1 else 0) ∧
         (portOf t p).scrubPasses = (if y.scrub + 1 < 805306368 then (portOf s p).scrubPasses else (portOf s p).scrubPasses + 1)
       else t = { s with ports := s.ports.set p y })) ∧
  (∀ (p : SecIx) (deg : Byte) (s : State),
    s.power.shutdown = true →
    ∃ t, exec (.stackTempSample p deg) s = .next t ∧ t = { s with ports := s.ports.set p { portOf s p with temp := deg } }) ∧
  (∀ (p : SecIx) (deg : Byte) (s : State),
    s.power.shutdown = false → deg.toNat < 100 →
    ∃ t, exec (.stackTempSample p deg) s = .next t ∧ t.dram = s.dram ∧ (portOf t p).temp = deg ∧
      (portOf t p).tempMax = (if (portOf s p).tempMax.toNat < deg.toNat then deg else (portOf s p).tempMax) ∧
      (portOf t p).refresh2x = (if 85 < deg.toNat then true else if deg.toNat < 83 then false else (portOf s p).refresh2x) ∧
      (portOf t p).throttle = (if 92 < deg.toNat then true else if deg.toNat < 90 then false else (portOf s p).throttle) ∧
      (portOf t p).dramThrottle = (if 95 < deg.toNat then true else if deg.toNat < 93 then false else (portOf s p).dramThrottle) ∧
      ∀ q, q ≠ p → portOf t q = portOf s q) ∧
  (∀ (p : SecIx) (deg : Byte) (s : State),
    s.power.shutdown = false → 100 ≤ deg.toNat →
    ∃ t, exec (.stackTempSample p deg) s = .next t ∧ t.power.shutdown = true ∧ t.power.shutdownCause = 2 ∧
      t.power.thermtripN = false)

/-! ### Global counters -/

namespace Sys2Proof.Claims
open Sys2Proof Sys2Proof.Machine

def globalOf (s : State) (g : Fin 4096) : GCounter := tget GCounter.reset s.gctr g.val

/-- The GSIGs that reach the hub for counter `g` in this cycle. -/
def arriving (s : State) (g : Fin 4096) : List GSig := s.gsigs.filter fun i => i.g == g && decide (i.due ≤ s.time.cycle)

/-- The core cycle in which a cycle of the hub ends, whose sum for counter `g` has not been taken (R215). -/
def hubTurn (s : State) (g : Fin 4096) : Prop := hubEnds s = true ∧ (globalOf s g).sumAt ≠ hubCycle s + 1

/-- The cores of the task in slot `i`, in number order. -/
def coresOf (s : State) (i : SlotIx) : List CoreIx := (List.finRange 144).filter fun c => s.cores[c].slot == some i

end Sys2Proof.Claims

/-- R215: the ADDs of this device that reach an unarmed counter in one hub cycle are added where they fit within its 24 bits
together; where they do not they are discarded, counted, and reported to their contexts. R216: an armed barrier whose VALUE has
reached EXPECT completes: EXPECT is subtracted, the counter stays armed under REARM, and a release is scheduled, an immediate
one for 19 cc later; an ARM whose EXPECT is not reached arms the counter, and releases that an earlier completion has scheduled keep their release
counter. R217: an immediate release that is due adds 1 to RCTR
(as of the completion) on every core of a task that runs or ends, and leaves the list. R218: so does a timed one in its beat, and it takes the release
FT and counts as late where it is. -/
def Obligations.GlobalCounterEvents : Prop :=
  (∀ (g : Fin 4096) (s : State),
    twf GCounter.reset s.gctr = true → (globalOf s g).armed = false → hubTurn s g → arriving s g ≠ [] →
    (∀ i ∈ arriving s g, i.src = none ∧ ∃ n, i.op = .add n) →
    (globalOf s g).value.toNat + ((arriving s g).map GSig.amount).sum < 2 ^ 24 →
    ∃ t, exec (.globalSignalApply g) s = .next t ∧
      globalOf t g = { globalOf s g with
        value := (globalOf s g).value + BitVec.ofNat 24 ((arriving s g).map GSig.amount).sum, sumAt := hubCycle s + 1 } ∧
      (∀ h, h ≠ g → globalOf t h = globalOf s h) ∧ (∀ i ∈ t.gsigs, i.g = g → s.time.cycle < i.due) ∧
      t = { s with gctr := t.gctr, gsigs := t.gsigs }) ∧
  (∀ (g : Fin 4096) (s : State),
    twf GCounter.reset s.gctr = true → (globalOf s g).armed = false → hubTurn s g →
    (∀ i ∈ arriving s g, i.src = none ∧ ∃ n, i.op = .add n ∧ 0 < n) →
    2 ^ 24 ≤ (globalOf s g).value.toNat + ((arriving s g).map GSig.amount).sum →
    ∃ t rs, exec (.globalSignalApply g) s = .next t ∧ (∀ h, h ≠ g → globalOf t h = globalOf s h) ∧
      globalOf t g = { globalOf s g with sumAt := hubCycle s + 1 } ∧
      t.gregs.govf = satAdd s.gregs.govf (arriving s g).length ∧ t.reports = s.reports ++ rs ∧
      rs.map (fun r : OvfReport => (r.core, r.ctx, r.pc)) = (arriving s g).map fun i => (i.core, i.ctx, i.pc)) ∧
  (∀ (g : Fin 4096) (s : State),
    twf GCounter.reset s.gctr = true → arriving s g = [] → (globalOf s g).armed = true →
    (globalOf s g).expect.toNat ≤ (globalOf s g).value.toNat → (globalOf s g).doneAt ≠ hubCycle s + 1 → hubTurn s g →
    ∃ t, exec (.globalSignalApply g) s = .next t ∧ (∀ h, h ≠ g → globalOf t h = globalOf s h) ∧
      globalOf t g = { globalOf s g with
        value := (globalOf s g).value - (globalOf s g).expect
        armed := (globalOf s g).rearm
        doneAt := hubCycle s + 1
        sumAt := hubCycle s + 1
        releases := (globalOf s g).releases ++ [
          { kind := if (globalOf s g).timed then .timed s.time.cycle else .immediate (s.time.cycle + 19)
            rctr := (globalOf s g).rctr, armer := (globalOf s g).armer, past := false
            ft := if (globalOf s g).timed = true ∧ (globalOf s g).ftSet = true then some (globalOf s g).relFt else none }] }) ∧
  (∀ (g : Fin 4096) (i : GSig) (e : BitVec 24) (r : Byte) (timed rearm : Bool) (s : State),
    twf GCounter.reset s.gctr = true → arriving s g = [i] → i.src = none → i.op = .arm e r timed rearm → hubTurn s g →
    (globalOf s g).value.toNat < e.toNat →
    ∃ t, exec (.globalSignalApply g) s = .next t ∧ (∀ h, h ≠ g → globalOf t h = globalOf s h) ∧
      globalOf t g = { globalOf s g with
        armed := true, timed := timed, rearm := rearm, ftSet := false, expect := e, rctr := r, armer := (i.core, i.ctx, i.pc)
        sumAt := hubCycle s + 1
        releases := if (globalOf s g).armed then [] else (globalOf s g).releases.map fun r => { r with past := true } }) ∧
  (∀ (g : Fin 4096) (i : SlotIx) (r : Release) (s : State),
    twf GCounter.reset s.gctr = true → (globalOf s g).holder = some i → (s.tasks[i].st = .running ∨ s.tasks[i].st = .ending) →
    immediateDue s (globalOf s g) = some r →
    ∃ t, exec (.barrierReleaseApply g) s = .next t ∧ (globalOf t g).releases = (globalOf s g).releases.erase r ∧
      t.incs.length = s.incs.length + (coresOf s i).length ∧
      (∀ c ∈ coresOf s i, ∃ x ∈ t.incs, x.core = c ∧ x.ctr = r.rctr ∧ x.n = 1 ∧ x.due = s.time.cycle) ∧
      t.gregs.releases = satInc s.gregs.releases ∧ ∀ h, h ≠ g → globalOf t h = globalOf s h) ∧
  (∀ (g : Fin 4096) (i : SlotIx) (r : Release) (late : Bool) (s : State),
    twf GCounter.reset s.gctr = true → (globalOf s g).holder = some i → (s.tasks[i].st = .running ∨ s.tasks[i].st = .ending) →
    timedDue s (globalOf s g) = some (r, late) →
    ∃ t, exec (.timedRelease g) s = .next t ∧ (globalOf t g).releases = (globalOf s g).releases.erase r ∧
      (globalOf t g).ftSet = ((globalOf s g).ftSet && r.past) ∧ t.incs.length = s.incs.length + (coresOf s i).length ∧
      (∀ c ∈ coresOf s i, ∃ x ∈ t.incs, x.core = c ∧ x.ctr = r.rctr ∧ x.n = 1 ∧ x.due = s.time.cycle) ∧
      t.time.lateCount = (if late then satInc s.time.lateCount else s.time.lateCount))


/-! ### Tasks -/

namespace Sys2Proof.Claims
open Sys2Proof Sys2Proof.Machine

/-- The state once queue `q` has fetched an entry. -/
def fetched (s : State) (q : Fin 8) : State :=
  { modQueue s q (fun y => { y with sqHead := ringNext y.sqSize y.sqHead }) with rrQueue := q }

/-- What command `i` does as the carrying on of the run `key` of an engine, a kernel or the sequencer (log 7): nothing while requests
of the run are in flight; else the reads that its work lacks leave as requests; and once it lacks none, and may `go` on, its effects come
to pass and its writes leave as requests. -/
def Carries (i : Instr) (key : Nat) (o : Option SlotIx) (k : Rank) (go : Bool) (work : State → State) (s : State) : Prop :=
  ((runOf s key o).done = true ∨ (runOf s key o).ids ≠ [] → exec i s = .next s) ∧
  ∀ p, (runOf s key o).done = false → (runOf s key o).ids = [] → (work (probing (runOf s key o) s)).probe = some p →
    (p.want ≠ [] → exec i s = .next (runFetch (runOf s key o) k p s)) ∧
    (p.want = [] → go = true →
      exec i s = .next (runCommit (runOf s key o) k p.wrote (work (probing (runOf s key o) s)))) ∧
    (p.want = [] → go = false → exec i s = .next s)

/-- The work of run `key` has read all that it reads, and nothing of it is in flight. -/
def Complete (key : Nat) (o : Option SlotIx) (work : State → State) (s : State) : Prop :=
  (runOf s key o).done = false ∧ (runOf s key o).ids = [] ∧ ∃ p, (work (probing (runOf s key o) s)).probe = some p ∧ p.want = []

/-- What has been read at a device address by the run `key`. -/
def readBy (s : State) (key : Nat) (o : Option SlotIx) (a n : Nat) : List Byte := seen (probing (runOf s key o) s) a n

/-- The header and the sections of the image that the submission `e` names, and all that its signature covers, as they have been
read. -/
def submission (s : State) (e : BitVec 512) : State :=
  let a := (parseSubmission e).image
  let r := devRead a 256 (probing (runOf s submitKey none) s)
  { (if r.1.isEmpty then r.2.2 else seeSigned a (parseHeader r.1) (seeImage a (parseHeader r.1) r.2.2)) with submit := none }

/-- The reason for which the submission `e`, whose image has been read, is refused: 0 for none. -/
def judged (s : State) (e : BitVec 512) : Byte :=
  let raw := readBy s submitKey none (parseSubmission e).image 256
  firstChecks (submission s e) (parseSubmission e) (parseHeader raw) raw

/-- The hub fetches submissions: it runs, and no submission's image is being read. -/
def fetches (s : State) : Prop := s.quiesce = none ∧ s.sec.fw = .ready ∧ s.power.shutdown = false ∧ s.submit = none

/-- Every other task is as it was. -/
def OtherTasks (s t : State) (i : SlotIx) : Prop := ∀ j, j ≠ i → t.tasks[j] = s.tasks[j]

/-- Every other task is as it was, but that its images may no longer be the ones on the cores (R18). -/
def OthersButImages (s t : State) (i : SlotIx) : Prop := ∀ j, j ≠ i → t.tasks[j] = { s.tasks[j] with loaded := t.tasks[j].loaded }

/-- The save records of the task in slot `i`, with their addresses (R125). -/
def records (s : State) (i : SlotIx) : List (SaveRec × Nat) :=
  s.tasks[i].saved.zip ((List.range s.tasks[i].saved.length).map fun n => s.tasks[i].saveBase.toNat + 40960 * n)

/-- The machine in which the restore of the task in slot `i` sees what it has read. -/
def restoring (s : State) (i : SlotIx) : State := probing (runOf s (taskKey i 3) (some i)) s

/-- No barrier release is waiting for the task in slot `i` or in flight (R219). -/
def NoReleases (s : State) (i : SlotIx) : Prop :=
  (∀ x ∈ s.incs, x.source ≠ 7) ∧ ∀ g, (globalOf s g).holder = some i → (globalOf s g).releases = []

end Sys2Proof.Claims

/-- R121, R310 to R313: nothing is fetched from a queue whose turn it is not; a NOP entry only moves its queue's head; an entry that is not well formed takes no slot, and an event of
UNIT 0xFF gives reason 5; any other has its image read, and nothing else changes until that is done. An image that has been read
is checked: where every check passes the entry takes a slot that no task occupies, which becomes LOADING; where one fails it
takes none, and an event of UNIT 0xFF gives the reason. Other tasks, the cores and stacked memory are as they were. -/
def Obligations.SubmissionFetched : Prop :=
  (∀ (q : Fin 8) (e : BitVec 512) (s : State),
    fetches s → nextQueue s ≠ some q → exec (.submissionFetch q e) s = .next s) ∧
  (∀ (q : Fin 8) (e : BitVec 512) (s : State),
    fetches s → nextQueue s = some q → (parseSubmission e).opc = 0 →
    exec (.submissionFetch q e) s = .next (fetched s q)) ∧
  (∀ (q : Fin 8) (e : BitVec 512) (s : State),
    fetches s → nextQueue s = some q → (parseSubmission e).opc ≠ 0 → (parseSubmission e).wellFormed = false →
    ∃ t, exec (.submissionFetch q e) s = .next t ∧ t.tasks = s.tasks ∧ t.cores = s.cores ∧ t.dram = s.dram ∧
      ∃ v ∈ t.recorder.arriving, v.unit = 0xFF ∧ v.sev = 2 ∧ v.code = 5) ∧
  (∀ (q : Fin 8) (e : BitVec 512) (s : State),
    fetches s → nextQueue s = some q → (parseSubmission e).wellFormed = true → running s submitKey = false →
    ∃ t, exec (.submissionFetch q e) s = .next t ∧ t.submit = some (q, e) ∧ t.queues = (fetched s q).queues ∧
      t.tasks = s.tasks ∧ t.cores = s.cores ∧ t.dram = s.dram ∧
      ∃ r ∈ t.fabric, r.agent = .engine submitKey none ∧ r.write = false) ∧
  (∀ (q q' : Fin 8) (e e' : BitVec 512) (s : State),
    s.sec.fw = .ready → s.power.shutdown = false → s.submit = some (q, e) →
    Carries (.submissionFetch q' e') submitKey none Rank.open_ true (submitWork q (parseSubmission e)) s ∧
    (Complete submitKey none (submitWork q (parseSubmission e)) s →
      (judged s e = 0 →
        ∃ t i, exec (.submissionFetch q' e') s = .next t ∧ s.tasks[i].resident = false ∧ t.tasks[i].st = .loading ∧
          t.tasks[i].hdr = parseHeader (readBy s submitKey none (parseSubmission e).image 256) ∧ t.tasks[i].queue = some q ∧
          OtherTasks s t i ∧ t.cores = s.cores ∧ t.dram = s.dram ∧ t.submit = none) ∧
      (judged s e ≠ 0 →
        ∃ t, exec (.submissionFetch q' e') s = .next t ∧ t.tasks = s.tasks ∧ t.cores = s.cores ∧ t.dram = s.dram ∧
          t.submit = none ∧ ∃ v ∈ t.recorder.arriving, v.unit = 0xFF ∧ v.sev = 2 ∧ v.code.toNat = (judged s e).toNat)))

/-- R18, R105, R117, R121, R123: a LOADING task becomes READY, but where a core of it is busy and it is not PREEMPTIBLE it is
refused with reason 0x0B and an event 0x0202, and its slot is free (log 110); a READY task whose cores and segments are free, that no
reservation bars, and that starts at a frame where it shares its segments, becomes RUNNING with its contexts at their entry
words (each once its images have been read: the reads leave first); a task whose contexts have all HALTED becomes ENDING; once
its Girth is idle its streams are closed; once they and its windows are closed, and no signal, memory request or engine entry is
open, its counters are checked; then it becomes DONE, or FAULTED with REASON 0xFF where a counter drifted. A halted task with
nothing in flight becomes FAULTED with its reason, and one whose release waited for its Girth is freed. -/
def Obligations.TaskStates : Prop :=
  (∀ (i : SlotIx) (s : State),
    s.tasks[i].st = .loading → s.tasks[i].halting = none →
    Carries (.taskLoadDone i) (taskKey i 1) (some i) Rank.open_ true (loadTask i) s ∧
    ((coresFree s s.tasks[i] = false ∨ s.tasks[i].loaded = true) → running s (taskKey i 1) = false →
      Complete (taskKey i 1) (some i) (loadTask i) s) ∧
    (Complete (taskKey i 1) (some i) (loadTask i) s → coresFree s s.tasks[i] = false → s.tasks[i].hdr.flag 4 = false →
      ∃ t, exec (.taskLoadDone i) s = .next t ∧ t.tasks[i] = Task.reset ∧ OtherTasks s t i ∧ t.dram = s.dram ∧
        (∃ e ∈ t.recorder.arriving, e.code = 0x0202) ∧ ∃ e ∈ t.recorder.arriving, e.code = 0x000B ∧ e.unit = 0xFF ∧ e.sev = 2) ∧
    (Complete (taskKey i 1) (some i) (loadTask i) s → (coresFree s s.tasks[i] = true ∨ s.tasks[i].hdr.flag 4 = true) →
      ∃ t, exec (.taskLoadDone i) s = .next t ∧ t.tasks[i] = { s.tasks[i] with st := .ready, loaded := t.tasks[i].loaded } ∧
        OthersButImages s t i ∧ t.dram = s.dram)) ∧
  (∀ (i : SlotIx) (s : State),
    s.tasks[i].st = .ready → s.tasks[i].halting = none → s.quiesce = none → awaitsResv s i = false → pinnedOut s i = false →
    Carries (.taskLaunch i) (taskKey i 1) (some i) Rank.open_ (placeFree s i && (!sharesSegments s i || atFrame s)) (launchTask i) s ∧
    (Complete (taskKey i 1) (some i) (launchTask i) s → placeFree s i = true →
      (sharesSegments s i = false ∨ atFrame s = true) →
      ∃ t, exec (.taskLaunch i) s = .next t ∧ t.tasks[i].st = .running ∧ OthersButImages s t i ∧ t.dram = s.dram ∧
        (∀ c ∈ s.tasks[i].cores, t.cores[c].slot = some i ∧ ∀ k, bit s.tasks[i].hdr.contexts k.val = true →
          (ctx t c k).st = .ready ∧ (ctx t c k).pc = s.tasks[i].hdr.entry[k].setWidth 13) ∧
        ∀ c, c ∉ s.tasks[i].cores → t.cores[c] = s.cores[c])) ∧
  (∀ (i : SlotIx) (s : State),
    s.tasks[i].st = .running → s.tasks[i].halting = none → s.tasks[i].hold = false → allHalted s s.tasks[i] = true →
    ∃ t, exec (.taskEnd i) s = .next t ∧ t.tasks[i] = { s.tasks[i] with
                                                         st := .ending
                                                         endStep := 0 } ∧ OtherTasks s t i ∧ t.dram = s.dram) ∧
  (∀ (i : SlotIx) (s : State),
    s.tasks[i].st = .ending → s.tasks[i].halting = none → girthIdle s s.tasks[i] = true → s.tasks[i].endStep = 0 →
    ∃ t, exec (.taskEnd i) s = .next t ∧ t.tasks[i].endStep = 1 ∧ OtherTasks s t i ∧
      ∀ c ∈ s.tasks[i].cores, ∀ j, (streamOf t c j).st ≠ .active) ∧
  (∀ (i : SlotIx) (s : State),
    s.tasks[i].st = .ending → s.tasks[i].halting = none → girthIdle s s.tasks[i] = true → s.tasks[i].endStep = 1 →
    allClosed s s.tasks[i] = true → memoryIdle s s.tasks[i] = true → signalsIdle s s.tasks[i] = true →
    (∀ e ∈ s.tasks[i].cmd.posted, e.finished = false → Entry.engine e.words = 0) →
    ∃ t, exec (.taskEnd i) s = .next t ∧ OtherTasks s t i ∧
      t.tasks[i].endStep = (if (s.tasks[i].cores.zip (List.range s.tasks[i].cores.length)).all fun q =>
        (driftOf s s.tasks[i] q.1 q.2).isEmpty then 2 else 3)) ∧
  (∀ (i : SlotIx) (s : State),
    s.tasks[i].st = .ending → s.tasks[i].halting = none → girthIdle s s.tasks[i] = true → 2 ≤ s.tasks[i].endStep →
    s.tasks[i].scrubUntil ≤ s.time.cycle →
    ∃ t, exec (.taskEnd i) s = .next t ∧ t.tasks[i].sectors = 0 ∧
      (if s.tasks[i].endStep = 3 then t.tasks[i].st = .faulted ∧ t.tasks[i].reason = 0xFF
       else t.tasks[i].st = .done ∧ t.tasks[i].reason = 0)) ∧
  (∀ (i : SlotIx) (r : Byte) (s : State),
    s.tasks[i].halting = some r → s.tasks[i].live = true → s.tasks[i].st ≠ .preempting → s.tasks[i].autoRelease = false →
    (s.tasks[i].st = .running ∨ s.tasks[i].st = .ending →
      blocksIdle s s.tasks[i] = true ∧ girthIdle s s.tasks[i] = true ∧ memoryIdle s s.tasks[i] = true) →
    ∃ t, exec (.taskHaltDone i) s = .next t ∧ t.tasks[i].st = .faulted ∧ t.tasks[i].reason = r ∧ t.tasks[i].halting = none) ∧
  (∀ (i : SlotIx) (s : State),
    s.tasks[i].halting = none → s.tasks[i].st = .faulted → s.tasks[i].autoRelease = true → girthIdle s s.tasks[i] = true →
    ∃ t, exec (.taskHaltDone i) s = .next t ∧ t.tasks[i] = Task.reset)

/-- R124, R125, R289: at the end of its quantum a PREEMPTIBLE task that another, or a self-test, waits for is held: its READY
contexts wait with KIND HOLD and the others are as they were; without one it gets another quantum. A held task with nothing in
flight is saved, and gives up its cores; once the save is in memory it becomes PREEMPTED, or FAULTED where something halted it.
At a frame a PREEMPTED task that no reservation bars, whose cores are free and whose records have been read, is restored from
them and becomes RUNNING, or FAULTED with REASON 0x84 where what it reads of them is poisoned. R127: the lead of a reservation
holds every other PREEMPTIBLE task that runs on its segments and is not pinned; at a frame in its interval the reserved task
runs, pinned; at the frame at its end the task is unpinned and the reservation is gone. -/
def Obligations.TaskScheduling : Prop :=
  ((∀ (i : SlotIx) (s : State),
    s.tasks[i].st = .running → s.tasks[i].halting = none → s.tasks[i].hdr.flag 4 = true → s.tasks[i].pinned = false →
    s.tasks[i].quantumEnd ≤ ftNow s →
    ∃ t, exec (.quantumExpiry i) s = .next t ∧ OtherTasks s t i ∧ t = { s with
                                                                        tasks := t.tasks
                                                                        cores := t.cores } ∧
      (if (othersWait s i || testsFirst s i) = true then
        t.tasks[i] = { s.tasks[i] with
                       st := .preempting
                       hold := true
                       saved := [] } ∧
        (∀ c k, s.cores[c].slot = some i → (ctx s c k).st = .ready →
          ctx t c k = { ctx s c k with
                        st := .waiting
                        kind := .hold }) ∧
        ∀ c k, ¬(s.cores[c].slot = some i ∧ (ctx s c k).st = .ready) → ctx t c k = ctx s c k
       else t.cores = s.cores ∧ t.tasks[i] = { s.tasks[i] with quantumEnd := frameUp (ftNow s) + 640 * s.sec.quantum })) ∧
  (∀ (i : SlotIx) (s : State),
    s.tasks[i].st = .preempting → s.tasks[i].saved = [] → running s (taskKey i 2) = false →
    blocksIdle s s.tasks[i] = true → girthIdle s s.tasks[i] = true →
    memoryIdle s s.tasks[i] = true → signalsIdle s s.tasks[i] = true → contextsIdle s s.tasks[i] = true →
    ∃ t, exec (.preemptSave i) s = .next t ∧ OtherTasks s t i ∧
      t.tasks[i].saved.map (·.core) = s.tasks[i].cores ∧ ∀ c ∈ s.tasks[i].cores, t.cores[c].slot = none) ∧
  (∀ (i : SlotIx) (s : State),
    s.tasks[i].st = .preempting → s.tasks[i].saved ≠ [] →
    (running s (taskKey i 2) = true → exec (.preemptSave i) s = .next s) ∧
    (running s (taskKey i 2) = false → s.tasks[i].halting = none →
      ∃ t, exec (.preemptSave i) s = .next t ∧ t = { s with tasks := t.tasks } ∧ OtherTasks s t i ∧
        t.tasks[i] = { s.tasks[i] with st := .preempted, hold := false }) ∧
    (∀ r, running s (taskKey i 2) = false → s.tasks[i].halting = some r → s.tasks[i].autoRelease = false →
      ∃ t, exec (.preemptSave i) s = .next t ∧ t.tasks[i].st = .faulted ∧ t.tasks[i].reason = r)) ∧
  (∀ (i : SlotIx) (s : State),
    s.tasks[i].st = .preempted → s.tasks[i].halting = none → s.quiesce = none → awaitsResv s i = false → pinnedOut s i = false →
    Carries (.taskResume i) (taskKey i 3) (some i) Rank.open_ (placeFree s i && atFrame s) (resumeTask i) s ∧
    (Complete (taskKey i 3) (some i) (resumeTask i) s → atFrame s = true → placeFree s i = true →
      (s.tasks[i].saved.map (·.core)).Nodup →
      ∃ t, exec (.taskResume i) s = .next t ∧
        (if (records s i).all fun q => !savePoisoned (restoring s i) q.2 q.1 then
          t.tasks[i].st = .running ∧ t.tasks[i].saved = [] ∧ (NoReleases s i → OthersButImages s t i) ∧
          ∀ q ∈ records s i, t.cores[q.1.core].slot = some i ∧
            t.cores[q.1.core].windows = (q.1.readBack (restoring s i) q.2).windows ∧
            t.cores[q.1.core].array.a = (q.1.readBack (restoring s i) q.2).array.a ∧
            t.cores[q.1.core].array.b = (q.1.readBack (restoring s i) q.2).array.b
         else t.tasks[i].st = .faulted ∧ t.tasks[i].reason = 0x84)))) ∧
  (∀ (r : Fin 16) (v : Resv) (s : State),
    s.resv[r] = some v → v.leadDone = false → v.active = false → leadFt s v ≤ ftNow s →
    ∃ t, exec (.reservationLead r) s = .next t ∧ t.resv = s.resv.set r (some { v with leadDone := true }) ∧ t.dram = s.dram ∧
      ∀ j, t.tasks[j] = (if j ≠ v.task ∧ s.tasks[j].st = .running ∧ s.tasks[j].halting = none ∧ s.tasks[j].hdr.flag 4 = true ∧
                            s.tasks[j].pinned = false ∧ s.tasks[j].sectors &&& v.sectors ≠ 0 then
                           { s.tasks[j] with
                             st := .preempting
                             hold := true
                             saved := [] }
                         else s.tasks[j])) ∧
  (∀ (r : Fin 16) (v : Resv) (s : State),
    s.resv[r] = some v → v.active = false → s.tasks[v.task].halting = none →
    (s.tasks[v.task].st = .running ∨ s.tasks[v.task].st = .ready ∨ s.tasks[v.task].st = .preempted) →
    Carries (.reservationStart r) (startKey s v) (some v.task) Rank.open_ (startNow s v) (startReserved r v) s ∧
    (Complete (startKey s v) (some v.task) (startReserved r v) s → atFrame s = true → v.start.toNat ≤ ftNow s →
      ftNow s < v.stop.toNat → s.quiesce = none → (s.tasks[v.task].st = .running ∨ placeFree s v.task = true) →
      (s.tasks[v.task].st = .preempted → (records s v.task).all (fun q => !savePoisoned (restoring s v.task) q.2 q.1) = true) →
      ∃ t, exec (.reservationStart r) s = .next t ∧ t.tasks[v.task].st = .running ∧ t.tasks[v.task].pinned = true ∧
        (NoReleases s v.task → OthersButImages s t v.task) ∧ t.resv = s.resv.set r (some { v with
                                                                     active := true
                                                                     leadDone := true }))) ∧
  (∀ (r : Fin 16) (v : Resv) (s : State),
    s.resv[r] = some v → atFrame s = true → v.stop.toNat ≤ ftNow s →
    ∃ t, exec (.reservationEnd r) s = .next t ∧ t.tasks[v.task].pinned = false ∧ OtherTasks s t v.task ∧
      t.resv = s.resv.set r none ∧ t = { s with
                                         tasks := t.tasks
                                         resv := t.resv })

/-! ### Command lists -/

namespace Sys2Proof.Claims
open Sys2Proof Sys2Proof.Machine

/-- The sequencer of the task in slot `i` is at the head of its list: the task issues, posting has not stopped, no pass of a pipelined
list is called in this beat, and no PIPECFG is still to be carried out (R223, R229, R230). -/
def AtHead (s : State) (i : SlotIx) : Prop :=
  s.tasks[i].issues = true ∧ s.tasks[i].cmd.stopped = false ∧ (atBeat s = true → passPost s i = none) ∧
  configuring s.tasks[i].cmd = false

/-- Every entry of number `q` that has not completed now has the status `x`. -/
def Answered (s t : State) (i : SlotIx) (q : W32) (x : Byte) : Prop :=
  ∀ e ∈ s.tasks[i].cmd.posted, e.q = q → e.finished = false → { e with
                                                                delivered := true
                                                                status := some x } ∈ t.tasks[i].cmd.posted

/-- Every posted entry of number `q` has finished. -/
def Finished (t : State) (i : SlotIx) (q : W32) : Prop := ∀ e ∈ t.tasks[i].cmd.posted, e.q = q → e.finished = true

/-- An entry of number `q` has reached context CTX of its cores, and no other core: its number is the last queued there. -/
def Reached (s t : State) (i : SlotIx) (e : Posted) : Prop :=
  (∀ c ∈ entryCores s.tasks[i] e.words, (ctx t c (Entry.ctx e.words)).queued = (ctx s c (Entry.ctx e.words)).queued ++ [e.q] ∧
    (ctx t c (Entry.ctx e.words)).s = (ctx s c (Entry.ctx e.words)).s ∧
    (ctx t c (Entry.ctx e.words)).pc = (ctx s c (Entry.ctx e.words)).pc) ∧
  (∀ c, c ∉ entryCores s.tasks[i] e.words → t.cores[c] = s.cores[c]) ∧
  (∀ c k, k ≠ Entry.ctx e.words → ctx t c k = ctx s c k) ∧
  t = { s with
        cores := t.cores
        tasks := t.tasks }

/-- The work of an UPDATE that its contexts have taken: Mladhal's update kernel, then the reports (log 18). -/
def updateRun (i : SlotIx) (e : Posted) (s : State) : State :=
  let r := updateKernel i e.words s
  reportAll i e r.1 r.2

/-- The work of a RUN that its contexts have taken, on the rows of a backward LOOKUP. -/
def tableRun (i : SlotIx) (e : Posted) (k : LkWork) (s : State) : State :=
  let r := tableKernel i e.words k s
  reportAll i e r.1 r.2

/-- Every context of the entry `e` has reported `v` and holds no entry any more; where they run the task in slot `i`, the entry has their
reports. -/
def Reported (s t : State) (i : SlotIx) (e : Posted) (v : Nat) : Prop :=
  (∀ c ∈ entryCores s.tasks[i] e.words, (ctx t c (Entry.ctx e.words)).cur = none ∧
    (ctx t c (Entry.ctx e.words)).pc = (ctx s c (Entry.ctx e.words)).pc) ∧
  ((∀ c ∈ entryCores s.tasks[i] e.words, s.cores[c].slot = some i) →
    ∃ e' ∈ t.tasks[i].cmd.posted, e'.q = e.q ∧ e'.words = e.words ∧
      e'.reports.map (fun r => (r.core, r.ctx, r.status)) = e.reports.map (fun r => (r.core, r.ctx, r.status)) ++
        (entryCores s.tasks[i] e.words).map fun c => (c, Entry.ctx e.words, BitVec.ofNat 8 v))

/-- The work of a forward LOOKUP with the indices routed here. -/
def forwardRun (i : SlotIx) (q : W32) (e : Posted) (rs : List RoutedIx) (s : State) : State :=
  let r := forwardLookup i q e.nth e.words rs s
  answerEntry i q (BitVec.ofNat 8 r.1) (loosenWork e.words r.2)

/-- The work of a backward LOOKUP with the gradient rows routed here. -/
def backwardRun (i : SlotIx) (q : W32) (e : Posted) (rs : List GradRow) (s : State) : State :=
  let r := backwardLookup i q e.nth e.words rs false s
  answerEntry i q (BitVec.ofNat 8 r.1) (loosenWork e.words r.2)

/-- Every partial that the LOOKUP's list, as it has been read, needs from other ranks is among `ps`. -/
def partsSeen (s : State) (i : SlotIx) (q : W32) (k : LkWork) (ps : List Partial) : Bool :=
  partsHere (readItems k.words (probing (runOf s (entryKey i q) (some i)) s)).1 ps

/-- The work of an EXCHANGE whose partials are here: they are combined into OUT. -/
def exchangeRun (i : SlotIx) (q : W32) (k : LkWork) (ps : List Partial) (s : State) : State :=
  let it := readItems k.words s
  let r := combineAll k it.1 ps (fun _ _ => none) it.2
  answerEntry i q (BitVec.ofNat 8 (max (listStatus it.1) (if r.2.1 then 2 else 0))) (loosenWork k.words (keepArgs i k.q r.1 r.2.2))

/-- The work of a REDUCE whose contributions are here. -/
def reduceWork (i : SlotIx) (q : W32) (e : Posted) (own : Nat) (ps : List Contribution) (s : State) : State :=
  let r := reduceRun i e.words (collOf s i e) (groupAt s (Entry.group e.words)) own ps s
  answerEntry i q (BitVec.ofNat 8 r.1) r.2

/-- The work of a GATHER whose shards are here. -/
def gatherWork (i : SlotIx) (q : W32) (e : Posted) (own : Nat) (ps : List Contribution) (s : State) : State :=
  let r := gatherRun e.words (collOf s i e) (groupAt s (Entry.group e.words)) own ps s
  answerEntry i q (BitVec.ofNat 8 r.1) r.2

/-- The work of an engine entry without the segments of its missing member, of rank `m`. -/
def lateWork (i : SlotIx) (q : W32) (got : Arrived) (e : Posted) (own m : Nat) (s : State) : State :=
  let coll := collOf s i e
  let r := runWithout i q e e.words (groupAt s (Entry.group e.words)) own m got s
  answerEntry i q (BitVec.ofNat 8 r.1) (collEvent e.words coll 0x12 got.missing.toNat (forgetColl coll r.2))

/-- Every contribution of the entry's collective bears its STEP, and no segment of another has come or was held when the entry was
posted (R255). -/
def InStep (s : State) (i : SlotIx) (e : Posted) (ps : List Contribution) : Prop :=
  (∀ p ∈ ps, p.step = Entry.step e.words) ∧ strayed s (collOf s i e) = false

/-- The core entries that only reach contexts, with their OPs. -/
def reaching : List ((SlotIx → W32 → Instr) × Nat) :=
  [(.fwd, 1), (.bwd, 2), (.endEntry, 11)]

/-- The core entries whose kernel the command then runs, with their OPs. -/
def kernels : List ((SlotIx → W32 → Instr) × Nat) := [(.update, 3), (.run, 10)]

end Sys2Proof.Claims

/-- R220, R223, R226, R229 to R231: at the head of its list the sequencer reads the entry; once it is read, a malformed or
poisoned one stops posting with MALFORMED; in a list without PIPELINE, or for an entry that is no pass, one whose conditions
hold is posted in its beat and CMD_HEAD advances; a pass of a pipelined list goes to its stage where it keeps the order and
stops posting with ORDER where it does not; and the pass that a stage calls for is posted in its beat. Other tasks are as they
were, and for a posted entry or pass the cores and stacked memory too. -/
def Obligations.EntryPosting : Prop :=
  (∀ (i : SlotIx) (s : State),
    AtHead s i → s.tasks[i].cmd.got = none → s.tasks[i].cmd.head ≠ s.tasks[i].cmd.tail →
    Carries (.entryPost i) (taskKey i 0) (some i) Rank.open_ true (readHead i) s ∧
    (Complete (taskKey i 0) (some i) (readHead i) s →
      ∃ t bad, exec (.entryPost i) s = .next t ∧ OtherTasks s t i ∧ t.tasks[i].cmd.head = s.tasks[i].cmd.head ∧
        t.tasks[i].cmd.got =
          some (bad, entryOf (readBy s (taskKey i 0) (some i) (entryAt s.tasks[i] s.tasks[i].cmd.head) 64)))) ∧
  (∀ (i : SlotIx) (bad : Bool) (w : Entry) (s : State),
    AtHead s i → s.tasks[i].cmd.got = some (bad, w) → (w.op = 13 → s.tasks[i].cmd.waitingQ = []) →
    (bad = true ∨ malformed s.tasks[i] w = true) →
    ∃ t, exec (.entryPost i) s = .next t ∧ t.tasks[i].cmd.stopped = true ∧ t.tasks[i].cmd.lastStatus = 0x81 ∧
      t.tasks[i].cmd.head = s.tasks[i].cmd.head + 1 ∧ OtherTasks s t i) ∧
  (∀ (i : SlotIx) (w : Entry) (s : State),
    AtHead s i → s.tasks[i].cmd.got = some (false, w) →
    malformed s.tasks[i] w = false → (s.tasks[i].hdr.flag 7 = false ∨ (w.op ≠ 1 ∧ w.op ≠ 2)) → atBeat s = true →
    timeCome s w = true → postable s i s.tasks[i].cmd.head w = true → s.tasks[i].cmd.waitingQ = [] →
    ∃ t e, exec (.entryPost i) s = .next t ∧ t.tasks[i].cmd.posted = s.tasks[i].cmd.posted ++ [e] ∧
      e.q = s.tasks[i].cmd.head ∧ e.words = w ∧ e.delivered = false ∧ e.finished = false ∧
      t.tasks[i].cmd.head = s.tasks[i].cmd.head + 1 ∧ t.tasks[i].cmd.got = none ∧ OtherTasks s t i ∧ t.cores = s.cores ∧
      t.dram = s.dram) ∧
  (∀ (i : SlotIx) (w : Entry) (s : State),
    AtHead s i → s.tasks[i].cmd.got = some (false, w) →
    malformed s.tasks[i] w = false → s.tasks[i].hdr.flag 7 = true → (w.op = 1 ∨ w.op = 2) →
    ∃ t, exec (.entryPost i) s = .next t ∧ t.tasks[i].cmd.head = s.tasks[i].cmd.head + 1 ∧ OtherTasks s t i ∧
      (if orderBad w ((if w.op = 1 then (s.tasks[i].cmd.stage w.seg).fwdTaken else (s.tasks[i].cmd.stage w.seg).bwdTaken) %
          atLeast1 (s.tasks[i].cmd.stage w.seg).mbStep) (s.tasks[i].cmd.stage w.seg).mbStep = true
       then t.tasks[i].cmd.stopped = true ∧ t.tasks[i].cmd.lastStatus = 0x80
       else t.tasks[i].cmd.waitingQ = s.tasks[i].cmd.waitingQ ++ [(s.tasks[i].cmd.head, w)] ∧
        t.tasks[i].cmd.posted = s.tasks[i].cmd.posted ∧ t.cores = s.cores ∧ t.dram = s.dram)) ∧
  (∀ (i : SlotIx) (h : Nat) (q : W32) (w : Entry) (s : State),
    s.tasks[i].issues = true → s.tasks[i].cmd.stopped = false → atBeat s = true → passPost s i = some (h, q, w) →
    ∃ t e, exec (.entryPost i) s = .next t ∧ t.tasks[i].cmd.posted = s.tasks[i].cmd.posted ++ [e] ∧ e.q = q ∧ e.words = w ∧
      e.delivered = false ∧ e.finished = false ∧ t.tasks[i].cmd.head = s.tasks[i].cmd.head ∧
      t.tasks[i].cmd.waitingQ = s.tasks[i].cmd.waitingQ.filter (fun x => x.1 != q) ∧ OtherTasks s t i ∧ t.cores = s.cores ∧
      t.dram = s.dram)

/-- R222, R223, R227: a posted FWD, BWD, END, UPDATE or RUN of a RUNNING task reaches context CTX of its cores and nothing else.
R250, R280: an UPDATE that all of them have taken, and a RUN whose coalesced rows are there, is carried out as its kernel (the
command's two parts are the model's, log 18): once it has read what it reads, its writes leave as requests and every context
reports the kernel's value; with hyper-parameters that are not valid the value is 3 and no request leaves. R222, R229: MARK
records q and PIPECFG configures the stages, and both finish. R225: an answered entry whose engine's writes are answered
finishes, and its record is written at its place in the ring. -/
def Obligations.CoreEntries : Prop :=
  (∀ f ∈ reaching, ∀ (i : SlotIx) (q : W32) (e : Posted) (s : State),
    s.tasks[i].st = .running → findPosted s i q f.2 = some e → (entryCores s.tasks[i] e.words).Nodup →
    ∃ t, exec (f.1 i q) s = .next t ∧ Reached s t i e) ∧
  (∀ f ∈ kernels, ∀ (i : SlotIx) (q : W32) (e : Posted) (s : State),
    takenEntry s i q f.2 = none → s.tasks[i].st = .running → findPosted s i q f.2 = some e →
    (entryCores s.tasks[i] e.words).Nodup →
    ∃ t, exec (f.1 i q) s = .next t ∧ Reached s t i e) ∧
  (∀ (i : SlotIx) (q : W32) (e : Posted) (s : State),
    takenEntry s i q 3 = some e →
    Carries (.update i q) (entryKey i q) (some i) Rank.open_ true (updateRun i e) s ∧
    (Complete (entryKey i q) (some i) (updateRun i e) s →
      ∃ t, exec (.update i q) s = .next t ∧ t.dram = s.dram ∧
        Reported s t i e (updateKernel i e.words (probing (runOf s (entryKey i q) (some i)) s)).1 ∧
        ((hyperOf e.words).valid = false → t.fabric = s.fabric ∧
          (updateKernel i e.words (probing (runOf s (entryKey i q) (some i)) s)).1 = 3))) ∧
  (∀ (i : SlotIx) (q : W32) (e : Posted) (k : LkWork) (s : State),
    takenEntry s i q 10 = some e →
    (s.lkWork.find? fun k => k.slot == i && k.words[7] == (e.words : Entry)[3] && bit k.words[5] 16) = some k →
    Carries (.run i q) (entryKey i q) (some i) Rank.open_ true (tableRun i e k) s ∧
    (Complete (entryKey i q) (some i) (tableRun i e k) s →
      ∃ t, exec (.run i q) s = .next t ∧ t.dram = s.dram ∧
        Reported s t i e (tableKernel i e.words k (probing (runOf s (entryKey i q) (some i)) s)).1 ∧
        ((hyperOf e.words).valid = false → t.fabric = s.fabric ∧
          (tableKernel i e.words k (probing (runOf s (entryKey i q) (some i)) s)).1 = 3))) ∧
  (∀ (i : SlotIx) (q : W32) (e : Posted) (s : State),
    findPosted s i q 12 = some e →
    ∃ t v, exec (.mark i q) s = .next t ∧ v ∈ t.recorder.arriving ∧ v.code = 0x0100 ∧ v.sev = 0 ∧
      v.arg0.toNat = q.toNat ∧ Finished t i q ∧ OtherTasks s t i) ∧
  (∀ (i : SlotIx) (q : W32) (e : Posted) (s : State),
    findPosted s i q 13 = some e →
    ∃ t, exec (.pipecfg i q) s = .next t ∧ Finished t i q ∧ OtherTasks s t i ∧ t.tasks[i].cmd.stage0.configured = true ∧
      t.tasks[i].cmd.stage0.warmup = wordBits (e.words : Entry)[3] 0 8 ∧
      t.tasks[i].cmd.stage0.mbStep = wordBits (e.words : Entry)[3] 8 16 ∧
      (1 < s.tasks[i].hdr.segCount → t.tasks[i].cmd.stage1.configured = true ∧
        t.tasks[i].cmd.stage1.warmup = wordBits (e.words : Entry)[4] 0 8 ∧
        t.tasks[i].cmd.stage1.mbStep = wordBits (e.words : Entry)[4] 8 16)) ∧
  (∀ (i : SlotIx) (q : W32) (e : Posted) (x : Byte) (s : State),
    (s.tasks[i].cmd.posted.find? fun e => e.q == q && !e.finished) = some e → e.answer = some x →
    (running s (entryKey i q) = true → exec (.entryComplete i q) s = .next s) ∧
    (running s (entryKey i q) = false →
      ∃ t, exec (.entryComplete i q) s = .next t ∧ Finished t i q ∧ OtherTasks s t i ∧
        (spaceOf (s.tasks[i].cmd.cmplBase.toNat + 16 * (q.toNat % atLeast1 s.tasks[i].cmd.n)) = some .direct →
          ∃ r ∈ t.fabric, r.write = true ∧
            r.addr = s.tasks[i].cmd.cmplBase.toNat + 16 * (q.toNat % atLeast1 s.tasks[i].cmd.n) ∧
            r.data = natLe 4 q.toNat ++ natLe 1 (wordBits (e.words : Entry)[0] 0 8) ++ natLe 1 x.toNat ++
              natLe 2 (min 0xFFFF (e.reports.foldl (fun a r => a + r.misses) 0)) ++ natLe 8 (ftNow s))))



/-- R237, R240, R263, R272 to R279, R330 to R335: an open engine entry whose turn it is, where the device is a member of the
group, is carried on as log 7 says: the reads that it lacks leave, and once it lacks none it is answered and its writes leave. A
LOOKUP leaves its partials (forward), or its gradient rows in place of those of an earlier one with the same LIST and WORK
(backward), for the entries that name it; an EXCHANGE goes on once the partials it needs are here and gives a status of at most
3, or at once status 4 where its LOOKUP had it; a REDUCE and a GATHER go on once every other member's contribution is here, with
status 0 where all bear the entry's STEP, no segment strayed and the REDUCE names no tensor list, and a GATHER with status 0x10
where one bears another STEP; a barrier of which every member has arrived sends its counter one ADD of 1 that is due now, and is
answered 0 once the hub has taken it in. A device that is no member answers a REDUCE or a GATHER with 0x13. Where a member's segments have not come
COLL_TIMEOUT after the posting, the entry's work is done without them: a status of 5 or above, and an event 0x7012. A segment
refused with BUSY 10 us ago is sent again. No entry changes a core here. -/
def Obligations.EngineEntries : Prop :=
  (∀ (i : SlotIx) (q : W32) (rs : List RoutedIx) (e : Posted) (s : State),
    openEntry s i q 4 = some e → engineTurn s e = true → bit (e.words : Entry)[5] 16 = false →
    (ownRank s (groupAt s 0)).isSome = true →
    Carries (.lookupForward i q rs) (entryKey i q) (some i) (lookupRank e.words) true (forwardRun i q e rs) s ∧
    (Complete (entryKey i q) (some i) (forwardRun i q e rs) s →
      ∃ t x k, exec (.lookupForward i q rs) s = .next t ∧ Answered s t i q x ∧ t.lkWork = s.lkWork ++ [k] ∧ k.slot = i ∧ k.q = q ∧
        k.words = e.words ∧ k.grads = [] ∧ t.cores = s.cores ∧ t.dram = s.dram)) ∧
  (∀ (i : SlotIx) (q : W32) (rs : List GradRow) (e : Posted) (s : State),
    openEntry s i q 4 = some e → engineTurn s e = true → bit (e.words : Entry)[5] 16 = true →
    (ownRank s (groupAt s 0)).isSome = true →
    Carries (.lookupBackward i q rs) (entryKey i q) (some i) (lookupRank e.words) true (backwardRun i q e rs) s ∧
    (Complete (entryKey i q) (some i) (backwardRun i q e rs) s →
      ∃ t x k, exec (.lookupBackward i q rs) s = .next t ∧ Answered s t i q x ∧
        t.lkWork = (s.lkWork.filter fun k => !(k.slot == i && k.words[7] == (e.words : Entry)[7] && bit k.words[5] 16)) ++ [k] ∧
        k.slot = i ∧ k.q = q ∧ k.words = e.words ∧ t.cores = s.cores ∧ t.dram = s.dram)) ∧
  (∀ (i : SlotIx) (q : W32) (ps : List Partial) (e : Posted) (k : LkWork) (s : State),
    openEntry s i q 5 = some e → exchangeWork s i e.words = some k → (ownRank s (groupAt s 0)).isSome = true →
    (k.status = 4 → ∃ t, exec (.exchange i q ps) s = .next t ∧ Answered s t i q 4 ∧ t = { s with tasks := t.tasks }) ∧
    (k.status ≠ 4 →
      Carries (.exchange i q ps) (entryKey i q) (some i) (lookupRank k.words) (partsSeen s i q k ps) (exchangeRun i q k ps) s ∧
      (Complete (entryKey i q) (some i) (exchangeRun i q k ps) s → partsSeen s i q k ps = true →
        ∃ t x, exec (.exchange i q ps) s = .next t ∧ Answered s t i q x ∧ x.toNat ≤ 3 ∧ t.cores = s.cores ∧ t.dram = s.dram))) ∧
  (∀ (i : SlotIx) (q : W32) (ps : List Contribution) (e : Posted) (own : Nat) (s : State),
    openEntry s i q 6 = some e → ownRank s (groupAt s (Entry.group e.words)) = some own →
    Carries (.reduce i q ps) (entryKey i q) (some i) Rank.open_
      (allThere (groupAt s (Entry.group e.words)) own (ps.map (·.rank))) (reduceWork i q e own ps) s ∧
    (Complete (entryKey i q) (some i) (reduceWork i q e own ps) s →
      allThere (groupAt s (Entry.group e.words)) own (ps.map (·.rank)) = true →
      ∃ t x, exec (.reduce i q ps) s = .next t ∧ Answered s t i q x ∧ t.cores = s.cores ∧ t.dram = s.dram ∧
        (InStep s i e ps → bit (e.words : Entry)[7] 20 = false → x = 0))) ∧
  (∀ (i : SlotIx) (q : W32) (ps : List Contribution) (e : Posted) (own : Nat) (s : State),
    openEntry s i q 7 = some e → bit (e.words : Entry)[6] 12 = false → ownRank s (groupAt s (Entry.group e.words)) = some own →
    Carries (.gather i q ps) (entryKey i q) (some i) Rank.open_
      (allThere (groupAt s (Entry.group e.words)) own (ps.map (·.rank))) (gatherWork i q e own ps) s ∧
    (Complete (entryKey i q) (some i) (gatherWork i q e own ps) s →
      allThere (groupAt s (Entry.group e.words)) own (ps.map (·.rank)) = true →
      ∃ t x, exec (.gather i q ps) s = .next t ∧ Answered s t i q x ∧ t.cores = s.cores ∧ t.dram = s.dram ∧
        (InStep s i e ps → x = 0) ∧ ((∃ p ∈ ps, p.step ≠ Entry.step e.words) → x = 0x10))) ∧
  (∀ (i : SlotIx) (q : W32) (rs : List Nat) (e : Posted) (own : Nat) (s : State),
    openEntry s i q 7 = some e → bit (e.words : Entry)[6] 12 = true → ownRank s (groupAt s (Entry.group e.words)) = some own →
    allThere (groupAt s (Entry.group e.words)) own rs = true → adding s i q = false →
    ∃ t a, exec (.gatherBarrier i q rs) s = .next t ∧ t.tasks = s.tasks ∧ t.cores = s.cores ∧ t.dram = s.dram ∧
      t.gsigs = s.gsigs ++ [a] ∧ a.g.val = wordBits (e.words : Entry)[6] 0 12 ∧ a.op = .barrier i q ∧ a.due = s.time.cycle ∧
      exec (.gatherBarrier i q rs) t = .next t) ∧
  (∀ (g : Fin 4096) (i : SlotIx) (q : W32) (a : GSig) (s : State),
    arriving s g = [a] → a.src = none → a.op = .barrier i q → hubTurn s g →
    ∃ t, exec (.globalSignalApply g) s = .next t ∧ Answered s t i q 0 ∧ t.cores = s.cores ∧ t.dram = s.dram) ∧
  (∀ (i : SlotIx) (q : W32) (ps : List Contribution) (e : Posted) (s : State),
    ownRank s (groupAt s (Entry.group e.words)) = none →
    (openEntry s i q 6 = some e →
      ∃ t, exec (.reduce i q ps) s = .next t ∧ Answered s t i q 0x13 ∧ t = { s with tasks := t.tasks }) ∧
    (openEntry s i q 7 = some e → bit (e.words : Entry)[6] 12 = false →
      ∃ t, exec (.gather i q ps) s = .next t ∧ Answered s t i q 0x13 ∧ t = { s with tasks := t.tasks })) ∧
  (∀ (i : SlotIx) (q : W32) (got : Arrived) (e : Posted) (own m : Nat) (s : State),
    (s.tasks[i].cmd.posted.find? fun e => e.q == q && !e.finished && e.status.isNone
      && (Entry.engine e.words == 1 || Entry.engine e.words == 2)) = some e →
    e.postedAt + collLimit s ≤ s.time.cycle → adding s i q = false → (Entry.engine e.words = 1 → engineTurn s e = true) →
    ownRank s (groupAt s (Entry.group e.words)) = some own → groupRank s (groupAt s (Entry.group e.words)) got.missing.toNat = some m →
    own ≠ m →
    Carries (.collTimeout i q got) (entryKey i q) (some i) (if Entry.op e.words = 4 then lookupRank e.words else Rank.open_) true
      (lateWork i q got e own m) s ∧
    (Complete (entryKey i q) (some i) (lateWork i q got e own m) s →
      ∃ t x v, exec (.collTimeout i q got) s = .next t ∧ Answered s t i q x ∧ 5 ≤ x.toNat ∧ t.cores = s.cores ∧ t.dram = s.dram ∧
        v ∈ t.recorder.arriving ∧ v.code = 0x7012)) ∧
  (∀ (h : HeldColl) (rest : List HeldColl) (s : State),
    s.net.resend = h :: rest → h.at_ + ccOf s 10000 ≤ s.time.cycle →
    ∃ t, exec .collResend s = .next t ∧ t.net.resend = rest ∧ t.tasks = s.tasks ∧ t.cores = s.cores ∧ t.dram = s.dram)

/-! ### The mirror engine -/

namespace Sys2Proof.Claims
open Sys2Proof Sys2Proof.Machine

/-- The home slot that a snapshot writes. -/
def homeAddr (s : State) (r : SnapRun) : Nat := s.mir.homeBag.toNat + slotSize s.tasks[r.slot] * b2n r.homeSlot

/-- The snapshot with its digest settled: its home slot and its saddlebag carry one digest (log 9). -/
def sealed (r : SnapRun) (d : BitVec 256) : SnapRun := { r with digest := some (r.digest.getD d) }

/-- The next place of a companion's completion ring lies in the CXL.mem window. -/
def ringWindow (s : State) (c : Fin 8) : Bool :=
  inWindow s (s.rhaor[c].cmpl.toNat + 16 * s.rhaor[c].ring) && inWindow s (s.rhaor[c].cmpl.toNat + 16 * s.rhaor[c].ring + 15)

/-- The mirror engine has no snapshot and no restore in progress. -/
def mirrorIdle (s : State) : Prop := s.mir.take = none ∧ s.mir.restore = none

end Sys2Proof.Claims

/-- R339, R342 to R346, R260: a SNAPSHOT that is due or forced waits for its capture, one that is not due is answered NOT_DUE,
and one with a Rhaor descriptor outstanding at its posting RHAOR_PENDING. At a frame with no block of the task running it is captured: its home slot is FILLING and the sections of the list
read with the entry are to be read; where they do not fit it is answered TOO_BIG. A channel whose requests are all writes to what is not yet read serves none of them. The copy of a section
that has been read leaves for the home slot as the bytes that were read; a poisoned one ends the snapshot with SOURCE_POISON and
an event 0x7123. Once the home slot's writes are answered its trailer leaves, and once that is answered the slot is COMMITTED
with its STEP. The trailer to the saddlebag is sent once no segment is unanswered. Reads and writes of the engine leave as log 7
says. -/
def Obligations.SnapshotTaking : Prop :=
  (∀ (i : SlotIx) (q : W32) (e : Posted) (s : State),
    openEntry s i q 8 = some e → bit (e.words : Entry)[4] 8 = false → engineTurn s e = true → mirrorIdle s →
    ∃ t, exec (.snapshot i q) s = .next t ∧ t.cores = s.cores ∧ t.dram = s.dram ∧
      (if e.rhaor = true then t.mir.take = none ∧ Answered s t i q 0x20
       else if bit (e.words : Entry)[4] 9 = true ∨ snapDue (takeInterval (Entry.step e.words) s).mir (Entry.step e.words) = true then
        ∃ r, t.mir.take = some r ∧ r.slot = i ∧ r.q = q ∧ r.step = Entry.step e.words ∧ r.captured = false ∧ t.tasks = s.tasks
       else t.mir.take = none ∧ Answered s t i q 0x01)) ∧
  (∀ (r : SnapRun) (e : Posted) (s : State),
    s.mir.take = some r → r.captured = false → (s.tasks[r.slot].cmd.posted.find? fun e => e.q == r.q) = some e →
    Carries .snapshotCapture (entryKey r.slot r.q) (some r.slot) Rank.open_ (captureNow s r) (captureWork r e) s ∧
    (Complete (entryKey r.slot r.q) (some r.slot) (captureWork r e) s → atFrame s = true → noBlock s r.slot = true →
      ∃ t, exec .snapshotCapture s = .next t ∧ t.cores = s.cores ∧ t.dram = s.dram ∧
        (if slotSize s.tasks[r.slot] < (slotLayout e.list).2 + 64 then t.mir.take = none ∧ Answered s t r.slot r.q 0x24
         else ∃ r', t.mir.take = some r' ∧ r'.captured = true ∧ r'.captureFt = nsNow s ∧ r'.step = r.step ∧
          homeState t.mir r.homeSlot = .filling ∧ homeStep t.mir r.homeSlot = r.step ∧
          snapUnread t = (slotLayout e.list).1.map fun x => (x.1.addr, x.1.len, x.2)))) ∧
  (∀ (p : SecIx) (ch : Fin 64) (found : Finds) (s : State),
    (∀ q ∈ s.ports[p].queue, channelOf (directOf q.req.addr) = ch.val →
      q.req.write = true ∧ snapHolds s (directOf q.req.addr) q.req.data.length = true) →
    exec (.stackRequestServe p ch found) s = .next s) ∧
  (∀ (home : Bool) (r : SnapRun) (a n o : Nat) (d : BitVec 256) (s : State),
    s.mir.take = some r → r.captured = true → r.unread = [(a, n, o)] →
    Complete (entryKey r.slot r.q) (some r.slot) (copyWork r) s →
    ∃ t, exec (.snapshotCommit home d) s = .next t ∧ t.cores = s.cores ∧ t.dram = s.dram ∧ s.mir.heldNs.toNat ≤ t.mir.heldNs.toNat ∧
      (if seenPoison (probing (runOf s (entryKey r.slot r.q) (some r.slot)) s) a n = true
       then t.mir.take = none ∧ Answered s t r.slot r.q 0x23 ∧ ∃ v ∈ t.recorder.arriving, v.code = 0x7123
       else snapUnread t = [] ∧ ∃ p, (copyWork r (probing (runOf s (entryKey r.slot r.q) (some r.slot)) s)).probe = some p ∧
        p.wrote = [(homeAddr s r + o, readBy s (entryKey r.slot r.q) (some r.slot) a n, false)] ∧
        t = noteReleased s (runCommit (runOf s (entryKey r.slot r.q) (some r.slot)) Rank.open_ p.wrote
          (copyWork r (probing (runOf s (entryKey r.slot r.q) (some r.slot)) s))))) ∧
  (∀ (r : SnapRun) (d : BitVec 256) (s : State),
    s.mir.take = some r → r.captured = true → r.homeDone = false → r.unread = [] →
    (running s (entryKey r.slot r.q) = true → exec (.snapshotCommit true d) s = .next s) ∧
    (running s (entryKey r.slot r.q) = false → r.homeSent = false → spaceOf (homeAddr s r + r.total) = some .direct →
      (homeAddr s r + r.total) % 256 = 0 →
      ∃ t, exec (.snapshotCommit true d) s = .next t ∧ t.mir.take = some { sealed r d with homeSent := true } ∧ t.cores = s.cores ∧
        t.tasks = s.tasks ∧ t.dram = s.dram ∧
        ∃ x ∈ t.fabric, x.write = true ∧ x.addr = homeAddr s r + r.total ∧ x.data = slotTrailer r (r.digest.getD d)) ∧
    (running s (entryKey r.slot r.q) = false → r.homeSent = true →
      ∃ t, exec (.snapshotCommit true d) s = .next t ∧ homeState t.mir r.homeSlot = .committed ∧
        homeStep t.mir r.homeSlot = r.step ∧ t.cores = s.cores ∧ t.dram = s.dram ∧
        (if r.bagDone = true ∨ r.bagFailed = true then
          t.mir.take = none ∧ Answered s t r.slot r.q (if r.bagDone = true then 0 else 0x22)
         else t.mir.take = some { sealed r d with homeDone := true } ∧ t.tasks = s.tasks))) ∧
  (∀ (r : SnapRun) (d : BitVec 256) (ts : List (W16 × Nat)) (s : State),
    s.mir.take = some r → r.captured = true → r.trailerSent = false → r.bagFailed = false → r.tags = [] →
    r.unread = [] →
    (mirrorSend (sealed r d) true r.total (slotTrailer r (r.digest.getD d)) s).1 = some ts →
    ∃ t, exec (.snapshotCommit false d) s = .next t ∧ t.mir.take = some { sealed r d with
                                                                       trailerSent := true
                                                                       tags := ts
                                                                       seg := r.seg + ts.length } ∧
      t.cores = s.cores ∧ t.tasks = s.tasks ∧ t.dram = s.dram)

/-- R348 to R353, R258, R260, R309: a restore whose home slot of its STEP is committed (and which compares no digests), once what it
reads has been read, waits for its seeds where nothing that was read is poisoned and the slot's header and table match; with no slot
of the STEP it is answered NOT_FOUND (0x26), and with a Rhaor descriptor outstanding at its posting RHAOR_PENDING. Once its
section writes are answered and every enabled context waits in CMDWAIT the seeds are written, and it is answered OK; where a context
stopped first, or 10 ms have passed, it is answered SEED_TIMEOUT and posting stops. Replay verification compares the loss that was
read with a survivor's. The interval is staged with its base. RFENCE is answered when no descriptor of its task is outstanding. A
companion's completion retires its tag and leaves as an entry for the next place of the ring (the model's choice, log 104), except
that nothing but an answer goes out for a ring outside the window; a tag that is overdue is retired, its companion disabled, and no
task learns of it. -/
def Obligations.SnapshotRestoring : Prop :=
  (∀ (i : SlotIx) (q : W32) (x y z : Bool) (e : Posted) (u s : State),
    openEntry s i q 8 = some e → bit (e.words : Entry)[4] 8 = true → engineTurn s e = true → mirrorIdle s →
    u = beginRestore (Entry.step e.words) s →
    exec (.snapshotRestore i q x y z) s = exec (.snapshotRestore i q x y z) u ∧
    u.mir.interval = (takeInterval (Entry.step e.words) s).mir.interval ∧ u.mir.base = (takeInterval (Entry.step e.words) s).mir.base ∧
    (e.rhaor = true → ∃ t, exec (.snapshotRestore i q x y z) s = .next t ∧ Answered s t i q 0x20 ∧ t = { u with tasks := t.tasks }) ∧
    (e.rhaor = false →
      Carries (.snapshotRestore i q x y z) (entryKey i q) (some i) Rank.open_ true (restoreWork i q e (x, y, z)) u ∧
      (Complete (entryKey i q) (some i) (restoreWork i q e (x, y, z)) u → verifyMode s ≠ 2 → verifyMode s ≠ 3 →
        (homeHolds s.mir (Entry.step e.words) = none → s.mir.partnerBag = 0 →
          ∃ t, exec (.snapshotRestore i q x y z) s = .next t ∧ Answered s t i q 0x26 ∧ t.mir = noteBags [] u.mir ∧ t.cores = s.cores ∧
            t.dram = s.dram) ∧
        (∀ one, homeHolds s.mir (Entry.step e.words) = some one → (∀ x ∈ (runOf s (entryKey i q) (some i)).got, x.2.2 = false) →
          restoreCheck s.tasks[i] e.list
            (readBy s (entryKey i q) (some i) (s.mir.homeBag.toNat + slotSize s.tasks[i] * b2n one) slotHead) = 0 →
          ∃ t r, exec (.snapshotRestore i q x y z) s = .next t ∧ t.mir.restore = some r ∧ r.slot = i ∧ r.q = q ∧
            r.step = Entry.step e.words ∧ r.lastWrite = nsNow s ∧ r.lossRing = (e.words : Entry)[5] ∧ t.cores = s.cores ∧
            t.dram = s.dram ∧
            r.seeds = seedsOf s.tasks[i] (readBy s (entryKey i q) (some i)
              (s.mir.homeBag.toNat + slotSize s.tasks[i] * b2n one + 0x1000) 9216))))) ∧
  (∀ (r : RestoreRun) (s : State),
    s.mir.restore = some r → running s (entryKey r.slot r.q) = false →
    (∀ x ∈ enabledCtxs s.tasks[r.slot], s.cores[x.1].slot = some r.slot ∧ (ctx s x.1 x.2).st = .waiting ∧
      (ctx s x.1 x.2).kind = .command) →
    nsNow s < r.lastWrite + 10000000 → (r.seeds.map fun x => (x.1, x.2.1)).Nodup →
    ∃ t, exec .restoreSeedWrite s = .next t ∧ t.mir.restore = none ∧ Answered s t r.slot r.q 0 ∧
      (∀ x ∈ r.seeds, ctx t x.1 x.2.1 = { ctx s x.1 x.2.1 with
                                          seed := x.2.2.1
                                          sctr := x.2.2.2 }) ∧
      t.mir.verify = (if r.lossRing = 0 then none
        else some { slot := r.slot, step := r.step + 1, ring := r.lossRing, ready := false, digestOk := r.digestOk }) ∧
      t.dram = s.dram) ∧
  (∀ (r : RestoreRun) (s : State),
    s.mir.restore = some r → running s (entryKey r.slot r.q) = false →
    ((∃ x ∈ enabledCtxs s.tasks[r.slot], s.cores[x.1].slot = some r.slot ∧
        ((ctx s x.1 x.2).st = .halted ∨ (ctx s x.1 x.2).st = .faulted)) ∨
      r.lastWrite + 10000000 ≤ nsNow s) →
    ∃ t, exec .restoreSeedTimeout s = .next t ∧ t.mir.restore = none ∧ Answered s t r.slot r.q 0x25 ∧
      (∃ v ∈ t.recorder.arriving, v.code = 0x7125 ∧ v.arg0 = BitVec.ofNat 64 (seedCulprit s r)) ∧
      t.tasks[r.slot].cmd.stopped = true ∧ t.cores = s.cores ∧ t.dram = s.dram) ∧
  (∀ (v : VerifyRun) (peer : Option W32) (s : State),
    s.mir.verify = some v → v.ready = true → (verifyMode s = 1 ∨ verifyMode s = 3) →
    Carries (.verifyReplay peer) (taskKey v.slot 4) (some v.slot) Rank.open_ true (replayWork v peer) s ∧
    (Complete (taskKey v.slot 4) (some v.slot) (replayWork v peer) s →
      ∃ t, exec (.verifyReplay peer) s = .next t ∧ t.mir.verify = none ∧ t.cores = s.cores ∧ t.tasks = s.tasks ∧ t.dram = s.dram ∧
        ∀ l, peer = some l → t.mir.verifyResult =
          (if field (readBy s (taskKey v.slot 4) (some v.slot) (v.ring.toNat + 16 * (v.step.toNat % 256)) 16) 4 4 = l.toNat
           then 1 else 2))) ∧
  (∀ (num den : Nat) (gaps : List Nat) (base : W32) (s : State),
    s.time.isMaster = true → s.mir.lastStep.toNat + 1000 ≤ base.toNat →
    (s.mir.interval = 0 ∨ s.mir.base.toNat ≤ base.toNat ∧ (base.toNat - s.mir.base.toNat) % s.mir.interval.toNat = 0) →
    ∃ t, exec (.intervalCompute num den gaps base) s = .next t ∧ t.staging.shadow.nextBase = base ∧
      t.staging.shadow.nextInterval = BitVec.ofNat 32 (snapInterval (largerCost (num, den) (ownCost s.mir)).1
        (largerCost (num, den) (ownCost s.mir)).2 ((gaps ++ s.sec.gaps).take 16) s.mir.snapPrior.toNat) ∧
      t = { s with
            sec := t.sec
            staging := t.staging }) ∧
  (∀ (i : SlotIx) (q : W32) (e : Posted) (s : State),
    openEntry s i q 9 = some e → engineTurn s e = true → rhaorOpen s i = false →
    ∃ t, exec (.rfence i q) s = .next t ∧ Answered s t i q (if s.tasks[i].cmd.rhaorErr = true then 0x21 else 0) ∧
      t.tasks[i].cmd.rhaorErr = false ∧ t = { s with tasks := t.tasks }) ∧
  (∀ (c : Fin 8) (tag : W16) (x : RhReport) (r : RhTag) (s : State),
    (s.rhaor[c].tags.find? fun q => q.tag == tag.toNat) = some r →
    (ringWindow s c = false → exec (.rhaorCompletion c tag x) s = .next (emit s .unsupported)) ∧
    (ringWindow s c = true →
      ∃ t, exec (.rhaorCompletion c tag x) s = .next t ∧ t.rhaor[c].tags = s.rhaor[c].tags.erase r ∧
        t.rhaor[c].ring = (s.rhaor[c].ring + 1) % 32 ∧ t.cores = s.cores ∧ t.dram = s.dram ∧
        (spaceOf (s.rhaor[c].cmpl.toNat + 16 * s.rhaor[c].ring) = some .direct →
          ∃ y ∈ t.fabric, y.write = true ∧ y.addr = s.rhaor[c].cmpl.toNat + 16 * s.rhaor[c].ring ∧
            y.data = natLe 2 r.tag ++ natLe 1 x.status.toNat ++ [0] ++ natLe 4 r.rstep.toNat ++ natLe 4 x.skipped.toNat ++ natLe 4 0) ∧
        (if x.status = 0 then t.rhaor[c].errCount = s.rhaor[c].errCount
         else t.tasks[r.task].cmd.rhaorErr = true ∧ t.rhaor[c].errCount = satInc s.rhaor[c].errCount))) ∧
  (∀ (c : Fin 8) (tag : Fin 32) (r : RhTag) (s : State),
    (s.rhaor[c].tags.find? fun q => q.tag == tag.val) = some r →
    r.at_ + ccOf s (1000 * atLeast1 s.rhaor[c].timeout.toNat) < s.time.cycle →
    ∃ t v, exec (.rhaorTimeout c tag) s = .next t ∧ t.rhaor[c].tags = s.rhaor[c].tags.erase r ∧ t.rhaor[c].enable = false ∧
      t.rhaor[c].errCount = satInc s.rhaor[c].errCount ∧ v ∈ t.recorder.arriving ∧ v.code = 0x6111 ∧ v.sev = 3 ∧
      t.cores = s.cores ∧ t.tasks = s.tasks ∧ t.dram = s.dram)

/-! ### Links -/

namespace Sys2Proof.Claims
open Sys2Proof Sys2Proof.Machine

/-- A packet of TYPE `ty` that port `p` takes: the port is UP, nothing refuses it, and it is for this device. -/
def Taken (s : State) (p : Fin 8) (k : Packet) (ty : Byte) : Prop :=
  s.links[p].st = .up ∧ k.ptype = ty ∧ refusal s p k = 0 ∧ (hopLocal k = true ∨ k.dest = ownAddr s)

/-- The packet types of R324 with a command of their own. -/
def arrivalRows : List (Byte × (Fin 8 → Packet → Instr)) :=
  [(1, .write), (2, .read), (3, .resp), (4, .signal), (5, .coll), (6, .tsync), (7, .mirror), (8, .mgmt), (9, .nak)]

/-- How many frames of a replay buffer an ACK acknowledges (R326). -/
def ackedBy (x : LinkPort) (ack : W16) : Nat :=
  match x.replay with
  | [] => 0
  | q :: _ => if (ack - q.1).toNat < x.replay.length then (ack - q.1).toNat + 1 else 0

/-- The width a training leaves (R317): x8, the low four lanes, the high four, none. -/
def widthOf (lanes : Byte) : BitVec 2 := if lanes = 0xFF then 3 else if lanes &&& 0x0F = 0x0F then 1 else if lanes &&& 0xF0 = 0xF0 then 2 else 0

/-- The GUEST slot a MIRROR segment names, and where its byte 0 lies. -/
def guestAddr (s : State) (i : SlotIx) (k : Packet) : Nat := s.mir.guestBag.toNat + slotSize s.tasks[i] * b2n (bit k.arg 32) + k.addr.toNat

end Sys2Proof.Claims

/-- R215, R255, R324, R329, R335, R336, R340: a packet that is refused latches VIOL and records its reason. A WRITE or READ within
the direct region becomes a request to stacked memory. A RESP answers the request of its TAG: a stream's answer is on its way, and a
run has what it read or wrote. A SIGNAL of a held counter is at the hub in this cycle, one of 0
does nothing, and one of an unheld counter counts in DROPPED. A COLL segment of an open entry and its STEP is taken, and one of no
entry is held. A TSYNC of the upstream port shows it lives, and a request is answered with FT. A MIRROR segment makes its guest slot
FILLING, every byte of it leaves in a write to its place, and its answer waits for them. MGMT changes nothing more. A NAK is
counted, and one of a SIGNAL does nothing else. A packet for another device goes to the port of its route; R323, R326: a frame for a
port leaves with the port's next LSEQ and a good HCRC, enters the replay buffer and takes the credits of its class, and where the
buffer is full or credits are lacking it waits. -/
def Obligations.PacketArrivals : Prop :=
  (∀ a ∈ arrivalRows, ∀ (p : Fin 8) (k : Packet) (s : State),
    s.links[p].st = .up → k.ptype = a.1 → refusal s p k ≠ 0 →
    ∃ t v, exec (a.2 p k) s = .next t ∧ t.links[p].viol = true ∧ v ∈ t.recorder.arriving ∧
      v.code.toNat = 0x5000 + (refusal s p k).toNat ∧ t.cores = s.cores ∧ t.dram = s.dram) ∧
  (∀ (p : Fin 8) (k : Packet) (s : State),
    Taken s p k 1 → k.addr.toNat + k.len.toNat ≤ directEnd →
    ∃ t r, exec (.write p k) s = .next t ∧ t.fabric = s.fabric ++ [r] ∧ r.write = true ∧ r.addr = k.addr.toNat ∧
      r.data = k.payload ∧ r.agent = .remote k.src k.tag ∧ t = { s with
                                                                 fabric := t.fabric
                                                                 nextId := t.nextId
                                                                 act := t.act }) ∧
  (∀ (p : Fin 8) (k : Packet) (s : State),
    Taken s p k 2 → k.addr.toNat + k.arg.toNat ≤ directEnd →
    ∃ t r, exec (.read p k) s = .next t ∧ t.fabric = s.fabric ++ [r] ∧ r.write = false ∧ r.addr = k.addr.toNat ∧
      r.len = k.arg.toNat ∧ r.agent = .remote k.src k.tag ∧ t = { s with
                                                                 fabric := t.fabric
                                                                 nextId := t.nextId
                                                                 act := t.act }) ∧
  (∀ (p : Fin 8) (k : Packet) (q : W16 × MemReq × Nat) (s : State),
    Taken s p k 3 → s.net.fetching.contains k.tag = false →
    (s.net.remote.find? fun q => q.1 == k.tag && BitVec.ofNat 32 (q.2.1.addr / 2 ^ 39 % 2 ^ 24) == k.src) = some q →
    (∀ c i, q.2.1.agent = .stream c i →
      ∃ t x, exec (.resp p k) s = .next t ∧ t.net.remote = s.net.remote.erase q ∧ t.resps = s.resps ++ [x] ∧ x.req = q.2.1 ∧
        x.data = (k.payload.drop (q.2.1.addr % 64)).take q.2.1.len ∧ x.failed = false ∧ t = { s with
                                                     net := t.net
                                                     resps := t.resps }) ∧
    (∀ key o, q.2.1.agent = .engine key o →
      ∃ t, exec (.resp p k) s = .next t ∧ t.net.remote = s.net.remote.erase q ∧ t.cores = s.cores ∧ t.dram = s.dram ∧
        t.runs = (answerRun key q.2.1.id q.2.1.write ((k.payload.drop (q.2.1.addr % 64)).take q.2.1.len)
          (List.replicate ((granuleSpan q.2.1).2 / 64) (bit k.pflags 0)) s).runs)) ∧
  (∀ (p : Fin 8) (k : Packet) (s : State),
    Taken s p k 4 →
    ((globalOf s (Fin.ofNat 4096 k.addr.toNat)).holder.isSome = true → k.arg.toNat % 65536 = 0 →
      exec (.signal p k) s = .next s) ∧
    ((globalOf s (Fin.ofNat 4096 k.addr.toNat)).holder.isSome = true → k.arg.toNat % 65536 ≠ 0 →
      ∃ t a, exec (.signal p k) s = .next t ∧ t.gsigs = s.gsigs ++ [a] ∧ a.g = Fin.ofNat 4096 k.addr.toNat ∧ a.op = .packet p k ∧
        a.due = s.time.cycle ∧ t = { s with gsigs := t.gsigs }) ∧
    ((globalOf s (Fin.ofNat 4096 k.addr.toNat)).holder = none →
      ∃ t v, exec (.signal p k) s = .next t ∧ t.gregs.dropped = satInc s.gregs.dropped ∧ v ∈ t.recorder.arriving ∧
        v.code = 0x5009 ∧ v.sev = 2 ∧ t.gctr = s.gctr ∧ t.cores = s.cores)) ∧
  (∀ (p : Fin 8) (k : Packet) (i : SlotIx) (e : Posted) (s : State),
    Taken s p k 5 → collEntry s k.coll = some (i, e) →
    (groupRank s (groupAt s (Entry.group e.words)) k.src.toNat).isSome = true → k.step = Entry.step e.words →
    exec (.coll p k) s = .next s) ∧
  (∀ (p : Fin 8) (k : Packet) (s : State),
    Taken s p k 5 → collEntry s k.coll = none →
    s.net.held.foldl (fun n h => n + h.pkt.payload.length) 0 + k.payload.length ≤ 16 * 2 ^ 20 →
    (k.coll :: s.net.held.map fun h => h.pkt.coll).eraseDups.length ≤ 64 →
    ∃ t h, exec (.coll p k) s = .next t ∧ t.net.held = s.net.held ++ [h] ∧ h.pkt = k ∧ h.port = p ∧ t = { s with net := t.net }) ∧
  (∀ (p : Fin 8) (k : Packet) (s : State),
    Taken s p k 6 →
    ∃ t u, exec (.tsync p k) s = .next t ∧
      u = (if s.time.upstream.toNat = p.val then { s with time := { s.time with lastSync := nsNow s } } else s) ∧
      if bit k.arg 32 = true then t = u
      else ∃ r, t = sendFrame p r none u ∧ r.ptype = 6 ∧ r.tag = k.tag ∧ r.addr = BitVec.ofNat 64 (ftNow s) ∧ bit r.arg 32 = true) ∧
  (∀ (p : Fin 8) (k : Packet) (i : SlotIx) (s : State),
    Taken s p k 7 → s.mir.owner = some i → k.src = s.mir.guest.setWidth 32 → k.addr.toNat + k.len.toNat ≤ slotSize s.tasks[i] →
    ((s.mir.guest0 = .committed ∨ s.mir.guest1 = .committed) →
      bit k.arg 32 = otherSlot (committed s.mir.guest0 s.mir.guest0Step) (committed s.mir.guest1 s.mir.guest1Step)) →
    guestAddr s i k + k.len.toNat ≤ directEnd →
    ∃ t a, exec (.mirror p k) s = .next t ∧ t.cores = s.cores ∧ t.tasks = s.tasks ∧ t.dram = s.dram ∧
      t.mir = { setGuest (bit k.arg 32) .filling (BitVec.ofNat 32 k.arg.toNat) s.mir with guestFresh := false } ∧
      t.net.acks = s.net.acks ++ [a] ∧ a.src = k.src ∧ a.tag = k.tag ∧
      a.commit = (if bit k.arg 33 = true then some (bit k.arg 32, BitVec.ofNat 32 k.arg.toNat) else none) ∧
      ∀ j < k.payload.length, ∃ x ∈ t.fabric, x.write = true ∧ x.addr ≤ guestAddr s i k + j ∧
        x.data[guestAddr s i k + j - x.addr]? = k.payload[j]?) ∧
  (∀ (p : Fin 8) (k : Packet) (s : State), Taken s p k 8 → exec (.mgmt p k) s = .next s) ∧
  (∀ (p : Fin 8) (k : Packet) (s : State),
    Taken s p k 9 →
    ∃ t, exec (.nak p k) s = .next t ∧ t.links[p].nakRcvd = satInc s.links[p].nakRcvd ∧ t.cores = s.cores ∧ t.dram = s.dram ∧
      (k.orig = 4 → t = { s with links := t.links })) ∧
  (∀ (p o : Fin 8) (k : Packet) (s : State),
    s.links[p].st = .up → refusal s p k = 0 → hopLocal k = false → k.dest ≠ ownAddr s →
    routePort s k.dest.toNat (decide (6 ≤ p.val)) = some o → s.links[o].allows k = true →
    exec (.packetForward p k) s = .next (sendFrame o k (some p) s)) ∧
  (∀ (o : Fin 8) (k : Packet) (f : Option (Fin 8)) (s : State),
    s.links[o].waiting = [] →
    (s.links[o].canLeave k = true →
      ∃ r, r.payload = k.payload ∧ r.dest = k.dest ∧ r.src = k.src ∧ r.tag = k.tag ∧
        (sendFrame o k f s).out = s.out ++ [.packet o (s.links[o].linkOf s.links[o].txNext r) r] ∧
        frameGood (s.links[o].linkOf s.links[o].txNext r) r = true ∧
        (sendFrame o k f s).links[o].txNext = s.links[o].txNext + 1 ∧
        (sendFrame o k f s).links[o].replay = s.links[o].replay ++ [(s.links[o].txNext, r)] ∧
        (sendFrame o k f s).links[o].credit0 + (sendFrame o k f s).links[o].credit1 + frameUnits k =
          s.links[o].credit0 + s.links[o].credit1 ∧
        sendFrame o k f s = { s with out := (sendFrame o k f s).out, links := (sendFrame o k f s).links, act := (sendFrame o k f s).act }) ∧
    (s.links[o].canLeave k = false →
      (sendFrame o k f s).links[o] = { s.links[o] with waiting := [(k, f)] } ∧
        sendFrame o k f s = { s with links := (sendFrame o k f s).links }))

/-- R317, R323, R326 to R328, R346, R390: every frame adds the codewords that FEC corrected to FEC_CORR. A good IDLE frame in order
acknowledges and returns credits, and one that is not good asks for a replay. A good frame of the next number is accepted and
acknowledged; one that is not good, and one with an ACK whose number is another within the window, asks for a replay and is not
accepted (one RETRY for each such frame is the model's choice, log 112). A RETRY sends the rest of the replay buffer again eight
times, and then retrains the port. A retrain that succeeds resumes so; the third that fails makes the port FAILED. Training settles
the width and sends the capability frame; from stored seeds a training without lanes goes on from the defaults. Negotiation settles
the version as the lower of the two and the features as those that both have. A remote request without an answer in time fails, and a
MIRROR segment without one ends the saddlebag's copy, so that a snapshot whose home slot is done is answered PARTIAL. -/
def Obligations.LinkProtocol : Prop :=
  (∀ (p : Fin 8) (l : FrameLink) (k : Packet) (s : State),
    s.links[p].st = .up → k.ptype = 0 → frameGood l k = true → refusal s p k = 0 → l.retry = false →
    l.lseq = s.links[p].rxNext - 1 → s.links[p].waiting = [] →
    ∃ t, exec (.idle p ⟨l, k⟩) s = .next t ∧ t.links[p].replay = s.links[p].replay.drop (ackedBy s.links[p] l.ack) ∧
      t.links[p].rxNext = s.links[p].rxNext ∧ t.links[p].fecCorr = satAdd s.links[p].fecCorr l.corr.toNat ∧
      t.links[p].credit0 = s.links[p].credit0 + l.credit0.toNat ∧ t.links[p].credit1 = s.links[p].credit1 + l.credit1.toNat ∧
      t = { s with links := t.links } ∧ ∀ o, o ≠ p → t.links[o] = s.links[o]) ∧
  (∀ (p : Fin 8) (l : FrameLink) (k : Packet) (s : State),
    s.links[p].st = .up → k.ptype = 0 → frameGood l k = false →
    ∃ t h, exec (.idle p ⟨l, k⟩) s = .next t ∧ t.out = s.out ++ [.hop p h] ∧ h.retry = true ∧ h.ack = s.links[p].rxNext - 1 ∧
      t.links[p] = { s.links[p] with
                     fecCorr := satAdd s.links[p].fecCorr l.corr.toNat
                     retryCount := satInc s.links[p].retryCount } ∧ t = { s with
                                                                         links := t.links
                                                                         out := t.out }) ∧
  (∀ (p : Fin 8) (l : FrameLink) (k : Packet) (s : State),
    s.links[p].st = .up → frameGood l k = true → l.retry = false → l.lseq = s.links[p].rxNext →
    ∃ t h, exec (.linkFrameReceive p l k) s = .next t ∧ t.links[p].rxNext = s.links[p].rxNext + 1 ∧ OutMsg.hop p h ∈ t.out ∧
      h.ack = l.lseq ∧ h.retry = false ∧ (h.credit0.toNat + h.credit1.toNat) = frameUnits k % (if classZero k then 65536 else 32768) ∧
      t.cores = s.cores) ∧
  (∀ (p : Fin 8) (l : FrameLink) (k : Packet) (s : State),
    s.links[p].st = .up → (frameGood l k = false ∨ l.retry = false ∧ l.lseq ≠ s.links[p].rxNext ∧
      ((s.links[p].rxNext - l.lseq).toNat < 512 ∨ (l.lseq - s.links[p].rxNext).toNat < 512)) →
    ∃ t h, exec (.linkFrameReceive p l k) s = .next t ∧ t.links[p].rxNext = s.links[p].rxNext ∧ t.links[p].st = .up ∧
      OutMsg.hop p h ∈ t.out ∧ h.ack = s.links[p].rxNext - 1 ∧ h.retry = true ∧ t.cores = s.cores ∧ t.fabric = s.fabric) ∧
  (∀ (p : Fin 8) (ack : W16) (s : State),
    s.links[p].st = .up → s.links[p].waiting = [] → s.links[p].replay.drop (ackedBy s.links[p] ack) ≠ [] →
    ∃ t, exec (.linkReplay p ack) s = .next t ∧ t.links[p].replay = s.links[p].replay.drop (ackedBy s.links[p] ack) ∧
      t.links[p].retryCount = satInc s.links[p].retryCount ∧
      (if (if 0 < ackedBy s.links[p] ack then 0 else s.links[p].attempts) < 8 then
        t.links[p].st = .up ∧
        t.out = s.out ++ (s.links[p].replay.drop (ackedBy s.links[p] ack)).map fun q => .packet p (s.links[p].linkOf q.1 q.2) q.2
       else t.links[p].st = .retraining ∧ t.out = s.out)) ∧
  (∀ (p : Fin 8) (ok : Bool) (s : State),
    s.links[p].st = .retraining →
    ∃ t, exec (.linkRetrain p ok) s = .next t ∧ t.cores = s.cores ∧
      (if ok = true then t.links[p].st = .up ∧ t.links[p].replay = s.links[p].replay ∧
          t.out = s.out ++ s.links[p].replay.map fun q => .packet p (s.links[p].linkOf q.1 q.2) q.2
       else if s.links[p].trainFails < 2 then t.links[p] = { s.links[p] with trainFails := s.links[p].trainFails + 1 }
       else t.links[p].st = .failed ∧ t.links[p].replay = [])) ∧
  (∀ (p : Fin 8) (lanes : Byte) (s : State),
    s.links[p].st = .training →
    ∃ t, exec (.portTrainingDone p lanes) s = .next t ∧ t.cores = s.cores ∧ t.links[p].lanesOk = lanes ∧
      (if widthOf lanes = 0 ∧ s.links[p].fromSeeds = true then
         t.links[p].st = .training ∧ t.links[p].fromSeeds = false ∧ t.links[p].seeds = none ∧ t.out = s.out
       else t.links[p].width = widthOf lanes ∧ t.links[p].st = (if widthOf lanes = 0 then .failed else .negotiating)) ∧
      (widthOf lanes ≠ 0 → ∃ l k, t.out = s.out ++ [.packet p l k] ∧ k.ptype = 8 ∧ k.len = 64 ∧ k.src = ownAddr s)) ∧
  (∀ (p : Fin 8) (caps : Caps) (s : State),
    s.links[p].st = .negotiating →
    ∃ t, exec (.linkNegotiation p caps) s = .next t ∧ t.cores = s.cores ∧
      (if 3 ≤ caps.version.toNat ∧ s.links[p].hlMax2 = false then
         t.links[p].st = .up ∧ t.links[p].version = 3 ∧ t.links[p].feats = caps.feats ∧ t.links[p].rate400 = caps.rate400
       else if 2 ≤ caps.version.toNat then
         t.links[p].st = .up ∧ t.links[p].version = 2 ∧ t.links[p].feats = 0x18 &&& caps.feats ∧ t.links[p].rate400 = false
       else t.links[p].st = .failed)) ∧
  (∀ (tag : W16) (q : W16 × MemReq × Nat) (s : State),
    (s.net.remote.find? fun q => q.1 == tag) = some q → q.2.2 + remoteLimit s < s.time.cycle →
    (∀ c i, q.2.1.agent = .stream c i →
      ∃ t x, exec (.remoteTimeout tag) s = .next t ∧ t.net.remote = s.net.remote.erase q ∧ t.resps = s.resps ++ [x] ∧
        x.req = q.2.1 ∧ x.failed = true ∧ t = { s with
                                               net := t.net
                                               resps := t.resps }) ∧
    (∀ key o, q.2.1.agent = .engine key o →
      ∃ t, exec (.remoteTimeout tag) s = .next t ∧ t.net.remote = s.net.remote.erase q ∧ t.cores = s.cores ∧ t.dram = s.dram ∧
        t.runs = (answerRun key q.2.1.id q.2.1.write (List.replicate q.2.1.len 0) (List.replicate 5 true) s).runs)) ∧
  (∀ (tag : W16) (r : SnapRun) (q : W16 × Nat) (s : State),
    (s.net.remote.find? fun q => q.1 == tag) = none → s.mir.take = some r → (r.tags.find? fun q => q.1 == tag) = some q →
    q.2 + remoteLimit s < s.time.cycle → r.bagDone = false →
    ∃ t, exec (.remoteTimeout tag) s = .next t ∧ t.cores = s.cores ∧ t.dram = s.dram ∧
      (if r.homeDone = true then t.mir.take = none ∧ Answered s t r.slot r.q 0x22
       else t.tasks = s.tasks ∧ t.mir.take = some { r with
                                                   bagFailed := true
                                                   tags := [] }))

/-! ### Fabric time -/

/-- R24, R28, R32, R33: an exchange with the upstream stores the offset and sets the trim, within 200 ppm, but in HOLDOVER the
trim stays as it was; three missed intervals
put the device in HOLDOVER. A device that beats every other eligible one is master after an election, LOCKED with a bound of 0 (FT
going on from its own count, the model's choice, log 93), and one that an eligible device beats, or that is not eligible beside one
that is, becomes ACQUIRING in the tree of an eligible device. At lock an offset of up to 1 us leaves the device LOCKED with its
bound and a larger one makes a step pending, which is applied at a frame with no task active and leaves FT within 1 ns of the
measured offset (OFFSET keeps showing it, log 93), times that pass running on through it (log 116). Each millisecond in HOLDOVER adds 10 ns to ERR_BOUND. ACQUIRE starts acquisition from FREE and HOLDOVER only. A distribution
message changes nothing, since one FT stands for all replicas (the model's choice, log 23). -/
def Obligations.FabricTime : Prop :=
  (∀ (p : Fin 8) (rt : Nat) (d : Int) (s : State),
    s.time.upstream.toNat = p.val → s.links[p].st = .up → s.time.st ≠ .free →
    ∃ t, exec (.tsyncExchange p rt d) s = .next t ∧
      t.time = { s.time with offset := BitVec.ofInt 32 d, ahead := d, lastSync := nsNow s, trim := t.time.trim } ∧
      (if s.time.st = .holdover then t.time.trim = s.time.trim else t.time.trim.toInt.natAbs ≤ 20000) ∧
      t = { s with time := t.time, freeCtr := t.freeCtr }) ∧
  (∀ (s : State),
    (s.time.st = .locked ∨ s.time.st = .acquiring) → s.time.isMaster = false → s.time.upstream ≠ 0xF →
    s.time.lastSync + 375000 ≤ nsNow s →
    ∃ t, exec .upstreamLoss s = .next t ∧ t.time = { s.time with
        st := .holdover, holdNoted := decide (s.time.holdLimit.toNat < s.time.errBound.toNat), holdAt := nsNow s } ∧
      t = { s with time := t.time, cxl := t.cxl, out := t.out, recorder := t.recorder }) ∧
  (∀ (others : List Candidate) (own : Candidate) (s : State),
    s.time.st ≠ .free → s.time.eligible = true → own.prio = s.time.prio → own.idn = s.sec.idn →
    (∀ c ∈ others, c.eligible = true → candBeats own c = true) →
    ∃ t, exec (.masterElection others) s = .next t ∧ t.time.st = .locked ∧ t.time.isMaster = true ∧ t.time.depth = 0 ∧
      t.time.errBound = 0 ∧ t.time.upstream = 0xF ∧ t = { s with
                                                         time := t.time
                                                         cxl := t.cxl
                                                         out := t.out }) ∧
  (∀ (others : List Candidate) (own : Candidate) (s : State),
    s.time.st ≠ .free → own.prio = s.time.prio → own.idn = s.sec.idn →
    (∃ c ∈ others, c.eligible = true ∧ (s.time.eligible = false ∨ candBeats c own = true)) →
    ∃ t, exec (.masterElection others) s = .next t ∧ t.time.st = .acquiring ∧ t.time.isMaster = false ∧
      t = { s with
            time := t.time
            cxl := t.cxl
            out := t.out } ∧
      ∃ c ∈ others, c.eligible = true ∧ t.time.depth = c.depth ∧ t.time.upstream = BitVec.ofNat 4 c.port.val) ∧
  (∀ (d : Int) (s : State),
    (s.time.st = .acquiring ∨ s.time.st = .holdover) → s.time.isMaster = false → s.time.upstream ≠ 0xF →
    ∃ t, exec (.timeLock d) s = .next t ∧ t.cores = s.cores ∧ t.time.offset = BitVec.ofInt 32 d ∧ t.time.ahead = d ∧ t.time.trim.toInt.natAbs ≤ 20000 ∧
      (if d.natAbs ≤ 16000 then t.time.st = .locked ∧ t.time.stepPending = false ∧
          t.time.errBound = BitVec.ofNat 16 (2 * s.time.depth.toNat)
       else t.time.st = .acquiring ∧ t.time.stepPending = true)) ∧
  (∀ (s : State),
    s.time.stepPending = true → atFrame s = true → taskActive s = false →
    ∃ t, exec .ftStepApply s = .next t ∧ t.time.stepPending = false ∧ t.time.offset = s.time.offset ∧ t.tasks = s.tasks ∧
      t.power.coreStep = s.power.coreStep ∧ s.time.cycle ≤ t.time.cycle ∧
      ftNow t ≤ ((ftNow s : Int) + s.time.ahead / 16).toNat ∧
      ((ftNow s : Int) + s.time.ahead / 16).toNat ≤ ftNow t + 1 ∧ nsNow t = nsNow s ∧
      (upstreamLost t = true → upstreamLost s = true)) ∧
  (∀ (s : State), exec .ftReplicaCorrect s = .next s) ∧
  (∀ (s : State),
    s.time.st = .holdover → s.time.holdAt + 1000000 ≤ nsNow s →
    ∃ t, exec .holdoverTick s = .next t ∧ t.time.errBound.toNat = min 0xFFFF (s.time.errBound.toNat + 10) ∧
      t.time.holdAt = s.time.holdAt + 1000000 ∧ t.time.st = .holdover ∧ t = { s with
                                                                            time := t.time
                                                                            recorder := t.recorder }) ∧
  (∀ (r : Req) (s : State),
    ∃ t, exec (.ftAcquire r) s = .next t ∧
      (if s.time.st = .free ∨ s.time.st = .holdover then
        t.time = { s.time with
                   st := .acquiring
                   lastSync := nsNow s } ∧ t = { s with
                                                 time := t.time
                                                 cxl := t.cxl
                                                 out := t.out }
       else t = s))

/-! ### Power and the recorder -/

namespace Sys2Proof.Claims
open Sys2Proof Sys2Proof.Machine

/-- An event of a code, severity and unit is on its way to the recorder. -/
def Noted (t : State) (code : W16) (sev : BitVec 2) (unit : Nat) : Prop :=
  ∃ v ∈ t.recorder.arriving, v.code = code ∧ v.sev = sev ∧ v.unit = BitVec.ofNat 8 unit

/-- The sum and the count of the duty levels of a control window; of one full level where no beat was counted. -/
def levels (s : State) : Nat × Nat := if s.power.levelCount = 0 then (16, 1) else (s.power.levelSum, s.power.levelCount)

end Sys2Proof.Claims

/-- R11, R40, R357 to R375: at a control window D_CAP is the highest level from 16 down whose power (the model's of the window's
counted activity, or the measured one in MODE 1) stays within the cap, each sector's limit is the highest whose modelled current
stays within 200 A, and the written TDP_CAP and MODE come into force. Power above 1,650 W arms the guard, and an average above
110% of the cap shuts down. Slack at or below a region's alarm threshold is an error event that lowers a core region's duty for
two windows and halves a port region's command rate. A calibration is at least 10 ms after the last. A stretch is counted, and
its lost cycles, spread over it, are at most 15% of its port cycles. A lost generator is a fatal event: a core region's faults the tasks that
hold its sector and refuses launches, a port region's empties its port, quadrant 0's takes the CXL link down, and the hub's
shuts down. A crossing without margin is a fatal event and halts every task with a segment that spans it. 110 °C shuts down.
ENERGY grows. -/
def Obligations.PowerEvents : Prop :=
  (∀ (core dram rest leakage : Nat) (s : State),
    s.power.shutdown = false → s.power.winDone < winNow s →
    ∃ t, exec (.controlWindow core dram rest leakage) s = .next t ∧ t.power.tdpCap = s.power.tdpNext ∧
      t.power.mode = s.power.modeNext ∧ t.power.winDone = winNow s ∧
      t.power.dCap = nextDuty (if s.power.mode = true then core + dram + rest else modelPower s)
        (if s.power.mode = true then leakage else stepLeakage s.power.coreStep) (levels s).1 (levels s).2 s.power.tdpNext.toNat ∧
      (∀ p : SecIx, t.duty[p].sectorLim =
        nextDuty (sectorCurrent s p).1 (sectorCurrent s p).2 (if s.duty[p].levelCount = 0 then 16 else s.duty[p].levelSum)
          (if s.duty[p].levelCount = 0 then 1 else s.duty[p].levelCount) 200000) ∧
      t = { s with
            power := t.power
            act := t.act
            duty := t.duty
            ports := t.ports }) ∧
  (∀ p stat sum count cap d : Nat, 2 ≤ d → d ≤ 16 →
    1 ≤ nextDuty p stat sum count cap ∧ nextDuty p stat sum count cap ≤ 16 ∧
    (nextDuty p stat sum count cap = d → stat * sum + (p - stat) * count * d ≤ cap * sum) ∧
    (nextDuty p stat sum count cap < d → cap * sum < stat * sum + (p - stat) * count * d)) ∧
  (∀ (watts mean : Nat) (s : State),
    s.power.shutdown = false →
    ∃ t, exec (.packageSensorRead watts mean) s = .next t ∧
      (1650 < watts → Noted t 0x8301 2 0 ∧ t.power.guardUntil = winNow s + 2) ∧
      (s.power.tdpCap.toNat * 11 < mean * 10 → t.power.shutdown = true ∧ t.power.shutdownCause = 3 ∧
        t.power.thermtripN = false ∧ t.dram = [] ∧ Noted t 0x8302 3 0) ∧
      (watts ≤ 1650 → mean * 10 ≤ s.power.tdpCap.toNat * 11 → t = s)) ∧
  (∀ (r : Fin 29) (slack : Byte) (s : State),
    ∃ t, exec (.marginReport r slack) s = .next t ∧ t.regions[r].marginMin = slack ∧ t.cores = s.cores ∧
      (s.regions[r].warnTh.toNat < slack.toNat → s.regions[r].alarmTh.toNat < slack.toNat →
        t = { s with regions := t.regions }) ∧
      (slack.toNat ≤ s.regions[r].alarmTh.toNat → Noted t 0x8002 2 r.val ∧
        t.regions[r].alarmCount = satInc s.regions[r].alarmCount ∧
        (∀ h : r.val < 12, t.duty[(⟨r.val, h⟩ : SecIx)].marginUntil = winNow s + 2) ∧
        ∀ h : 12 ≤ r.val ∧ r.val < 24, (portOf t ⟨r.val - 12, by omega⟩).marginHalf = true)) ∧
  (∀ (r : Fin 29) (s : State),
    (∀ f, s.regions[r].calibrated = some f → f + 10000000 ≤ nsNow s) →
    exec (.calibration r) s = .next (modRegion s r fun x => { x with calibrated := some (nsNow s) })) ∧
  (∀ (p : SecIx) (ns : Nat) (s : State),
    s.regions[portRegion p].stretched (nsNow s) = false →
    ∃ t lost, exec (.droopStretch p ns) s = .next t ∧ lost ≤ 3 * ns / 10 ∧
      t = { s with freeCtr := s.freeCtr + 1, regions := s.regions.set (portRegion p) { s.regions[portRegion p] with
        stretchCount := satInc s.regions[portRegion p].stretchCount, stretchNs := satAdd s.regions[portRegion p].stretchNs ns
        lost := s.regions[portRegion p].lostBy (nsNow s), slow := (nsNow s, ns, lost) } }) ∧
  (∀ (x : Region) (a b : Nat), a ≤ b → x.slow.2.2 ≤ 3 * x.slow.2.1 / 10 →
    x.lostBy a ≤ x.lostBy b ∧ x.lostBy b ≤ x.lostBy a + 3 * (b - a) / 10 + 1) ∧
  (∀ (r : Fin 29) (s : State),
    ∃ t, exec (.lostLock r) s = .next t ∧ t.regions[r].locked = false ∧ t.regions[r].lostLock = true ∧ Noted t 0x8100 3 r.val ∧
      (∀ h : r.val < 12, t.duty[(⟨r.val, h⟩ : SecIx)].refused = true ∧
        ∀ i : SlotIx, s.tasks[i].live = true → bit s.tasks[i].sectors r.val = true → t.tasks[i].st = .faulted ∧ t.tasks[i].reason = 0xFE) ∧
      (∀ h : 12 ≤ r.val ∧ r.val < 24, (portOf t ⟨r.val - 12, by omega⟩).entries = [] ∧
        (portOf t ⟨r.val - 12, by omega⟩).queue = []) ∧
      (r.val = 24 → t.cxl.linkUp = false) ∧
      (r.val = 28 → t.power.shutdown = true)) ∧
  (∀ (x : SecIx) (s : State),
    ∃ t, exec (.crossingMarginLoss x) s = .next t ∧ bit t.xingAlarm x.val = true ∧ Noted t 0x2200 3 x.val ∧
      (∀ i : SlotIx, s.tasks[i].live = true →
        (∃ f ∈ s.tasks[i].segs, spansCrossing s ((segSectors f s.tasks[i].hdr.segSectors).flatMap sectorCores) x = true) →
        t.tasks[i].halting.isSome = true) ∧
      t = { s with
            xingAlarm := t.xingAlarm
            recorder := t.recorder
            tasks := t.tasks
            cores := t.cores
            freeCtr := t.freeCtr }) ∧
  (∀ (r : Fin 29) (deg : Byte) (s : State),
    ∃ t, exec (.junctionTemp r deg) s = .next t ∧ t.regions[r].temp = deg ∧
      (110 ≤ deg.toNat → t.power.shutdown = true ∧ (s.power.shutdown = false → t.power.shutdownCause = 1 ∧ Noted t 0x8203 3 r.val)) ∧
      (deg.toNat < 110 → t = { s with
                               regions := t.regions
                               recorder := t.recorder
                               power := t.power } ∧ t.power.shutdown = s.power.shutdown)) ∧
  (∀ (uj : Nat) (s : State),
    exec (.energyIntegrate uj) s = .next { s with power := { s.power with energy := s.power.energy + BitVec.ofNat 64 uj } })

/-- R378 to R385: once the hub cycle in which it came is over, the first of the arrived events reaches the recorder. Where the log was frozen in
that cycle a fatal one is held (eight at most); else a fatal one takes a place in the queue, and another one with a token does while fewer than 56 such wait. One entry
is written in a hub cycle: the oldest of a queue without fatal events, at FILLED and with the next number. A rate window refills
the buckets, and unless the log is frozen what was suppressed becomes summaries. Arming sets FILLED and NEXT_SEQ to 0 and fills
the buckets to the depth in force since the last boundary, but sets ARM_REFUSED where only others freeze the log. FREEZE is the requester's. -/
def Obligations.RecorderEvents : Prop :=
  (∀ (e : Event) (es : List Event) (s : State),
    s.recorder.arriving = e :: es → e.hub < hubCycle s →
    ∃ t, exec .eventQueue s = .next t ∧ t.recorder.arriving = (e :: es).erase (firstEvent e es) ∧
      t = { s with recorder := t.recorder, cxl := t.cxl, out := t.out } ∧
      (s.recorder.frozeIn (frozen s) (firstEvent e es).hub = true → (firstEvent e es).sev = 3 → s.recorder.held.length < 8 →
        t.recorder.held = s.recorder.held ++ [{ firstEvent e es with held := true, hub := 0 }] ∧
        t.recorder.queue = s.recorder.queue) ∧
      (s.recorder.frozeIn (frozen s) (firstEvent e es).hub = false → (firstEvent e es).sev = 3 → s.recorder.queue.length < 64 →
        t.recorder.queue = s.recorder.queue ++ [{ firstEvent e es with hub := 0 }]) ∧
      (s.recorder.frozeIn (frozen s) (firstEvent e es).hub = false → (firstEvent e es).sev ≠ 3 → s.recorder.queue.length < 64 →
        (s.recorder.queue.filter fun y => y.sev ≠ 3).length < 56 →
        0 < tget s.recorder.fullTokens s.recorder.buckets (firstEvent e es).code.toNat →
        t.recorder.queue = s.recorder.queue ++ [{ firstEvent e es with hub := 0 }])) ∧
  (∀ (e : Event) (es : List Event) (s : State),
    frozen s = false → s.recorder.wroteAt ≠ hubCycle s + 1 → s.recorder.held = [] → s.recorder.summaries = [] →
    s.recorder.queue = e :: es →
    (∀ v ∈ e :: es, v.sev ≠ 3) → s.recorder.filled < 8192 → twf noEvent s.recorder.log = true →
    ∃ t, exec .eventWrite s = .next t ∧ t.recorder.queue = es ∧ t.recorder.filled = s.recorder.filled + 1 ∧
      t.recorder.nextSeq = s.recorder.nextSeq + 1 ∧ t.recorder.wroteAt = hubCycle s + 1 ∧
      tget noEvent t.recorder.log s.recorder.filled = { e with seq := s.recorder.nextSeq } ∧
      (∀ n, n ≠ s.recorder.filled → tget noEvent t.recorder.log n = tget noEvent s.recorder.log n) ∧
      t = { s with
            recorder := t.recorder
            cxl := t.cxl
            out := t.out }) ∧
  (∀ (s : State), s.recorder.wroteAt = hubCycle s + 1 → exec .eventWrite s = .next s) ∧
  (∀ (s : State),
    s.recorder.boundary ≤ ftNow s →
    ∃ t, exec .rateWindow s = .next t ∧ t = { s with recorder := t.recorder } ∧ ftNow s < t.recorder.boundary ∧
      t.recorder.burstNow = s.recorder.burst ∧
      t.recorder.fullTokens = min s.recorder.burst (s.recorder.fullTokens + s.recorder.rlRate.toNat) ∧
      (frozen s = false → t.recorder.supp = [] ∧
        t.recorder.summaries.length = s.recorder.summaries.length + s.recorder.supp.length)) ∧
  (∀ (r : Req) (s : State),
    ∃ t, exec (.logArm r) s = .next t ∧ t = { s with recorder := t.recorder } ∧
      (if frozen s = true ∧ (reqCopy s r).freeze = false then
        t.recorder = { s.recorder with
                       armRefused := true
                       armRefusedAt := s.time.cycle + 1 }
       else t.recorder.filled = 0 ∧ t.recorder.nextSeq = 0 ∧ t.recorder.supp = [] ∧ t.recorder.buckets = [] ∧
        t.recorder.fullTokens = s.recorder.burstNow ∧ t.recorder.queue = s.recorder.queue)) ∧
  (∀ (r : Req) (s : State),
    (∃ t, exec (.logFreeze r) s = .next t ∧ frozen t = true ∧
      t = { modReq s r (fun x => { x with freeze := true }) with recorder := { s.recorder with frozeAt := t.recorder.frozeAt } } ∧
      (frozen s = false → t.recorder.frozeAt = hubCycle s)) ∧
    ∃ t, exec (.logUnfreeze r) s = .next t ∧
      t = { modReq s r (fun x => { x with freeze := false }) with recorder := { s.recorder with thawedAt := t.recorder.thawedAt } } ∧
      (frozen s = true → frozen t = false → t.recorder.thawedAt = hubCycle s))

/-! ### The mailbox -/

namespace Sys2Proof.Claims
open Sys2Proof Sys2Proof.Machine

/-- The path's mailbox is idle, a reset discards none of its writes (R315), nothing occupies the executor, and the device is not in recovery. -/
def mbReady (s : State) (p : Path) : Prop :=
  (p = .host → s.mbHost.busy = false ∧ s.cxl.inReset = false) ∧ mbOccupied s = false ∧ s.sec.fw ≠ .recovery

/-- The path's command has completed with a status and a result of `n` bytes. -/
def Replied (t : State) (p : Path) (status : Byte) (n : Nat) : Prop :=
  (mbOf t p).busy = false ∧ (mbOf t p).status = status ∧ (mbOf t p).resultLen = BitVec.ofNat 13 n

/-- What a command of the mailbox leaves as it was: cores, tasks, stacked memory, links, power and the recorder. -/
def MbFrame (s t : State) : Prop :=
  t = { s with
        mbHost := t.mbHost
        mbMgmt := t.mbMgmt
        cxl := t.cxl
        out := t.out
        sec := t.sec
        resv := t.resv
        freeCtr := t.freeCtr }

/-- No reservation is active, or comes before the end of a QUIESCE of `us` microseconds. -/
def unreserved (s : State) (us : Nat) : Prop :=
  ∀ (r : Fin 16) v, s.resv[r] = some v →
    v.active = false ∧ (ftNow s + 1000 * us < v.start.toNat ∨ v.stop.toNat ≤ ftNow s)

end Sys2Proof.Claims

/-- R393 to R397, R387: the commands that complete at once: GET_VERSION returns the mask 2; SET_VERSION takes version 1 only;
SET_QUANTUM takes 79 frames or more; RESERVE makes a reservation of a REALTIME task and returns its number; UNRESERVE ends one at
the next frame; SET_SIGNED_MODE and COMMIT_SVN raise what they name; LOG_READ returns entries to MGMT and is refused to HOST;
TEST_RESULT reports a known test. The rest of the device is as it was. -/
def Obligations.MailboxCommands : Prop :=
  (∀ (p : Path) (s : State),
    mbReady s p → ∃ t, exec (.getVersion p) s = .next t ∧ Replied t p 0 4 ∧ tget 0 (mbOf t p).data 0 = 2 ∧ MbFrame s t) ∧
  (∀ (p : Path) (v : W32) (s : State),
    mbReady s p → ∃ t, exec (.setVersion p v) s = .next t ∧ Replied t p (if v = 1 then 0 else 3) 0 ∧ MbFrame s t ∧
      (v = 1 → (mbOf t p).version = 1)) ∧
  (∀ (p : Path) (n : W32) (s : State),
    mbReady s p → ∃ t, exec (.setQuantum p n) s = .next t ∧ Replied t p (if 79 ≤ n.toNat then 0 else 3) 0 ∧ MbFrame s t ∧
      t.sec = (if 79 ≤ n.toNat then { s.sec with quantum := n.toNat } else s.sec)) ∧
  (∀ (p : Path) (i n : Fin 16) (slot sectors : W32) (m : BitVec 12) (a b : W64) (s : State),
    mbReady s p → slot.toNat = i.val → sectorMask sectors = some m → a.toNat % 640 = 0 → b.toNat % 640 = 0 → a.toNat < b.toNat →
    s.tasks[i].resident = true → s.tasks[i].hdr.flag 3 = true →
    (∀ u, u ≠ i → s.tasks[u].resident = true → s.tasks[u].sectors &&& m ≠ 0 → s.tasks[u].hdr.flag 4 = true) →
    (∀ (r : Fin 16) v, s.resv[r] = some v → v.meets m a b = false) →
    s.resv[n] = none → (∀ k, k < n → s.resv[k] ≠ none) → twf 0 (mbOf s p).data = true →
    ∃ t, exec (.reserve p slot sectors a b) s = .next t ∧ Replied t p 0 4 ∧ tget 0 (mbOf t p).data 0 = BitVec.ofNat 32 n.val ∧
      t.resv = s.resv.set n (some { task := i
                                    sectors := m
                                    start := a
                                    stop := b
                                    leadDone := false
                                    active := false }) ∧ MbFrame s t) ∧
  (∀ (p : Path) (n : Fin 16) (w : W32) (v : Resv) (s : State),
    mbReady s p → w.toNat = n.val → s.resv[n] = some v →
    ∃ t, exec (.unreserve p w) s = .next t ∧ Replied t p 0 0 ∧ MbFrame s t ∧
      t.resv = s.resv.set n (some { v with stop := BitVec.ofNat 64 (frameUp (ftNow s)) })) ∧
  (∀ (p : Path) (s : State),
    mbReady s p → ∃ t, exec (.setSignedMode p) s = .next t ∧ Replied t p 0 0 ∧ MbFrame s t ∧
      t.sec = { s.sec with signedMode := true }) ∧
  (∀ (p : Path) (s : State),
    mbReady s p → ∃ t, exec (.commitSvn p) s = .next t ∧ Replied t p 0 0 ∧ MbFrame s t ∧
      t.sec.minSvn.toNat = max s.sec.minSvn.toNat s.sec.svn.toNat) ∧
  (∀ (first count : W32) (s : State),
    mbReady s .mgmt → count.toNat ≤ 128 → first.toNat + count.toNat ≤ 8192 →
    ∃ t, exec (.logRead .mgmt first count) s = .next t ∧ Replied t .mgmt 0 (32 * count.toNat) ∧ MbFrame s t ∧
      OutMsg.logEntries ((List.range count.toNat).map fun i => tget noEvent s.recorder.log (first.toNat + i)) ∈ t.out) ∧
  (∀ (first count : W32) (s : State),
    mbReady s .host → ∃ t x, exec (.logRead .host first count) s = .next t ∧ Replied t .host x 0 ∧ MbFrame s t) ∧
  (∀ (p : Path) (n : W32) (x : SelfTest) (s : State),
    mbReady s p → (s.sec.tests.find? fun x => x.id == n.toNat) = some x → twf 0 (mbOf s p).data = true →
    ∃ t, exec (.testResult p n) s = .next t ∧ Replied t p 0 22 ∧ MbFrame s t ∧ tget 0 (mbOf t p).data 0 = testCode x)

/-- R399, R400, R124: a QUIESCE that no reservation bars stops fetching and holds every running PREEMPTIBLE task. When nothing
runs and no flit is on the Girth it takes the clock step that is written, and the rail begins to move to it, or, where a resident
blocks its changes, gives them up with DENIED; at a frame from then on, once the rail is there for a higher step, the buckles and
clock steps take effect. Where a task still runs, loads or is being saved at its deadline it gives up with TIMEOUT, and otherwise
its changes are checked then. Once the tasks that it held are restored it ends with its status, and until then it waits. A self-test that may
run at once is taken, one that may not is DEFERRED; a run reports the failing cores of its sectors; one not started in time is
dropped. -/
def Obligations.QuiesceAndTests : Prop :=
  (∀ (p : Path) (us : W32) (s : State),
    mbReady s p → s.quiesce = none → us.toNat ≤ 1000000 → unreserved s us.toNat →
    ∃ t z, exec (.quiesce p us) s = .next t ∧ t.quiesce = some z ∧ z.path = p ∧ z.deadline = nsNow s + 1000 * us.toNat ∧
      z.readyAt = none ∧ z.restoring = none ∧ (mbOf t p).busy = true ∧ t.dram = s.dram ∧
      (∀ i : SlotIx, i ∈ z.held ↔ (s.tasks[i].st = .running ∧ s.tasks[i].halting = none ∧ s.tasks[i].hdr.flag 4 = true)) ∧
      ∀ i : SlotIx, t.tasks[i] =
        (if s.tasks[i].st = .running ∧ s.tasks[i].halting = none ∧ s.tasks[i].hdr.flag 4 = true then
          { s.tasks[i] with
            st := .preempting
            hold := true
            saved := [] }
         else s.tasks[i])) ∧
  (∀ (z : Quiesce) (s : State),
    s.quiesce = some z → z.restoring = none → z.readyAt = none → quiesceWaits s = false → s.flits = [] →
    (quiesceBlocked s = false →
      ∃ t, exec .quiesceApply s = .next t ∧
        t.quiesce = some { z with readyAt := some (nsNow s), step := s.power.nextCoreStep } ∧
        t.power.coreStep = s.power.coreStep ∧ t = { s with
                                                    quiesce := t.quiesce
                                                    power := t.power
                                                    freeCtr := t.freeCtr }) ∧
    (quiesceBlocked s = true → exec .quiesceApply s = .next { s with quiesce := some { z with restoring := some 7 } })) ∧
  (∀ (z : Quiesce) (ft : Nat) (s : State),
    s.quiesce = some z → z.restoring = none → z.readyAt = some ft → atFrame s = true → ft ≤ nsNow s → railReady s z = true →
    ∃ t, exec .quiesceApply s = .next t ∧ t.quiesce = some { z with restoring := some 0 } ∧ t.buckle = s.buckleNext ∧
      t.power.coreStep = z.step ∧ t.power.quadStep = s.power.nextQuadStep ∧
      t.power.hubStep = s.power.nextHubStep ∧ t.tasks = s.tasks ∧ t.dram = s.dram) ∧
  (∀ (z : Quiesce) (x : Byte) (s : State),
    s.quiesce = some z → z.restoring = some x →
    (heldRestored s z = true → s.mbQueue = [] →
      ∃ t, exec .quiesceApply s = .next t ∧ t.quiesce = none ∧ Replied t z.path x 0 ∧ t.tasks = s.tasks ∧ t.cores = s.cores ∧
        t.dram = s.dram) ∧
    (heldRestored s z = false → exec .quiesceApply s = .next s)) ∧
  (∀ (z : Quiesce) (s : State),
    s.quiesce = some z → z.restoring = none → z.readyAt = none → z.deadline ≤ nsNow s → quiesceWaits s = true →
    (quiesceBusy s = true → exec .quiesceTimeout s = .next { s with quiesce := some { z with restoring := some 8 } }) ∧
    (quiesceBusy s = false → exec .quiesceTimeout s = .next (checkChanges z s))) ∧
  (∀ (p : Path) (sectors kind : W32) (m : BitVec 12) (s : State),
    mbReady s p → sectorMask sectors = some m → kind ≠ 0 → kind.toNat ≤ 3 →
    ∃ t x, exec (.selfTest p sectors kind) s = .next t ∧ t.sec.tests = s.sec.tests ++ [x] ∧ x.id = s.sec.testCount ∧
      x.sectors = m ∧ x.st = 0 ∧ t.tasks = s.tasks ∧ t.cores = s.cores ∧ t.dram = s.dram ∧
      (if canTest s m (kind.setWidth 2) = true then x.path = some p ∧ (mbOf t p).busy = true
       else x.path = none ∧ Replied t p 6 4)) ∧
  (∀ (n : Nat) (failing : BitVec 144) (x : SelfTest) (s : State),
    (s.sec.tests.find? fun x => x.id == n && x.st == 0) = some x → canTest s x.sectors x.kind = true → s.mbQueue = [] →
    ∃ t, exec (.selfTestRun n failing) s = .next t ∧ t.tasks = s.tasks ∧ t.dram = s.dram ∧
      { x with
        st := if failingIn x.sectors failing = 0 then 1 else 2
        failing := failingIn x.sectors failing
        path := none } ∈ t.sec.tests ∧ (∀ p, x.path = some p → Replied t p 0 4)) ∧
  (∀ (n : Nat) (x : SelfTest) (s : State),
    (s.sec.tests.find? fun x => x.id == n && x.st == 0) = some x →
    x.since + 1000000 * atLeast1 s.stTimeout.toNat ≤ nsNow s → s.mbQueue = [] →
    ∃ t, exec (.selfTestTimeout n) s = .next t ∧ t.tasks = s.tasks ∧ t.cores = s.cores ∧ t.dram = s.dram ∧
      { x with
        st := 3
        path := none } ∈ t.sec.tests ∧ (∀ p, x.path = some p → Replied t p 8 0))

/-! ### Registers -/

namespace Sys2Proof.Claims
open Sys2Proof Sys2Proof.Machine

/-- A read of requester `r` at `off` reaches its register (R403, R405, R407): the block answers and serves the requester, the
select value names a unit, and its clock runs. -/
def readable (s : State) (r : Req) (off : Nat) : Prop :=
  answers s off = true ∧ served r off = true ∧ selValid (reqCopy s r) off = true ∧ unitLive s (reqCopy s r) off = true

/-- So does a write, which no reset discards (R315). -/
def reaches (s : State) (r : Req) (off : Nat) : Prop := readable s r off ∧ discards s r = false

/-- The requester holds no latched high half for `off` (R7). -/
def unlatched (s : State) (r : Req) (off : Nat) : Prop := ∀ q, (reqCopy s r).latch = some q → off ≠ q.1 + 4

/-- Some counters that a read clears, with their offsets. -/
def readCleared : List (Nat × (State → W32)) :=
  [(0x10218, fun s => s.gregs.dropped), (0x1021C, fun s => s.gregs.govf), (0x10224, fun s => s.gregs.releases),
   (0x54000C, fun s => s.recorder.dropCount), (0x540010, fun s => s.recorder.queueDrop),
   (0x540014, fun s => s.recorder.suppressed), (0x540018, fun s => s.recorder.freezeCount),
   (0x700018, fun s => s.time.lateCount)]

/-- Only the requesters' own copies differ. -/
def OnlyCopies (s t : State) : Prop :=
  t = { s with
        reqHost := t.reqHost
        reqMgmt := t.reqMgmt
        reqFw := t.reqFw }

end Sys2Proof.Claims

/-- R402 to R407: a read of a counter that a read
clears answers it and clears it; an aligned write of a register with a writable field acts on its fields, and one of a register
without is ignored with a notice; R315: from a hot reset until its link is up the host's writes are discarded; an MCTP access beyond BAR0 or misaligned answers status 1 without an access, any other status 0, and the
answer names its offset. -/
def Obligations.RegisterAccess : Prop :=
  (∀ q ∈ readCleared, ∀ (r : Req) (off : W32) (s : State),
    off.toNat = q.1 → readable s r q.1 → unlatched s r q.1 →
    ∃ t, exec (.readClear r off 4) s = .next t ∧ t.out = s.out ++ [.readData r ((q.2 s).setWidth 64)] ∧ q.2 t = 0 ∧
      t.cores = s.cores ∧ t.tasks = s.tasks ∧ t.dram = s.dram) ∧
  (∀ (q : Fin 8) (off v : W32) (x : W64) (s : State),
    s.cxl.inReset = true →
    exec (.registerWrite .host off 4 x) s = .next s ∧ exec (.sqDoorbell .host q v) s = .next s ∧ exec (.cqDoorbell .host q v) s = .next s ∧
      exec (.queueEnable .host) s = .next s) ∧
  (∀ (r : Req) (off : W32) (v : W64) (s : State),
    reaches s r off.toNat → regKind off.toNat = some true → off.toNat % 4 = 0 →
    exec (.registerWrite r off 4 v) s = .next (poke r off.toNat (loW v) s)) ∧
  (∀ (r : Req) (v : W64) (s : State),
    reaches s r 0x100 →
    ∃ t, exec (.registerWrite r 0x100 4 v) s = .next t ∧ (reqCopy t r).coreSel = v.setWidth 8 ∧ OnlyCopies s t) ∧
  (∀ (r : Req) (off : W32) (v : W64) (s : State),
    discards s r = false → awake s r off.toNat = true → regKind off.toNat ≠ some true → off.toNat % 4 = 0 →
    ∃ t, exec (.registerWrite r off 4 v) s = .next t ∧ Noted t 0x0203 1 (reqNumber r) ∧ t = { s with recorder := t.recorder }) ∧
  (∀ (off : W32) (s : State),
    ∃ t, exec (.mgmtRead32 off) s = .next t ∧
      (if off.toNat % 4 ≠ 0 ∨ 2 ^ 25 ≤ off.toNat then t = { s with out := s.out ++ [.mctp 2 1 off 0] }
       else t.out = s.out ++ [.mctp 2 0 off ((read32 .mgmt off.toNat s).1.setWidth 64)] ∧ t.dram = s.dram)) ∧
  (∀ (off : W32) (s : State),
    ∃ t, exec (.mgmtRead64 off) s = .next t ∧
      (if off.toNat % 8 ≠ 0 ∨ 2 ^ 25 ≤ off.toNat then t = { s with out := s.out ++ [.mctp 2 1 off 0] }
       else t.out = s.out ++ [.mctp 2 0 off (read64 .mgmt off.toNat s).1] ∧ t.dram = s.dram)) ∧
  (∀ (off data : W32) (s : State),
    ∃ t, exec (.mgmtWrite32 off data) s = .next t ∧
      (if off.toNat % 4 ≠ 0 ∨ 2 ^ 25 ≤ off.toNat then t = { s with out := s.out ++ [.mctp 2 1 off (data.setWidth 64)] }
       else t.out.getLast? = some (.mctp 2 0 off (data.setWidth 64)) ∧
        (reaches s .mgmt off.toNat → regKind off.toNat = some true →
          t = emit (poke .mgmt off.toNat data s) (.mctp 2 0 off (data.setWidth 64)))))

/-- R59, R62, R117, R220, R310, R327, R356, R398: the registers with a command of their own. CFG_COMMIT makes the shadow the
pending set, which a unit takes at its first boundary after the hub cycle of the write. TAG_CHECK is written on a core of no task, and a write on another
is ignored with a notice. RELEASE frees a FAULTED slot whose segments are Girth-idle, waits where they are not, and is ignored
with a notice on any other. ABORT halts a live task with REASON 0x80. CMD_TAIL and the doorbells take a value in range; one out
of range leaves the tail or head as it was, with a notice. ENABLE starts a queue. VOLT_OFFSET retargets the rail within its
limits. A link's ENABLE starts training, R390: from the stored seeds where they match, or holds it DOWN. -/
def Obligations.RegisterCommands : Prop :=
  (∀ (r : Req) (s : State),
    reaches s r 0x10D00 →
    ∃ t, exec (.cfgCommit r) s = .next t ∧ t.staging.pendingSet = s.staging.shadow ∧ t.staging.epoch = s.staging.epoch + 1 ∧
      t.staging.received = some (s.time.cycle, hubCycle s) ∧ t.staging.unit = s.staging.unit ∧ t = { s with staging := t.staging }) ∧
  (∀ (u : Fin 36) (n h : Nat) (s : State),
    s.staging.received = some (n, h) → n < s.time.cycle → h ≠ hubCycle s → s.staging.reached[u] ≠ s.staging.epoch →
    (if 24 ≤ u.val then atBeat s else atFrame s) = true →
    ∃ t, exec (.cfgApply u) s = .next t ∧ t.staging.unit[u] = s.staging.pendingSet ∧ t.staging.reached[u] = s.staging.epoch ∧
      (∀ v, v ≠ u → t.staging.unit[v] = s.staging.unit[v]) ∧ t = { s with
                                                                  staging := t.staging
                                                                  recorder := t.recorder }) ∧
  (∀ (r : Req) (v : Bool) (c : CoreIx) (s : State),
    reaches s r 0x100400 → c = (reqCopy s r).core →
    ∃ t, exec (.tagCheckWrite r v) s = .next t ∧
      (if runningOn s c = none then t.cores[c].girth.tagCheck = v ∧ OnlyCore s t c
       else t.cores = s.cores ∧ Noted t 0x0203 1 (reqNumber r))) ∧
  (∀ (r : Req) (i : SlotIx) (s : State),
    reaches s r (0x10104 + 8 * i.val) →
    ∃ t, exec (.taskRelease r i) s = .next t ∧ OtherTasks s t i ∧ t.dram = s.dram ∧
      (if s.tasks[i].st = .faulted then
        t.tasks[i] = (if girthIdle s s.tasks[i] = true then Task.reset else { s.tasks[i] with autoRelease := true })
       else t.tasks[i] = s.tasks[i] ∧ Noted t 0x0203 1 (reqNumber r))) ∧
  (∀ (r : Req) (i : SlotIx) (s : State),
    reaches s r (0x10104 + 8 * i.val) →
    ∃ t, exec (.taskAbort r i) s = .next t ∧ OtherTasks s t i ∧ t.dram = s.dram ∧
      (if s.tasks[i].live = true ∧ s.tasks[i].halting = none then
        t.tasks[i] = { s.tasks[i] with
                       halting := some 0x80
                       haltAt := s.time.cycle }
       else s.tasks[i].live = false → t = s)) ∧
  (∀ (r : Req) (i : SlotIx) (v : W32) (s : State),
    reaches s r (0x10300 + 32 * i.val) →
    ∃ t, exec (.cmdTailWrite r i v) s = .next t ∧ OtherTasks s t i ∧ t.cores = s.cores ∧
      (if 0 < (v - s.tasks[i].cmd.tail).toInt ∧ (v - (s.tasks[i].cmd.done + BitVec.ofNat 32 s.tasks[i].cmd.n)).toInt ≤ 0 then
        t.tasks[i].cmd = { s.tasks[i].cmd with tail := v }
       else t.tasks = s.tasks ∧ Noted t 0x0203 1 (reqNumber r))) ∧
  (∀ (r : Req) (q : Fin 8) (v : W32) (s : State),
    reaches s r (0x10A00 + 8 * q.val) →
    ∃ t, exec (.sqDoorbell r q v) s = .next t ∧ (∀ o, o ≠ q → t.queues[o] = s.queues[o]) ∧
      (if s.queues[q].enable = true ∧ v.toNat % 4096 < s.queues[q].sqSize.toNat then
        t.queues[q] = { s.queues[q] with sqTail := BitVec.ofNat 12 v.toNat }
       else t.queues[q] = { s.queues[q] with
                           error := true
                           errorAt := s.time.cycle + 1 } ∧ Noted t 0x6202 1 q.val)) ∧
  (∀ (r : Req) (q : Fin 8) (v : W32) (s : State),
    reaches s r (0x10A04 + 8 * q.val) →
    ∃ t, exec (.cqDoorbell r q v) s = .next t ∧ t.cores = s.cores ∧ t.tasks = s.tasks ∧
      (if s.queues[q].enable = true ∧ v.toNat % 4096 < s.queues[q].cqSize.toNat then
        t.queues[q].cqHead = BitVec.ofNat 12 v.toNat ∧
        (s.queues[q].held = [] → t.queues[q] = { s.queues[q] with
                                                 cqHead := BitVec.ofNat 12 v.toNat
                                                 full := false })
       else t.queues[q] = { s.queues[q] with
                           error := true
                           errorAt := s.time.cycle + 1 } ∧ Noted t 0x6202 1 q.val)) ∧
  (∀ (r : Req) (q : Fin 8) (s : State),
    reaches s r 0x10B18 → q = (reqCopy s r).queue →
    ∃ t, exec (.queueEnable r) s = .next t ∧ t.queues[q].enable = true ∧ t = { s with queues := t.queues } ∧
      (∀ o, o ≠ q → t.queues[o] = s.queues[o]) ∧
      (s.queues[q].enable = false → t.queues[q].sqHead = 0 ∧ t.queues[q].sqTail = 0 ∧ t.queues[q].cqHead = 0 ∧
        t.queues[q].cqTail = 0 ∧ t.queues[q].phase = true)) ∧
  (∀ (r : Req) (v : W32) (s : State),
    reaches s r 0x400020 → -8 ≤ (v.setWidth 5 : BitVec 5).toInt → (v.setWidth 5 : BitVec 5).toInt ≤ 8 →
    ∃ t, exec (.voltOffsetWrite r v) s = .next t ∧ t.power.voltOffset = v.setWidth 5 ∧ 620 ≤ t.power.vto.toNat ∧
      t.power.vto.toNat ≤ 800 ∧ t.power.railAt = nsNow s ∧ t = { s with
                                                               power := t.power
                                                               freeCtr := t.freeCtr }) ∧
  (∀ (r : Req) (v : W32) (p : Fin 8) (s : State),
    reaches s r 0x300000 → p = (reqCopy s r).port →
    ∃ t, exec (.portEnable r v) s = .next t ∧ (∀ o, o ≠ p → t.links[o] = s.links[o]) ∧ t = { s with links := t.links } ∧
      t.links[p].enable = v.getLsbD 0 ∧
      (v.getLsbD 0 = false → t.links[p].st = .down ∧ t.links[p].replay = [] ∧ t.links[p].width = 0) ∧
      (v.getLsbD 0 = true → s.links[p].enable = false → t.links[p].st = .training ∧ t.links[p].fromSeeds = seedsMatch s p))

/-! ### The host port and resets -/

namespace Sys2Proof.Claims
open Sys2Proof Sys2Proof.Machine

/-- The request of class 1 to which `n` bytes of a request to the window at DPA offset `d` become (R306). -/
def InWindow (s t : State) (who : Agent) (x : ExtReq) (d n : Nat) : Prop :=
  ∃ r, t.fabric = s.fabric ++ [r] ∧ r.agent = who ∧ r.write = x.write ∧ r.addr = s.cxl.hdmBase.toNat * 2 ^ 28 + d ∧
    r.len = n ∧ r.rt = false ∧ r.deadline = BitVec.ofNat 32 (ftNow s + bitsOf (cfgOf s 20).memHorizon 0 16) ∧
    t = { s with
          fabric := t.fabric
          nextId := t.nextId }

/-- The queues, the vectors and the host's own copies are at reset (R314, R409). -/
def IoReset (t : State) : Prop :=
  t.queues = Vector.replicate 8 Queue.reset ∧ t.reqHost = ReqCopy.reset ∧ t.cxl.masked = [] ∧ t.cxl.pendingBits = []

/-- No slow-tier request and no companion's tag is outstanding after a reset: each stream's request has failed, and a companion that had
tags is disabled (R203, R258, R315). -/
def SlowEnded (s t : State) : Prop :=
  t.cxl.outstanding = [] ∧ t.cxl.waiting = [] ∧ t.cxl.slow = [] ∧
  (∀ i : Fin 8, t.rhaor[i].tags = [] ∧ (s.rhaor[i].tags ≠ [] → t.rhaor[i].enable = false)) ∧
  ∀ q ∈ s.cxl.slow, ∀ c i, q.req.agent = .stream c i → ∃ x ∈ t.resps, x.req = q.req ∧ x.failed = true

/-- The DPA window of decoder 0. -/
def inHdm (s : State) (a : Nat) : Prop := s.cxl.hdmBase.toNat * 2 ^ 28 ≤ a ∧ a < s.cxl.hdmBase.toNat * 2 ^ 28 + windowBytes s

end Sys2Proof.Claims

/-- R294 to R309: a host request within one line of the committed window's host physical range, and a peer's for each 256 B
granule, becomes a request to stacked memory in class 1 at the DPA that its address names; a peer's outside gets an unsupported
completion. The last of a slow-tier request's messages to be answered answers it, with an error where one failed, and any
earlier one is only taken off; an error or an overdue message counts and fails. R300: a write of
part of a line first reads the line, and then writes it whole. A snoop is answered. The link comes up, in 68 B
mode without UIO, back-invalidation and companions. The decoder is committed where it fits, and left as it was where it does
not. An unmasked vector sends what was pending. Discovery and CDAT are answered. The last awaited snoop response lets its access
go on. -/
def Obligations.HostPort : Prop :=
  (∀ (x : ExtReq) (n d : Nat) (s : State),
    n = extBytes x → s.cxl.linkUp = true → s.cxl.memEn = true → n ≠ 0 → x.addr.toNat % 64 + n ≤ 64 →
    dpaOf s x.addr.toNat = some d →
    ∃ t, exec (.hostMemRequest x) s = .next t ∧ InWindow s t .host x d n) ∧
  (∀ (x : ExtReq) (n d : Nat) (s : State),
    n = extBytes x → s.cxl.linkUp = true → s.cxl.uioEn = true → s.cxl.memEn = true → n ≠ 0 → x.addr.toNat % 256 + n ≤ 256 →
    dpaOf s x.addr.toNat = some d → (dpaOf s (x.addr.toNat + n - 1)).isSome = true →
    ∃ t, exec (.uioPeerRequest x) s = .next t ∧ InWindow s t .peer x d n) ∧
  (∀ (x : ExtReq) (n : Nat) (s : State),
    n = extBytes x → s.cxl.linkUp = true → s.cxl.uioEn = true → n ≠ 0 → n ≤ 256 →
    (s.cxl.memEn = false ∨ dpaOf s x.addr.toNat = none ∨ dpaOf s (x.addr.toNat + n - 1) = none) →
    exec (.uioPeerRequest x) s = .next { s with out := s.out ++ [.unsupported] }) ∧
  (∀ (x : ExtReq) (n d e : Nat) (s : State),
    n = extBytes x → s.cxl.linkUp = true → s.cxl.uioEn = true → s.cxl.memEn = true → n ≤ 256 → 256 < x.addr.toNat % 256 + n →
    dpaOf s x.addr.toNat = some d → dpaOf s ((x.addr.toNat / 256 + 1) * 256) = some e →
    (dpaOf s (x.addr.toNat + n - 1)).isSome = true →
    ∃ t a b, exec (.uioPeerRequest x) s = .next t ∧ t.fabric = s.fabric ++ [a, b] ∧ a.write = x.write ∧ b.write = x.write ∧
      a.addr = s.cxl.hdmBase.toNat * 2 ^ 28 + d ∧ b.addr = s.cxl.hdmBase.toNat * 2 ^ 28 + e ∧ a.len = 256 - x.addr.toNat % 256 ∧
      a.len + b.len = n ∧ t = { s with
                                fabric := t.fabric
                                nextId := t.nextId }) ∧
  (∀ (id : Nat) (a : SlowAnswer) (q : MemReq × Nat) (v : SlowReq) (s : State),
    (s.cxl.outstanding.find? fun q => q.1.id == id) = some q → (s.cxl.slow.find? fun u => u.left.contains id) = some v →
    s.cxl.waiting = [] → (∀ b p, a = .data b p → q.1.write = false) → (a = .done → q.1.write = true) →
    (v.req.write = true → q.1.write = false → a = .error) →
    (v.left = [id] → ∀ c i, v.req.agent = .stream c i →
      ∃ t x, exec (.cxlResponse id a) s = .next t ∧ t.cxl.outstanding = s.cxl.outstanding.filter (fun q => q.1.id != id) ∧
        t.resps = s.resps ++ [x] ∧ x.req = v.req ∧ (x.failed = true ↔ a = .error ∨ v.failed = true) ∧
        t.cores = s.cores ∧ t.dram = s.dram) ∧
    (v.left.erase id ≠ [] →
      ∃ t u, exec (.cxlResponse id a) s = .next t ∧ t.cxl.outstanding = s.cxl.outstanding.filter (fun q => q.1.id != id) ∧
        t.resps = s.resps ∧ u ∈ t.cxl.slow ∧ u.req = v.req ∧ u.left = v.left.erase id ∧ t.cores = s.cores ∧ t.dram = s.dram)) ∧
  (∀ (id : Nat) (bytes : List Byte) (poison : Bool) (q : MemReq × Nat) (v : SlowReq) (s : State),
    (s.cxl.outstanding.find? fun q => q.1.id == id) = some q → (s.cxl.slow.find? fun u => u.left.contains id) = some v →
    q.1.id = id → s.cxl.waiting = [] → q.1.write = false → v.req.write = true →
    ∃ t u w, exec (.cxlResponse id (.data bytes poison)) s = .next t ∧ u ∈ t.cxl.slow ∧ u.req = v.req ∧
      u.left = s.nextId :: v.left.erase id ∧ w = mergedLine v.req s.nextId q.1.addr (padTo q.1.len bytes) poison ∧ w.len = 64 ∧
      w.write = true ∧ (w ∈ t.cxl.waiting ∨ ∃ o ∈ t.cxl.outstanding, o.1 = w) ∧ t.resps = s.resps ∧ t.cores = s.cores ∧
      t.dram = s.dram) ∧
  (∀ (id : Nat) (q : MemReq × Nat) (v : SlowReq) (s : State),
    (s.cxl.outstanding.find? fun q => q.1.id == id) = some q → (s.cxl.slow.find? fun u => u.left.contains id) = some v →
    s.cxl.waiting = [] → q.2 + ccOf s (1000 * atLeast1 s.cxl.timeout.toNat) < s.time.cycle → v.left = [id] →
    ∀ c i, v.req.agent = .stream c i →
    ∃ t x, exec (.cxlTimeout id) s = .next t ∧ t.cxl.outstanding = s.cxl.outstanding.filter (fun q => q.1.id != id) ∧
      t.resps = s.resps ++ [x] ∧ x.req = v.req ∧ x.failed = true ∧ t.cores = s.cores ∧ t.dram = s.dram ∧
      (if byUio q.1.addr = true then t.cxl.uioErr = satInc s.cxl.uioErr else t.cxl.cacheErr = satInc s.cxl.cacheErr)) ∧
  (∀ (a b : W16) (s : State),
    s.cxl.linkUp = true → s.cxl.outstanding = [] → s.sec.fw = .ready →
    exec (.slowLatMeasure a b) s = .next { s with cxl := { s.cxl with
                                                             slowLat := a
                                                             uioLat := b } }) ∧
  (∀ (w : Nat) (rate flit : BitVec 2) (s : State),
    s.cxl.linkUp = false → (w = 4 ∨ w = 8 ∨ w = 16) → flit ≠ 3 →
    ∃ t, exec (.cxlLinkUp w rate flit) s = .next t ∧ t.cxl.linkUp = true ∧ t.cxl.width.toNat = w ∧ t.cxl.flit = flit ∧
      (t.cxl.uioEn = true ↔ flit ≠ 0) ∧ (t.cxl.biEn = true ↔ flit ≠ 0) ∧
      (flit = 0 → Noted t 0x6201 1 0 ∧ ∀ c : Fin 8, t.rhaor[c].enable = false) ∧
      (flit ≠ 0 → t.rhaor = s.rhaor) ∧
      t = { s with
            cxl := t.cxl
            rhaor := t.rhaor
            recorder := t.recorder }) ∧
  (∀ (line : W64) (s : State), exec (.hostSnoop line) s = .next { s with out := s.out ++ [.snoopResp line] }) ∧
  (∀ (line : W64) (m : Nat × Bool × MemReq) (s : State),
    (s.cxl.snoops.filter fun q => q.1 == line.toNat) = [m] →
    (∀ q ∈ s.cxl.snoops, q.1 ≠ line.toNat → q.2.2.id ≠ m.2.2.id) →
    ∃ t, exec (.bisnpResponse line) s = .next t ∧ t.fabric = { m.2.2 with snooped := true } :: s.fabric ∧
      (∀ q ∈ t.cxl.snoops, q.1 ≠ line.toNat) ∧ t = { s with
                                                     cxl := t.cxl
                                                     fabric := t.fabric }) ∧
  (∀ (d : HdmDecoder) (s : State),
    (∃ t, exec (.hdmDecoderCommit none) s = .next t ∧ t.cxl.memEn = false ∧ t.cxl.filter = [] ∧
      t = { s with cxl := t.cxl }) ∧
    (if s.cxl.biEn = true ∧ 1 ≤ s.cxl.hdmSize.toNat ∧ s.cxl.hdmSize.toNat ≤ 256 ∧
        s.cxl.hdmBase.toNat + s.cxl.hdmSize.toNat ≤ 1152 ∧ d.ways ∈ [1, 2, 4, 8, 16] ∧
        d.gran ∈ [256, 512, 1024, 2048, 4096, 8192, 16384]
     then exec (.hdmDecoderCommit (some d)) s = .next { s with cxl := { s.cxl with
                                                                                     memEn := true
                                                                                     hpaBase := d.base
                                                                                     ways := d.ways
                                                                                     gran := d.gran } }
     else exec (.hdmDecoderCommit (some d)) s = .next s)) ∧
  (∀ (on : Bool) (s : State), exec (.cacheEnable on) s = .next { s with cxl := { s.cxl with cacheEn := on } }) ∧
  (∀ (v : Byte) (s : State),
    twf true s.cxl.masked = true → twf false s.cxl.pendingBits = true →
    ∃ t, exec (.msixVectorUnmask v) s = .next t ∧ tget true t.cxl.masked v.toNat = false ∧
      tget false t.cxl.pendingBits v.toNat = false ∧ t = { s with
                                                           cxl := t.cxl
                                                           out := t.out } ∧
      t.out = (if tget false s.cxl.pendingBits v.toNat = true ∧ s.cxl.linkUp = true then s.out ++ [.msix v] else s.out)) ∧
  (∀ (s : State),
    (∃ ps, exec (.cdatTableAccess true) s = .next { s with out := s.out ++ [.doeProtocols ps] } ∧ .cdatAccess ∈ ps ∧ .spdm ∈ ps) ∧
    ∃ es, exec (.cdatTableAccess false) s = .next { s with out := s.out ++ [.cdat es] } ∧ .dsmas 0 (windowBytes s) ∈ es)

/-- R314, R315, R374, R386 to R394: PERST_N ends live tasks as FAULTED with REASON 0xFE, empties stacked memory and resets the cores,
keeping the log and ENERGY. A hot reset, an FLR and a CXL Reset reset the queues, the vectors and the host's copies,
fail the slow-tier requests that are outstanding, and retire the tags of companions (disabling them, log 120); a hot reset
also takes the link down, uncommits the window and clears Cache_Enable, and a CXL Reset does the last two and may zero the
window. Power-up locks the hub's generator and takes an image that the ROM accepts, or recovers with a fatal event. The stacks'
training ends with memory zero and READY. An update writes the slot that does not run. SPDM requests are answered, one for measurements
with the blocks of R392, one for the certificate with the identity number, the public key and the chain. Removed power loses the log and ENERGY too. -/
def Obligations.Resets : Prop :=
  (∀ (s : State),
    tooHot s = false →
    ∃ t, exec .perstN s = .next t ∧ t.dram = [] ∧ t.cores = State.reset.cores ∧ t.sec.fw = .booting ∧ t.pending = s.pending ∧
      (∀ i : SlotIx, t.tasks[i] = (if s.tasks[i].live = true then { Task.reset with
                                                                    st := .faulted
                                                                    reason := 0xFE }
                                   else Task.reset)) ∧
      t.recorder.log = s.recorder.log ∧ t.recorder.filled = s.recorder.filled ∧ t.power.energy = s.power.energy) ∧
  (∀ (s : State),
    ∃ t, exec .hotReset s = .next t ∧ IoReset t ∧ t.cxl.memEn = false ∧ t.cxl.linkUp = false ∧ t.cxl.cacheEn = false ∧
      t.dram = s.dram ∧ SlowEnded s t ∧ ∀ i : SlotIx, s.tasks[i].queue = none → t.tasks[i] = s.tasks[i]) ∧
  (∀ (s : State),
    ∃ t, exec .flr s = .next t ∧ IoReset t ∧ SlowEnded s t ∧ t.cxl.memEn = s.cxl.memEn ∧ t.cxl.linkUp = s.cxl.linkUp ∧ t.dram = s.dram ∧
      ∀ i : SlotIx, s.tasks[i].queue = none → t.tasks[i] = s.tasks[i]) ∧
  (∀ (clr : Bool) (s : State),
    ∃ t, exec (.cxlReset clr) s = .next t ∧ IoReset t ∧ SlowEnded s t ∧ t.cxl.memEn = false ∧ t.cxl.cacheEn = false ∧ t.cxl.linkUp = s.cxl.linkUp ∧
      (∀ a, clr = true → inHdm s a → readByte t.dram a = 0) ∧
      ∀ a, (clr = false ∨ ¬inHdm s a) → readByte t.dram a = readByte s.dram a) ∧
  (∀ (a b : FwImage) (f : Fuses) (s : State),
    s.sec.fw = .booting → s.regions[(28 : Fin 29)].locked = false →
    ∃ t, exec (.powerUp a b f) s = .next t ∧ t.regions[(28 : Fin 29)].locked = true ∧ t.dram = s.dram ∧ t.cores = s.cores ∧
      t.sec.fused = true ∧
      (if bootAccepts t t.sec.flashA = true ∨ bootAccepts t t.sec.flashB = true then
        t.sec.fw = .booting ∧ t.sec.svn = (if t.sec.fwSlot = true then t.sec.flashB.svn else t.sec.flashA.svn)
       else t.sec.fw = .recovery ∧ Noted t 0xA003 3 0) ∧
      (s.sec.fused = false → t.sec.flashA = a ∧ t.sec.flashB = b ∧ t.sec.minSvn = f.minSvn ∧ t.sec.idn = f.idn ∧
        t.sec.idKey = f.idKey ∧ t.sec.chain = f.chain)) ∧
  (∀ (s : State),
    s.sec.fw = .booting → s.regions[(28 : Fin 29)].locked = true →
    ∃ t, exec .stackInitDone s = .next t ∧ t.sec = { s.sec with fw := .ready } ∧ t.dram = [] ∧ t.dramPoison = [] ∧
      (∀ r : Fin 29, t.regions[r].locked = true) ∧ t.cxl.memActive = true ∧ t.cores = s.cores ∧ t.tasks = s.tasks) ∧
  (∀ (svn : W16) (img : FwImage) (s : State),
    s.sec.fw ≠ .booting →
    (s.sec.updating = false → ∃ t, exec (.firmwareUpdate (.start svn)) s = .next t ∧ t.sec = { s.sec with updating := true } ∧
      Noted t 0xA301 1 0) ∧
    (s.sec.updating = true → ∃ t, exec (.firmwareUpdate (.fail svn)) s = .next t ∧ t.sec = { s.sec with updating := false } ∧
      Noted t 0xA303 2 0) ∧
    (s.sec.updating = true → ∃ t, exec (.firmwareUpdate (.finish img)) s = .next t ∧ t = { s with sec := t.sec } ∧
      t.sec.updating = false ∧ (if s.sec.fwSlot = true then t.sec.flashA = img ∧ t.sec.flashB = s.sec.flashB
                                else t.sec.flashB = img ∧ t.sec.flashA = s.sec.flashA))) ∧
  (∀ (m : Spdm) (s : State),
    s.sec.fw = .ready →
    (∀ n, m = .measurements n →
      ∃ t, exec (.spdmMessage m) s = .next t ∧ t = { s with
                                                     out := t.out
                                                     freeCtr := t.freeCtr } ∧
        (if n = 0x12 ∨ n = 0x13 then
          ∃ x, t.out = s.out ++ [.measured x] ∧ x.svn = s.sec.svn ∧ x.signedFuse = s.sec.signedFuse ∧ x.minSvn = s.sec.minSvn ∧
            x.stepping = s.sec.stepping ∧ x.image = s.sec.digest ∧ x.coef = s.sec.coef ∧ x.keys.length = s.sec.taskKeys.length
         else t.out = s.out ++ [.spdm false n])) ∧
    (m = .certificate → exec (.spdmMessage m) s = .next { s with out := s.out ++ [.certificate
      { idn := s.sec.idn, key := Config.sm2Public s.sec.idKey, chain := s.sec.chain }] }) ∧
    ((∀ n, m ≠ .measurements n) → m ≠ .certificate → ∃ t ok v, exec (.spdmMessage m) s = .next t ∧ t.out = s.out ++ [.spdm ok v] ∧
      (∀ id a, m = .session id a → ok = a ∧ t.sec.sessions = (if a = true then s.sec.sessions ++ [id] else s.sec.sessions)) ∧
      (∀ i, m = .ideKey i → t.sec = s.sec ∧ (ok = true ↔ i = true ∧ s.sec.sessions ≠ []) ∧
        t.cxl = (if ok = true then { s.cxl with ide := true } else s.cxl)))) ∧
  (∀ (s : State),
    tooHot s = false →
    ∃ t, exec .powerRemoval s = .next t ∧ t.dram = [] ∧ t.cores = State.reset.cores ∧ t.recorder = State.reset.recorder ∧
      t.power.energy = 0 ∧ t.sec.fw = .booting ∧ t.pending = s.pending)

/-! ### The step and reset -/

/-- A step takes the command at the front of the queue and runs it on the machine with the queue's rest. -/
def Obligations.StepRunsFrontCommand : Prop :=
  ∀ (c : Instr) (rest : List Instr) (s : State), step { s with pending := c :: rest } = exec c { s with pending := rest }

/-- With no command waiting a step is the passing of one core cycle where the present one is settled, and changes nothing where it is
not: the model's choice (log 1, log 6). -/
def Obligations.IdleStepIsTick : Prop :=
  (∀ s : State, s.pending = [] → step s = .next (tick s)) ∧
  (∀ s : State, s.pending = [] → settled s = false → step s = .next s) ∧
  ∀ s : State, s.pending = [] → settled s = true → ∃ t, step s = .next t ∧ t.time.cycle = s.time.cycle + 1 ∧
    t.pending = [] ∧ t.dram = s.dram ∧ t.power = s.power

/-- The reset values of the register tables: time, power, links, the host attachment, the recorder and the task slots; with nothing
placed, nothing waiting and every memory in canonical form. -/
def Obligations.ResetValues : Prop :=
  State.reset.pending = [] ∧ State.reset.dram = [] ∧ State.reset.safe = true ∧ State.reset.tablesOk = true ∧
  State.reset.time.st = .free ∧ State.reset.time.errBound = 0xFFFF ∧ State.reset.time.prio = 0x80 ∧
  State.reset.time.eligible = true ∧ State.reset.time.upstream = 0xF ∧ State.reset.time.holdLimit = 0xC8 ∧
  State.reset.power.coreStep = 3 ∧ State.reset.power.quadStep = 2 ∧ State.reset.power.hubStep = true ∧
  State.reset.power.tdpCap = 600 ∧ State.reset.power.tjWarn = 0x5F ∧ State.reset.power.thermtripN = true ∧
  State.reset.buckle = 0 ∧ State.reset.xingAlarm = 0 ∧ State.reset.stashTimeout = 0x3E8 ∧ State.reset.sec.fw = .booting ∧
  State.reset.cxl.memEn = false ∧ State.reset.cxl.timeout = 0x3E8 ∧ State.reset.recorder.rlWindow = 0x2710 ∧
  State.reset.recorder.rlRate = 4 ∧ State.reset.recorder.rlBurst = 0x10 ∧ State.reset.recorder.filled = 0 ∧
  (∀ t : SlotIx, State.reset.tasks[t] = Task.reset) ∧ (∀ q : Fin 8, State.reset.queues[q].enable = false) ∧
  (∀ p : Fin 8, State.reset.links[p].st = .down) ∧ (∀ r : Fin 29, State.reset.regions[r].locked = false) ∧
  ∀ (c : CoreIx) (k : CtxIx), (ctx State.reset c k).st = .idle ∧ (ctx State.reset c k).faulted = false ∧
    State.reset.cores[c].girth.tagCheck = true

/-! ### What every command and every step keeps -/

/-- No command ends the run, and none touches the queue: each answers a next state whose waiting commands are those it found. -/
def Obligations.CommandsGoOn : Prop :=
  ∀ (c : Instr) (s : State), ∃ t, exec c s = .next t ∧ t.pending = s.pending

/-- From every state whose stacked memory is in canonical form, a step gives a state whose stacked memory is. -/
def Obligations.StepKeepsMemoryCanonical : Prop :=
  ∀ s t : State, s.memOk = true → step s = .next t → t.memOk = true

/-- From every state whose tables of global counters, events, postponed refreshes, wide buffers, mailbox data and vectors are in
canonical form, a step gives such a state: the premise of the statements about those tables holds in every run. -/
def Obligations.StepKeepsTablesCanonical : Prop :=
  ∀ s t : State, s.tablesOk = true → step s = .next t → t.tablesOk = true

/-! ### Rules stated whole -/

/-- R7: a 32-bit read of a low half records in the requester's latch the pair and the value of its high half at that instant;
one of a high half returns the latched value when the latch records its pair and the live half otherwise, and leaves the latch;
an aligned 64-bit read returns both halves of one instant, and neither uses nor changes the latch. That a pair is known by its
offset alone is the model's choice (log 92). -/
def Obligations.PairReads : Prop :=
  (∀ (r : Req) (off : W32) (s : State),
    isPairLow off.toNat = true → off.toNat % 4 = 0 →
    ∃ t, exec (.lowHalfRead r off) s = .next t ∧
      t.out = s.out ++ [.readData r ((readLive r off.toNat s).1.setWidth 64)] ∧
      (reqCopy t r).latch = some (off.toNat, (readLive r (off.toNat + 4) s).1) ∧
      ∀ q, q ≠ r → reqCopy t q = reqCopy s q) ∧
  (∀ (r : Req) (off : W32) (lo : Nat) (v : W32) (s : State),
    (reqCopy s r).latch = some (lo, v) → off.toNat = lo + 4 → off.toNat % 4 = 0 → isPairLow off.toNat = false → awake s r off.toNat = true →
    exec (.lowHalfRead r off) s = .next { s with out := s.out ++ [.readData r (v.setWidth 64)] }) ∧
  (∀ (r : Req) (off : W32) (s : State),
    unlatched s r off.toNat → off.toNat % 4 = 0 → isPairLow off.toNat = false →
    ∃ t, exec (.lowHalfRead r off) s = .next t ∧
      t.out = s.out ++ [.readData r ((readLive r off.toNat s).1.setWidth 64)] ∧ reqCopy t r = reqCopy s r) ∧
  (∀ (r : Req) (off : W32) (s : State),
    off.toNat % 8 = 0 →
    ∃ t, exec (.readClear r off 8) s = .next t ∧ reqCopy t r = reqCopy s r ∧
      t.out = s.out ++ [.readData r (BitVec.ofNat 64 ((readLive r off.toNat s).1.toNat +
        (readLive r (off.toNat + 4) (readLive r off.toNat s).2).1.toNat * 2 ^ 32))])

/-- R369: a write of TDP_CAP below the cap in force takes effect at once, with D_CAP formed anew from the last window's figures
under the new cap; a higher one waits, and the next control window brings it into force; a value outside 600 W to 1,500 W is
clamped and recorded. -/
def Obligations.TdpCapWrites : Prop :=
  (∀ (r : Req) (v : W32) (w : Nat) (s : State),
    reaches s r 0x400008 → w = max 600 (min 1500 (v.toNat % 2048)) →
    ∃ t, exec (.tdpCapWrite r v) s = .next t ∧ t.power.tdpNext = BitVec.ofNat 11 w ∧
      (if w < s.power.tdpCap.toNat then
        t.power.tdpCap = BitVec.ofNat 11 w ∧
        t.power.dCap = nextDuty s.power.lastPower s.power.lastStatic s.power.lastSum s.power.lastCount w
       else t.power.tdpCap = s.power.tdpCap ∧ t.power.dCap = s.power.dCap) ∧
      t.recorder.arriving.length = s.recorder.arriving.length + (if v.toNat % 2048 = w then 0 else 1) ∧
      t = { s with
            power := t.power
            recorder := t.recorder
            freeCtr := t.freeCtr }) ∧
  (∀ (core dram rest leakage : Nat) (s : State),
    s.power.shutdown = false → s.power.winDone < winNow s →
    ∃ t, exec (.controlWindow core dram rest leakage) s = .next t ∧ t.power.tdpCap = s.power.tdpNext)

/-- R30: a trim beyond the range of ±200 ppm (20,000 units of 0.01 ppm) puts the device in HOLDOVER with an error event; in HOLDOVER
it stays, and a trim within the range changes nothing. -/
def Obligations.TrimRange : Prop :=
  (∀ (trim : W32) (s : State),
    20000 < trim.toInt.natAbs → s.time.st ≠ .holdover →
    ∃ t, exec (.trimOutOfRange trim) s = .next t ∧ t.time.st = .holdover ∧ Noted t 0x9102 2 s.time.upstream.toNat ∧
      t = { s with
            time := t.time
            cxl := t.cxl
            out := t.out
            recorder := t.recorder }) ∧
  ∀ (trim : W32) (s : State),
    (trim.toInt.natAbs ≤ 20000 ∨ s.time.st = .holdover) → exec (.trimOutOfRange trim) s = .next s
end

