-- ==== Sys2Proof/Laws/Holds.lean ====
section
/-! SUPPORT. What the hold of writes under a snapshot does where nothing is held (R344), and what carrying on a run of an engine
does, said once. -/

namespace Sys2Proof.Machine

/-! ### Held writes (R344) -/

/-- With no snapshot running nothing is unread. -/
theorem snapUnread_none {s : State} (h : s.mir.take = none) : snapUnread s = [] := by simp [snapUnread, h]

/-- With nothing unread no range is held. -/
theorem snapHolds_nil {s : State} (h : snapUnread s = []) (a n : Nat) : snapHolds s a n = false := by simp [snapHolds, h]

/-- With nothing unread no queued write is held. -/
theorem heldWrite_nil {s : State} (h : snapUnread s = []) (q : Queued) : heldWrite s q = false := by
  simp [heldWrite, snapHolds_nil h]

/-! ### Runs -/

variable {s : State} {key : Nat} {t : Option SlotIx} {k : Rank} {ready : State → Bool} {work : State → State}

/-- Carrying a run on always answers a next state. -/
theorem engineRunIf_next : ∃ u, engineRunIf key t k ready work s = .next u := by
  unfold engineRunIf; simp only []; repeat' split
  all_goals exact ⟨_, rfl⟩

/-- Nothing happens while the run's requests are in flight. -/
theorem engineRunIf_wait (h : (runOf s key t).done = true ∨ (runOf s key t).ids ≠ []) : engineRunIf key t k ready work s = .next s := by
  unfold engineRunIf
  rcases h with h | h <;> simp [h]

/-- The reads that the work lacks leave. -/
theorem engineRunIf_fetch {p : Probe} (hd : (runOf s key t).done = false) (hi : (runOf s key t).ids = [])
    (hp : (work (probing (runOf s key t) s)).probe = some p) (hw : p.want ≠ []) :
    engineRunIf key t k ready work s = .next (runFetch (runOf s key t) k p s) := by
  simp [engineRunIf, hd, hi, hp, hw]

/-- With nothing in flight and nothing lacking, the work's effects come to pass. -/
theorem engineRunIf_commit {p : Probe} (hd : (runOf s key t).done = false) (hi : (runOf s key t).ids = [])
    (hp : (work (probing (runOf s key t) s)).probe = some p) (hw : p.want = []) (hr : ready (probing (runOf s key t) s) = true) :
    engineRunIf key t k ready work s = .next (runCommit (runOf s key t) k p.wrote (work (probing (runOf s key t) s))) := by
  simp [engineRunIf, hd, hi, hp, hw, hr]

end Sys2Proof.Machine
end

