-- ==== Sys2Proof/Laws/Issue.lean ====
section
/-! SUPPORT. What the shared operations of control instructions do, said once: the update of a core and of a context, the issue gate,
the retirement of an instruction, and a scalar result. -/

namespace Sys2Proof.Machine

variable (s : State) (c : CoreIx) (k : CtxIx)

/-! ### One core, one context -/

theorem modCore_core (f : Core → Core) : (modCore s c f).cores[c] = f s.cores[c] := by simp [modCore]

theorem modCore_other (f : Core → Core) {d : CoreIx} (h : d ≠ c) : (modCore s c f).cores[d] = s.cores[d] := by
  have hv : c.val ≠ d.val := fun e => h (Fin.ext e.symm)
  simp [modCore, hv]

/-- Two updates of one core are one. -/
theorem modCore_modCore (f g : Core → Core) : modCore (modCore s c f) c g = modCore s c fun x => g (f x) := by
  simp [modCore]

theorem modCtx_ctx (f : Ctx → Ctx) : (modCtx s c k f).cores[c].ctx[k] = f s.cores[c].ctx[k] := by
  simp [modCtx, modCore, Core.modCtx]

theorem modCtx_other (f : Ctx → Ctx) {j : CtxIx} (h : j ≠ k) : (modCtx s c k f).cores[c].ctx[j] = s.cores[c].ctx[j] := by
  have hv : k.val ≠ j.val := fun e => h (Fin.ext e.symm)
  simp [modCtx, modCore, Core.modCtx, hv]

/-! ### The issue gate (R103) -/

/-- An instruction's command answers a next state whether it issues or not. -/
theorem issue_next (w dc : W32) (srcs : List SReg) (f : State → State) : ∃ t, issue c k w dc srcs s f = .next t := ⟨_, rfl⟩

/-- Where the instruction may issue, its effect is the answer. -/
theorem issue_ok {w dc : W32} {srcs : List SReg} {f : State → State} (h : issueOk s c k w dc srcs = true) :
    issue c k w dc srcs s f = .next (f s) := by simp [issue, h]

/-- Where it may not, nothing happens. -/
theorem issue_not {w dc : W32} {srcs : List SReg} {f : State → State} (h : issueOk s c k w dc srcs = false) :
    issue c k w dc srcs s f = .next s := by simp [issue, h]

/-- What holds of the state as it was and of the effect holds after the command. -/
theorem issue_keeps {P : State → Prop} {w dc : W32} {srcs : List SReg} {f : State → State} {t : State}
    (h : issue c k w dc srcs s f = .next t) (h0 : P s) (h1 : P (f s)) : P t := by
  unfold issue at h
  cases h
  split <;> assumption

/-! ### Retirement -/

/-- An update of one context followed by the retirement at `pc` is one record update: the context's registers as the update leaves
them with the new PC, the core's note of the issue, and nothing else. -/
theorem retireTo_modCtx (f : Ctx → Ctx) (pc : BitVec 13) :
    retireTo c k pc (modCtx s c k f) = { s with cores := s.cores.set c { s.cores[c] with
      ctx := s.cores[c].ctx.set k { f s.cores[c].ctx[k] with pc := pc }
      lastIssue := some (s.time.cycle, k)
      yielded := none } } := by
  simp [retireTo, noteIssue, modCtx, modCore, Core.modCtx]

theorem retireTo_eq (pc : BitVec 13) :
    retireTo c k pc s = { s with cores := s.cores.set c { s.cores[c] with
      ctx := s.cores[c].ctx.set k { s.cores[c].ctx[k] with pc := pc }
      lastIssue := some (s.time.cycle, k)
      yielded := none } } := by
  simp [retireTo, noteIssue, modCtx, modCore, Core.modCtx]

/-- A jump taken: the new PC, and the cycle before which the context may not issue again (R107). -/
theorem jumpTo_eq (pc : BitVec 13) :
    jumpTo c k pc s = { s with cores := s.cores.set c { s.cores[c] with
      ctx := s.cores[c].ctx.set k { s.cores[c].ctx[k] with
                                    pcReady := s.time.cycle + 2
                                    pc := pc }
      lastIssue := some (s.time.cycle, k)
      yielded := none } } := by
  simp [jumpTo, retireTo, noteIssue, modCtx, modCore, Core.modCtx]

/-- The program counter is no part of what a scalar write changes. -/
@[simp] theorem sset_pc (y : Ctx) (r : SReg) (v : W64) (n : Nat) : (y.sset r v n).pc = y.pc := by
  unfold Ctx.sset; split <;> rfl

/-- S0 discards what is written to it (R103). -/
theorem sset_zero (y : Ctx) {r : SReg} (v : W64) (n : Nat) (h : r.val = 0) : y.sset r v n = y := by simp [Ctx.sset, h]

/-- A register other than S0 reads as it was written. -/
theorem sget_sset_same (y : Ctx) {r : SReg} (v : W64) (n : Nat) (h : r.val ≠ 0) : (y.sset r v n).sget r = v := by
  simp [Ctx.sset, Ctx.sget, h]

/-- Every other register reads as before. -/
theorem sget_sset_other (y : Ctx) {r q : SReg} (v : W64) (n : Nat) (h : q ≠ r) : (y.sset r v n).sget q = y.sget q := by
  have hv : r.val ≠ q.val := fun e => h (Fin.ext e.symm)
  unfold Ctx.sset
  split
  · rfl
  · simp [Ctx.sget, hv]

/-- A scalar result, whole: the register with its latency, the next word's PC, and the note of the issue (R103, R107). -/
theorem result_eq (rd : SReg) (v : W64) (lat : Nat) :
    result c k rd v lat s = { s with cores := s.cores.set c { s.cores[c] with
      ctx := s.cores[c].ctx.set k { s.cores[c].ctx[k].sset rd v (s.time.cycle + lat) with pc := s.cores[c].ctx[k].pc + 1 }
      lastIssue := some (s.time.cycle, k)
      yielded := none } } := by
  have h : (modCtx s c k fun y => y.sset rd v (s.time.cycle + lat)).cores[c].ctx[k].pc = s.cores[c].ctx[k].pc := by
    rw [modCtx_ctx]; simp
  rw [result, retire, h, retireTo_modCtx]

end Sys2Proof.Machine
end

