-- ==== Sys2Proof/Laws/Memory.lean ====
section
/-! SUPPORT. Sparse tables and memories: every operation keeps the canonical form, a read after a write gives what was written,
and a write leaves every other key alone. -/

namespace Sys2Proof.Machine

section Tables
variable {α : Type} [DecidableEq α] {d : α}

theorem twfFrom_mono {t : Tbl α} {a b : Nat} (h : a ≤ b) (w : twfFrom d b t = true) : twfFrom d a t = true := by
  cases t with
  | nil => rfl
  | cons p r =>
    simp only [twfFrom, Bool.and_eq_true, decide_eq_true_eq] at w ⊢
    exact ⟨⟨by omega, w.1.2⟩, w.2⟩

theorem tset_wfFrom (t : Tbl α) (k : Nat) (v : α) : ∀ b, b ≤ k → twfFrom d b t = true → twfFrom d b (tset d t k v) = true := by
  induction t with
  | nil => intro b hb _; by_cases hv : v = d <;> simp [tset, twfFrom, hv, hb]
  | cons p r ih =>
    intro b hb w
    have w' := w
    simp only [twfFrom, Bool.and_eq_true, decide_eq_true_eq] at w
    obtain ⟨⟨h1, h2⟩, h3⟩ := w
    simp only [tset]
    by_cases hk : k < p.1
    · by_cases hv : v = d
      · simp only [hk, hv, if_true]; exact w'
      · simp only [hk, hv, if_true, if_false, twfFrom, Bool.and_eq_true, decide_eq_true_eq]
        exact ⟨⟨hb, hv⟩, ⟨by omega, h2⟩, h3⟩
    · by_cases he : k = p.1
      · by_cases hv : v = d
        · simp only [he, hv, if_true, if_false, Nat.lt_irrefl]
          exact twfFrom_mono (by omega) h3
        · simp only [he, hv, if_true, if_false, Nat.lt_irrefl, twfFrom, Bool.and_eq_true, decide_eq_true_eq]
          exact ⟨⟨h1, hv⟩, h3⟩
      · simp only [hk, he, if_false, twfFrom, Bool.and_eq_true, decide_eq_true_eq]
        exact ⟨⟨h1, h2⟩, ih _ (by omega) h3⟩

theorem tset_wf {t : Tbl α} (k : Nat) (v : α) (w : twf d t = true) : twf d (tset d t k v) = true :=
  tset_wfFrom t k v 0 (by omega) w

theorem tget_below {t : Tbl α} {b k : Nat} (h : k < b) (w : twfFrom d b t = true) : tget d t k = d := by
  induction t generalizing b with
  | nil => rfl
  | cons p r ih =>
    simp only [twfFrom, Bool.and_eq_true, decide_eq_true_eq] at w
    have : p.1 ≠ k := by omega
    simp only [tget, this, if_false]
    exact ih (b := p.1 + 1) (by omega) w.2

theorem tget_tset_same (t : Tbl α) (k : Nat) (v : α) : ∀ b, twfFrom d b t = true → tget d (tset d t k v) k = v := by
  induction t with
  | nil => intro b _; by_cases hv : v = d <;> simp [tset, tget, hv]
  | cons p r ih =>
    intro b w
    have w' := w
    simp only [twfFrom, Bool.and_eq_true, decide_eq_true_eq] at w
    simp only [tset]
    by_cases hk : k < p.1
    · have hne : p.1 ≠ k := by omega
      by_cases hv : v = d
      · simp only [hk, hv, if_true, tget, hne, if_false]
        exact tget_below (b := p.1 + 1) (by omega) w.2
      · simp [hk, hv, tget]
    · by_cases he : k = p.1
      · subst he
        by_cases hv : v = d
        · simp only [Nat.lt_irrefl, hv, if_true, if_false]
          exact tget_below (b := p.1 + 1) (by omega) w.2
        · simp [hv, tget]
      · have hne : p.1 ≠ k := fun h => he h.symm
        simp only [hk, he, if_false, tget, hne]
        exact ih _ w.2

/-- A read after a write to the same key gives the value written. -/
theorem tget_tset_self {t : Tbl α} (k : Nat) (v : α) (w : twf d t = true) : tget d (tset d t k v) k = v :=
  tget_tset_same t k v 0 w

/-- A write leaves every other key alone. -/
theorem tget_tset_other (t : Tbl α) {k j : Nat} (v : α) (h : j ≠ k) : tget d (tset d t k v) j = tget d t j := by
  induction t with
  | nil => by_cases hv : v = d <;> simp [tset, tget, hv, Ne.symm h]
  | cons p r ih =>
    simp only [tset]
    by_cases hk : k < p.1
    · by_cases hv : v = d <;> simp [hk, hv, tget, Ne.symm h]
    · by_cases he : k = p.1
      · subst he
        by_cases hv : v = d <;> simp [hv, tget, Ne.symm h]
      · simp only [hk, he, if_false, tget]
        split
        · rfl
        · exact ih

theorem foldl_wf {β : Type} (t : Tbl α) (l : List β) (f : Tbl α → β → Tbl α)
    (h : ∀ t x, twf d t = true → twf d (f t x) = true) (w : twf d t = true) : twf d (l.foldl f t) = true := by
  induction l generalizing t with
  | nil => exact w
  | cons x xs ih => exact ih _ (h t x w)

theorem filter_wfFrom (p : Nat × α → Bool) (t : Tbl α) : ∀ b, twfFrom d b t = true → twfFrom d b (t.filter p) = true := by
  induction t with
  | nil => intro b _; rfl
  | cons q r ih =>
    intro b w
    simp only [twfFrom, Bool.and_eq_true, decide_eq_true_eq] at w
    by_cases hp : p q = true
    · simp only [List.filter_cons, hp, if_true, twfFrom, Bool.and_eq_true, decide_eq_true_eq]
      exact ⟨w.1, ih _ w.2⟩
    · simp only [List.filter_cons, hp]
      exact ih _ (twfFrom_mono (by omega) w.2)

theorem filter_wf (p : Nat × α → Bool) {t : Tbl α} (w : twf d t = true) : twf d (t.filter p) = true := filter_wfFrom p t 0 w

end Tables

/-- Writing bytes keeps the canonical form. -/
theorem writeBytes_wf (bs : List Byte) (m : Mem) (a : Nat) (w : Memory.wf m = true) : Memory.wf (writeBytes m a bs) = true := by
  induction bs generalizing m a with
  | nil => exact w
  | cons b bs ih => exact ih _ _ (tset_wf a b w)

theorem readByte_write_other (bs : List Byte) (m : Mem) (a : Nat) {x : Nat} (h : x < a ∨ a + bs.length ≤ x) :
    readByte (writeBytes m a bs) x = readByte m x := by
  induction bs generalizing m a with
  | nil => rfl
  | cons b bs ih =>
    simp only [List.length_cons] at h
    simp only [writeBytes]
    rw [ih _ _ (by omega)]
    exact tget_tset_other m b (by omega)

theorem readByte_write_in (bs : List Byte) (m : Mem) (a : Nat) (w : Memory.wf m = true) {i : Nat} (h : i < bs.length) :
    readByte (writeBytes m a bs) (a + i) = bs[i] := by
  induction bs generalizing m a i with
  | nil => simp at h
  | cons b bs ih =>
    simp only [writeBytes]
    cases i with
    | zero =>
      rw [readByte_write_other _ _ _ (by omega)]
      exact tget_tset_self a b w
    | succ j =>
      have e : a + (j + 1) = a + 1 + j := by omega
      rw [e, ih _ _ (tset_wf a b w) (by simpa using h)]
      rfl

theorem writeBytes_append (xs ys : List Byte) (m : Mem) (a : Nat) :
    writeBytes m a (xs ++ ys) = writeBytes (writeBytes m a xs) (a + xs.length) ys := by
  induction xs generalizing m a with
  | nil => rfl
  | cons x xs ih =>
    simp only [List.cons_append, writeBytes, List.length_cons, ih]
    congr 1; omega

/-- A read of the bytes just written gives them. -/
theorem readBytes_write (bs : List Byte) (m : Mem) (a : Nat) (w : Memory.wf m = true) :
    readBytes (writeBytes m a bs) a bs.length = bs := by
  apply List.ext_getElem
  · simp [readBytes]
  · intro i h1 h2
    simp only [readBytes, List.getElem_map, List.getElem_range]
    exact readByte_write_in bs m a w h2

end Sys2Proof.Machine
end

