-- ==== Sys2Proof/Laws/State.lean ====
section
/-! SUPPORT. What each named update leaves alone, one lemma for each update and each field of the state, so that no later proof
unfolds a record update. -/

namespace Sys2Proof.Machine

variable (s : State)

@[simp] theorem modCore_pending (c : CoreIx) (f : Core → Core) : (modCore s c f).pending = s.pending := rfl
@[simp] theorem modCore_out (c : CoreIx) (f : Core → Core) : (modCore s c f).out = s.out := rfl
@[simp] theorem modCore_freeCtr (c : CoreIx) (f : Core → Core) : (modCore s c f).freeCtr = s.freeCtr := rfl
@[simp] theorem modCore_flits (c : CoreIx) (f : Core → Core) : (modCore s c f).flits = s.flits := rfl
@[simp] theorem modCore_buckleNext (c : CoreIx) (f : Core → Core) : (modCore s c f).buckleNext = s.buckleNext := rfl
@[simp] theorem modCore_buckle (c : CoreIx) (f : Core → Core) : (modCore s c f).buckle = s.buckle := rfl
@[simp] theorem modCore_xingAlarm (c : CoreIx) (f : Core → Core) : (modCore s c f).xingAlarm = s.xingAlarm := rfl
@[simp] theorem modCore_incs (c : CoreIx) (f : Core → Core) : (modCore s c f).incs = s.incs := rfl
@[simp] theorem modCore_reports (c : CoreIx) (f : Core → Core) : (modCore s c f).reports = s.reports := rfl
@[simp] theorem modCore_gsigs (c : CoreIx) (f : Core → Core) : (modCore s c f).gsigs = s.gsigs := rfl
@[simp] theorem modCore_gctr (c : CoreIx) (f : Core → Core) : (modCore s c f).gctr = s.gctr := rfl
@[simp] theorem modCore_gregs (c : CoreIx) (f : Core → Core) : (modCore s c f).gregs = s.gregs := rfl
@[simp] theorem modCore_fabric (c : CoreIx) (f : Core → Core) : (modCore s c f).fabric = s.fabric := rfl
@[simp] theorem modCore_resps (c : CoreIx) (f : Core → Core) : (modCore s c f).resps = s.resps := rfl
@[simp] theorem modCore_runs (c : CoreIx) (f : Core → Core) : (modCore s c f).runs = s.runs := rfl
@[simp] theorem modCore_probe (c : CoreIx) (f : Core → Core) : (modCore s c f).probe = s.probe := rfl
@[simp] theorem modCore_nextId (c : CoreIx) (f : Core → Core) : (modCore s c f).nextId = s.nextId := rfl
@[simp] theorem modCore_dram (c : CoreIx) (f : Core → Core) : (modCore s c f).dram = s.dram := rfl
@[simp] theorem modCore_dramPoison (c : CoreIx) (f : Core → Core) : (modCore s c f).dramPoison = s.dramPoison := rfl
@[simp] theorem modCore_loose (c : CoreIx) (f : Core → Core) : (modCore s c f).loose = s.loose := rfl
@[simp] theorem modCore_ports (c : CoreIx) (f : Core → Core) : (modCore s c f).ports = s.ports := rfl
@[simp] theorem modCore_lookup (c : CoreIx) (f : Core → Core) : (modCore s c f).lookup = s.lookup := rfl
@[simp] theorem modCore_lkWork (c : CoreIx) (f : Core → Core) : (modCore s c f).lkWork = s.lkWork := rfl
@[simp] theorem modCore_tasks (c : CoreIx) (f : Core → Core) : (modCore s c f).tasks = s.tasks := rfl
@[simp] theorem modCore_resv (c : CoreIx) (f : Core → Core) : (modCore s c f).resv = s.resv := rfl
@[simp] theorem modCore_queues (c : CoreIx) (f : Core → Core) : (modCore s c f).queues = s.queues := rfl
@[simp] theorem modCore_rrQueue (c : CoreIx) (f : Core → Core) : (modCore s c f).rrQueue = s.rrQueue := rfl
@[simp] theorem modCore_submit (c : CoreIx) (f : Core → Core) : (modCore s c f).submit = s.submit := rfl
@[simp] theorem modCore_stashTimeout (c : CoreIx) (f : Core → Core) : (modCore s c f).stashTimeout = s.stashTimeout := rfl
@[simp] theorem modCore_rhaor (c : CoreIx) (f : Core → Core) : (modCore s c f).rhaor = s.rhaor := rfl
@[simp] theorem modCore_cxl (c : CoreIx) (f : Core → Core) : (modCore s c f).cxl = s.cxl := rfl
@[simp] theorem modCore_links (c : CoreIx) (f : Core → Core) : (modCore s c f).links = s.links := rfl
@[simp] theorem modCore_net (c : CoreIx) (f : Core → Core) : (modCore s c f).net = s.net := rfl
@[simp] theorem modCore_mir (c : CoreIx) (f : Core → Core) : (modCore s c f).mir = s.mir := rfl
@[simp] theorem modCore_time (c : CoreIx) (f : Core → Core) : (modCore s c f).time = s.time := rfl
@[simp] theorem modCore_regions (c : CoreIx) (f : Core → Core) : (modCore s c f).regions = s.regions := rfl
@[simp] theorem modCore_duty (c : CoreIx) (f : Core → Core) : (modCore s c f).duty = s.duty := rfl
@[simp] theorem modCore_power (c : CoreIx) (f : Core → Core) : (modCore s c f).power = s.power := rfl
@[simp] theorem modCore_act (c : CoreIx) (f : Core → Core) : (modCore s c f).act = s.act := rfl
@[simp] theorem modCore_recorder (c : CoreIx) (f : Core → Core) : (modCore s c f).recorder = s.recorder := rfl
@[simp] theorem modCore_reqHost (c : CoreIx) (f : Core → Core) : (modCore s c f).reqHost = s.reqHost := rfl
@[simp] theorem modCore_reqMgmt (c : CoreIx) (f : Core → Core) : (modCore s c f).reqMgmt = s.reqMgmt := rfl
@[simp] theorem modCore_reqFw (c : CoreIx) (f : Core → Core) : (modCore s c f).reqFw = s.reqFw := rfl
@[simp] theorem modCore_staging (c : CoreIx) (f : Core → Core) : (modCore s c f).staging = s.staging := rfl
@[simp] theorem modCore_mbHost (c : CoreIx) (f : Core → Core) : (modCore s c f).mbHost = s.mbHost := rfl
@[simp] theorem modCore_mbMgmt (c : CoreIx) (f : Core → Core) : (modCore s c f).mbMgmt = s.mbMgmt := rfl
@[simp] theorem modCore_mbQueue (c : CoreIx) (f : Core → Core) : (modCore s c f).mbQueue = s.mbQueue := rfl
@[simp] theorem modCore_stTimeout (c : CoreIx) (f : Core → Core) : (modCore s c f).stTimeout = s.stTimeout := rfl
@[simp] theorem modCore_quiesce (c : CoreIx) (f : Core → Core) : (modCore s c f).quiesce = s.quiesce := rfl
@[simp] theorem modCore_sec (c : CoreIx) (f : Core → Core) : (modCore s c f).sec = s.sec := rfl

@[simp] theorem modCtx_pending (c : CoreIx) (k : CtxIx) (f : Ctx → Ctx) : (modCtx s c k f).pending = s.pending := rfl
@[simp] theorem modCtx_out (c : CoreIx) (k : CtxIx) (f : Ctx → Ctx) : (modCtx s c k f).out = s.out := rfl
@[simp] theorem modCtx_freeCtr (c : CoreIx) (k : CtxIx) (f : Ctx → Ctx) : (modCtx s c k f).freeCtr = s.freeCtr := rfl
@[simp] theorem modCtx_flits (c : CoreIx) (k : CtxIx) (f : Ctx → Ctx) : (modCtx s c k f).flits = s.flits := rfl
@[simp] theorem modCtx_buckleNext (c : CoreIx) (k : CtxIx) (f : Ctx → Ctx) : (modCtx s c k f).buckleNext = s.buckleNext := rfl
@[simp] theorem modCtx_buckle (c : CoreIx) (k : CtxIx) (f : Ctx → Ctx) : (modCtx s c k f).buckle = s.buckle := rfl
@[simp] theorem modCtx_xingAlarm (c : CoreIx) (k : CtxIx) (f : Ctx → Ctx) : (modCtx s c k f).xingAlarm = s.xingAlarm := rfl
@[simp] theorem modCtx_incs (c : CoreIx) (k : CtxIx) (f : Ctx → Ctx) : (modCtx s c k f).incs = s.incs := rfl
@[simp] theorem modCtx_reports (c : CoreIx) (k : CtxIx) (f : Ctx → Ctx) : (modCtx s c k f).reports = s.reports := rfl
@[simp] theorem modCtx_gsigs (c : CoreIx) (k : CtxIx) (f : Ctx → Ctx) : (modCtx s c k f).gsigs = s.gsigs := rfl
@[simp] theorem modCtx_gctr (c : CoreIx) (k : CtxIx) (f : Ctx → Ctx) : (modCtx s c k f).gctr = s.gctr := rfl
@[simp] theorem modCtx_gregs (c : CoreIx) (k : CtxIx) (f : Ctx → Ctx) : (modCtx s c k f).gregs = s.gregs := rfl
@[simp] theorem modCtx_fabric (c : CoreIx) (k : CtxIx) (f : Ctx → Ctx) : (modCtx s c k f).fabric = s.fabric := rfl
@[simp] theorem modCtx_resps (c : CoreIx) (k : CtxIx) (f : Ctx → Ctx) : (modCtx s c k f).resps = s.resps := rfl
@[simp] theorem modCtx_runs (c : CoreIx) (k : CtxIx) (f : Ctx → Ctx) : (modCtx s c k f).runs = s.runs := rfl
@[simp] theorem modCtx_probe (c : CoreIx) (k : CtxIx) (f : Ctx → Ctx) : (modCtx s c k f).probe = s.probe := rfl
@[simp] theorem modCtx_nextId (c : CoreIx) (k : CtxIx) (f : Ctx → Ctx) : (modCtx s c k f).nextId = s.nextId := rfl
@[simp] theorem modCtx_dram (c : CoreIx) (k : CtxIx) (f : Ctx → Ctx) : (modCtx s c k f).dram = s.dram := rfl
@[simp] theorem modCtx_dramPoison (c : CoreIx) (k : CtxIx) (f : Ctx → Ctx) : (modCtx s c k f).dramPoison = s.dramPoison := rfl
@[simp] theorem modCtx_loose (c : CoreIx) (k : CtxIx) (f : Ctx → Ctx) : (modCtx s c k f).loose = s.loose := rfl
@[simp] theorem modCtx_ports (c : CoreIx) (k : CtxIx) (f : Ctx → Ctx) : (modCtx s c k f).ports = s.ports := rfl
@[simp] theorem modCtx_lookup (c : CoreIx) (k : CtxIx) (f : Ctx → Ctx) : (modCtx s c k f).lookup = s.lookup := rfl
@[simp] theorem modCtx_lkWork (c : CoreIx) (k : CtxIx) (f : Ctx → Ctx) : (modCtx s c k f).lkWork = s.lkWork := rfl
@[simp] theorem modCtx_tasks (c : CoreIx) (k : CtxIx) (f : Ctx → Ctx) : (modCtx s c k f).tasks = s.tasks := rfl
@[simp] theorem modCtx_resv (c : CoreIx) (k : CtxIx) (f : Ctx → Ctx) : (modCtx s c k f).resv = s.resv := rfl
@[simp] theorem modCtx_queues (c : CoreIx) (k : CtxIx) (f : Ctx → Ctx) : (modCtx s c k f).queues = s.queues := rfl
@[simp] theorem modCtx_rrQueue (c : CoreIx) (k : CtxIx) (f : Ctx → Ctx) : (modCtx s c k f).rrQueue = s.rrQueue := rfl
@[simp] theorem modCtx_submit (c : CoreIx) (k : CtxIx) (f : Ctx → Ctx) : (modCtx s c k f).submit = s.submit := rfl
@[simp] theorem modCtx_stashTimeout (c : CoreIx) (k : CtxIx) (f : Ctx → Ctx) : (modCtx s c k f).stashTimeout = s.stashTimeout := rfl
@[simp] theorem modCtx_rhaor (c : CoreIx) (k : CtxIx) (f : Ctx → Ctx) : (modCtx s c k f).rhaor = s.rhaor := rfl
@[simp] theorem modCtx_cxl (c : CoreIx) (k : CtxIx) (f : Ctx → Ctx) : (modCtx s c k f).cxl = s.cxl := rfl
@[simp] theorem modCtx_links (c : CoreIx) (k : CtxIx) (f : Ctx → Ctx) : (modCtx s c k f).links = s.links := rfl
@[simp] theorem modCtx_net (c : CoreIx) (k : CtxIx) (f : Ctx → Ctx) : (modCtx s c k f).net = s.net := rfl
@[simp] theorem modCtx_mir (c : CoreIx) (k : CtxIx) (f : Ctx → Ctx) : (modCtx s c k f).mir = s.mir := rfl
@[simp] theorem modCtx_time (c : CoreIx) (k : CtxIx) (f : Ctx → Ctx) : (modCtx s c k f).time = s.time := rfl
@[simp] theorem modCtx_regions (c : CoreIx) (k : CtxIx) (f : Ctx → Ctx) : (modCtx s c k f).regions = s.regions := rfl
@[simp] theorem modCtx_duty (c : CoreIx) (k : CtxIx) (f : Ctx → Ctx) : (modCtx s c k f).duty = s.duty := rfl
@[simp] theorem modCtx_power (c : CoreIx) (k : CtxIx) (f : Ctx → Ctx) : (modCtx s c k f).power = s.power := rfl
@[simp] theorem modCtx_act (c : CoreIx) (k : CtxIx) (f : Ctx → Ctx) : (modCtx s c k f).act = s.act := rfl
@[simp] theorem modCtx_recorder (c : CoreIx) (k : CtxIx) (f : Ctx → Ctx) : (modCtx s c k f).recorder = s.recorder := rfl
@[simp] theorem modCtx_reqHost (c : CoreIx) (k : CtxIx) (f : Ctx → Ctx) : (modCtx s c k f).reqHost = s.reqHost := rfl
@[simp] theorem modCtx_reqMgmt (c : CoreIx) (k : CtxIx) (f : Ctx → Ctx) : (modCtx s c k f).reqMgmt = s.reqMgmt := rfl
@[simp] theorem modCtx_reqFw (c : CoreIx) (k : CtxIx) (f : Ctx → Ctx) : (modCtx s c k f).reqFw = s.reqFw := rfl
@[simp] theorem modCtx_staging (c : CoreIx) (k : CtxIx) (f : Ctx → Ctx) : (modCtx s c k f).staging = s.staging := rfl
@[simp] theorem modCtx_mbHost (c : CoreIx) (k : CtxIx) (f : Ctx → Ctx) : (modCtx s c k f).mbHost = s.mbHost := rfl
@[simp] theorem modCtx_mbMgmt (c : CoreIx) (k : CtxIx) (f : Ctx → Ctx) : (modCtx s c k f).mbMgmt = s.mbMgmt := rfl
@[simp] theorem modCtx_mbQueue (c : CoreIx) (k : CtxIx) (f : Ctx → Ctx) : (modCtx s c k f).mbQueue = s.mbQueue := rfl
@[simp] theorem modCtx_stTimeout (c : CoreIx) (k : CtxIx) (f : Ctx → Ctx) : (modCtx s c k f).stTimeout = s.stTimeout := rfl
@[simp] theorem modCtx_quiesce (c : CoreIx) (k : CtxIx) (f : Ctx → Ctx) : (modCtx s c k f).quiesce = s.quiesce := rfl
@[simp] theorem modCtx_sec (c : CoreIx) (k : CtxIx) (f : Ctx → Ctx) : (modCtx s c k f).sec = s.sec := rfl

@[simp] theorem modTask_pending (t : SlotIx) (f : Task → Task) : (modTask s t f).pending = s.pending := rfl
@[simp] theorem modTask_out (t : SlotIx) (f : Task → Task) : (modTask s t f).out = s.out := rfl
@[simp] theorem modTask_freeCtr (t : SlotIx) (f : Task → Task) : (modTask s t f).freeCtr = s.freeCtr := rfl
@[simp] theorem modTask_cores (t : SlotIx) (f : Task → Task) : (modTask s t f).cores = s.cores := rfl
@[simp] theorem modTask_flits (t : SlotIx) (f : Task → Task) : (modTask s t f).flits = s.flits := rfl
@[simp] theorem modTask_buckleNext (t : SlotIx) (f : Task → Task) : (modTask s t f).buckleNext = s.buckleNext := rfl
@[simp] theorem modTask_buckle (t : SlotIx) (f : Task → Task) : (modTask s t f).buckle = s.buckle := rfl
@[simp] theorem modTask_xingAlarm (t : SlotIx) (f : Task → Task) : (modTask s t f).xingAlarm = s.xingAlarm := rfl
@[simp] theorem modTask_incs (t : SlotIx) (f : Task → Task) : (modTask s t f).incs = s.incs := rfl
@[simp] theorem modTask_reports (t : SlotIx) (f : Task → Task) : (modTask s t f).reports = s.reports := rfl
@[simp] theorem modTask_gsigs (t : SlotIx) (f : Task → Task) : (modTask s t f).gsigs = s.gsigs := rfl
@[simp] theorem modTask_gctr (t : SlotIx) (f : Task → Task) : (modTask s t f).gctr = s.gctr := rfl
@[simp] theorem modTask_gregs (t : SlotIx) (f : Task → Task) : (modTask s t f).gregs = s.gregs := rfl
@[simp] theorem modTask_fabric (t : SlotIx) (f : Task → Task) : (modTask s t f).fabric = s.fabric := rfl
@[simp] theorem modTask_resps (t : SlotIx) (f : Task → Task) : (modTask s t f).resps = s.resps := rfl
@[simp] theorem modTask_runs (t : SlotIx) (f : Task → Task) : (modTask s t f).runs = s.runs := rfl
@[simp] theorem modTask_probe (t : SlotIx) (f : Task → Task) : (modTask s t f).probe = s.probe := rfl
@[simp] theorem modTask_nextId (t : SlotIx) (f : Task → Task) : (modTask s t f).nextId = s.nextId := rfl
@[simp] theorem modTask_dram (t : SlotIx) (f : Task → Task) : (modTask s t f).dram = s.dram := rfl
@[simp] theorem modTask_dramPoison (t : SlotIx) (f : Task → Task) : (modTask s t f).dramPoison = s.dramPoison := rfl
@[simp] theorem modTask_loose (t : SlotIx) (f : Task → Task) : (modTask s t f).loose = s.loose := rfl
@[simp] theorem modTask_ports (t : SlotIx) (f : Task → Task) : (modTask s t f).ports = s.ports := rfl
@[simp] theorem modTask_lookup (t : SlotIx) (f : Task → Task) : (modTask s t f).lookup = s.lookup := rfl
@[simp] theorem modTask_lkWork (t : SlotIx) (f : Task → Task) : (modTask s t f).lkWork = s.lkWork := rfl
@[simp] theorem modTask_resv (t : SlotIx) (f : Task → Task) : (modTask s t f).resv = s.resv := rfl
@[simp] theorem modTask_queues (t : SlotIx) (f : Task → Task) : (modTask s t f).queues = s.queues := rfl
@[simp] theorem modTask_rrQueue (t : SlotIx) (f : Task → Task) : (modTask s t f).rrQueue = s.rrQueue := rfl
@[simp] theorem modTask_submit (t : SlotIx) (f : Task → Task) : (modTask s t f).submit = s.submit := rfl
@[simp] theorem modTask_stashTimeout (t : SlotIx) (f : Task → Task) : (modTask s t f).stashTimeout = s.stashTimeout := rfl
@[simp] theorem modTask_rhaor (t : SlotIx) (f : Task → Task) : (modTask s t f).rhaor = s.rhaor := rfl
@[simp] theorem modTask_cxl (t : SlotIx) (f : Task → Task) : (modTask s t f).cxl = s.cxl := rfl
@[simp] theorem modTask_links (t : SlotIx) (f : Task → Task) : (modTask s t f).links = s.links := rfl
@[simp] theorem modTask_net (t : SlotIx) (f : Task → Task) : (modTask s t f).net = s.net := rfl
@[simp] theorem modTask_mir (t : SlotIx) (f : Task → Task) : (modTask s t f).mir = s.mir := rfl
@[simp] theorem modTask_time (t : SlotIx) (f : Task → Task) : (modTask s t f).time = s.time := rfl
@[simp] theorem modTask_regions (t : SlotIx) (f : Task → Task) : (modTask s t f).regions = s.regions := rfl
@[simp] theorem modTask_duty (t : SlotIx) (f : Task → Task) : (modTask s t f).duty = s.duty := rfl
@[simp] theorem modTask_power (t : SlotIx) (f : Task → Task) : (modTask s t f).power = s.power := rfl
@[simp] theorem modTask_act (t : SlotIx) (f : Task → Task) : (modTask s t f).act = s.act := rfl
@[simp] theorem modTask_recorder (t : SlotIx) (f : Task → Task) : (modTask s t f).recorder = s.recorder := rfl
@[simp] theorem modTask_reqHost (t : SlotIx) (f : Task → Task) : (modTask s t f).reqHost = s.reqHost := rfl
@[simp] theorem modTask_reqMgmt (t : SlotIx) (f : Task → Task) : (modTask s t f).reqMgmt = s.reqMgmt := rfl
@[simp] theorem modTask_reqFw (t : SlotIx) (f : Task → Task) : (modTask s t f).reqFw = s.reqFw := rfl
@[simp] theorem modTask_staging (t : SlotIx) (f : Task → Task) : (modTask s t f).staging = s.staging := rfl
@[simp] theorem modTask_mbHost (t : SlotIx) (f : Task → Task) : (modTask s t f).mbHost = s.mbHost := rfl
@[simp] theorem modTask_mbMgmt (t : SlotIx) (f : Task → Task) : (modTask s t f).mbMgmt = s.mbMgmt := rfl
@[simp] theorem modTask_mbQueue (t : SlotIx) (f : Task → Task) : (modTask s t f).mbQueue = s.mbQueue := rfl
@[simp] theorem modTask_stTimeout (t : SlotIx) (f : Task → Task) : (modTask s t f).stTimeout = s.stTimeout := rfl
@[simp] theorem modTask_quiesce (t : SlotIx) (f : Task → Task) : (modTask s t f).quiesce = s.quiesce := rfl
@[simp] theorem modTask_sec (t : SlotIx) (f : Task → Task) : (modTask s t f).sec = s.sec := rfl

@[simp] theorem modCmd_pending (t : SlotIx) (f : CmdList → CmdList) : (modCmd s t f).pending = s.pending := rfl
@[simp] theorem modCmd_out (t : SlotIx) (f : CmdList → CmdList) : (modCmd s t f).out = s.out := rfl
@[simp] theorem modCmd_freeCtr (t : SlotIx) (f : CmdList → CmdList) : (modCmd s t f).freeCtr = s.freeCtr := rfl
@[simp] theorem modCmd_cores (t : SlotIx) (f : CmdList → CmdList) : (modCmd s t f).cores = s.cores := rfl
@[simp] theorem modCmd_flits (t : SlotIx) (f : CmdList → CmdList) : (modCmd s t f).flits = s.flits := rfl
@[simp] theorem modCmd_buckleNext (t : SlotIx) (f : CmdList → CmdList) : (modCmd s t f).buckleNext = s.buckleNext := rfl
@[simp] theorem modCmd_buckle (t : SlotIx) (f : CmdList → CmdList) : (modCmd s t f).buckle = s.buckle := rfl
@[simp] theorem modCmd_xingAlarm (t : SlotIx) (f : CmdList → CmdList) : (modCmd s t f).xingAlarm = s.xingAlarm := rfl
@[simp] theorem modCmd_incs (t : SlotIx) (f : CmdList → CmdList) : (modCmd s t f).incs = s.incs := rfl
@[simp] theorem modCmd_reports (t : SlotIx) (f : CmdList → CmdList) : (modCmd s t f).reports = s.reports := rfl
@[simp] theorem modCmd_gsigs (t : SlotIx) (f : CmdList → CmdList) : (modCmd s t f).gsigs = s.gsigs := rfl
@[simp] theorem modCmd_gctr (t : SlotIx) (f : CmdList → CmdList) : (modCmd s t f).gctr = s.gctr := rfl
@[simp] theorem modCmd_gregs (t : SlotIx) (f : CmdList → CmdList) : (modCmd s t f).gregs = s.gregs := rfl
@[simp] theorem modCmd_fabric (t : SlotIx) (f : CmdList → CmdList) : (modCmd s t f).fabric = s.fabric := rfl
@[simp] theorem modCmd_resps (t : SlotIx) (f : CmdList → CmdList) : (modCmd s t f).resps = s.resps := rfl
@[simp] theorem modCmd_runs (t : SlotIx) (f : CmdList → CmdList) : (modCmd s t f).runs = s.runs := rfl
@[simp] theorem modCmd_probe (t : SlotIx) (f : CmdList → CmdList) : (modCmd s t f).probe = s.probe := rfl
@[simp] theorem modCmd_nextId (t : SlotIx) (f : CmdList → CmdList) : (modCmd s t f).nextId = s.nextId := rfl
@[simp] theorem modCmd_dram (t : SlotIx) (f : CmdList → CmdList) : (modCmd s t f).dram = s.dram := rfl
@[simp] theorem modCmd_dramPoison (t : SlotIx) (f : CmdList → CmdList) : (modCmd s t f).dramPoison = s.dramPoison := rfl
@[simp] theorem modCmd_loose (t : SlotIx) (f : CmdList → CmdList) : (modCmd s t f).loose = s.loose := rfl
@[simp] theorem modCmd_ports (t : SlotIx) (f : CmdList → CmdList) : (modCmd s t f).ports = s.ports := rfl
@[simp] theorem modCmd_lookup (t : SlotIx) (f : CmdList → CmdList) : (modCmd s t f).lookup = s.lookup := rfl
@[simp] theorem modCmd_lkWork (t : SlotIx) (f : CmdList → CmdList) : (modCmd s t f).lkWork = s.lkWork := rfl
@[simp] theorem modCmd_resv (t : SlotIx) (f : CmdList → CmdList) : (modCmd s t f).resv = s.resv := rfl
@[simp] theorem modCmd_queues (t : SlotIx) (f : CmdList → CmdList) : (modCmd s t f).queues = s.queues := rfl
@[simp] theorem modCmd_rrQueue (t : SlotIx) (f : CmdList → CmdList) : (modCmd s t f).rrQueue = s.rrQueue := rfl
@[simp] theorem modCmd_submit (t : SlotIx) (f : CmdList → CmdList) : (modCmd s t f).submit = s.submit := rfl
@[simp] theorem modCmd_stashTimeout (t : SlotIx) (f : CmdList → CmdList) : (modCmd s t f).stashTimeout = s.stashTimeout := rfl
@[simp] theorem modCmd_rhaor (t : SlotIx) (f : CmdList → CmdList) : (modCmd s t f).rhaor = s.rhaor := rfl
@[simp] theorem modCmd_cxl (t : SlotIx) (f : CmdList → CmdList) : (modCmd s t f).cxl = s.cxl := rfl
@[simp] theorem modCmd_links (t : SlotIx) (f : CmdList → CmdList) : (modCmd s t f).links = s.links := rfl
@[simp] theorem modCmd_net (t : SlotIx) (f : CmdList → CmdList) : (modCmd s t f).net = s.net := rfl
@[simp] theorem modCmd_mir (t : SlotIx) (f : CmdList → CmdList) : (modCmd s t f).mir = s.mir := rfl
@[simp] theorem modCmd_time (t : SlotIx) (f : CmdList → CmdList) : (modCmd s t f).time = s.time := rfl
@[simp] theorem modCmd_regions (t : SlotIx) (f : CmdList → CmdList) : (modCmd s t f).regions = s.regions := rfl
@[simp] theorem modCmd_duty (t : SlotIx) (f : CmdList → CmdList) : (modCmd s t f).duty = s.duty := rfl
@[simp] theorem modCmd_power (t : SlotIx) (f : CmdList → CmdList) : (modCmd s t f).power = s.power := rfl
@[simp] theorem modCmd_act (t : SlotIx) (f : CmdList → CmdList) : (modCmd s t f).act = s.act := rfl
@[simp] theorem modCmd_recorder (t : SlotIx) (f : CmdList → CmdList) : (modCmd s t f).recorder = s.recorder := rfl
@[simp] theorem modCmd_reqHost (t : SlotIx) (f : CmdList → CmdList) : (modCmd s t f).reqHost = s.reqHost := rfl
@[simp] theorem modCmd_reqMgmt (t : SlotIx) (f : CmdList → CmdList) : (modCmd s t f).reqMgmt = s.reqMgmt := rfl
@[simp] theorem modCmd_reqFw (t : SlotIx) (f : CmdList → CmdList) : (modCmd s t f).reqFw = s.reqFw := rfl
@[simp] theorem modCmd_staging (t : SlotIx) (f : CmdList → CmdList) : (modCmd s t f).staging = s.staging := rfl
@[simp] theorem modCmd_mbHost (t : SlotIx) (f : CmdList → CmdList) : (modCmd s t f).mbHost = s.mbHost := rfl
@[simp] theorem modCmd_mbMgmt (t : SlotIx) (f : CmdList → CmdList) : (modCmd s t f).mbMgmt = s.mbMgmt := rfl
@[simp] theorem modCmd_mbQueue (t : SlotIx) (f : CmdList → CmdList) : (modCmd s t f).mbQueue = s.mbQueue := rfl
@[simp] theorem modCmd_stTimeout (t : SlotIx) (f : CmdList → CmdList) : (modCmd s t f).stTimeout = s.stTimeout := rfl
@[simp] theorem modCmd_quiesce (t : SlotIx) (f : CmdList → CmdList) : (modCmd s t f).quiesce = s.quiesce := rfl
@[simp] theorem modCmd_sec (t : SlotIx) (f : CmdList → CmdList) : (modCmd s t f).sec = s.sec := rfl

@[simp] theorem modPort_pending (p : SecIx) (f : Port → Port) : (modPort s p f).pending = s.pending := rfl
@[simp] theorem modPort_out (p : SecIx) (f : Port → Port) : (modPort s p f).out = s.out := rfl
@[simp] theorem modPort_freeCtr (p : SecIx) (f : Port → Port) : (modPort s p f).freeCtr = s.freeCtr := rfl
@[simp] theorem modPort_cores (p : SecIx) (f : Port → Port) : (modPort s p f).cores = s.cores := rfl
@[simp] theorem modPort_flits (p : SecIx) (f : Port → Port) : (modPort s p f).flits = s.flits := rfl
@[simp] theorem modPort_buckleNext (p : SecIx) (f : Port → Port) : (modPort s p f).buckleNext = s.buckleNext := rfl
@[simp] theorem modPort_buckle (p : SecIx) (f : Port → Port) : (modPort s p f).buckle = s.buckle := rfl
@[simp] theorem modPort_xingAlarm (p : SecIx) (f : Port → Port) : (modPort s p f).xingAlarm = s.xingAlarm := rfl
@[simp] theorem modPort_incs (p : SecIx) (f : Port → Port) : (modPort s p f).incs = s.incs := rfl
@[simp] theorem modPort_reports (p : SecIx) (f : Port → Port) : (modPort s p f).reports = s.reports := rfl
@[simp] theorem modPort_gsigs (p : SecIx) (f : Port → Port) : (modPort s p f).gsigs = s.gsigs := rfl
@[simp] theorem modPort_gctr (p : SecIx) (f : Port → Port) : (modPort s p f).gctr = s.gctr := rfl
@[simp] theorem modPort_gregs (p : SecIx) (f : Port → Port) : (modPort s p f).gregs = s.gregs := rfl
@[simp] theorem modPort_fabric (p : SecIx) (f : Port → Port) : (modPort s p f).fabric = s.fabric := rfl
@[simp] theorem modPort_resps (p : SecIx) (f : Port → Port) : (modPort s p f).resps = s.resps := rfl
@[simp] theorem modPort_runs (p : SecIx) (f : Port → Port) : (modPort s p f).runs = s.runs := rfl
@[simp] theorem modPort_probe (p : SecIx) (f : Port → Port) : (modPort s p f).probe = s.probe := rfl
@[simp] theorem modPort_nextId (p : SecIx) (f : Port → Port) : (modPort s p f).nextId = s.nextId := rfl
@[simp] theorem modPort_dram (p : SecIx) (f : Port → Port) : (modPort s p f).dram = s.dram := rfl
@[simp] theorem modPort_dramPoison (p : SecIx) (f : Port → Port) : (modPort s p f).dramPoison = s.dramPoison := rfl
@[simp] theorem modPort_loose (p : SecIx) (f : Port → Port) : (modPort s p f).loose = s.loose := rfl
@[simp] theorem modPort_lookup (p : SecIx) (f : Port → Port) : (modPort s p f).lookup = s.lookup := rfl
@[simp] theorem modPort_lkWork (p : SecIx) (f : Port → Port) : (modPort s p f).lkWork = s.lkWork := rfl
@[simp] theorem modPort_tasks (p : SecIx) (f : Port → Port) : (modPort s p f).tasks = s.tasks := rfl
@[simp] theorem modPort_resv (p : SecIx) (f : Port → Port) : (modPort s p f).resv = s.resv := rfl
@[simp] theorem modPort_queues (p : SecIx) (f : Port → Port) : (modPort s p f).queues = s.queues := rfl
@[simp] theorem modPort_rrQueue (p : SecIx) (f : Port → Port) : (modPort s p f).rrQueue = s.rrQueue := rfl
@[simp] theorem modPort_submit (p : SecIx) (f : Port → Port) : (modPort s p f).submit = s.submit := rfl
@[simp] theorem modPort_stashTimeout (p : SecIx) (f : Port → Port) : (modPort s p f).stashTimeout = s.stashTimeout := rfl
@[simp] theorem modPort_rhaor (p : SecIx) (f : Port → Port) : (modPort s p f).rhaor = s.rhaor := rfl
@[simp] theorem modPort_cxl (p : SecIx) (f : Port → Port) : (modPort s p f).cxl = s.cxl := rfl
@[simp] theorem modPort_links (p : SecIx) (f : Port → Port) : (modPort s p f).links = s.links := rfl
@[simp] theorem modPort_net (p : SecIx) (f : Port → Port) : (modPort s p f).net = s.net := rfl
@[simp] theorem modPort_mir (p : SecIx) (f : Port → Port) : (modPort s p f).mir = s.mir := rfl
@[simp] theorem modPort_time (p : SecIx) (f : Port → Port) : (modPort s p f).time = s.time := rfl
@[simp] theorem modPort_regions (p : SecIx) (f : Port → Port) : (modPort s p f).regions = s.regions := rfl
@[simp] theorem modPort_duty (p : SecIx) (f : Port → Port) : (modPort s p f).duty = s.duty := rfl
@[simp] theorem modPort_power (p : SecIx) (f : Port → Port) : (modPort s p f).power = s.power := rfl
@[simp] theorem modPort_act (p : SecIx) (f : Port → Port) : (modPort s p f).act = s.act := rfl
@[simp] theorem modPort_recorder (p : SecIx) (f : Port → Port) : (modPort s p f).recorder = s.recorder := rfl
@[simp] theorem modPort_reqHost (p : SecIx) (f : Port → Port) : (modPort s p f).reqHost = s.reqHost := rfl
@[simp] theorem modPort_reqMgmt (p : SecIx) (f : Port → Port) : (modPort s p f).reqMgmt = s.reqMgmt := rfl
@[simp] theorem modPort_reqFw (p : SecIx) (f : Port → Port) : (modPort s p f).reqFw = s.reqFw := rfl
@[simp] theorem modPort_staging (p : SecIx) (f : Port → Port) : (modPort s p f).staging = s.staging := rfl
@[simp] theorem modPort_mbHost (p : SecIx) (f : Port → Port) : (modPort s p f).mbHost = s.mbHost := rfl
@[simp] theorem modPort_mbMgmt (p : SecIx) (f : Port → Port) : (modPort s p f).mbMgmt = s.mbMgmt := rfl
@[simp] theorem modPort_mbQueue (p : SecIx) (f : Port → Port) : (modPort s p f).mbQueue = s.mbQueue := rfl
@[simp] theorem modPort_stTimeout (p : SecIx) (f : Port → Port) : (modPort s p f).stTimeout = s.stTimeout := rfl
@[simp] theorem modPort_quiesce (p : SecIx) (f : Port → Port) : (modPort s p f).quiesce = s.quiesce := rfl
@[simp] theorem modPort_sec (p : SecIx) (f : Port → Port) : (modPort s p f).sec = s.sec := rfl

@[simp] theorem modLink_pending (p : Fin 8) (f : LinkPort → LinkPort) : (modLink s p f).pending = s.pending := rfl
@[simp] theorem modLink_out (p : Fin 8) (f : LinkPort → LinkPort) : (modLink s p f).out = s.out := rfl
@[simp] theorem modLink_freeCtr (p : Fin 8) (f : LinkPort → LinkPort) : (modLink s p f).freeCtr = s.freeCtr := rfl
@[simp] theorem modLink_cores (p : Fin 8) (f : LinkPort → LinkPort) : (modLink s p f).cores = s.cores := rfl
@[simp] theorem modLink_flits (p : Fin 8) (f : LinkPort → LinkPort) : (modLink s p f).flits = s.flits := rfl
@[simp] theorem modLink_buckleNext (p : Fin 8) (f : LinkPort → LinkPort) : (modLink s p f).buckleNext = s.buckleNext := rfl
@[simp] theorem modLink_buckle (p : Fin 8) (f : LinkPort → LinkPort) : (modLink s p f).buckle = s.buckle := rfl
@[simp] theorem modLink_xingAlarm (p : Fin 8) (f : LinkPort → LinkPort) : (modLink s p f).xingAlarm = s.xingAlarm := rfl
@[simp] theorem modLink_incs (p : Fin 8) (f : LinkPort → LinkPort) : (modLink s p f).incs = s.incs := rfl
@[simp] theorem modLink_reports (p : Fin 8) (f : LinkPort → LinkPort) : (modLink s p f).reports = s.reports := rfl
@[simp] theorem modLink_gsigs (p : Fin 8) (f : LinkPort → LinkPort) : (modLink s p f).gsigs = s.gsigs := rfl
@[simp] theorem modLink_gctr (p : Fin 8) (f : LinkPort → LinkPort) : (modLink s p f).gctr = s.gctr := rfl
@[simp] theorem modLink_gregs (p : Fin 8) (f : LinkPort → LinkPort) : (modLink s p f).gregs = s.gregs := rfl
@[simp] theorem modLink_fabric (p : Fin 8) (f : LinkPort → LinkPort) : (modLink s p f).fabric = s.fabric := rfl
@[simp] theorem modLink_resps (p : Fin 8) (f : LinkPort → LinkPort) : (modLink s p f).resps = s.resps := rfl
@[simp] theorem modLink_runs (p : Fin 8) (f : LinkPort → LinkPort) : (modLink s p f).runs = s.runs := rfl
@[simp] theorem modLink_probe (p : Fin 8) (f : LinkPort → LinkPort) : (modLink s p f).probe = s.probe := rfl
@[simp] theorem modLink_nextId (p : Fin 8) (f : LinkPort → LinkPort) : (modLink s p f).nextId = s.nextId := rfl
@[simp] theorem modLink_dram (p : Fin 8) (f : LinkPort → LinkPort) : (modLink s p f).dram = s.dram := rfl
@[simp] theorem modLink_dramPoison (p : Fin 8) (f : LinkPort → LinkPort) : (modLink s p f).dramPoison = s.dramPoison := rfl
@[simp] theorem modLink_loose (p : Fin 8) (f : LinkPort → LinkPort) : (modLink s p f).loose = s.loose := rfl
@[simp] theorem modLink_ports (p : Fin 8) (f : LinkPort → LinkPort) : (modLink s p f).ports = s.ports := rfl
@[simp] theorem modLink_lookup (p : Fin 8) (f : LinkPort → LinkPort) : (modLink s p f).lookup = s.lookup := rfl
@[simp] theorem modLink_lkWork (p : Fin 8) (f : LinkPort → LinkPort) : (modLink s p f).lkWork = s.lkWork := rfl
@[simp] theorem modLink_tasks (p : Fin 8) (f : LinkPort → LinkPort) : (modLink s p f).tasks = s.tasks := rfl
@[simp] theorem modLink_resv (p : Fin 8) (f : LinkPort → LinkPort) : (modLink s p f).resv = s.resv := rfl
@[simp] theorem modLink_queues (p : Fin 8) (f : LinkPort → LinkPort) : (modLink s p f).queues = s.queues := rfl
@[simp] theorem modLink_rrQueue (p : Fin 8) (f : LinkPort → LinkPort) : (modLink s p f).rrQueue = s.rrQueue := rfl
@[simp] theorem modLink_submit (p : Fin 8) (f : LinkPort → LinkPort) : (modLink s p f).submit = s.submit := rfl
@[simp] theorem modLink_stashTimeout (p : Fin 8) (f : LinkPort → LinkPort) : (modLink s p f).stashTimeout = s.stashTimeout := rfl
@[simp] theorem modLink_rhaor (p : Fin 8) (f : LinkPort → LinkPort) : (modLink s p f).rhaor = s.rhaor := rfl
@[simp] theorem modLink_cxl (p : Fin 8) (f : LinkPort → LinkPort) : (modLink s p f).cxl = s.cxl := rfl
@[simp] theorem modLink_net (p : Fin 8) (f : LinkPort → LinkPort) : (modLink s p f).net = s.net := rfl
@[simp] theorem modLink_mir (p : Fin 8) (f : LinkPort → LinkPort) : (modLink s p f).mir = s.mir := rfl
@[simp] theorem modLink_time (p : Fin 8) (f : LinkPort → LinkPort) : (modLink s p f).time = s.time := rfl
@[simp] theorem modLink_regions (p : Fin 8) (f : LinkPort → LinkPort) : (modLink s p f).regions = s.regions := rfl
@[simp] theorem modLink_duty (p : Fin 8) (f : LinkPort → LinkPort) : (modLink s p f).duty = s.duty := rfl
@[simp] theorem modLink_power (p : Fin 8) (f : LinkPort → LinkPort) : (modLink s p f).power = s.power := rfl
@[simp] theorem modLink_act (p : Fin 8) (f : LinkPort → LinkPort) : (modLink s p f).act = s.act := rfl
@[simp] theorem modLink_recorder (p : Fin 8) (f : LinkPort → LinkPort) : (modLink s p f).recorder = s.recorder := rfl
@[simp] theorem modLink_reqHost (p : Fin 8) (f : LinkPort → LinkPort) : (modLink s p f).reqHost = s.reqHost := rfl
@[simp] theorem modLink_reqMgmt (p : Fin 8) (f : LinkPort → LinkPort) : (modLink s p f).reqMgmt = s.reqMgmt := rfl
@[simp] theorem modLink_reqFw (p : Fin 8) (f : LinkPort → LinkPort) : (modLink s p f).reqFw = s.reqFw := rfl
@[simp] theorem modLink_staging (p : Fin 8) (f : LinkPort → LinkPort) : (modLink s p f).staging = s.staging := rfl
@[simp] theorem modLink_mbHost (p : Fin 8) (f : LinkPort → LinkPort) : (modLink s p f).mbHost = s.mbHost := rfl
@[simp] theorem modLink_mbMgmt (p : Fin 8) (f : LinkPort → LinkPort) : (modLink s p f).mbMgmt = s.mbMgmt := rfl
@[simp] theorem modLink_mbQueue (p : Fin 8) (f : LinkPort → LinkPort) : (modLink s p f).mbQueue = s.mbQueue := rfl
@[simp] theorem modLink_stTimeout (p : Fin 8) (f : LinkPort → LinkPort) : (modLink s p f).stTimeout = s.stTimeout := rfl
@[simp] theorem modLink_quiesce (p : Fin 8) (f : LinkPort → LinkPort) : (modLink s p f).quiesce = s.quiesce := rfl
@[simp] theorem modLink_sec (p : Fin 8) (f : LinkPort → LinkPort) : (modLink s p f).sec = s.sec := rfl

@[simp] theorem modDuty_pending (p : SecIx) (f : Duty → Duty) : (modDuty s p f).pending = s.pending := rfl
@[simp] theorem modDuty_out (p : SecIx) (f : Duty → Duty) : (modDuty s p f).out = s.out := rfl
@[simp] theorem modDuty_freeCtr (p : SecIx) (f : Duty → Duty) : (modDuty s p f).freeCtr = s.freeCtr := rfl
@[simp] theorem modDuty_cores (p : SecIx) (f : Duty → Duty) : (modDuty s p f).cores = s.cores := rfl
@[simp] theorem modDuty_flits (p : SecIx) (f : Duty → Duty) : (modDuty s p f).flits = s.flits := rfl
@[simp] theorem modDuty_buckleNext (p : SecIx) (f : Duty → Duty) : (modDuty s p f).buckleNext = s.buckleNext := rfl
@[simp] theorem modDuty_buckle (p : SecIx) (f : Duty → Duty) : (modDuty s p f).buckle = s.buckle := rfl
@[simp] theorem modDuty_xingAlarm (p : SecIx) (f : Duty → Duty) : (modDuty s p f).xingAlarm = s.xingAlarm := rfl
@[simp] theorem modDuty_incs (p : SecIx) (f : Duty → Duty) : (modDuty s p f).incs = s.incs := rfl
@[simp] theorem modDuty_reports (p : SecIx) (f : Duty → Duty) : (modDuty s p f).reports = s.reports := rfl
@[simp] theorem modDuty_gsigs (p : SecIx) (f : Duty → Duty) : (modDuty s p f).gsigs = s.gsigs := rfl
@[simp] theorem modDuty_gctr (p : SecIx) (f : Duty → Duty) : (modDuty s p f).gctr = s.gctr := rfl
@[simp] theorem modDuty_gregs (p : SecIx) (f : Duty → Duty) : (modDuty s p f).gregs = s.gregs := rfl
@[simp] theorem modDuty_fabric (p : SecIx) (f : Duty → Duty) : (modDuty s p f).fabric = s.fabric := rfl
@[simp] theorem modDuty_resps (p : SecIx) (f : Duty → Duty) : (modDuty s p f).resps = s.resps := rfl
@[simp] theorem modDuty_runs (p : SecIx) (f : Duty → Duty) : (modDuty s p f).runs = s.runs := rfl
@[simp] theorem modDuty_probe (p : SecIx) (f : Duty → Duty) : (modDuty s p f).probe = s.probe := rfl
@[simp] theorem modDuty_nextId (p : SecIx) (f : Duty → Duty) : (modDuty s p f).nextId = s.nextId := rfl
@[simp] theorem modDuty_dram (p : SecIx) (f : Duty → Duty) : (modDuty s p f).dram = s.dram := rfl
@[simp] theorem modDuty_dramPoison (p : SecIx) (f : Duty → Duty) : (modDuty s p f).dramPoison = s.dramPoison := rfl
@[simp] theorem modDuty_loose (p : SecIx) (f : Duty → Duty) : (modDuty s p f).loose = s.loose := rfl
@[simp] theorem modDuty_ports (p : SecIx) (f : Duty → Duty) : (modDuty s p f).ports = s.ports := rfl
@[simp] theorem modDuty_lookup (p : SecIx) (f : Duty → Duty) : (modDuty s p f).lookup = s.lookup := rfl
@[simp] theorem modDuty_lkWork (p : SecIx) (f : Duty → Duty) : (modDuty s p f).lkWork = s.lkWork := rfl
@[simp] theorem modDuty_tasks (p : SecIx) (f : Duty → Duty) : (modDuty s p f).tasks = s.tasks := rfl
@[simp] theorem modDuty_resv (p : SecIx) (f : Duty → Duty) : (modDuty s p f).resv = s.resv := rfl
@[simp] theorem modDuty_queues (p : SecIx) (f : Duty → Duty) : (modDuty s p f).queues = s.queues := rfl
@[simp] theorem modDuty_rrQueue (p : SecIx) (f : Duty → Duty) : (modDuty s p f).rrQueue = s.rrQueue := rfl
@[simp] theorem modDuty_submit (p : SecIx) (f : Duty → Duty) : (modDuty s p f).submit = s.submit := rfl
@[simp] theorem modDuty_stashTimeout (p : SecIx) (f : Duty → Duty) : (modDuty s p f).stashTimeout = s.stashTimeout := rfl
@[simp] theorem modDuty_rhaor (p : SecIx) (f : Duty → Duty) : (modDuty s p f).rhaor = s.rhaor := rfl
@[simp] theorem modDuty_cxl (p : SecIx) (f : Duty → Duty) : (modDuty s p f).cxl = s.cxl := rfl
@[simp] theorem modDuty_links (p : SecIx) (f : Duty → Duty) : (modDuty s p f).links = s.links := rfl
@[simp] theorem modDuty_net (p : SecIx) (f : Duty → Duty) : (modDuty s p f).net = s.net := rfl
@[simp] theorem modDuty_mir (p : SecIx) (f : Duty → Duty) : (modDuty s p f).mir = s.mir := rfl
@[simp] theorem modDuty_time (p : SecIx) (f : Duty → Duty) : (modDuty s p f).time = s.time := rfl
@[simp] theorem modDuty_regions (p : SecIx) (f : Duty → Duty) : (modDuty s p f).regions = s.regions := rfl
@[simp] theorem modDuty_power (p : SecIx) (f : Duty → Duty) : (modDuty s p f).power = s.power := rfl
@[simp] theorem modDuty_act (p : SecIx) (f : Duty → Duty) : (modDuty s p f).act = s.act := rfl
@[simp] theorem modDuty_recorder (p : SecIx) (f : Duty → Duty) : (modDuty s p f).recorder = s.recorder := rfl
@[simp] theorem modDuty_reqHost (p : SecIx) (f : Duty → Duty) : (modDuty s p f).reqHost = s.reqHost := rfl
@[simp] theorem modDuty_reqMgmt (p : SecIx) (f : Duty → Duty) : (modDuty s p f).reqMgmt = s.reqMgmt := rfl
@[simp] theorem modDuty_reqFw (p : SecIx) (f : Duty → Duty) : (modDuty s p f).reqFw = s.reqFw := rfl
@[simp] theorem modDuty_staging (p : SecIx) (f : Duty → Duty) : (modDuty s p f).staging = s.staging := rfl
@[simp] theorem modDuty_mbHost (p : SecIx) (f : Duty → Duty) : (modDuty s p f).mbHost = s.mbHost := rfl
@[simp] theorem modDuty_mbMgmt (p : SecIx) (f : Duty → Duty) : (modDuty s p f).mbMgmt = s.mbMgmt := rfl
@[simp] theorem modDuty_mbQueue (p : SecIx) (f : Duty → Duty) : (modDuty s p f).mbQueue = s.mbQueue := rfl
@[simp] theorem modDuty_stTimeout (p : SecIx) (f : Duty → Duty) : (modDuty s p f).stTimeout = s.stTimeout := rfl
@[simp] theorem modDuty_quiesce (p : SecIx) (f : Duty → Duty) : (modDuty s p f).quiesce = s.quiesce := rfl
@[simp] theorem modDuty_sec (p : SecIx) (f : Duty → Duty) : (modDuty s p f).sec = s.sec := rfl

@[simp] theorem modRegion_pending (r : Fin 29) (f : Region → Region) : (modRegion s r f).pending = s.pending := rfl
@[simp] theorem modRegion_out (r : Fin 29) (f : Region → Region) : (modRegion s r f).out = s.out := rfl
@[simp] theorem modRegion_freeCtr (r : Fin 29) (f : Region → Region) : (modRegion s r f).freeCtr = s.freeCtr := rfl
@[simp] theorem modRegion_cores (r : Fin 29) (f : Region → Region) : (modRegion s r f).cores = s.cores := rfl
@[simp] theorem modRegion_flits (r : Fin 29) (f : Region → Region) : (modRegion s r f).flits = s.flits := rfl
@[simp] theorem modRegion_buckleNext (r : Fin 29) (f : Region → Region) : (modRegion s r f).buckleNext = s.buckleNext := rfl
@[simp] theorem modRegion_buckle (r : Fin 29) (f : Region → Region) : (modRegion s r f).buckle = s.buckle := rfl
@[simp] theorem modRegion_xingAlarm (r : Fin 29) (f : Region → Region) : (modRegion s r f).xingAlarm = s.xingAlarm := rfl
@[simp] theorem modRegion_incs (r : Fin 29) (f : Region → Region) : (modRegion s r f).incs = s.incs := rfl
@[simp] theorem modRegion_reports (r : Fin 29) (f : Region → Region) : (modRegion s r f).reports = s.reports := rfl
@[simp] theorem modRegion_gsigs (r : Fin 29) (f : Region → Region) : (modRegion s r f).gsigs = s.gsigs := rfl
@[simp] theorem modRegion_gctr (r : Fin 29) (f : Region → Region) : (modRegion s r f).gctr = s.gctr := rfl
@[simp] theorem modRegion_gregs (r : Fin 29) (f : Region → Region) : (modRegion s r f).gregs = s.gregs := rfl
@[simp] theorem modRegion_fabric (r : Fin 29) (f : Region → Region) : (modRegion s r f).fabric = s.fabric := rfl
@[simp] theorem modRegion_resps (r : Fin 29) (f : Region → Region) : (modRegion s r f).resps = s.resps := rfl
@[simp] theorem modRegion_runs (r : Fin 29) (f : Region → Region) : (modRegion s r f).runs = s.runs := rfl
@[simp] theorem modRegion_probe (r : Fin 29) (f : Region → Region) : (modRegion s r f).probe = s.probe := rfl
@[simp] theorem modRegion_nextId (r : Fin 29) (f : Region → Region) : (modRegion s r f).nextId = s.nextId := rfl
@[simp] theorem modRegion_dram (r : Fin 29) (f : Region → Region) : (modRegion s r f).dram = s.dram := rfl
@[simp] theorem modRegion_dramPoison (r : Fin 29) (f : Region → Region) : (modRegion s r f).dramPoison = s.dramPoison := rfl
@[simp] theorem modRegion_loose (r : Fin 29) (f : Region → Region) : (modRegion s r f).loose = s.loose := rfl
@[simp] theorem modRegion_ports (r : Fin 29) (f : Region → Region) : (modRegion s r f).ports = s.ports := rfl
@[simp] theorem modRegion_lookup (r : Fin 29) (f : Region → Region) : (modRegion s r f).lookup = s.lookup := rfl
@[simp] theorem modRegion_lkWork (r : Fin 29) (f : Region → Region) : (modRegion s r f).lkWork = s.lkWork := rfl
@[simp] theorem modRegion_tasks (r : Fin 29) (f : Region → Region) : (modRegion s r f).tasks = s.tasks := rfl
@[simp] theorem modRegion_resv (r : Fin 29) (f : Region → Region) : (modRegion s r f).resv = s.resv := rfl
@[simp] theorem modRegion_queues (r : Fin 29) (f : Region → Region) : (modRegion s r f).queues = s.queues := rfl
@[simp] theorem modRegion_rrQueue (r : Fin 29) (f : Region → Region) : (modRegion s r f).rrQueue = s.rrQueue := rfl
@[simp] theorem modRegion_submit (r : Fin 29) (f : Region → Region) : (modRegion s r f).submit = s.submit := rfl
@[simp] theorem modRegion_stashTimeout (r : Fin 29) (f : Region → Region) : (modRegion s r f).stashTimeout = s.stashTimeout := rfl
@[simp] theorem modRegion_rhaor (r : Fin 29) (f : Region → Region) : (modRegion s r f).rhaor = s.rhaor := rfl
@[simp] theorem modRegion_cxl (r : Fin 29) (f : Region → Region) : (modRegion s r f).cxl = s.cxl := rfl
@[simp] theorem modRegion_links (r : Fin 29) (f : Region → Region) : (modRegion s r f).links = s.links := rfl
@[simp] theorem modRegion_net (r : Fin 29) (f : Region → Region) : (modRegion s r f).net = s.net := rfl
@[simp] theorem modRegion_mir (r : Fin 29) (f : Region → Region) : (modRegion s r f).mir = s.mir := rfl
@[simp] theorem modRegion_time (r : Fin 29) (f : Region → Region) : (modRegion s r f).time = s.time := rfl
@[simp] theorem modRegion_duty (r : Fin 29) (f : Region → Region) : (modRegion s r f).duty = s.duty := rfl
@[simp] theorem modRegion_power (r : Fin 29) (f : Region → Region) : (modRegion s r f).power = s.power := rfl
@[simp] theorem modRegion_act (r : Fin 29) (f : Region → Region) : (modRegion s r f).act = s.act := rfl
@[simp] theorem modRegion_recorder (r : Fin 29) (f : Region → Region) : (modRegion s r f).recorder = s.recorder := rfl
@[simp] theorem modRegion_reqHost (r : Fin 29) (f : Region → Region) : (modRegion s r f).reqHost = s.reqHost := rfl
@[simp] theorem modRegion_reqMgmt (r : Fin 29) (f : Region → Region) : (modRegion s r f).reqMgmt = s.reqMgmt := rfl
@[simp] theorem modRegion_reqFw (r : Fin 29) (f : Region → Region) : (modRegion s r f).reqFw = s.reqFw := rfl
@[simp] theorem modRegion_staging (r : Fin 29) (f : Region → Region) : (modRegion s r f).staging = s.staging := rfl
@[simp] theorem modRegion_mbHost (r : Fin 29) (f : Region → Region) : (modRegion s r f).mbHost = s.mbHost := rfl
@[simp] theorem modRegion_mbMgmt (r : Fin 29) (f : Region → Region) : (modRegion s r f).mbMgmt = s.mbMgmt := rfl
@[simp] theorem modRegion_mbQueue (r : Fin 29) (f : Region → Region) : (modRegion s r f).mbQueue = s.mbQueue := rfl
@[simp] theorem modRegion_stTimeout (r : Fin 29) (f : Region → Region) : (modRegion s r f).stTimeout = s.stTimeout := rfl
@[simp] theorem modRegion_quiesce (r : Fin 29) (f : Region → Region) : (modRegion s r f).quiesce = s.quiesce := rfl
@[simp] theorem modRegion_sec (r : Fin 29) (f : Region → Region) : (modRegion s r f).sec = s.sec := rfl

@[simp] theorem modQueue_pending (q : Fin 8) (f : Queue → Queue) : (modQueue s q f).pending = s.pending := rfl
@[simp] theorem modQueue_out (q : Fin 8) (f : Queue → Queue) : (modQueue s q f).out = s.out := rfl
@[simp] theorem modQueue_freeCtr (q : Fin 8) (f : Queue → Queue) : (modQueue s q f).freeCtr = s.freeCtr := rfl
@[simp] theorem modQueue_cores (q : Fin 8) (f : Queue → Queue) : (modQueue s q f).cores = s.cores := rfl
@[simp] theorem modQueue_flits (q : Fin 8) (f : Queue → Queue) : (modQueue s q f).flits = s.flits := rfl
@[simp] theorem modQueue_buckleNext (q : Fin 8) (f : Queue → Queue) : (modQueue s q f).buckleNext = s.buckleNext := rfl
@[simp] theorem modQueue_buckle (q : Fin 8) (f : Queue → Queue) : (modQueue s q f).buckle = s.buckle := rfl
@[simp] theorem modQueue_xingAlarm (q : Fin 8) (f : Queue → Queue) : (modQueue s q f).xingAlarm = s.xingAlarm := rfl
@[simp] theorem modQueue_incs (q : Fin 8) (f : Queue → Queue) : (modQueue s q f).incs = s.incs := rfl
@[simp] theorem modQueue_reports (q : Fin 8) (f : Queue → Queue) : (modQueue s q f).reports = s.reports := rfl
@[simp] theorem modQueue_gsigs (q : Fin 8) (f : Queue → Queue) : (modQueue s q f).gsigs = s.gsigs := rfl
@[simp] theorem modQueue_gctr (q : Fin 8) (f : Queue → Queue) : (modQueue s q f).gctr = s.gctr := rfl
@[simp] theorem modQueue_gregs (q : Fin 8) (f : Queue → Queue) : (modQueue s q f).gregs = s.gregs := rfl
@[simp] theorem modQueue_fabric (q : Fin 8) (f : Queue → Queue) : (modQueue s q f).fabric = s.fabric := rfl
@[simp] theorem modQueue_resps (q : Fin 8) (f : Queue → Queue) : (modQueue s q f).resps = s.resps := rfl
@[simp] theorem modQueue_runs (q : Fin 8) (f : Queue → Queue) : (modQueue s q f).runs = s.runs := rfl
@[simp] theorem modQueue_probe (q : Fin 8) (f : Queue → Queue) : (modQueue s q f).probe = s.probe := rfl
@[simp] theorem modQueue_nextId (q : Fin 8) (f : Queue → Queue) : (modQueue s q f).nextId = s.nextId := rfl
@[simp] theorem modQueue_dram (q : Fin 8) (f : Queue → Queue) : (modQueue s q f).dram = s.dram := rfl
@[simp] theorem modQueue_dramPoison (q : Fin 8) (f : Queue → Queue) : (modQueue s q f).dramPoison = s.dramPoison := rfl
@[simp] theorem modQueue_loose (q : Fin 8) (f : Queue → Queue) : (modQueue s q f).loose = s.loose := rfl
@[simp] theorem modQueue_ports (q : Fin 8) (f : Queue → Queue) : (modQueue s q f).ports = s.ports := rfl
@[simp] theorem modQueue_lookup (q : Fin 8) (f : Queue → Queue) : (modQueue s q f).lookup = s.lookup := rfl
@[simp] theorem modQueue_lkWork (q : Fin 8) (f : Queue → Queue) : (modQueue s q f).lkWork = s.lkWork := rfl
@[simp] theorem modQueue_tasks (q : Fin 8) (f : Queue → Queue) : (modQueue s q f).tasks = s.tasks := rfl
@[simp] theorem modQueue_resv (q : Fin 8) (f : Queue → Queue) : (modQueue s q f).resv = s.resv := rfl
@[simp] theorem modQueue_rrQueue (q : Fin 8) (f : Queue → Queue) : (modQueue s q f).rrQueue = s.rrQueue := rfl
@[simp] theorem modQueue_submit (q : Fin 8) (f : Queue → Queue) : (modQueue s q f).submit = s.submit := rfl
@[simp] theorem modQueue_stashTimeout (q : Fin 8) (f : Queue → Queue) : (modQueue s q f).stashTimeout = s.stashTimeout := rfl
@[simp] theorem modQueue_rhaor (q : Fin 8) (f : Queue → Queue) : (modQueue s q f).rhaor = s.rhaor := rfl
@[simp] theorem modQueue_cxl (q : Fin 8) (f : Queue → Queue) : (modQueue s q f).cxl = s.cxl := rfl
@[simp] theorem modQueue_links (q : Fin 8) (f : Queue → Queue) : (modQueue s q f).links = s.links := rfl
@[simp] theorem modQueue_net (q : Fin 8) (f : Queue → Queue) : (modQueue s q f).net = s.net := rfl
@[simp] theorem modQueue_mir (q : Fin 8) (f : Queue → Queue) : (modQueue s q f).mir = s.mir := rfl
@[simp] theorem modQueue_time (q : Fin 8) (f : Queue → Queue) : (modQueue s q f).time = s.time := rfl
@[simp] theorem modQueue_regions (q : Fin 8) (f : Queue → Queue) : (modQueue s q f).regions = s.regions := rfl
@[simp] theorem modQueue_duty (q : Fin 8) (f : Queue → Queue) : (modQueue s q f).duty = s.duty := rfl
@[simp] theorem modQueue_power (q : Fin 8) (f : Queue → Queue) : (modQueue s q f).power = s.power := rfl
@[simp] theorem modQueue_act (q : Fin 8) (f : Queue → Queue) : (modQueue s q f).act = s.act := rfl
@[simp] theorem modQueue_recorder (q : Fin 8) (f : Queue → Queue) : (modQueue s q f).recorder = s.recorder := rfl
@[simp] theorem modQueue_reqHost (q : Fin 8) (f : Queue → Queue) : (modQueue s q f).reqHost = s.reqHost := rfl
@[simp] theorem modQueue_reqMgmt (q : Fin 8) (f : Queue → Queue) : (modQueue s q f).reqMgmt = s.reqMgmt := rfl
@[simp] theorem modQueue_reqFw (q : Fin 8) (f : Queue → Queue) : (modQueue s q f).reqFw = s.reqFw := rfl
@[simp] theorem modQueue_staging (q : Fin 8) (f : Queue → Queue) : (modQueue s q f).staging = s.staging := rfl
@[simp] theorem modQueue_mbHost (q : Fin 8) (f : Queue → Queue) : (modQueue s q f).mbHost = s.mbHost := rfl
@[simp] theorem modQueue_mbMgmt (q : Fin 8) (f : Queue → Queue) : (modQueue s q f).mbMgmt = s.mbMgmt := rfl
@[simp] theorem modQueue_mbQueue (q : Fin 8) (f : Queue → Queue) : (modQueue s q f).mbQueue = s.mbQueue := rfl
@[simp] theorem modQueue_stTimeout (q : Fin 8) (f : Queue → Queue) : (modQueue s q f).stTimeout = s.stTimeout := rfl
@[simp] theorem modQueue_quiesce (q : Fin 8) (f : Queue → Queue) : (modQueue s q f).quiesce = s.quiesce := rfl
@[simp] theorem modQueue_sec (q : Fin 8) (f : Queue → Queue) : (modQueue s q f).sec = s.sec := rfl

@[simp] theorem emit_pending (m : OutMsg) : (emit s m).pending = s.pending := rfl
@[simp] theorem emit_freeCtr (m : OutMsg) : (emit s m).freeCtr = s.freeCtr := rfl
@[simp] theorem emit_cores (m : OutMsg) : (emit s m).cores = s.cores := rfl
@[simp] theorem emit_flits (m : OutMsg) : (emit s m).flits = s.flits := rfl
@[simp] theorem emit_buckleNext (m : OutMsg) : (emit s m).buckleNext = s.buckleNext := rfl
@[simp] theorem emit_buckle (m : OutMsg) : (emit s m).buckle = s.buckle := rfl
@[simp] theorem emit_xingAlarm (m : OutMsg) : (emit s m).xingAlarm = s.xingAlarm := rfl
@[simp] theorem emit_incs (m : OutMsg) : (emit s m).incs = s.incs := rfl
@[simp] theorem emit_reports (m : OutMsg) : (emit s m).reports = s.reports := rfl
@[simp] theorem emit_gsigs (m : OutMsg) : (emit s m).gsigs = s.gsigs := rfl
@[simp] theorem emit_gctr (m : OutMsg) : (emit s m).gctr = s.gctr := rfl
@[simp] theorem emit_gregs (m : OutMsg) : (emit s m).gregs = s.gregs := rfl
@[simp] theorem emit_fabric (m : OutMsg) : (emit s m).fabric = s.fabric := rfl
@[simp] theorem emit_resps (m : OutMsg) : (emit s m).resps = s.resps := rfl
@[simp] theorem emit_runs (m : OutMsg) : (emit s m).runs = s.runs := rfl
@[simp] theorem emit_probe (m : OutMsg) : (emit s m).probe = s.probe := rfl
@[simp] theorem emit_nextId (m : OutMsg) : (emit s m).nextId = s.nextId := rfl
@[simp] theorem emit_dram (m : OutMsg) : (emit s m).dram = s.dram := rfl
@[simp] theorem emit_dramPoison (m : OutMsg) : (emit s m).dramPoison = s.dramPoison := rfl
@[simp] theorem emit_loose (m : OutMsg) : (emit s m).loose = s.loose := rfl
@[simp] theorem emit_ports (m : OutMsg) : (emit s m).ports = s.ports := rfl
@[simp] theorem emit_lookup (m : OutMsg) : (emit s m).lookup = s.lookup := rfl
@[simp] theorem emit_lkWork (m : OutMsg) : (emit s m).lkWork = s.lkWork := rfl
@[simp] theorem emit_tasks (m : OutMsg) : (emit s m).tasks = s.tasks := rfl
@[simp] theorem emit_resv (m : OutMsg) : (emit s m).resv = s.resv := rfl
@[simp] theorem emit_queues (m : OutMsg) : (emit s m).queues = s.queues := rfl
@[simp] theorem emit_rrQueue (m : OutMsg) : (emit s m).rrQueue = s.rrQueue := rfl
@[simp] theorem emit_submit (m : OutMsg) : (emit s m).submit = s.submit := rfl
@[simp] theorem emit_stashTimeout (m : OutMsg) : (emit s m).stashTimeout = s.stashTimeout := rfl
@[simp] theorem emit_rhaor (m : OutMsg) : (emit s m).rhaor = s.rhaor := rfl
@[simp] theorem emit_cxl (m : OutMsg) : (emit s m).cxl = s.cxl := rfl
@[simp] theorem emit_links (m : OutMsg) : (emit s m).links = s.links := rfl
@[simp] theorem emit_net (m : OutMsg) : (emit s m).net = s.net := rfl
@[simp] theorem emit_mir (m : OutMsg) : (emit s m).mir = s.mir := rfl
@[simp] theorem emit_time (m : OutMsg) : (emit s m).time = s.time := rfl
@[simp] theorem emit_regions (m : OutMsg) : (emit s m).regions = s.regions := rfl
@[simp] theorem emit_duty (m : OutMsg) : (emit s m).duty = s.duty := rfl
@[simp] theorem emit_power (m : OutMsg) : (emit s m).power = s.power := rfl
@[simp] theorem emit_act (m : OutMsg) : (emit s m).act = s.act := rfl
@[simp] theorem emit_recorder (m : OutMsg) : (emit s m).recorder = s.recorder := rfl
@[simp] theorem emit_reqHost (m : OutMsg) : (emit s m).reqHost = s.reqHost := rfl
@[simp] theorem emit_reqMgmt (m : OutMsg) : (emit s m).reqMgmt = s.reqMgmt := rfl
@[simp] theorem emit_reqFw (m : OutMsg) : (emit s m).reqFw = s.reqFw := rfl
@[simp] theorem emit_staging (m : OutMsg) : (emit s m).staging = s.staging := rfl
@[simp] theorem emit_mbHost (m : OutMsg) : (emit s m).mbHost = s.mbHost := rfl
@[simp] theorem emit_mbMgmt (m : OutMsg) : (emit s m).mbMgmt = s.mbMgmt := rfl
@[simp] theorem emit_mbQueue (m : OutMsg) : (emit s m).mbQueue = s.mbQueue := rfl
@[simp] theorem emit_stTimeout (m : OutMsg) : (emit s m).stTimeout = s.stTimeout := rfl
@[simp] theorem emit_quiesce (m : OutMsg) : (emit s m).quiesce = s.quiesce := rfl
@[simp] theorem emit_sec (m : OutMsg) : (emit s m).sec = s.sec := rfl

@[simp] theorem record_pending (code : Nat) (sev : BitVec 2) (u a0 a1 a2 : Nat) : (record s code sev u a0 a1 a2).pending = s.pending := rfl
@[simp] theorem record_out (code : Nat) (sev : BitVec 2) (u a0 a1 a2 : Nat) : (record s code sev u a0 a1 a2).out = s.out := rfl
@[simp] theorem record_freeCtr (code : Nat) (sev : BitVec 2) (u a0 a1 a2 : Nat) : (record s code sev u a0 a1 a2).freeCtr = s.freeCtr := rfl
@[simp] theorem record_cores (code : Nat) (sev : BitVec 2) (u a0 a1 a2 : Nat) : (record s code sev u a0 a1 a2).cores = s.cores := rfl
@[simp] theorem record_flits (code : Nat) (sev : BitVec 2) (u a0 a1 a2 : Nat) : (record s code sev u a0 a1 a2).flits = s.flits := rfl
@[simp] theorem record_buckleNext (code : Nat) (sev : BitVec 2) (u a0 a1 a2 : Nat) : (record s code sev u a0 a1 a2).buckleNext = s.buckleNext := rfl
@[simp] theorem record_buckle (code : Nat) (sev : BitVec 2) (u a0 a1 a2 : Nat) : (record s code sev u a0 a1 a2).buckle = s.buckle := rfl
@[simp] theorem record_xingAlarm (code : Nat) (sev : BitVec 2) (u a0 a1 a2 : Nat) : (record s code sev u a0 a1 a2).xingAlarm = s.xingAlarm := rfl
@[simp] theorem record_incs (code : Nat) (sev : BitVec 2) (u a0 a1 a2 : Nat) : (record s code sev u a0 a1 a2).incs = s.incs := rfl
@[simp] theorem record_reports (code : Nat) (sev : BitVec 2) (u a0 a1 a2 : Nat) : (record s code sev u a0 a1 a2).reports = s.reports := rfl
@[simp] theorem record_gsigs (code : Nat) (sev : BitVec 2) (u a0 a1 a2 : Nat) : (record s code sev u a0 a1 a2).gsigs = s.gsigs := rfl
@[simp] theorem record_gctr (code : Nat) (sev : BitVec 2) (u a0 a1 a2 : Nat) : (record s code sev u a0 a1 a2).gctr = s.gctr := rfl
@[simp] theorem record_gregs (code : Nat) (sev : BitVec 2) (u a0 a1 a2 : Nat) : (record s code sev u a0 a1 a2).gregs = s.gregs := rfl
@[simp] theorem record_fabric (code : Nat) (sev : BitVec 2) (u a0 a1 a2 : Nat) : (record s code sev u a0 a1 a2).fabric = s.fabric := rfl
@[simp] theorem record_resps (code : Nat) (sev : BitVec 2) (u a0 a1 a2 : Nat) : (record s code sev u a0 a1 a2).resps = s.resps := rfl
@[simp] theorem record_runs (code : Nat) (sev : BitVec 2) (u a0 a1 a2 : Nat) : (record s code sev u a0 a1 a2).runs = s.runs := rfl
@[simp] theorem record_probe (code : Nat) (sev : BitVec 2) (u a0 a1 a2 : Nat) : (record s code sev u a0 a1 a2).probe = s.probe := rfl
@[simp] theorem record_nextId (code : Nat) (sev : BitVec 2) (u a0 a1 a2 : Nat) : (record s code sev u a0 a1 a2).nextId = s.nextId := rfl
@[simp] theorem record_dram (code : Nat) (sev : BitVec 2) (u a0 a1 a2 : Nat) : (record s code sev u a0 a1 a2).dram = s.dram := rfl
@[simp] theorem record_dramPoison (code : Nat) (sev : BitVec 2) (u a0 a1 a2 : Nat) : (record s code sev u a0 a1 a2).dramPoison = s.dramPoison := rfl
@[simp] theorem record_loose (code : Nat) (sev : BitVec 2) (u a0 a1 a2 : Nat) : (record s code sev u a0 a1 a2).loose = s.loose := rfl
@[simp] theorem record_ports (code : Nat) (sev : BitVec 2) (u a0 a1 a2 : Nat) : (record s code sev u a0 a1 a2).ports = s.ports := rfl
@[simp] theorem record_lookup (code : Nat) (sev : BitVec 2) (u a0 a1 a2 : Nat) : (record s code sev u a0 a1 a2).lookup = s.lookup := rfl
@[simp] theorem record_lkWork (code : Nat) (sev : BitVec 2) (u a0 a1 a2 : Nat) : (record s code sev u a0 a1 a2).lkWork = s.lkWork := rfl
@[simp] theorem record_tasks (code : Nat) (sev : BitVec 2) (u a0 a1 a2 : Nat) : (record s code sev u a0 a1 a2).tasks = s.tasks := rfl
@[simp] theorem record_resv (code : Nat) (sev : BitVec 2) (u a0 a1 a2 : Nat) : (record s code sev u a0 a1 a2).resv = s.resv := rfl
@[simp] theorem record_queues (code : Nat) (sev : BitVec 2) (u a0 a1 a2 : Nat) : (record s code sev u a0 a1 a2).queues = s.queues := rfl
@[simp] theorem record_rrQueue (code : Nat) (sev : BitVec 2) (u a0 a1 a2 : Nat) : (record s code sev u a0 a1 a2).rrQueue = s.rrQueue := rfl
@[simp] theorem record_submit (code : Nat) (sev : BitVec 2) (u a0 a1 a2 : Nat) : (record s code sev u a0 a1 a2).submit = s.submit := rfl
@[simp] theorem record_stashTimeout (code : Nat) (sev : BitVec 2) (u a0 a1 a2 : Nat) : (record s code sev u a0 a1 a2).stashTimeout = s.stashTimeout := rfl
@[simp] theorem record_rhaor (code : Nat) (sev : BitVec 2) (u a0 a1 a2 : Nat) : (record s code sev u a0 a1 a2).rhaor = s.rhaor := rfl
@[simp] theorem record_cxl (code : Nat) (sev : BitVec 2) (u a0 a1 a2 : Nat) : (record s code sev u a0 a1 a2).cxl = s.cxl := rfl
@[simp] theorem record_links (code : Nat) (sev : BitVec 2) (u a0 a1 a2 : Nat) : (record s code sev u a0 a1 a2).links = s.links := rfl
@[simp] theorem record_net (code : Nat) (sev : BitVec 2) (u a0 a1 a2 : Nat) : (record s code sev u a0 a1 a2).net = s.net := rfl
@[simp] theorem record_mir (code : Nat) (sev : BitVec 2) (u a0 a1 a2 : Nat) : (record s code sev u a0 a1 a2).mir = s.mir := rfl
@[simp] theorem record_time (code : Nat) (sev : BitVec 2) (u a0 a1 a2 : Nat) : (record s code sev u a0 a1 a2).time = s.time := rfl
@[simp] theorem record_regions (code : Nat) (sev : BitVec 2) (u a0 a1 a2 : Nat) : (record s code sev u a0 a1 a2).regions = s.regions := rfl
@[simp] theorem record_duty (code : Nat) (sev : BitVec 2) (u a0 a1 a2 : Nat) : (record s code sev u a0 a1 a2).duty = s.duty := rfl
@[simp] theorem record_power (code : Nat) (sev : BitVec 2) (u a0 a1 a2 : Nat) : (record s code sev u a0 a1 a2).power = s.power := rfl
@[simp] theorem record_act (code : Nat) (sev : BitVec 2) (u a0 a1 a2 : Nat) : (record s code sev u a0 a1 a2).act = s.act := rfl
@[simp] theorem record_reqHost (code : Nat) (sev : BitVec 2) (u a0 a1 a2 : Nat) : (record s code sev u a0 a1 a2).reqHost = s.reqHost := rfl
@[simp] theorem record_reqMgmt (code : Nat) (sev : BitVec 2) (u a0 a1 a2 : Nat) : (record s code sev u a0 a1 a2).reqMgmt = s.reqMgmt := rfl
@[simp] theorem record_reqFw (code : Nat) (sev : BitVec 2) (u a0 a1 a2 : Nat) : (record s code sev u a0 a1 a2).reqFw = s.reqFw := rfl
@[simp] theorem record_staging (code : Nat) (sev : BitVec 2) (u a0 a1 a2 : Nat) : (record s code sev u a0 a1 a2).staging = s.staging := rfl
@[simp] theorem record_mbHost (code : Nat) (sev : BitVec 2) (u a0 a1 a2 : Nat) : (record s code sev u a0 a1 a2).mbHost = s.mbHost := rfl
@[simp] theorem record_mbMgmt (code : Nat) (sev : BitVec 2) (u a0 a1 a2 : Nat) : (record s code sev u a0 a1 a2).mbMgmt = s.mbMgmt := rfl
@[simp] theorem record_mbQueue (code : Nat) (sev : BitVec 2) (u a0 a1 a2 : Nat) : (record s code sev u a0 a1 a2).mbQueue = s.mbQueue := rfl
@[simp] theorem record_stTimeout (code : Nat) (sev : BitVec 2) (u a0 a1 a2 : Nat) : (record s code sev u a0 a1 a2).stTimeout = s.stTimeout := rfl
@[simp] theorem record_quiesce (code : Nat) (sev : BitVec 2) (u a0 a1 a2 : Nat) : (record s code sev u a0 a1 a2).quiesce = s.quiesce := rfl
@[simp] theorem record_sec (code : Nat) (sev : BitVec 2) (u a0 a1 a2 : Nat) : (record s code sev u a0 a1 a2).sec = s.sec := rfl

@[simp] theorem pushInc_pending (i : CtrInc) : (pushInc s i).pending = s.pending := rfl
@[simp] theorem pushInc_out (i : CtrInc) : (pushInc s i).out = s.out := rfl
@[simp] theorem pushInc_freeCtr (i : CtrInc) : (pushInc s i).freeCtr = s.freeCtr := rfl
@[simp] theorem pushInc_cores (i : CtrInc) : (pushInc s i).cores = s.cores := rfl
@[simp] theorem pushInc_flits (i : CtrInc) : (pushInc s i).flits = s.flits := rfl
@[simp] theorem pushInc_buckleNext (i : CtrInc) : (pushInc s i).buckleNext = s.buckleNext := rfl
@[simp] theorem pushInc_buckle (i : CtrInc) : (pushInc s i).buckle = s.buckle := rfl
@[simp] theorem pushInc_xingAlarm (i : CtrInc) : (pushInc s i).xingAlarm = s.xingAlarm := rfl
@[simp] theorem pushInc_reports (i : CtrInc) : (pushInc s i).reports = s.reports := rfl
@[simp] theorem pushInc_gsigs (i : CtrInc) : (pushInc s i).gsigs = s.gsigs := rfl
@[simp] theorem pushInc_gctr (i : CtrInc) : (pushInc s i).gctr = s.gctr := rfl
@[simp] theorem pushInc_gregs (i : CtrInc) : (pushInc s i).gregs = s.gregs := rfl
@[simp] theorem pushInc_fabric (i : CtrInc) : (pushInc s i).fabric = s.fabric := rfl
@[simp] theorem pushInc_resps (i : CtrInc) : (pushInc s i).resps = s.resps := rfl
@[simp] theorem pushInc_runs (i : CtrInc) : (pushInc s i).runs = s.runs := rfl
@[simp] theorem pushInc_probe (i : CtrInc) : (pushInc s i).probe = s.probe := rfl
@[simp] theorem pushInc_nextId (i : CtrInc) : (pushInc s i).nextId = s.nextId := rfl
@[simp] theorem pushInc_dram (i : CtrInc) : (pushInc s i).dram = s.dram := rfl
@[simp] theorem pushInc_dramPoison (i : CtrInc) : (pushInc s i).dramPoison = s.dramPoison := rfl
@[simp] theorem pushInc_loose (i : CtrInc) : (pushInc s i).loose = s.loose := rfl
@[simp] theorem pushInc_ports (i : CtrInc) : (pushInc s i).ports = s.ports := rfl
@[simp] theorem pushInc_lookup (i : CtrInc) : (pushInc s i).lookup = s.lookup := rfl
@[simp] theorem pushInc_lkWork (i : CtrInc) : (pushInc s i).lkWork = s.lkWork := rfl
@[simp] theorem pushInc_tasks (i : CtrInc) : (pushInc s i).tasks = s.tasks := rfl
@[simp] theorem pushInc_resv (i : CtrInc) : (pushInc s i).resv = s.resv := rfl
@[simp] theorem pushInc_queues (i : CtrInc) : (pushInc s i).queues = s.queues := rfl
@[simp] theorem pushInc_rrQueue (i : CtrInc) : (pushInc s i).rrQueue = s.rrQueue := rfl
@[simp] theorem pushInc_submit (i : CtrInc) : (pushInc s i).submit = s.submit := rfl
@[simp] theorem pushInc_stashTimeout (i : CtrInc) : (pushInc s i).stashTimeout = s.stashTimeout := rfl
@[simp] theorem pushInc_rhaor (i : CtrInc) : (pushInc s i).rhaor = s.rhaor := rfl
@[simp] theorem pushInc_cxl (i : CtrInc) : (pushInc s i).cxl = s.cxl := rfl
@[simp] theorem pushInc_links (i : CtrInc) : (pushInc s i).links = s.links := rfl
@[simp] theorem pushInc_net (i : CtrInc) : (pushInc s i).net = s.net := rfl
@[simp] theorem pushInc_mir (i : CtrInc) : (pushInc s i).mir = s.mir := rfl
@[simp] theorem pushInc_time (i : CtrInc) : (pushInc s i).time = s.time := rfl
@[simp] theorem pushInc_regions (i : CtrInc) : (pushInc s i).regions = s.regions := rfl
@[simp] theorem pushInc_duty (i : CtrInc) : (pushInc s i).duty = s.duty := rfl
@[simp] theorem pushInc_power (i : CtrInc) : (pushInc s i).power = s.power := rfl
@[simp] theorem pushInc_act (i : CtrInc) : (pushInc s i).act = s.act := rfl
@[simp] theorem pushInc_recorder (i : CtrInc) : (pushInc s i).recorder = s.recorder := rfl
@[simp] theorem pushInc_reqHost (i : CtrInc) : (pushInc s i).reqHost = s.reqHost := rfl
@[simp] theorem pushInc_reqMgmt (i : CtrInc) : (pushInc s i).reqMgmt = s.reqMgmt := rfl
@[simp] theorem pushInc_reqFw (i : CtrInc) : (pushInc s i).reqFw = s.reqFw := rfl
@[simp] theorem pushInc_staging (i : CtrInc) : (pushInc s i).staging = s.staging := rfl
@[simp] theorem pushInc_mbHost (i : CtrInc) : (pushInc s i).mbHost = s.mbHost := rfl
@[simp] theorem pushInc_mbMgmt (i : CtrInc) : (pushInc s i).mbMgmt = s.mbMgmt := rfl
@[simp] theorem pushInc_mbQueue (i : CtrInc) : (pushInc s i).mbQueue = s.mbQueue := rfl
@[simp] theorem pushInc_stTimeout (i : CtrInc) : (pushInc s i).stTimeout = s.stTimeout := rfl
@[simp] theorem pushInc_quiesce (i : CtrInc) : (pushInc s i).quiesce = s.quiesce := rfl
@[simp] theorem pushInc_sec (i : CtrInc) : (pushInc s i).sec = s.sec := rfl

@[simp] theorem noteIssue_pending (c : CoreIx) (k : CtxIx) : (noteIssue c k s).pending = s.pending := rfl
@[simp] theorem noteIssue_out (c : CoreIx) (k : CtxIx) : (noteIssue c k s).out = s.out := rfl
@[simp] theorem noteIssue_freeCtr (c : CoreIx) (k : CtxIx) : (noteIssue c k s).freeCtr = s.freeCtr := rfl
@[simp] theorem noteIssue_flits (c : CoreIx) (k : CtxIx) : (noteIssue c k s).flits = s.flits := rfl
@[simp] theorem noteIssue_buckleNext (c : CoreIx) (k : CtxIx) : (noteIssue c k s).buckleNext = s.buckleNext := rfl
@[simp] theorem noteIssue_buckle (c : CoreIx) (k : CtxIx) : (noteIssue c k s).buckle = s.buckle := rfl
@[simp] theorem noteIssue_xingAlarm (c : CoreIx) (k : CtxIx) : (noteIssue c k s).xingAlarm = s.xingAlarm := rfl
@[simp] theorem noteIssue_incs (c : CoreIx) (k : CtxIx) : (noteIssue c k s).incs = s.incs := rfl
@[simp] theorem noteIssue_reports (c : CoreIx) (k : CtxIx) : (noteIssue c k s).reports = s.reports := rfl
@[simp] theorem noteIssue_gsigs (c : CoreIx) (k : CtxIx) : (noteIssue c k s).gsigs = s.gsigs := rfl
@[simp] theorem noteIssue_gctr (c : CoreIx) (k : CtxIx) : (noteIssue c k s).gctr = s.gctr := rfl
@[simp] theorem noteIssue_gregs (c : CoreIx) (k : CtxIx) : (noteIssue c k s).gregs = s.gregs := rfl
@[simp] theorem noteIssue_fabric (c : CoreIx) (k : CtxIx) : (noteIssue c k s).fabric = s.fabric := rfl
@[simp] theorem noteIssue_resps (c : CoreIx) (k : CtxIx) : (noteIssue c k s).resps = s.resps := rfl
@[simp] theorem noteIssue_runs (c : CoreIx) (k : CtxIx) : (noteIssue c k s).runs = s.runs := rfl
@[simp] theorem noteIssue_probe (c : CoreIx) (k : CtxIx) : (noteIssue c k s).probe = s.probe := rfl
@[simp] theorem noteIssue_nextId (c : CoreIx) (k : CtxIx) : (noteIssue c k s).nextId = s.nextId := rfl
@[simp] theorem noteIssue_dram (c : CoreIx) (k : CtxIx) : (noteIssue c k s).dram = s.dram := rfl
@[simp] theorem noteIssue_dramPoison (c : CoreIx) (k : CtxIx) : (noteIssue c k s).dramPoison = s.dramPoison := rfl
@[simp] theorem noteIssue_loose (c : CoreIx) (k : CtxIx) : (noteIssue c k s).loose = s.loose := rfl
@[simp] theorem noteIssue_ports (c : CoreIx) (k : CtxIx) : (noteIssue c k s).ports = s.ports := rfl
@[simp] theorem noteIssue_lookup (c : CoreIx) (k : CtxIx) : (noteIssue c k s).lookup = s.lookup := rfl
@[simp] theorem noteIssue_lkWork (c : CoreIx) (k : CtxIx) : (noteIssue c k s).lkWork = s.lkWork := rfl
@[simp] theorem noteIssue_tasks (c : CoreIx) (k : CtxIx) : (noteIssue c k s).tasks = s.tasks := rfl
@[simp] theorem noteIssue_resv (c : CoreIx) (k : CtxIx) : (noteIssue c k s).resv = s.resv := rfl
@[simp] theorem noteIssue_queues (c : CoreIx) (k : CtxIx) : (noteIssue c k s).queues = s.queues := rfl
@[simp] theorem noteIssue_rrQueue (c : CoreIx) (k : CtxIx) : (noteIssue c k s).rrQueue = s.rrQueue := rfl
@[simp] theorem noteIssue_submit (c : CoreIx) (k : CtxIx) : (noteIssue c k s).submit = s.submit := rfl
@[simp] theorem noteIssue_stashTimeout (c : CoreIx) (k : CtxIx) : (noteIssue c k s).stashTimeout = s.stashTimeout := rfl
@[simp] theorem noteIssue_rhaor (c : CoreIx) (k : CtxIx) : (noteIssue c k s).rhaor = s.rhaor := rfl
@[simp] theorem noteIssue_cxl (c : CoreIx) (k : CtxIx) : (noteIssue c k s).cxl = s.cxl := rfl
@[simp] theorem noteIssue_links (c : CoreIx) (k : CtxIx) : (noteIssue c k s).links = s.links := rfl
@[simp] theorem noteIssue_net (c : CoreIx) (k : CtxIx) : (noteIssue c k s).net = s.net := rfl
@[simp] theorem noteIssue_mir (c : CoreIx) (k : CtxIx) : (noteIssue c k s).mir = s.mir := rfl
@[simp] theorem noteIssue_time (c : CoreIx) (k : CtxIx) : (noteIssue c k s).time = s.time := rfl
@[simp] theorem noteIssue_regions (c : CoreIx) (k : CtxIx) : (noteIssue c k s).regions = s.regions := rfl
@[simp] theorem noteIssue_duty (c : CoreIx) (k : CtxIx) : (noteIssue c k s).duty = s.duty := rfl
@[simp] theorem noteIssue_power (c : CoreIx) (k : CtxIx) : (noteIssue c k s).power = s.power := rfl
@[simp] theorem noteIssue_act (c : CoreIx) (k : CtxIx) : (noteIssue c k s).act = s.act := rfl
@[simp] theorem noteIssue_recorder (c : CoreIx) (k : CtxIx) : (noteIssue c k s).recorder = s.recorder := rfl
@[simp] theorem noteIssue_reqHost (c : CoreIx) (k : CtxIx) : (noteIssue c k s).reqHost = s.reqHost := rfl
@[simp] theorem noteIssue_reqMgmt (c : CoreIx) (k : CtxIx) : (noteIssue c k s).reqMgmt = s.reqMgmt := rfl
@[simp] theorem noteIssue_reqFw (c : CoreIx) (k : CtxIx) : (noteIssue c k s).reqFw = s.reqFw := rfl
@[simp] theorem noteIssue_staging (c : CoreIx) (k : CtxIx) : (noteIssue c k s).staging = s.staging := rfl
@[simp] theorem noteIssue_mbHost (c : CoreIx) (k : CtxIx) : (noteIssue c k s).mbHost = s.mbHost := rfl
@[simp] theorem noteIssue_mbMgmt (c : CoreIx) (k : CtxIx) : (noteIssue c k s).mbMgmt = s.mbMgmt := rfl
@[simp] theorem noteIssue_mbQueue (c : CoreIx) (k : CtxIx) : (noteIssue c k s).mbQueue = s.mbQueue := rfl
@[simp] theorem noteIssue_stTimeout (c : CoreIx) (k : CtxIx) : (noteIssue c k s).stTimeout = s.stTimeout := rfl
@[simp] theorem noteIssue_quiesce (c : CoreIx) (k : CtxIx) : (noteIssue c k s).quiesce = s.quiesce := rfl
@[simp] theorem noteIssue_sec (c : CoreIx) (k : CtxIx) : (noteIssue c k s).sec = s.sec := rfl

@[simp] theorem retireTo_pending (c : CoreIx) (k : CtxIx) (pc : BitVec 13) : (retireTo c k pc s).pending = s.pending := rfl
@[simp] theorem retireTo_out (c : CoreIx) (k : CtxIx) (pc : BitVec 13) : (retireTo c k pc s).out = s.out := rfl
@[simp] theorem retireTo_freeCtr (c : CoreIx) (k : CtxIx) (pc : BitVec 13) : (retireTo c k pc s).freeCtr = s.freeCtr := rfl
@[simp] theorem retireTo_flits (c : CoreIx) (k : CtxIx) (pc : BitVec 13) : (retireTo c k pc s).flits = s.flits := rfl
@[simp] theorem retireTo_buckleNext (c : CoreIx) (k : CtxIx) (pc : BitVec 13) : (retireTo c k pc s).buckleNext = s.buckleNext := rfl
@[simp] theorem retireTo_buckle (c : CoreIx) (k : CtxIx) (pc : BitVec 13) : (retireTo c k pc s).buckle = s.buckle := rfl
@[simp] theorem retireTo_xingAlarm (c : CoreIx) (k : CtxIx) (pc : BitVec 13) : (retireTo c k pc s).xingAlarm = s.xingAlarm := rfl
@[simp] theorem retireTo_incs (c : CoreIx) (k : CtxIx) (pc : BitVec 13) : (retireTo c k pc s).incs = s.incs := rfl
@[simp] theorem retireTo_reports (c : CoreIx) (k : CtxIx) (pc : BitVec 13) : (retireTo c k pc s).reports = s.reports := rfl
@[simp] theorem retireTo_gsigs (c : CoreIx) (k : CtxIx) (pc : BitVec 13) : (retireTo c k pc s).gsigs = s.gsigs := rfl
@[simp] theorem retireTo_gctr (c : CoreIx) (k : CtxIx) (pc : BitVec 13) : (retireTo c k pc s).gctr = s.gctr := rfl
@[simp] theorem retireTo_gregs (c : CoreIx) (k : CtxIx) (pc : BitVec 13) : (retireTo c k pc s).gregs = s.gregs := rfl
@[simp] theorem retireTo_fabric (c : CoreIx) (k : CtxIx) (pc : BitVec 13) : (retireTo c k pc s).fabric = s.fabric := rfl
@[simp] theorem retireTo_resps (c : CoreIx) (k : CtxIx) (pc : BitVec 13) : (retireTo c k pc s).resps = s.resps := rfl
@[simp] theorem retireTo_runs (c : CoreIx) (k : CtxIx) (pc : BitVec 13) : (retireTo c k pc s).runs = s.runs := rfl
@[simp] theorem retireTo_probe (c : CoreIx) (k : CtxIx) (pc : BitVec 13) : (retireTo c k pc s).probe = s.probe := rfl
@[simp] theorem retireTo_nextId (c : CoreIx) (k : CtxIx) (pc : BitVec 13) : (retireTo c k pc s).nextId = s.nextId := rfl
@[simp] theorem retireTo_dram (c : CoreIx) (k : CtxIx) (pc : BitVec 13) : (retireTo c k pc s).dram = s.dram := rfl
@[simp] theorem retireTo_dramPoison (c : CoreIx) (k : CtxIx) (pc : BitVec 13) : (retireTo c k pc s).dramPoison = s.dramPoison := rfl
@[simp] theorem retireTo_loose (c : CoreIx) (k : CtxIx) (pc : BitVec 13) : (retireTo c k pc s).loose = s.loose := rfl
@[simp] theorem retireTo_ports (c : CoreIx) (k : CtxIx) (pc : BitVec 13) : (retireTo c k pc s).ports = s.ports := rfl
@[simp] theorem retireTo_lookup (c : CoreIx) (k : CtxIx) (pc : BitVec 13) : (retireTo c k pc s).lookup = s.lookup := rfl
@[simp] theorem retireTo_lkWork (c : CoreIx) (k : CtxIx) (pc : BitVec 13) : (retireTo c k pc s).lkWork = s.lkWork := rfl
@[simp] theorem retireTo_tasks (c : CoreIx) (k : CtxIx) (pc : BitVec 13) : (retireTo c k pc s).tasks = s.tasks := rfl
@[simp] theorem retireTo_resv (c : CoreIx) (k : CtxIx) (pc : BitVec 13) : (retireTo c k pc s).resv = s.resv := rfl
@[simp] theorem retireTo_queues (c : CoreIx) (k : CtxIx) (pc : BitVec 13) : (retireTo c k pc s).queues = s.queues := rfl
@[simp] theorem retireTo_rrQueue (c : CoreIx) (k : CtxIx) (pc : BitVec 13) : (retireTo c k pc s).rrQueue = s.rrQueue := rfl
@[simp] theorem retireTo_submit (c : CoreIx) (k : CtxIx) (pc : BitVec 13) : (retireTo c k pc s).submit = s.submit := rfl
@[simp] theorem retireTo_stashTimeout (c : CoreIx) (k : CtxIx) (pc : BitVec 13) : (retireTo c k pc s).stashTimeout = s.stashTimeout := rfl
@[simp] theorem retireTo_rhaor (c : CoreIx) (k : CtxIx) (pc : BitVec 13) : (retireTo c k pc s).rhaor = s.rhaor := rfl
@[simp] theorem retireTo_cxl (c : CoreIx) (k : CtxIx) (pc : BitVec 13) : (retireTo c k pc s).cxl = s.cxl := rfl
@[simp] theorem retireTo_links (c : CoreIx) (k : CtxIx) (pc : BitVec 13) : (retireTo c k pc s).links = s.links := rfl
@[simp] theorem retireTo_net (c : CoreIx) (k : CtxIx) (pc : BitVec 13) : (retireTo c k pc s).net = s.net := rfl
@[simp] theorem retireTo_mir (c : CoreIx) (k : CtxIx) (pc : BitVec 13) : (retireTo c k pc s).mir = s.mir := rfl
@[simp] theorem retireTo_time (c : CoreIx) (k : CtxIx) (pc : BitVec 13) : (retireTo c k pc s).time = s.time := rfl
@[simp] theorem retireTo_regions (c : CoreIx) (k : CtxIx) (pc : BitVec 13) : (retireTo c k pc s).regions = s.regions := rfl
@[simp] theorem retireTo_duty (c : CoreIx) (k : CtxIx) (pc : BitVec 13) : (retireTo c k pc s).duty = s.duty := rfl
@[simp] theorem retireTo_power (c : CoreIx) (k : CtxIx) (pc : BitVec 13) : (retireTo c k pc s).power = s.power := rfl
@[simp] theorem retireTo_act (c : CoreIx) (k : CtxIx) (pc : BitVec 13) : (retireTo c k pc s).act = s.act := rfl
@[simp] theorem retireTo_recorder (c : CoreIx) (k : CtxIx) (pc : BitVec 13) : (retireTo c k pc s).recorder = s.recorder := rfl
@[simp] theorem retireTo_reqHost (c : CoreIx) (k : CtxIx) (pc : BitVec 13) : (retireTo c k pc s).reqHost = s.reqHost := rfl
@[simp] theorem retireTo_reqMgmt (c : CoreIx) (k : CtxIx) (pc : BitVec 13) : (retireTo c k pc s).reqMgmt = s.reqMgmt := rfl
@[simp] theorem retireTo_reqFw (c : CoreIx) (k : CtxIx) (pc : BitVec 13) : (retireTo c k pc s).reqFw = s.reqFw := rfl
@[simp] theorem retireTo_staging (c : CoreIx) (k : CtxIx) (pc : BitVec 13) : (retireTo c k pc s).staging = s.staging := rfl
@[simp] theorem retireTo_mbHost (c : CoreIx) (k : CtxIx) (pc : BitVec 13) : (retireTo c k pc s).mbHost = s.mbHost := rfl
@[simp] theorem retireTo_mbMgmt (c : CoreIx) (k : CtxIx) (pc : BitVec 13) : (retireTo c k pc s).mbMgmt = s.mbMgmt := rfl
@[simp] theorem retireTo_mbQueue (c : CoreIx) (k : CtxIx) (pc : BitVec 13) : (retireTo c k pc s).mbQueue = s.mbQueue := rfl
@[simp] theorem retireTo_stTimeout (c : CoreIx) (k : CtxIx) (pc : BitVec 13) : (retireTo c k pc s).stTimeout = s.stTimeout := rfl
@[simp] theorem retireTo_quiesce (c : CoreIx) (k : CtxIx) (pc : BitVec 13) : (retireTo c k pc s).quiesce = s.quiesce := rfl
@[simp] theorem retireTo_sec (c : CoreIx) (k : CtxIx) (pc : BitVec 13) : (retireTo c k pc s).sec = s.sec := rfl

@[simp] theorem retire_pending (c : CoreIx) (k : CtxIx) : (retire c k s).pending = s.pending := rfl
@[simp] theorem retire_out (c : CoreIx) (k : CtxIx) : (retire c k s).out = s.out := rfl
@[simp] theorem retire_freeCtr (c : CoreIx) (k : CtxIx) : (retire c k s).freeCtr = s.freeCtr := rfl
@[simp] theorem retire_flits (c : CoreIx) (k : CtxIx) : (retire c k s).flits = s.flits := rfl
@[simp] theorem retire_buckleNext (c : CoreIx) (k : CtxIx) : (retire c k s).buckleNext = s.buckleNext := rfl
@[simp] theorem retire_buckle (c : CoreIx) (k : CtxIx) : (retire c k s).buckle = s.buckle := rfl
@[simp] theorem retire_xingAlarm (c : CoreIx) (k : CtxIx) : (retire c k s).xingAlarm = s.xingAlarm := rfl
@[simp] theorem retire_incs (c : CoreIx) (k : CtxIx) : (retire c k s).incs = s.incs := rfl
@[simp] theorem retire_reports (c : CoreIx) (k : CtxIx) : (retire c k s).reports = s.reports := rfl
@[simp] theorem retire_gsigs (c : CoreIx) (k : CtxIx) : (retire c k s).gsigs = s.gsigs := rfl
@[simp] theorem retire_gctr (c : CoreIx) (k : CtxIx) : (retire c k s).gctr = s.gctr := rfl
@[simp] theorem retire_gregs (c : CoreIx) (k : CtxIx) : (retire c k s).gregs = s.gregs := rfl
@[simp] theorem retire_fabric (c : CoreIx) (k : CtxIx) : (retire c k s).fabric = s.fabric := rfl
@[simp] theorem retire_resps (c : CoreIx) (k : CtxIx) : (retire c k s).resps = s.resps := rfl
@[simp] theorem retire_runs (c : CoreIx) (k : CtxIx) : (retire c k s).runs = s.runs := rfl
@[simp] theorem retire_probe (c : CoreIx) (k : CtxIx) : (retire c k s).probe = s.probe := rfl
@[simp] theorem retire_nextId (c : CoreIx) (k : CtxIx) : (retire c k s).nextId = s.nextId := rfl
@[simp] theorem retire_dram (c : CoreIx) (k : CtxIx) : (retire c k s).dram = s.dram := rfl
@[simp] theorem retire_dramPoison (c : CoreIx) (k : CtxIx) : (retire c k s).dramPoison = s.dramPoison := rfl
@[simp] theorem retire_loose (c : CoreIx) (k : CtxIx) : (retire c k s).loose = s.loose := rfl
@[simp] theorem retire_ports (c : CoreIx) (k : CtxIx) : (retire c k s).ports = s.ports := rfl
@[simp] theorem retire_lookup (c : CoreIx) (k : CtxIx) : (retire c k s).lookup = s.lookup := rfl
@[simp] theorem retire_lkWork (c : CoreIx) (k : CtxIx) : (retire c k s).lkWork = s.lkWork := rfl
@[simp] theorem retire_tasks (c : CoreIx) (k : CtxIx) : (retire c k s).tasks = s.tasks := rfl
@[simp] theorem retire_resv (c : CoreIx) (k : CtxIx) : (retire c k s).resv = s.resv := rfl
@[simp] theorem retire_queues (c : CoreIx) (k : CtxIx) : (retire c k s).queues = s.queues := rfl
@[simp] theorem retire_rrQueue (c : CoreIx) (k : CtxIx) : (retire c k s).rrQueue = s.rrQueue := rfl
@[simp] theorem retire_submit (c : CoreIx) (k : CtxIx) : (retire c k s).submit = s.submit := rfl
@[simp] theorem retire_stashTimeout (c : CoreIx) (k : CtxIx) : (retire c k s).stashTimeout = s.stashTimeout := rfl
@[simp] theorem retire_rhaor (c : CoreIx) (k : CtxIx) : (retire c k s).rhaor = s.rhaor := rfl
@[simp] theorem retire_cxl (c : CoreIx) (k : CtxIx) : (retire c k s).cxl = s.cxl := rfl
@[simp] theorem retire_links (c : CoreIx) (k : CtxIx) : (retire c k s).links = s.links := rfl
@[simp] theorem retire_net (c : CoreIx) (k : CtxIx) : (retire c k s).net = s.net := rfl
@[simp] theorem retire_mir (c : CoreIx) (k : CtxIx) : (retire c k s).mir = s.mir := rfl
@[simp] theorem retire_time (c : CoreIx) (k : CtxIx) : (retire c k s).time = s.time := rfl
@[simp] theorem retire_regions (c : CoreIx) (k : CtxIx) : (retire c k s).regions = s.regions := rfl
@[simp] theorem retire_duty (c : CoreIx) (k : CtxIx) : (retire c k s).duty = s.duty := rfl
@[simp] theorem retire_power (c : CoreIx) (k : CtxIx) : (retire c k s).power = s.power := rfl
@[simp] theorem retire_act (c : CoreIx) (k : CtxIx) : (retire c k s).act = s.act := rfl
@[simp] theorem retire_recorder (c : CoreIx) (k : CtxIx) : (retire c k s).recorder = s.recorder := rfl
@[simp] theorem retire_reqHost (c : CoreIx) (k : CtxIx) : (retire c k s).reqHost = s.reqHost := rfl
@[simp] theorem retire_reqMgmt (c : CoreIx) (k : CtxIx) : (retire c k s).reqMgmt = s.reqMgmt := rfl
@[simp] theorem retire_reqFw (c : CoreIx) (k : CtxIx) : (retire c k s).reqFw = s.reqFw := rfl
@[simp] theorem retire_staging (c : CoreIx) (k : CtxIx) : (retire c k s).staging = s.staging := rfl
@[simp] theorem retire_mbHost (c : CoreIx) (k : CtxIx) : (retire c k s).mbHost = s.mbHost := rfl
@[simp] theorem retire_mbMgmt (c : CoreIx) (k : CtxIx) : (retire c k s).mbMgmt = s.mbMgmt := rfl
@[simp] theorem retire_mbQueue (c : CoreIx) (k : CtxIx) : (retire c k s).mbQueue = s.mbQueue := rfl
@[simp] theorem retire_stTimeout (c : CoreIx) (k : CtxIx) : (retire c k s).stTimeout = s.stTimeout := rfl
@[simp] theorem retire_quiesce (c : CoreIx) (k : CtxIx) : (retire c k s).quiesce = s.quiesce := rfl
@[simp] theorem retire_sec (c : CoreIx) (k : CtxIx) : (retire c k s).sec = s.sec := rfl

@[simp] theorem jumpTo_pending (c : CoreIx) (k : CtxIx) (pc : BitVec 13) : (jumpTo c k pc s).pending = s.pending := rfl
@[simp] theorem jumpTo_out (c : CoreIx) (k : CtxIx) (pc : BitVec 13) : (jumpTo c k pc s).out = s.out := rfl
@[simp] theorem jumpTo_freeCtr (c : CoreIx) (k : CtxIx) (pc : BitVec 13) : (jumpTo c k pc s).freeCtr = s.freeCtr := rfl
@[simp] theorem jumpTo_flits (c : CoreIx) (k : CtxIx) (pc : BitVec 13) : (jumpTo c k pc s).flits = s.flits := rfl
@[simp] theorem jumpTo_buckleNext (c : CoreIx) (k : CtxIx) (pc : BitVec 13) : (jumpTo c k pc s).buckleNext = s.buckleNext := rfl
@[simp] theorem jumpTo_buckle (c : CoreIx) (k : CtxIx) (pc : BitVec 13) : (jumpTo c k pc s).buckle = s.buckle := rfl
@[simp] theorem jumpTo_xingAlarm (c : CoreIx) (k : CtxIx) (pc : BitVec 13) : (jumpTo c k pc s).xingAlarm = s.xingAlarm := rfl
@[simp] theorem jumpTo_incs (c : CoreIx) (k : CtxIx) (pc : BitVec 13) : (jumpTo c k pc s).incs = s.incs := rfl
@[simp] theorem jumpTo_reports (c : CoreIx) (k : CtxIx) (pc : BitVec 13) : (jumpTo c k pc s).reports = s.reports := rfl
@[simp] theorem jumpTo_gsigs (c : CoreIx) (k : CtxIx) (pc : BitVec 13) : (jumpTo c k pc s).gsigs = s.gsigs := rfl
@[simp] theorem jumpTo_gctr (c : CoreIx) (k : CtxIx) (pc : BitVec 13) : (jumpTo c k pc s).gctr = s.gctr := rfl
@[simp] theorem jumpTo_gregs (c : CoreIx) (k : CtxIx) (pc : BitVec 13) : (jumpTo c k pc s).gregs = s.gregs := rfl
@[simp] theorem jumpTo_fabric (c : CoreIx) (k : CtxIx) (pc : BitVec 13) : (jumpTo c k pc s).fabric = s.fabric := rfl
@[simp] theorem jumpTo_resps (c : CoreIx) (k : CtxIx) (pc : BitVec 13) : (jumpTo c k pc s).resps = s.resps := rfl
@[simp] theorem jumpTo_runs (c : CoreIx) (k : CtxIx) (pc : BitVec 13) : (jumpTo c k pc s).runs = s.runs := rfl
@[simp] theorem jumpTo_probe (c : CoreIx) (k : CtxIx) (pc : BitVec 13) : (jumpTo c k pc s).probe = s.probe := rfl
@[simp] theorem jumpTo_nextId (c : CoreIx) (k : CtxIx) (pc : BitVec 13) : (jumpTo c k pc s).nextId = s.nextId := rfl
@[simp] theorem jumpTo_dram (c : CoreIx) (k : CtxIx) (pc : BitVec 13) : (jumpTo c k pc s).dram = s.dram := rfl
@[simp] theorem jumpTo_dramPoison (c : CoreIx) (k : CtxIx) (pc : BitVec 13) : (jumpTo c k pc s).dramPoison = s.dramPoison := rfl
@[simp] theorem jumpTo_loose (c : CoreIx) (k : CtxIx) (pc : BitVec 13) : (jumpTo c k pc s).loose = s.loose := rfl
@[simp] theorem jumpTo_ports (c : CoreIx) (k : CtxIx) (pc : BitVec 13) : (jumpTo c k pc s).ports = s.ports := rfl
@[simp] theorem jumpTo_lookup (c : CoreIx) (k : CtxIx) (pc : BitVec 13) : (jumpTo c k pc s).lookup = s.lookup := rfl
@[simp] theorem jumpTo_lkWork (c : CoreIx) (k : CtxIx) (pc : BitVec 13) : (jumpTo c k pc s).lkWork = s.lkWork := rfl
@[simp] theorem jumpTo_tasks (c : CoreIx) (k : CtxIx) (pc : BitVec 13) : (jumpTo c k pc s).tasks = s.tasks := rfl
@[simp] theorem jumpTo_resv (c : CoreIx) (k : CtxIx) (pc : BitVec 13) : (jumpTo c k pc s).resv = s.resv := rfl
@[simp] theorem jumpTo_queues (c : CoreIx) (k : CtxIx) (pc : BitVec 13) : (jumpTo c k pc s).queues = s.queues := rfl
@[simp] theorem jumpTo_rrQueue (c : CoreIx) (k : CtxIx) (pc : BitVec 13) : (jumpTo c k pc s).rrQueue = s.rrQueue := rfl
@[simp] theorem jumpTo_submit (c : CoreIx) (k : CtxIx) (pc : BitVec 13) : (jumpTo c k pc s).submit = s.submit := rfl
@[simp] theorem jumpTo_stashTimeout (c : CoreIx) (k : CtxIx) (pc : BitVec 13) : (jumpTo c k pc s).stashTimeout = s.stashTimeout := rfl
@[simp] theorem jumpTo_rhaor (c : CoreIx) (k : CtxIx) (pc : BitVec 13) : (jumpTo c k pc s).rhaor = s.rhaor := rfl
@[simp] theorem jumpTo_cxl (c : CoreIx) (k : CtxIx) (pc : BitVec 13) : (jumpTo c k pc s).cxl = s.cxl := rfl
@[simp] theorem jumpTo_links (c : CoreIx) (k : CtxIx) (pc : BitVec 13) : (jumpTo c k pc s).links = s.links := rfl
@[simp] theorem jumpTo_net (c : CoreIx) (k : CtxIx) (pc : BitVec 13) : (jumpTo c k pc s).net = s.net := rfl
@[simp] theorem jumpTo_mir (c : CoreIx) (k : CtxIx) (pc : BitVec 13) : (jumpTo c k pc s).mir = s.mir := rfl
@[simp] theorem jumpTo_time (c : CoreIx) (k : CtxIx) (pc : BitVec 13) : (jumpTo c k pc s).time = s.time := rfl
@[simp] theorem jumpTo_regions (c : CoreIx) (k : CtxIx) (pc : BitVec 13) : (jumpTo c k pc s).regions = s.regions := rfl
@[simp] theorem jumpTo_duty (c : CoreIx) (k : CtxIx) (pc : BitVec 13) : (jumpTo c k pc s).duty = s.duty := rfl
@[simp] theorem jumpTo_power (c : CoreIx) (k : CtxIx) (pc : BitVec 13) : (jumpTo c k pc s).power = s.power := rfl
@[simp] theorem jumpTo_act (c : CoreIx) (k : CtxIx) (pc : BitVec 13) : (jumpTo c k pc s).act = s.act := rfl
@[simp] theorem jumpTo_recorder (c : CoreIx) (k : CtxIx) (pc : BitVec 13) : (jumpTo c k pc s).recorder = s.recorder := rfl
@[simp] theorem jumpTo_reqHost (c : CoreIx) (k : CtxIx) (pc : BitVec 13) : (jumpTo c k pc s).reqHost = s.reqHost := rfl
@[simp] theorem jumpTo_reqMgmt (c : CoreIx) (k : CtxIx) (pc : BitVec 13) : (jumpTo c k pc s).reqMgmt = s.reqMgmt := rfl
@[simp] theorem jumpTo_reqFw (c : CoreIx) (k : CtxIx) (pc : BitVec 13) : (jumpTo c k pc s).reqFw = s.reqFw := rfl
@[simp] theorem jumpTo_staging (c : CoreIx) (k : CtxIx) (pc : BitVec 13) : (jumpTo c k pc s).staging = s.staging := rfl
@[simp] theorem jumpTo_mbHost (c : CoreIx) (k : CtxIx) (pc : BitVec 13) : (jumpTo c k pc s).mbHost = s.mbHost := rfl
@[simp] theorem jumpTo_mbMgmt (c : CoreIx) (k : CtxIx) (pc : BitVec 13) : (jumpTo c k pc s).mbMgmt = s.mbMgmt := rfl
@[simp] theorem jumpTo_mbQueue (c : CoreIx) (k : CtxIx) (pc : BitVec 13) : (jumpTo c k pc s).mbQueue = s.mbQueue := rfl
@[simp] theorem jumpTo_stTimeout (c : CoreIx) (k : CtxIx) (pc : BitVec 13) : (jumpTo c k pc s).stTimeout = s.stTimeout := rfl
@[simp] theorem jumpTo_quiesce (c : CoreIx) (k : CtxIx) (pc : BitVec 13) : (jumpTo c k pc s).quiesce = s.quiesce := rfl
@[simp] theorem jumpTo_sec (c : CoreIx) (k : CtxIx) (pc : BitVec 13) : (jumpTo c k pc s).sec = s.sec := rfl

@[simp] theorem result_pending (c : CoreIx) (k : CtxIx) (rd : SReg) (v : W64) (lat : Nat) : (result c k rd v lat s).pending = s.pending := rfl
@[simp] theorem result_out (c : CoreIx) (k : CtxIx) (rd : SReg) (v : W64) (lat : Nat) : (result c k rd v lat s).out = s.out := rfl
@[simp] theorem result_freeCtr (c : CoreIx) (k : CtxIx) (rd : SReg) (v : W64) (lat : Nat) : (result c k rd v lat s).freeCtr = s.freeCtr := rfl
@[simp] theorem result_flits (c : CoreIx) (k : CtxIx) (rd : SReg) (v : W64) (lat : Nat) : (result c k rd v lat s).flits = s.flits := rfl
@[simp] theorem result_buckleNext (c : CoreIx) (k : CtxIx) (rd : SReg) (v : W64) (lat : Nat) : (result c k rd v lat s).buckleNext = s.buckleNext := rfl
@[simp] theorem result_buckle (c : CoreIx) (k : CtxIx) (rd : SReg) (v : W64) (lat : Nat) : (result c k rd v lat s).buckle = s.buckle := rfl
@[simp] theorem result_xingAlarm (c : CoreIx) (k : CtxIx) (rd : SReg) (v : W64) (lat : Nat) : (result c k rd v lat s).xingAlarm = s.xingAlarm := rfl
@[simp] theorem result_incs (c : CoreIx) (k : CtxIx) (rd : SReg) (v : W64) (lat : Nat) : (result c k rd v lat s).incs = s.incs := rfl
@[simp] theorem result_reports (c : CoreIx) (k : CtxIx) (rd : SReg) (v : W64) (lat : Nat) : (result c k rd v lat s).reports = s.reports := rfl
@[simp] theorem result_gsigs (c : CoreIx) (k : CtxIx) (rd : SReg) (v : W64) (lat : Nat) : (result c k rd v lat s).gsigs = s.gsigs := rfl
@[simp] theorem result_gctr (c : CoreIx) (k : CtxIx) (rd : SReg) (v : W64) (lat : Nat) : (result c k rd v lat s).gctr = s.gctr := rfl
@[simp] theorem result_gregs (c : CoreIx) (k : CtxIx) (rd : SReg) (v : W64) (lat : Nat) : (result c k rd v lat s).gregs = s.gregs := rfl
@[simp] theorem result_fabric (c : CoreIx) (k : CtxIx) (rd : SReg) (v : W64) (lat : Nat) : (result c k rd v lat s).fabric = s.fabric := rfl
@[simp] theorem result_resps (c : CoreIx) (k : CtxIx) (rd : SReg) (v : W64) (lat : Nat) : (result c k rd v lat s).resps = s.resps := rfl
@[simp] theorem result_runs (c : CoreIx) (k : CtxIx) (rd : SReg) (v : W64) (lat : Nat) : (result c k rd v lat s).runs = s.runs := rfl
@[simp] theorem result_probe (c : CoreIx) (k : CtxIx) (rd : SReg) (v : W64) (lat : Nat) : (result c k rd v lat s).probe = s.probe := rfl
@[simp] theorem result_nextId (c : CoreIx) (k : CtxIx) (rd : SReg) (v : W64) (lat : Nat) : (result c k rd v lat s).nextId = s.nextId := rfl
@[simp] theorem result_dram (c : CoreIx) (k : CtxIx) (rd : SReg) (v : W64) (lat : Nat) : (result c k rd v lat s).dram = s.dram := rfl
@[simp] theorem result_dramPoison (c : CoreIx) (k : CtxIx) (rd : SReg) (v : W64) (lat : Nat) : (result c k rd v lat s).dramPoison = s.dramPoison := rfl
@[simp] theorem result_loose (c : CoreIx) (k : CtxIx) (rd : SReg) (v : W64) (lat : Nat) : (result c k rd v lat s).loose = s.loose := rfl
@[simp] theorem result_ports (c : CoreIx) (k : CtxIx) (rd : SReg) (v : W64) (lat : Nat) : (result c k rd v lat s).ports = s.ports := rfl
@[simp] theorem result_lookup (c : CoreIx) (k : CtxIx) (rd : SReg) (v : W64) (lat : Nat) : (result c k rd v lat s).lookup = s.lookup := rfl
@[simp] theorem result_lkWork (c : CoreIx) (k : CtxIx) (rd : SReg) (v : W64) (lat : Nat) : (result c k rd v lat s).lkWork = s.lkWork := rfl
@[simp] theorem result_tasks (c : CoreIx) (k : CtxIx) (rd : SReg) (v : W64) (lat : Nat) : (result c k rd v lat s).tasks = s.tasks := rfl
@[simp] theorem result_resv (c : CoreIx) (k : CtxIx) (rd : SReg) (v : W64) (lat : Nat) : (result c k rd v lat s).resv = s.resv := rfl
@[simp] theorem result_queues (c : CoreIx) (k : CtxIx) (rd : SReg) (v : W64) (lat : Nat) : (result c k rd v lat s).queues = s.queues := rfl
@[simp] theorem result_rrQueue (c : CoreIx) (k : CtxIx) (rd : SReg) (v : W64) (lat : Nat) : (result c k rd v lat s).rrQueue = s.rrQueue := rfl
@[simp] theorem result_submit (c : CoreIx) (k : CtxIx) (rd : SReg) (v : W64) (lat : Nat) : (result c k rd v lat s).submit = s.submit := rfl
@[simp] theorem result_stashTimeout (c : CoreIx) (k : CtxIx) (rd : SReg) (v : W64) (lat : Nat) : (result c k rd v lat s).stashTimeout = s.stashTimeout := rfl
@[simp] theorem result_rhaor (c : CoreIx) (k : CtxIx) (rd : SReg) (v : W64) (lat : Nat) : (result c k rd v lat s).rhaor = s.rhaor := rfl
@[simp] theorem result_cxl (c : CoreIx) (k : CtxIx) (rd : SReg) (v : W64) (lat : Nat) : (result c k rd v lat s).cxl = s.cxl := rfl
@[simp] theorem result_links (c : CoreIx) (k : CtxIx) (rd : SReg) (v : W64) (lat : Nat) : (result c k rd v lat s).links = s.links := rfl
@[simp] theorem result_net (c : CoreIx) (k : CtxIx) (rd : SReg) (v : W64) (lat : Nat) : (result c k rd v lat s).net = s.net := rfl
@[simp] theorem result_mir (c : CoreIx) (k : CtxIx) (rd : SReg) (v : W64) (lat : Nat) : (result c k rd v lat s).mir = s.mir := rfl
@[simp] theorem result_time (c : CoreIx) (k : CtxIx) (rd : SReg) (v : W64) (lat : Nat) : (result c k rd v lat s).time = s.time := rfl
@[simp] theorem result_regions (c : CoreIx) (k : CtxIx) (rd : SReg) (v : W64) (lat : Nat) : (result c k rd v lat s).regions = s.regions := rfl
@[simp] theorem result_duty (c : CoreIx) (k : CtxIx) (rd : SReg) (v : W64) (lat : Nat) : (result c k rd v lat s).duty = s.duty := rfl
@[simp] theorem result_power (c : CoreIx) (k : CtxIx) (rd : SReg) (v : W64) (lat : Nat) : (result c k rd v lat s).power = s.power := rfl
@[simp] theorem result_act (c : CoreIx) (k : CtxIx) (rd : SReg) (v : W64) (lat : Nat) : (result c k rd v lat s).act = s.act := rfl
@[simp] theorem result_recorder (c : CoreIx) (k : CtxIx) (rd : SReg) (v : W64) (lat : Nat) : (result c k rd v lat s).recorder = s.recorder := rfl
@[simp] theorem result_reqHost (c : CoreIx) (k : CtxIx) (rd : SReg) (v : W64) (lat : Nat) : (result c k rd v lat s).reqHost = s.reqHost := rfl
@[simp] theorem result_reqMgmt (c : CoreIx) (k : CtxIx) (rd : SReg) (v : W64) (lat : Nat) : (result c k rd v lat s).reqMgmt = s.reqMgmt := rfl
@[simp] theorem result_reqFw (c : CoreIx) (k : CtxIx) (rd : SReg) (v : W64) (lat : Nat) : (result c k rd v lat s).reqFw = s.reqFw := rfl
@[simp] theorem result_staging (c : CoreIx) (k : CtxIx) (rd : SReg) (v : W64) (lat : Nat) : (result c k rd v lat s).staging = s.staging := rfl
@[simp] theorem result_mbHost (c : CoreIx) (k : CtxIx) (rd : SReg) (v : W64) (lat : Nat) : (result c k rd v lat s).mbHost = s.mbHost := rfl
@[simp] theorem result_mbMgmt (c : CoreIx) (k : CtxIx) (rd : SReg) (v : W64) (lat : Nat) : (result c k rd v lat s).mbMgmt = s.mbMgmt := rfl
@[simp] theorem result_mbQueue (c : CoreIx) (k : CtxIx) (rd : SReg) (v : W64) (lat : Nat) : (result c k rd v lat s).mbQueue = s.mbQueue := rfl
@[simp] theorem result_stTimeout (c : CoreIx) (k : CtxIx) (rd : SReg) (v : W64) (lat : Nat) : (result c k rd v lat s).stTimeout = s.stTimeout := rfl
@[simp] theorem result_quiesce (c : CoreIx) (k : CtxIx) (rd : SReg) (v : W64) (lat : Nat) : (result c k rd v lat s).quiesce = s.quiesce := rfl
@[simp] theorem result_sec (c : CoreIx) (k : CtxIx) (rd : SReg) (v : W64) (lat : Nat) : (result c k rd v lat s).sec = s.sec := rfl

end Sys2Proof.Machine
end

