-- ==== Sys2Proof/Tests/Slice0.lean ====
section
/-! SUPPORT. The tests: for each statement states and operands that meet the hypotheses of its clauses, boundary values among them;
small steps with the results the manual gives; and the refusal of an ill-formed term by each check of WellFormed. -/

namespace Sys2Proof.Tests

set_option Elab.async false


open Sys2Proof Sys2Proof.Machine Sys2Proof.Claims

/-! ### Small states -/

/-- Does the outcome give a next state that passes the check? -/
def gives (o : Out) (p : State → Bool) : Bool :=
  match o with
  | .next t => p t
  | _ => false

/-- The task of the tests: sector 0, 16 counters, 4 streams, 4 windows, 4 global counters, all of the scratchpad. -/
def hdrT : Header :=
  { Header.reset with
    profile := 0x30
    spMask := 0x3F
    contexts := 1
    segSectors := 1
    segCount := 1
    windows := 4
    streams := 4
    counters := 16
    globals := 4 }

def taskT : Task :=
  { Task.reset with
    st := .running
    hdr := hdrT
    sectors := 1
    segs := [0] }

/-- Core 0 with the given changes, the task of the tests in slot 0 and running on core 0. -/
def coreS (f : Core → Core) : State :=
  { State.reset with
    cores := State.reset.cores.set 0 (f { Core.reset with slot := some 0 })
    tasks := State.reset.tasks.set 0 taskT }

/-- Context 0 of core 0 READY at word 0, which holds `w`. -/
def ctlX (w : W32) (f : Ctx → Ctx) (g : Core → Core) : State :=
  coreS fun x => g { x with
    control := [(0, w)]
    ctx := x.ctx.set 0 (f { Ctx.reset with st := .ready }) }

def ctlS (w : W32) : State := ctlX w id id

/-- The same with values in S1 and S2. -/
def ctl2 (w : W32) (a b : W64) : State := ctlX w (fun y => { y with s := (y.s.set 1 a).set 2 b }) id

/-- A context that is FAULTED with cause `z` in its latch. -/
def faultedWith (z : Byte) (t : State) : Bool :=
  (ctx t 0 0).faulted && (ctx t 0 0).cause == z && (ctx t 0 0).st == .faulted

/-! ### Control instructions -/

theorem holds_AluResult :
    (∀ e ∈ aluRows, issueOk (ctlS (encR 0 3 1 2 e.2.1)) 0 0 (encR 0 3 1 2 e.2.1) 0 [1, 2] = true) ∧
    ∀ e ∈ aluRows, issueOk (ctlS (encR 0 0 31 31 e.2.1)) 0 0 (encR 0 0 31 31 e.2.1) 0 [31, 31] = true := by decide +kernel

theorem holds_AluImmediateResult :
    (∀ e ∈ immRows, issueOk (ctlS (encI e.2.1 3 1 0xFFFF)) 0 0 (encI e.2.1 3 1 0xFFFF) 0 [1] = true) ∧
    issueOk (ctlS (encI 0x05 3 3 0xFFFF)) 0 0 (encI 0x05 3 3 0xFFFF) 0 [] = true ∧
    issueOk (ctlS (encI 0x06 0 3 1)) 0 0 (encI 0x06 0 3 1) 0 [0] = true := by decide +kernel

theorem holds_AddressRegisterResult :
    issueOk (ctlS (encI 0x0A 15 1 0)) 0 0 (encI 0x0A 15 1 0) 0 [1] = true ∧
    issueOk (ctlS (encI 0x0B 15 0 0x8000)) 0 0 (encI 0x0B 15 0 0x8000) 0 [] = true ∧
    issueOk (ctlS (encI 0x0C 0 15 0)) 0 0 (encI 0x0C 0 15 0) 0 [] = true := by decide +kernel

theorem holds_BranchResult :
    (∀ e ∈ branchRows, issueOk (ctlS (encI e.2.1 1 2 0xFFFF)) 0 0 (encI e.2.1 1 2 0xFFFF) 0 [1, 2] = true) ∧
    issueOk (ctlS (encI 0x16 31 0 5)) 0 0 (encI 0x16 31 0 5) 0 [] = true ∧
    issueOk (ctlS (encI 0x17 0 1 0)) 0 0 (encI 0x17 0 1 0) 0 [1] = true := by decide +kernel

theorem test_add_wraps :
    gives (exec (.add 0 0 3 1 2) (ctl2 (encR 0 3 1 2 0) (-1) 1)) (fun t => (ctx t 0 0).s[3] == 0 && (ctx t 0 0).pc == 1) = true := by
  decide +kernel

theorem test_sra_negative :
    gives (exec (.sra 0 0 3 1 2) (ctl2 (encR 0 3 1 2 7) (-16) 66)) (fun t => (ctx t 0 0).s[3] == -4) = true := by
  decide +kernel

theorem test_movk_high :
    gives (exec (.movk 0 0 1 0xABCD 3) (ctl2 (encI 0x06 1 3 0xABCD) 0x1111222233334444 0))
      (fun t => (ctx t 0 0).s[1] == 0xABCD222233334444) = true := by decide +kernel

theorem test_blt_signed :
    gives (exec (.blt 0 0 1 2 0x10) (ctl2 (encI 0x12 1 2 0x10) (-1) 0)) (fun t => (ctx t 0 0).pc == 0x11) = true ∧
    gives (exec (.bltu 0 0 1 2 0x10) (ctl2 (encI 0x14 1 2 0x10) (-1) 0)) (fun t => (ctx t 0 0).pc == 1) = true := by
  decide +kernel

theorem test_s0_discards :
    gives (exec (.addi 0 0 0 0 7) (ctlS (encI 0x01 0 0 7))) (fun t => (ctx t 0 0).s[0] == 0 && (ctx t 0 0).pc == 1) = true := by
  decide +kernel

theorem test_wrong_word_does_nothing : exec (.add 0 0 3 1 2) (ctlS 0) = .next (ctlS 0) ∨
    gives (exec (.sub 0 0 3 1 2) (ctlS (encR 0 3 1 2 0))) (fun t => (ctx t 0 0).pc == 0) = true := by
  right
  decide +kernel

/-- A context with AD1 = 64, its scratchpad holding 1 at byte 64. -/
def memS (w : W32) : State :=
  ctlX w (fun y => { y with
    ad := y.ad.set 1 64
    s := y.s.set 2 0x0102030405060708 }) fun x => { x with sp := { x.sp with mem := [(64, 1)] } }

theorem holds_LoadsAndStores :
    (issueOk (memS (encI 0x08 3 1 0)) 0 0 (encI 0x08 3 1 0) 0 [] = true ∧ accessAt (memS (encI 0x08 3 1 0)) 0 0 1 0 % 8 = 0 ∧
      0 ≤ accessAt (memS (encI 0x08 3 1 0)) 0 0 1 0 ∧ spHeld (memS (encI 0x08 3 1 0)) 0 (accessAt (memS (encI 0x08 3 1 0)) 0 0 1 0).toNat 8 = true) ∧
    (issueOk (memS (encI 0x09 2 1 0xFFF8)) 0 0 (encI 0x09 2 1 0xFFF8) 0 [2] = true ∧
      accessAt (memS (encI 0x09 2 1 0xFFF8)) 0 0 1 0xFFF8 = 0 ∧ spHeld (memS (encI 0x09 2 1 0xFFF8)) 0 0 8 = true) ∧
    (issueOk (memS (encI 0x08 3 1 0xFFF7)) 0 0 (encI 0x08 3 1 0xFFF7) 0 [] = true ∧
      (ctx (memS (encI 0x08 3 1 0xFFF7)) 0 0).faulted = false ∧ ¬ 0 ≤ accessAt (memS (encI 0x08 3 1 0xFFF7)) 0 0 1 0xFFF7) := by
  decide +kernel

def loading : State :=
  ctlX 0 (fun y => { y with lds := [{ rd := 3, addr := 64, pc := 9, issued := 0 }] }) fun x => { x with sp := { x.sp with mem := [(64, 1)] } }

theorem holds_LoadsAndStores_read :
    ldDue loading 0 0 = some { rd := 3, addr := 64, pc := 9, issued := 0 } ∧ (ctx loading 0 0).faulted = false ∧
    spPoisoned loading.cores[0] 64 8 = false := by
  decide +kernel

theorem holds_LoadsAndStores_misaligned :
    issueOk (ctlX (encI 0x09 3 2 0) (fun y => { y with ad := y.ad.set 2 4 }) id) 0 0 (encI 0x09 3 2 0) 0 [3] = true ∧
    ¬ accessAt (ctlX (encI 0x09 3 2 0) (fun y => { y with ad := y.ad.set 2 4 }) id) 0 0 2 0 % 8 = 0 := by decide +kernel

theorem test_ld_reads :
    gives (exec (.ldBankRead 0 0 .clean) loading) (fun t => (ctx t 0 0).s[3] == 1 && (ctx t 0 0).lds.isEmpty) = true := by
  decide +kernel

theorem test_st_little_endian :
    gives (exec (.st 0 0 2 1 0) (memS (encI 0x09 2 1 0)))
      (fun t => t.cores[0].sp.stores.map (fun w => (w.addr, w.bytes)) == [(64, [8, 7, 6, 5, 4, 3, 2, 1])]) = true := by
  decide +kernel

theorem test_ld_misaligned_faults :
    gives (exec (.ld 0 0 3 2 0) (ctlX (encI 0x08 3 2 0) (fun y => { y with ad := y.ad.set 2 4 }) id)) (faultedWith 0x02) = true := by
  decide +kernel

/-! ### Signals and counters -/

theorem holds_CounterSignals :
    (issueOk (ctlS (encK 0x18 15 (.imm 1))) 0 0 (encK 0x18 15 (.imm 1)) 0 (nsrc (.imm 1)) = true ∧
      counterNamed (ctlS (encK 0x18 15 (.imm 1))) 0 15 = true) ∧
    (issueOk (ctlS (encK 0x1A 0 (.reg 1))) 0 0 (encK 0x1A 0 (.reg 1)) 0 (nsrc (.reg 1)) = true ∧
      inTask (ctlS (encK 0x1A 0 (.reg 1))) 0 (downCore 0) = true ∧ buckleBelow (ctlS (encK 0x1A 0 (.reg 1))) 0 = false) ∧
    (issueOk (ctl2 (encR 0x1B 0 1 2 15) 11 7) 0 0 (encR 0x1B 0 1 2 15) 0 [1, 2] = true ∧
      (reads (ctl2 (encR 0x1B 0 1 2 15) 11 7) 0 0 1).toNat % 256 = 11 ∧ inTask (ctl2 (encR 0x1B 0 1 2 15) 11 7) 0 11 = true) ∧
    (issueOk (ctlS (encK 0x18 16 (.imm 1))) 0 0 (encK 0x18 16 (.imm 1)) 0 (nsrc (.imm 1)) = true ∧
      counterNamed (ctlS (encK 0x18 16 (.imm 1))) 0 16 = false ∧ (ctx (ctlS (encK 0x18 16 (.imm 1))) 0 0).faulted = false) := by
  decide +kernel

/-- Core 1 of the tests' task, for SIG.UP, and core 11, whose lower neighbour lies outside the task. -/
def ctlOn (c : CoreIx) (w : W32) : State :=
  { State.reset with
    cores := State.reset.cores.set c { Core.reset with
      slot := some 0
      control := [(0, w)]
      ctx := Core.reset.ctx.set 0 { Ctx.reset with st := .ready } }
    tasks := State.reset.tasks.set 0 taskT }

theorem holds_CounterSignals_neighbours :
    (issueOk (ctlOn 1 (encK 0x19 3 (.imm 2))) 1 0 (encK 0x19 3 (.imm 2)) 0 (nsrc (.imm 2)) = true ∧
      counterNamed (ctlOn 1 (encK 0x19 3 (.imm 2))) 1 3 = true ∧ inTask (ctlOn 1 (encK 0x19 3 (.imm 2))) 1 (upCore 1) = true ∧
      buckleBelow (ctlOn 1 (encK 0x19 3 (.imm 2))) (upCore 1) = false) ∧
    (issueOk (ctlOn 11 (encK 0x1A 3 (.imm 2))) 11 0 (encK 0x1A 3 (.imm 2)) 0 (nsrc (.imm 2)) = true ∧
      counterNamed (ctlOn 11 (encK 0x1A 3 (.imm 2))) 11 3 = true ∧ inTask (ctlOn 11 (encK 0x1A 3 (.imm 2))) 11 (downCore 11) = false) := by
  decide +kernel

theorem holds_GlobalSignalsSent :
    (issueOk (ctl2 (encR 0x1C 0 1 2 0) 3 0x10000) 0 0 (encR 0x1C 0 1 2 0) 0 [1, 2] = true ∧
      gsigHeld (ctl2 (encR 0x1C 0 1 2 0) 3 0x10000) 0 3 = true ∧ (3 : W64).toNat / 4096 = 0) ∧
    (gsigHeld (ctl2 (encR 0x1C 0 1 2 0) 0x1003 0x30F000001) 0 0x1003 = true ∧ (0x1003 : W64).toNat / 4096 = 1 ∧
      (0x30F000001 : W64).toNat % 2 ^ 32 = 1 + 15 * 2 ^ 24 ∧ (0x30F000001 : W64).toNat < 2 ^ 34 ∧
      counterNamed (ctl2 (encR 0x1C 0 1 2 0) 0x1003 0x30F000001) 0 15 = true) ∧
    gsigHeld (ctl2 (encR 0x1C 0 1 2 0) 0x2003 1) 0 0x2003 = true ∧ gsigHeld (ctl2 (encR 0x1C 0 1 2 0) 0x3003 0) 0 0x3003 = true := by
  decide +kernel

/-- Counter 2 of core 0 with a value and limit. -/
def ctrS (w : W32) (v l : W16) : State :=
  ctlX w id fun x => { x with counters := x.counters.set 2 { Counter.reset with
                                                             value := v
                                                             limit := l } }

theorem holds_CounterInstructions :
    (issueOk (ctrS (encK 0x1D 2 (.imm 5)) 5 5) 0 0 (encK 0x1D 2 (.imm 5)) 0 (nsrc (.imm 5)) = true ∧
      (counterOf (ctrS (encK 0x1D 2 (.imm 5)) 5 5) 0 2).appliedAt ≠ 0 + 1 ∧ counterNamed (ctrS (encK 0x1D 2 (.imm 5)) 5 5) 0 2 = true ∧
      (amount (ctrS (encK 0x1D 2 (.imm 5)) 5 5) 0 0 (.imm 5)).toNat ≤ (counterOf (ctrS (encK 0x1D 2 (.imm 5)) 5 5) 0 2).limit.toNat) ∧
    (issueOk (ctrS (encK 0x1E 2 (.imm 0)) 0 5) 0 0 (encK 0x1E 2 (.imm 0)) 0 (nsrc (.imm 0)) = true) ∧
    (issueOk (ctrS (encI 0x1F 3 0 2) 5 9) 0 0 (encI 0x1F 3 0 2) 0 [] = true) := by decide +kernel

theorem holds_CounterInstructions_faults :
    (issueOk (ctlS (encK 0x1D 16 (.imm 1))) 0 0 (encK 0x1D 16 (.imm 1)) 0 (nsrc (.imm 1)) = true ∧
      counterNamed (ctlS (encK 0x1D 16 (.imm 1))) 0 16 = false ∧ (ctx (ctlS (encK 0x1D 16 (.imm 1))) 0 0).faulted = false) ∧
    (issueOk (ctlS (encI 0x1F 3 0 0x100)) 0 0 (encI 0x1F 3 0 0x100) 0 [] = true ∧ counterNamed (ctlS (encI 0x1F 3 0 0x100)) 0 0x100 = false) ∧
    (issueOk (ctrS (encK 0x1D 2 (.imm 6)) 9 5) 0 0 (encK 0x1D 2 (.imm 6)) 0 (nsrc (.imm 6)) = true ∧
      (counterOf (ctrS (encK 0x1D 2 (.imm 6)) 9 5) 0 2).limit.toNat < (amount (ctrS (encK 0x1D 2 (.imm 6)) 9 5) 0 0 (.imm 6)).toNat) ∧
    (issueOk (ctrS (encK 0x1E 2 (.imm 6)) 5 9) 0 0 (encK 0x1E 2 (.imm 6)) 0 (nsrc (.imm 6)) = true ∧
      (counterOf (ctrS (encK 0x1E 2 (.imm 6)) 5 9) 0 2).value.toNat < (amount (ctrS (encK 0x1E 2 (.imm 6)) 5 9) 0 0 (.imm 6)).toNat) := by
  decide +kernel

theorem holds_CounterSignals_outside :
    issueOk (ctl2 (encR 0x1B 0 1 2 15) 12 7) 0 0 (encR 0x1B 0 1 2 15) 0 [1, 2] = true ∧
    inTask (ctl2 (encR 0x1B 0 1 2 15) 12 7) 0 12 = false ∧
    (issueOk (ctl2 (encR 0x1B 0 1 2 16) 11 7) 0 0 (encR 0x1B 0 1 2 16) 0 [1, 2] = true ∧
      counterNamed (ctl2 (encR 0x1B 0 1 2 16) 11 7) 0 16 = false) := by decide +kernel

theorem test_wait_consumes_and_waits :
    gives (exec (.wait 0 0 2 (.imm 5)) (ctrS (encK 0x1D 2 (.imm 5)) 6 9))
      (fun t => (counterOf t 0 2).value == 1 && (ctx t 0 0).pc == 1) = true ∧
    gives (exec (.wait 0 0 2 (.imm 5)) (ctrS (encK 0x1D 2 (.imm 5)) 4 9))
      (fun t => (counterOf t 0 2).value == 4 && (ctx t 0 0).st == .waiting && (ctx t 0 0).pc == 0) = true := by decide +kernel

theorem test_ctrrd :
    gives (exec (.ctrrd 0 0 3 2) (ctrS (encI 0x1F 3 0 2) 5 9)) (fun t => (ctx t 0 0).s[3] == 0x00090005) = true := by decide +kernel

/-- Counter 2 with a value and limit, the core's contexts waiting. -/
def stillS (v l : W16) : State :=
  ctlX 0 (fun y => { y with st := .waiting }) fun x => { x with counters := x.counters.set 2 { Counter.reset with
                                                                                           value := v
                                                                                           limit := l } }

/-- Two increments due at counter 2, whose limit is `l`. -/
def incT (l : W16) : State :=
  { stillS 1 l with incs := [
      { core := 0, ctr := 2, n := 3, due := 0, source := 0, tsig := false, fcore := 0, fctx := 0, fpc := 0 },
      { core := 0, ctr := 2, n := 5, due := 0, source := 3, tsig := false, fcore := 1, fctx := 0, fpc := 0 }] }

def incS : State := incT 9

def wakeS : State :=
  ctlX 0 (fun y => { y with
    st := .waiting
    kind := .counter
    wakeAt := some 0 }) id

def cmdWakeS : State :=
  ctlX 0 (fun y => { y with
    st := .waiting
    kind := .command
    queued := [4]
    wakeAt := some 0 }) id

def ovfS : State := { ctlS 0 with reports := [{ core := 0, ctx := 0, pc := 4, info := 2, due := 0 }] }

theorem holds_CounterEvents :
    (signalsIn incS 0 = true ∧ (counterOf incS 0 2).appliedAt ≠ incS.time.cycle + 1 ∧
      (counterOf incS 0 2).value.toNat + dueSum incS 0 2 = (counterOf incS 0 2).limit.toNat ∧
      ∃ i ∈ incS.incs, i.hits 0 2 incS.time.cycle = true) ∧
    (signalsIn (incT 8) 0 = true ∧ (counterOf (incT 8) 0 2).limit.toNat + 1 = (counterOf (incT 8) 0 2).value.toNat + dueSum (incT 8) 0 2) ∧
    ((ctx cmdWakeS 0 0).wakeAt = some 0 ∧ (ctx cmdWakeS 0 0).st = .waiting ∧ (ctx cmdWakeS 0 0).kind = .command ∧
      (ctx cmdWakeS 0 0).queued = [4] ∧ runs cmdWakeS 0 0 = true) ∧
    ((ctx wakeS 0 0).wakeAt = some 0 ∧ (ctx wakeS 0 0).st = .waiting ∧ (ctx wakeS 0 0).kind ≠ .command ∧ runs wakeS 0 0 = true) ∧
    (ovfS.reports.find? fun r => r.core == 0) = some { core := 0, ctx := 0, pc := 4, info := 2, due := 0 } ∧
    (ctx ovfS 0 0).faulted = false := by decide +kernel

theorem test_increments_sum :
    gives (exec (.counterSignalApply 0 2) incS) (fun t => (counterOf t 0 2).value == 9 && t.incs.isEmpty) = true := by decide +kernel

theorem test_overflow_discards_all :
    gives (exec (.counterSignalApply 0 2) (incT 8)) (fun t => (counterOf t 0 2).value == 1 && t.incs.isEmpty &&
      t.cores[(0 : CoreIx)].ctrRegs.ovfDiscards == 2 && t.reports.length == 1) = true := by decide +kernel

/-! ### Special instructions, traps -/

theorem holds_SpecialInstructions :
    issueOk (ctlS (encI 0x30 3 0 0)) 0 0 (encI 0x30 3 0 0) 0x001FFFFF [] = true ∧
    issueOk (ctlS (encR 0x31 0 1 2 0)) 0 0 (encR 0x31 0 1 2 0) 0 [1, 2] = true ∧
    issueOk (ctlS (encI 0x32 3 0 0xF)) 0 0 (encI 0x32 3 0 0xF) 0x001F0000 [] = true ∧
    issueOk (ctlS (encI 0x38 0 0 0)) 0 0 (encI 0x38 0 0 0) 0 [] = true ∧
    issueOk (ctlS (encI 0x39 0 0 0)) 0 0 (encI 0x39 0 0 0) 0 [] = true ∧
    issueOk (ctlS (encI 0x3A 0 0 0)) 0 0 (encI 0x3A 0 0 0) 0 [] = true := by decide +kernel

/-- A task with FAULT_NOTIFY and the handler at word 0x100; the context holds a latched TRAP in `h`. -/
def notifyS (w : W32) (h : Bool) : State :=
  let s := ctlX w (fun y => if h then { y with
    faulted := true
    cause := 0x12
    s := y.s.set 31 0x120007 } else y) id
  { s with tasks := s.tasks.set 0 { taskT with hdr := { hdrT with
                                                          flags := 0x40
                                                          faultHandler := 0x100 } } }

theorem holds_TrapsAndReturn :
    (issueOk (ctlS (encI 0x3B 0 0 9)) 0 0 (encI 0x3B 0 0 9) 0x03FF0000 [] = true ∧ (ctx (ctlS (encI 0x3B 0 0 9)) 0 0).faulted = false) ∧
    (issueOk (notifyS (encI 0x3B 0 0 0xFFFF) true) 0 0 (encI 0x3B 0 0 0xFFFF) 0x03FF0000 [31] = true ∧
      (ctx (notifyS (encI 0x3B 0 0 0xFFFF) true) 0 0).faulted = true ∧ runs (notifyS (encI 0x3B 0 0 0xFFFF) true) 0 0 = true ∧
      (notifyS (encI 0x3B 0 0 0xFFFF) true).tasks[(0 : SlotIx)].hdr.flags.getLsbD 6 = true) ∧
    (issueOk (ctlS 0xFFFFFFFF) 0 0 0xFFFFFFFF 0 [] = true ∧ ctlLegal 0xFFFFFFFF = false) := by decide +kernel

theorem holds_NotifiedFaultEntersHandler :
    issueOk (notifyS (encI 0x3B 0 0 9) false) 0 0 (encI 0x3B 0 0 9) 0x03FF0000 [] = true ∧
    (ctx (notifyS (encI 0x3B 0 0 9) false) 0 0).faulted = false ∧ runs (notifyS (encI 0x3B 0 0 9) false) 0 0 = true ∧
    (notifyS (encI 0x3B 0 0 9) false).tasks[(0 : SlotIx)].hdr.flags.getLsbD 6 = true := by decide +kernel

theorem test_trap_faults :
    gives (exec (.trap 0 0 9) (ctlS (encI 0x3B 0 0 9))) (fun t => faultedWith 0x12 t && (ctx t 0 0).info == 9) = true := by decide +kernel

theorem test_trap_notifies :
    gives (exec (.trap 0 0 9) (notifyS (encI 0x3B 0 0 9) false))
      (fun t => (ctx t 0 0).pc == 0x100 && (ctx t 0 0).s[31] == 0x120000 && (ctx t 0 0).s[30] == 9) = true := by decide +kernel

theorem test_trap_returns :
    gives (exec (.trapReturn 0 0) (notifyS (encI 0x3B 0 0 0xFFFF) true))
      (fun t => (ctx t 0 0).pc == 8 && !(ctx t 0 0).faulted) = true := by decide +kernel

theorem test_illegal_word : gives (exec (.illegal 0 0 0xFFFFFFFF) (ctlS 0xFFFFFFFF)) (faultedWith 0x01) = true := by decide +kernel

/-! ### Launches and blocks -/

/-- A pending launch of block 5 with counter 3. -/
def launchT (form : LaunchForm) : Launch :=
  { blk := 5, ctr := 3, ctx := 0, pc := 0, form := form, ft := 0, beat := 1, issued := 0, arrived := none, digest := 7,
    ads := Vector.replicate 16 64, trs := Vector.replicate 8 9 }

/-- Core 0 with a pending launch, at core cycle `n`. -/
def pendS (l : Launch) (n : Nat) : State :=
  { coreS (fun x => { x with pend := some l }) with time := { Time.reset with cycle := n } }

/-- The twelve cores of the task with the same launch pending, at core cycle `n`, and the task in slot 0. -/
def segS (l : Launch) (n : Nat) : State :=
  { State.reset with
    cores := Vector.ofFn fun c => if c.val < 12 then { Core.reset with
                                                       slot := some 0
                                                       pend := some l } else Core.reset
    tasks := State.reset.tasks.set 0 taskT
    time := { Time.reset with cycle := n } }

/-- A launch instruction at word 0 of a core on which a launch is pending. -/
def pendIn (w : W32) : State := ctlX w id fun x => { x with pend := some (launchT .local_) }

theorem holds_LaunchInstructions :
    (issueOk (ctlS (encL 0x20 0xFFF 15 0)) 0 0 (encL 0x20 0xFFF 15 0) 0 launchSrcs = true ∧
      counterNamed (ctlS (encL 0x20 0xFFF 15 0)) 0 15 = true ∧ (ctlS (encL 0x20 0xFFF 15 0)).cores[(0 : CoreIx)].pend = none) ∧
    issueOk (ctlS (encL 0x21 5 3 0)) 0 0 (encL 0x21 5 3 0) 0 launchSrcs = true ∧
    (issueOk (pendIn (encL 0x20 5 3 0)) 0 0 (encL 0x20 5 3 0) 0 launchSrcs = true ∧ (pendIn (encL 0x20 5 3 0)).cores[(0 : CoreIx)].pend ≠ none) ∧
    (issueOk (ctlS (encL 0x21 5 16 0)) 0 0 (encL 0x21 5 16 0) 0 launchSrcs = true ∧ counterNamed (ctlS (encL 0x21 5 16 0)) 0 16 = false) ∧
    (issueOk (ctlS (encL 0x22 5 3 1)) 0 0 (encL 0x22 5 3 1) 0 (1 :: launchSrcs) = true ∧
      32 * beatAt (ctlS (encL 0x22 5 3 1)) (reads (ctlS (encL 0x22 5 3 1)) 0 0 1).toNat ≤ (ctlS (encL 0x22 5 3 1)).time.cycle) ∧
    (issueOk (ctl2 (encL 0x22 5 3 1) 20 0) 0 0 (encL 0x22 5 3 1) 0 (1 :: launchSrcs) = true ∧
      (ctl2 (encL 0x22 5 3 1) 20 0).time.cycle < 32 * beatAt (ctl2 (encL 0x22 5 3 1) 20 0) (reads (ctl2 (encL 0x22 5 3 1) 20 0) 0 0 1).toNat) := by
  decide +kernel

theorem holds_BlockStart_local :
    (pendS (launchT .local_) 4).cores[(0 : CoreIx)].pend = some (launchT .local_) ∧
    (launchT .local_).issued + 4 ≤ (pendS (launchT .local_) 4).time.cycle ∧ blockOf (pendS (launchT .local_) 4) 0 = none ∧
    runs (pendS (launchT .local_) 4) 0 0 = true ∧
    (pendS (launchT .seg) 0).cores[(0 : CoreIx)].pend = some (launchT .seg) ∧ (launchT .seg).arrived = none := by decide +kernel

/-- All have sent their arrival in cycle 0. -/
def sentT : Launch := { launchT .seg with arrived := some 0 }

theorem segT : ∀ d ∈ (segS sentT 32).tasks[(0 : SlotIx)].segmentOf 0, (segS sentT 32).cores[d].pend = some sentT := by
  decide +kernel

theorem holds_BlockStart_segment :
    runs (segS sentT 32) 0 0 = true ∧ (0 : CoreIx) ∈ (segS sentT 32).tasks[(0 : SlotIx)].segmentOf 0 ∧
    ((segS sentT 32).tasks[(0 : SlotIx)].segmentOf 0).Nodup ∧
    lastArrival (segS sentT 32) ((segS sentT 32).tasks[(0 : SlotIx)].segmentOf 0) = some 0 ∧
    (segS sentT 32).time.cycle % 32 = 0 ∧ 0 + 32 ≤ (segS sentT 32).time.cycle ∧
    launchRefused (segS sentT 32) ((segS sentT 32).tasks[(0 : SlotIx)].segmentOf 0) = false ∧
    (segS sentT 32).cores[(0 : CoreIx)].pend = some sentT ∧
    ∀ d ∈ (segS sentT 32).tasks[(0 : SlotIx)].segmentOf 0,
      ∃ m, (segS sentT 32).cores[d].pend = some m ∧ m.blk = sentT.blk ∧ m.digest = sentT.digest :=
  ⟨by decide +kernel, by decide +kernel, by decide +kernel, by decide +kernel, by decide +kernel, by decide +kernel,
   by decide +kernel, by decide +kernel, fun d h => ⟨sentT, segT d h, rfl, rfl⟩⟩

/-- A block runs on core 0, on which a timed launch is pending. -/
def busyS (n : Nat) : State :=
  { coreS (fun x => { x with
      pend := some (launchT .at_)
      blk := some (mkBlock (launchT .local_) Ctx.reset 0) }) with time := { Time.reset with cycle := n } }

/-- The cores of a segment of which the last has launched another block. -/
def mixedS : State :=
  { segS sentT 32 with cores := (segS sentT 32).cores.set 11 { Core.reset with
      slot := some 0
      pend := some { sentT with blk := 6 } } }

theorem holds_BlockStart_mismatch :
    runs mixedS 0 0 = true ∧ (mixedS.tasks[(0 : SlotIx)].segmentOf 0).Nodup ∧ (11 : CoreIx) ∈ mixedS.tasks[(0 : SlotIx)].segmentOf 0 ∧
    lastArrival mixedS (mixedS.tasks[(0 : SlotIx)].segmentOf 0) = some 0 ∧ mixedS.time.cycle % 32 = 0 ∧
    launchRefused mixedS (mixedS.tasks[(0 : SlotIx)].segmentOf 0) = false ∧ mixedS.cores[(0 : CoreIx)].pend = some sentT ∧
    mixedS.cores[(11 : CoreIx)].pend = some { sentT with blk := 6 } := by decide +kernel

theorem test_launches_that_differ_fault :
    gives (exec (.segmentLaunchStart 0) mixedS) (fun t => t.cores[(0 : CoreIx)].blk.isNone && (ctx t 0 0).cause == 0x0F &&
      (ctx t 11 0).cause == 0x0F) = true := by decide +kernel

theorem holds_BlockStart_timed :
    runs (segS (launchT .at_) 32) 0 0 = true ∧ (0 : CoreIx) ∈ (segS (launchT .at_) 32).tasks[(0 : SlotIx)].segmentOf 0 ∧
    ((segS (launchT .at_) 32).tasks[(0 : SlotIx)].segmentOf 0).Nodup ∧
    launchRefused (segS (launchT .at_) 32) ((segS (launchT .at_) 32).tasks[(0 : SlotIx)].segmentOf 0) = false ∧
    (segS (launchT .at_) 32).cores[(0 : CoreIx)].pend = some (launchT .at_) ∧ 32 * (launchT .at_).beat = (segS (launchT .at_) 32).time.cycle ∧
    (∀ d ∈ (segS (launchT .at_) 32).tasks[(0 : SlotIx)].segmentOf 0, blockOf (segS (launchT .at_) 32) d = none ∧
      (segS (launchT .at_) 32).time.cycle ≤ 32 * (launchT .at_).beat) ∧
    (∀ d ∈ (segS (launchT .at_) 32).tasks[(0 : SlotIx)].segmentOf 0, (segS (launchT .at_) 32).cores[d].pend = some (launchT .at_)) ∧
    (blockOf (busyS 32) 0 = some (mkBlock (launchT .local_) Ctx.reset 0) ∧ (ctx (busyS 32) 0 (launchT .at_).ctx).faulted = false ∧
      runs (busyS 32) 0 0 = true ∧ (busyS 32).cores[(0 : CoreIx)].pend = some (launchT .at_)) := by decide +kernel

theorem test_segment_waits_a_beat :
    gives (exec (.segmentLaunchStart 0) (segS sentT 31)) (fun t => t.cores[(0 : CoreIx)].blk.isNone) = true ∧
    gives (exec (.segmentLaunchStart 0) (segS sentT 32)) (fun t => t.cores[(0 : CoreIx)].blk.isSome && t.cores[(11 : CoreIx)].blk.isSome) = true := by
  decide +kernel

/-- A block of core 0 in block cycle 0, with changes, and a bundle with slots `m`, `t`, `v` at its place. -/
def blkT : Block := mkBlock (launchT .local_) Ctx.reset 0

def blkS (f : Block → Block) (m : BitVec 44) (t v : BitVec 40) : State :=
  coreS fun x => { x with
    blk := some (f blkT)
    blocks := [(5, BitVec.ofNat 128 (m.toNat * 2 ^ 80 + t.toNat * 2 ^ 40 + v.toNat))] }

/-- The block of `blkS` in block cycle `n`. -/
def blkAt (n : Nat) (s : State) : State := { s with duty := s.duty.set 0 { Duty.reset with ecyc := n } }

def overT (b : Block) : Block := { b with issuing := false }

def restS : State :=
  { State.reset with
    buckle := 0xFFF
    duty := Vector.replicate 12 { Duty.reset with rested := false }
    time := { Time.reset with cycle := 9250 } }

theorem holds_BlockEndAndDuty :
    (blockNow (blkAt 2 (blkS overT 0 0 0)) 0 = some (overT blkT, 2) ∧ blockOver (blkAt 2 (blkS overT 0 0 0)) 0 (overT blkT) 2 = true) ∧
    (({ State.reset with time := { Time.reset with cycle := 32 } } : State).time.cycle % 32 = 0 ∧
      State.reset.duty[(0 : SecIx)].beat ≠ 32 / 32) ∧
    (∀ q ∈ girthSegment restS 0, restS.duty[q].rampFrom = none ∧ restS.duty[q].rested = false ∧
      restS.duty[q].quietFrom + ccOf restS 5000 ≤ restS.time.cycle) := by
  decide +kernel

theorem test_block_signals_its_counter :
    gives (exec (.blockComplete 0) (blkAt 2 (blkS overT 0 0 0)))
      (fun t => t.cores[(0 : CoreIx)].blk.isNone && t.incs.map (fun i => (i.ctr, i.n, i.due)) == [(3, 1, 1)]) = true := by decide +kernel

theorem test_duty_half :
    let s : State := { State.reset with
      duty := State.reset.duty.set 0 { Duty.reset with sectorLim := 8 }
      time := { Time.reset with cycle := 32 } }
    gives (exec (.dutyBeat 0) s) (fun t => t.duty[(0 : SecIx)].dEff == 8 && t.duty[(0 : SecIx)].enabled) = true ∧
    gives (exec (.dutyBeat 0) { s with time := { Time.reset with cycle := 64 } })
      (fun t => t.duty[(0 : SecIx)].dEff == 8 && !t.duty[(0 : SecIx)].enabled) = true := by decide +kernel

/-! ### Streams -/

/-- Stream slot 3 of core 0 as given, its descriptor area at byte 64, AD1 = 64. -/
def strX (w : W32) (x : Stream) (g : Core → Core) (f : Ctx → Ctx) : State :=
  ctlX w (fun y => f { y with ad := y.ad.set 1 64 }) fun c => g { c with streams := c.streams.set 3 x }

/-- A READ stream: one row of one granule, two fills, halves of one granule. -/
def readD : SDesc :=
  { SDesc.reset with
    kind := 1
    rowG := 1
    cnt0 := 2
    cnt1 := 1
    cnt2 := 1
    str0 := 64
    halfG := 1
    ctrB := 1
    endCtr := 2 }

def strT : Stream :=
  { Stream.reset with
    st := .active
    d := readD
    fills := 2 }

theorem holds_StreamInstructions :
    (issueOk (strX (encI 0x24 3 1 0) Stream.reset id id) 0 0 (encI 0x24 3 1 0) 0 [] = true ∧
      slotNamed (strX (encI 0x24 3 1 0) Stream.reset id id) 0 3 = true ∧
      (streamOf (strX (encI 0x24 3 1 0) Stream.reset id id) 0 3).st = .unconfigured ∧
      (ctx (strX (encI 0x24 3 1 0) Stream.reset id id) 0 0).ad[(1 : AReg)].toNat % 16 = 0 ∧
      spHeld (strX (encI 0x24 3 1 0) Stream.reset id id) 0 64 48 = true) ∧
    (issueOk (strX (encI 0x25 3 0 0) strT id id) 0 0 (encI 0x25 3 0 0) 0x001FFFFF [] = true ∧
      (streamOf (strX (encI 0x25 3 0 0) strT id id) 0 3).st = .active ∧
      swaitGone (strX (encI 0x25 3 0 0) strT id id) 0 3 = false) ∧
    (issueOk (strX (encI 0x26 3 0 0) strT id id) 0 0 (encI 0x26 3 0 0) 0x001FFFFF [] = true ∧
      swapSpent (strX (encI 0x26 3 0 0) strT id id) 0 3 = false) ∧
    issueOk (strX (encI 0x27 3 0 0) strT id id) 0 0 (encI 0x27 3 0 0) 0x001FFFFF [] = true := by decide +kernel

/-- A WRITE stream whose halves are both released, a slot that closes, a READ slot with no fill left. -/
def spentT : Stream :=
  { strT with
    d := { readD with
           kind := 2
           cnt0 := 1 }
    nrel := 1 }

def shutT : Stream :=
  { strT with
    st := .closing
    closeAt := some 2 }

def endedT : Stream :=
  { strT with
    fills := 2
    rel := [(0, 1), (1, 1)]
    nrel := 2
    landed := [(0, 64), (1, 64)] }

theorem holds_StreamInstructions_faults :
    (issueOk (strX (encI 0x26 3 0 0) shutT id id) 0 0 (encI 0x26 3 0 0) 0x001FFFFF [] = true ∧
      slotNamed (strX (encI 0x26 3 0 0) shutT id id) 0 3 = true ∧ (streamOf (strX (encI 0x26 3 0 0) shutT id id) 0 3).st = .closing) ∧
    (issueOk (strX (encI 0x25 4 0 0) strT id id) 0 0 (encI 0x25 4 0 0) 0x001FFFFF [] = true ∧
      slotNamed (strX (encI 0x25 4 0 0) strT id id) 0 4 = false ∧ (ctx (strX (encI 0x25 4 0 0) strT id id) 0 0).faulted = false) ∧
    (issueOk (strX (encI 0x27 3 0 0) Stream.reset id id) 0 0 (encI 0x27 3 0 0) 0x001FFFFF [] = true ∧
      (streamOf (strX (encI 0x27 3 0 0) Stream.reset id id) 0 3).st = .unconfigured) ∧
    (issueOk (strX (encI 0x24 3 1 0) strT id id) 0 0 (encI 0x24 3 1 0) 0 [] = true ∧
      (streamOf (strX (encI 0x24 3 1 0) strT id id) 0 3).st ≠ .unconfigured) ∧
    (issueOk (strX (encI 0x26 3 0 0) spentT id id) 0 0 (encI 0x26 3 0 0) 0x001FFFFF [] = true ∧
      swapSpent (strX (encI 0x26 3 0 0) spentT id id) 0 3 = true ∧ spentT.st = .active) ∧
    (issueOk (strX (encI 0x25 3 0 0) endedT id id) 0 0 (encI 0x25 3 0 0) 0x001FFFFF [] = true ∧
      swaitGone (strX (encI 0x25 3 0 0) endedT id id) 0 3 = true) := by decide +kernel

/-- The 48 bytes of a WRITE descriptor of one row of one granule at 0, its halves at byte 1024. -/
def writeRaw : List Byte :=
  natLe 8 0x02010002 ++ natLe 8 0 ++ natLe 2 1 ++ natLe 2 1 ++ natLe 2 1 ++ natLe 2 1 ++ natLe 4 64 ++ natLe 8 0 ++
  natLe 2 16 ++ natLe 2 1 ++ natLe 8 0

def descS (raw : List Byte) (st : Stall) : State :=
  strX 0 Stream.reset (fun c => { c with sp := { c.sp with mem := writeBytes [] 64 raw } }) fun y => { y with stall := st }

theorem holds_StreamInstructions_descriptor :
    (ctx (descS writeRaw (.scfg 3 64 0)) 0 0).stall = .scfg 3 64 0 ∧ bgFree (descS writeRaw (.scfg 3 64 0)) 0 5 64 48 = true ∧
    scfgReason (descS writeRaw (.scfg 3 64 0)) 0
      (parseSDesc (readBytes (descS writeRaw (.scfg 3 64 0)).cores[(0 : CoreIx)].sp.mem 64 48))
      (readBytes (descS writeRaw (.scfg 3 64 0)).cores[(0 : CoreIx)].sp.mem 64 48)
      (spPoisoned (descS writeRaw (.scfg 3 64 0)).cores[(0 : CoreIx)] 64 48) = 0 ∧
    (streamOf (descS writeRaw (.scfg 3 64 0)) 0 3).st = .unconfigured ∧
    (bgFree (descS [] (.scfg 3 64 0)) 0 5 64 48 = true ∧ (ctx (descS [] (.scfg 3 64 0)) 0 0).faulted = false ∧
      scfgReason (descS [] (.scfg 3 64 0)) 0 (parseSDesc (readBytes (descS [] (.scfg 3 64 0)).cores[(0 : CoreIx)].sp.mem 64 48))
        (readBytes (descS [] (.scfg 3 64 0)).cores[(0 : CoreIx)].sp.mem 64 48)
        (spPoisoned (descS [] (.scfg 3 64 0)).cores[(0 : CoreIx)] 64 48) ≠ 0) := by decide +kernel

theorem test_scfg_descriptor :
    gives (exec (.scfgDescriptorRead 0 0 []) (descS writeRaw (.scfg 3 64 0)))
      (fun t => (streamOf t 0 3).st == .active && (streamOf t 0 3).d.spBase == 16 && (streamOf t 0 3).d.endCtr == 0 &&
        t.incs.map (fun i => i.ctr) == [1, 2]) = true := by decide +kernel

/-- R172, R188: an uncorrectable descriptor is as a poisoned one: the instruction faults with cause 0x0D. -/
theorem test_scfg_uncorrectable :
    gives (exec (.scfgDescriptorRead 0 0 [(72, .uncorrectable)]) (descS writeRaw (.scfg 3 64 0)))
      (fun t => (streamOf t 0 3).st == .unconfigured && (ctx t 0 0).cause == 0x0D &&
        t.cores[(0 : CoreIx)].sp.poison == [(1, true)]) = true := by decide +kernel

def readReq : MemReq :=
  { id := 5, agent := .stream 0 3, write := false, addr := 0, len := 64, gran := 0, data := [], poison := [], rt := false,
    deadline := 0, snooped := false, due := 0 }

def respT (w : Bool) : MemResp :=
  { req := { readReq with write := w }, data := List.replicate 64 7, poison := [false], failed := false, due := 0, left := [0] }

def respS (w : Bool) : State := { strX 0 strT id id with resps := [respT w] }

/-- A WRITE stream whose first half is released, a WINDOW stream to the core below, one that closes. -/
def writeT : Stream :=
  { strT with
    d := { readD with
           kind := 2
           cnt0 := 1 }
    nrel := 1
    rel := [(0, 1)] }

def winT : Stream := { writeT with d := { writeT.d with
                                          kind := 3
                                          wtarget := 2 } }

def closingT : Stream :=
  { strT with
    st := .closing
    closeAt := some 0 }

def rtT : Stream :=
  { strT with d := { readD with
                     rt := true
                     t1 := 1 } }

def heldS : State :=
  let s := strX 0 strT id id
  { s with
    tasks := s.tasks.set 0 { taskT with stash := { taskT.stash with held := [{ req := { readReq with write := true }, sid := 0, since := 0 }] } }
    time := { Time.reset with cycle := 1900000 } }

theorem holds_StreamEngine_requests :
    ((candOf (strX 0 strT id id) 0 3).isSome = true ∧ (strX 0 strT id id).cores[(0 : CoreIx)].lastReq ≠ 0 + 1  ∧
      issueNow (strX 0 strT id id) 0 = some 3) ∧
    landNow (respS false) 0 = some (respT false) ∧ (respT false).req.agent = .stream 0 3 ∧
    ackDue (respS true) 0 3 = some (respT true) := by
  refine ⟨⟨by decide +kernel, by decide +kernel, by decide +kernel⟩, by decide +kernel, rfl, by decide +kernel⟩

theorem holds_StreamEngine_halves :
    (halfNow (strX 0 writeT id id) 0 (readPath 0 writeT.d) = some (3, 0, 64) ∧ bgFree (strX 0 writeT id id) 0 4 0 64 = true ∧ writeT.d.kind = 2 ∧
      writeT.nextPiece = some (0, 0, 64)) ∧
    (halfNow (strX 0 winT id id) 0 (readPath 0 winT.d) = some (3, 0, 64) ∧ bgFree (strX 0 winT id id) 0 4 0 64 = true ∧ winT.d.kind = 3) := by
  decide +kernel

theorem holds_StreamEngine_ends :
    closeDue (strX 0 closingT id id) 0 3 = true ∧
    (slotsAct (strX 0 rtT id id) 0 = true ∧ rtT.st ≠ .unconfigured ∧ rtT.judged < rtT.d.fills ∧
      (0 : Int) ≤ (BitVec.ofNat 32 (ftNow (strX 0 rtT id id)) - fillDeadline (strX 0 rtT id id) rtT rtT.judged).toInt) ∧
    (heldStream heldS.tasks[(0 : SlotIx)] = some ({ req := { readReq with write := true }, sid := 0, since := 0 }, 0, 3) ∧
      (ctx heldS 0 (streamOf heldS 0 3).ctx).faulted = false ∧
      heldS.tasks[(0 : SlotIx)].st = .running ∧
      0 + (if heldS.stashTimeout = 0 then 1 else heldS.stashTimeout.toNat) * 1000 ≤ nsNow heldS) := by decide +kernel

theorem test_read_lands :
    gives (exec (.streamReadResponse 0 3) (respS false))
      (fun t => t.resps.isEmpty && t.cores[(0 : CoreIx)].sp.staged.map (fun w => (w.addr, w.bytes.length)) == [(0, 64)]) = true := by
  decide +kernel

theorem test_close_signals_end :
    gives (exec (.streamCloseDone 0 3) (strX 0 closingT id id))
      (fun t => (streamOf t 0 3).st == .unconfigured && t.incs.map (fun i => (i.ctr, i.n)) == [(2, 1)]) = true := by decide +kernel

/-! ### Windows and the scratchpad -/

/-- Window 2 of core 0 as given. -/
def wndX (w : W32) (x : Window) (f : Ctx → Ctx) (g : Core → Core) : State :=
  ctlX w (fun y => f { y with ad := y.ad.set 1 64 }) fun c => g { c with windows := c.windows.set 2 x }

def openT : Window :=
  { Window.reset with
    st := .open_
    base := 16
    len := 4
    writer := 1
    sigN := 1 }

def winRaw : List Byte := natLe 8 0x0302090100040010 ++ natLe 2 1 ++ List.replicate 22 0

def winStall : State :=
  wndX 0 Window.reset (fun y => { y with stall := .wopen 2 64 0 }) fun c => { c with sp := { c.sp with mem := writeBytes [] 64 winRaw } }

theorem holds_WindowInstructions :
    (issueOk (wndX (encI 0x28 2 1 0) Window.reset id id) 0 0 (encI 0x28 2 1 0) 0x03000000 [] = true ∧
      windowNamed (wndX (encI 0x28 2 1 0) Window.reset id id) 0 2 = true ∧
      (ctx (wndX (encI 0x28 2 1 0) Window.reset id id) 0 0).ad[(1 : AReg)].toNat % 32 = 0 ∧
      spHeld (wndX (encI 0x28 2 1 0) Window.reset id id) 0 64 32 = true) ∧
    ((ctx winStall 0 0).stall = .wopen 2 64 0 ∧ bgFree winStall 0 5 64 32 = true ∧ spPoisoned winStall.cores[(0 : CoreIx)] 64 32 = false ∧
      winDescOk winStall 0 (readBytes winStall.cores[(0 : CoreIx)].sp.mem 64 32) = true ∧ (windowOf winStall 0 2).st = .closed) ∧
    (issueOk (wndX (encI 0x29 2 0 0) openT id id) 0 0 (encI 0x29 2 0 0) 0x031FFFFF [] = true ∧
      (windowOf (wndX (encI 0x29 2 0 0) openT id id) 0 2).st = .open_) := by decide +kernel

/-- Window 2 opened by another context while this one waits for its descriptor. -/
def winStalled : State := wndX 0 openT (fun y => { y with stall := .wopen 2 64 0 }) id

theorem holds_WindowInstructions_faults :
    (issueOk (wndX (encI 0x29 2 0 0) Window.reset id id) 0 0 (encI 0x29 2 0 0) 0x031FFFFF [] = true ∧
      (windowOf (wndX (encI 0x29 2 0 0) Window.reset id id) 0 2).st ≠ .open_) ∧
    (issueOk (wndX (encI 0x28 2 1 0) openT id id) 0 0 (encI 0x28 2 1 0) 0x03000000 [] = true ∧
      (windowOf (wndX (encI 0x28 2 1 0) openT id id) 0 2).st ≠ .closed ∧
      (ctx (wndX (encI 0x28 2 1 0) openT id id) 0 0).faulted = false) ∧
    (issueOk (wndX (encI 0x28 4 1 0) openT id id) 0 0 (encI 0x28 4 1 0) 0x03000000 [] = true ∧
      windowNamed (wndX (encI 0x28 4 1 0) openT id id) 0 4 = false) ∧
    ((ctx winStalled 0 0).stall = .wopen 2 64 0 ∧ bgFree winStalled 0 5 64 32 = true ∧ (windowOf winStalled 0 2).st ≠ .closed ∧
      (ctx winStalled 0 0).faulted = false) := by decide +kernel

theorem test_reopened_window_faults :
    gives (exec (.wopenDescriptorRead 0 0 []) winStalled) (fun t => faultedWith 0x0C t && (ctx t 0 0).info == 0x29) = true := by
  decide +kernel

/-- A write of the core above to window 2, at offset `o`: one granule. -/
def wwT (o : Nat) (j : Option Bool) : WinWrite :=
  { slot := 3, ctx := 0, pc := 5, win := 2, epoch := 0, offset := o, count := 1, first := 0, lastAt := 0, sent := 1, past := 0,
    grans := [{ left := 0, data := 77, poison := false }], judged := j, base := 16, ctr := 3, sigN := 1, opener := 0, opc := 0 }

def wwS (w : WinWrite) (n : Nat) : State :=
  { wndX 0 openT id (fun c => { c with fromUp := [w] }) with time := { Time.reset with cycle := n } }

def retS : State := ctlX 0 id fun c => { c with returns := [{ ctx := 0, pc := 5, info := 0x21, due := 0 }] }

def noteS : State := ctlX 0 id fun c => { c with notices := [{ due := 0, owner := .up, win := 2, epoch := 0 }] }

def markS : State :=
  { wndX 0 { openT with
             st := .closing
             markers := [.up] } id id with
    cores := (wndX 0 { openT with
                       st := .closing
                       markers := [.up] } id id).cores.set 143 { Core.reset with markersDue := [(.down, 2, 0)] } }

def endS : State :=
  wndX 0 { openT with
           st := .closing
           doneCtr := 3
           closeAt := some 0 } id id

theorem holds_WindowEvents_judged :
    judgeNow (wwS (wwT 3 none) 4) 0 .up = some (wwT 3 none) ∧ winJudge (wwS (wwT 3 none) 4) 0 .up (wwT 3 none) = 0 ∧
    judgeNow (wwS (wwT 4 none) 4) 0 .up = some (wwT 4 none) ∧ winJudge (wwS (wwT 4 none) 4) 0 .up (wwT 4 none) = 5 := by
  decide +kernel

theorem holds_WindowEvents :
    (winNext (wwS (wwT 3 (some true)) 6) 0 .up = some (wwT 3 (some true), { left := 0, data := 77, poison := false }, 19) ∧
      bgFree (wwS (wwT 3 (some true)) 6) 0 (sidePrio .up) (64 * 19) 64 = true) ∧
    (retS.cores[(0 : CoreIx)].returns = [{ ctx := 0, pc := 5, info := 0x21, due := 0 }] ∧ (ctx retS 0 0).faulted = false) ∧
    (noteS.cores[(0 : CoreIx)].notices.find? fun n => decide (n.due ≤ noteS.time.cycle)) = some { due := 0, owner := .up, win := 2, epoch := 0 } ∧
    (markerNow markS 143 .down = some (.down, 2, 0) ∧ coreAt 143 .down = 0 ∧ (windowOf markS 0 2).st = .closing) ∧
    ((windowOf endS 0 2).closeAt = some 0 ∧ (windowOf endS 0 2).st = .closing) := by decide +kernel

theorem test_window_granule_placed :
    gives (exec (.windowGranuleWrite 0 .up) (wwS (wwT 3 (some true)) 6))
      (fun t => t.cores[(0 : CoreIx)].sp.staged.map (fun w => (w.addr, w.bytes.take 2)) == [(1216, [77, 0])] &&
        (windowOf t 0 2).writes == 1) = true := by decide +kernel

theorem test_window_range_refused :
    gives (exec (.windowWriteArrival 0 .up) (wwS (wwT 4 none) 4))
      (fun t => (windowOf t 0 2).rejects == 1 && t.cores[(143 : CoreIx)].returns.length == 1) = true := by decide +kernel

def upkeepS : State :=
  ctlX 0 id fun c => { c with sp := { c.sp with
                                      corrections := [128]
                                      clearing := 0x20 } }

theorem holds_ScratchpadUpkeep :
    (upkeepS.cores[(0 : CoreIx)].sp.corrections.find? fun a => bgFree upkeepS 0 6 a 8) = some 128 ∧
    upkeepS.cores[(0 : CoreIx)].sp.clearing.getLsbD (5 : Fin 6).val = true ∧
    upkeepS.cores[(0 : CoreIx)].sp.clearAt[(5 : Fin 6)] ≤ upkeepS.time.cycle := by decide +kernel

/-! ### Command entries in a context -/

/-- Entry 7 posted with word 0 = 0x0B, queued at context 0 or current there. -/
def postT (op : Nat) : Posted :=
  { q := 7, words := (Vector.replicate 8 0).set 0 (BitVec.ofNat 64 op), delivered := true, expected := 1, reports := [],
    status := none, finished := false, postedAt := 0, order := 0, nth := 0, rhaor := false }

def cmdS (w : W32) (cur : Option W32) (queued : List W32) (e : Posted) : State :=
  let s := ctlX w (fun y => { y with
    cur := cur
    queued := queued }) id
  { s with tasks := s.tasks.set 0 { taskT with cmd := { taskT.cmd with posted := [e] } } }

theorem holds_CommandInstructions :
    (issueOk (cmdS (encI 0x2C 3 0 0) none [7] (postT 11)) 0 0 (encI 0x2C 3 0 0) 0x001FFFFF [] = true ∧
      (ctx (cmdS (encI 0x2C 3 0 0) none [7] (postT 11)) 0 0).cur = none ∧
      (ctx (cmdS (encI 0x2C 3 0 0) none [7] (postT 11)) 0 0).queued = [7]) ∧
    (ctx (cmdS (encI 0x2C 3 0 0) none [] (postT 11)) 0 0).queued = [] ∧
    issueOk (cmdS (encI 0x2D 3 0 7) (some 7) [] (postT 11)) 0 0 (encI 0x2D 3 0 7) 0x001F0000 [] = true ∧
    (issueOk (cmdS (encI 0x2E 0 0 0x80) (some 7) [] (postT 11)) 0 0 (encI 0x2E 0 0 0x80) 0x03FF0000 [] = true ∧
      (ctx (cmdS (encI 0x2E 0 0 0x80) (some 7) [] (postT 11)) 0 0).cur = some 7 ∧
      runs (cmdS (encI 0x2E 0 0 0x80) (some 7) [] (postT 11)) 0 0 = true) := by decide +kernel

theorem holds_CommandInstructions_unreported :
    (issueOk (cmdS (encI 0x2C 3 0 0) (some 7) [8] (postT 11)) 0 0 (encI 0x2C 3 0 0) 0x001FFFFF [] = true ∧
      (ctx (cmdS (encI 0x2C 3 0 0) (some 7) [8] (postT 11)) 0 0).cur = some 7 ∧
      runs (cmdS (encI 0x2C 3 0 0) (some 7) [8] (postT 11)) 0 0 = true) ∧
    (issueOk (cmdS (encI 0x2E 0 0 0x10) none [] (postT 11)) 0 0 (encI 0x2E 0 0 0x10) 0x03FF0000 [] = true ∧
      (ctx (cmdS (encI 0x2E 0 0 0x10) none [] (postT 11)) 0 0).cur = none) := by decide +kernel

theorem test_cmdwait_reports_unreported :
    gives (exec (.cmdwait 0 0 3) (cmdS (encI 0x2C 3 0 0) (some 7) [] (postT 11)))
      (fun t => t.tasks[(0 : SlotIx)].cmd.posted.map (fun e => e.reports.map (fun r => r.status)) == [[0x82]] &&
        (ctx t 0 0).st == .waiting) = true := by decide +kernel

theorem test_cmdwait_reads_word_0 :
    gives (exec (.cmdwait 0 0 3) (cmdS (encI 0x2C 3 0 0) none [7] (postT 11)))
      (fun t => (ctx t 0 0).s[3] == 11 && (ctx t 0 0).cur == some 7 && (ctx t 0 0).queued.isEmpty) = true := by decide +kernel

theorem test_cmddone_status :
    gives (exec (.cmddone 0 0 0x80) (cmdS (encI 0x2E 0 0 0x80) (some 7) [] (postT 11)))
      (fun t => t.tasks[(0 : SlotIx)].cmd.posted.map (fun e => e.reports.map (fun r => r.status)) == [[0x7F]]) = true := by decide +kernel

/-! ### Slots of a bundle -/

def mfT : MFields :=
  { acc := false, keep := false, ends := true, chain := false, dest := 2, lg := 4, xa := 0, xb := 0, la := 0, dn := 0, xu := 0,
    au := false, du := false }

/-- What makes a slot of the bundle at core 0's block, as `blkS` holds it, the one of block cycle 0. -/
theorem mSlot_of (s : State) (w : BitVec 44) (b : Block) (n : Nat)
    (h : bundleNow s 0 = some (b, n, s.cores[(0 : CoreIx)].bundle b.bundle) ∧ slotM (s.cores[(0 : CoreIx)].bundle b.bundle) = w ∧
      b.mUsed ≠ some n) : mSlot s 0 w b n := ⟨_, h⟩

theorem tSlot_of (s : State) (w : BitVec 40) (b : Block) (n : Nat)
    (h : bundleNow s 0 = some (b, n, s.cores[(0 : CoreIx)].bundle b.bundle) ∧ slotT (s.cores[(0 : CoreIx)].bundle b.bundle) = w ∧
      b.tUsed ≠ some n) : tSlot s 0 w b n := ⟨_, h⟩

theorem vSlot_of (s : State) (w : BitVec 40) (srcs : List (Fin 32)) (b : Block) (n : Nat)
    (h : bundleNow s 0 = some (b, n, s.cores[(0 : CoreIx)].bundle b.bundle) ∧ slotV (s.cores[(0 : CoreIx)].bundle b.bundle) = w ∧
      b.vUsed ≠ some n ∧ (drnSettled b n = true ∨ (31 : Fin 32) ∉ srcs)) : vSlot s 0 w srcs b n := ⟨_, h⟩

theorem holds_MatrixSlot_empty :
    mSlot (blkS id 0 0 0) 0 0 blkT 0 ∧ tSlot (blkS id 0 0 0) 0 0 blkT 0 ∧ vSlot (blkS id 0 0 0) 0 0 [] blkT 0 :=
  ⟨mSlot_of _ _ _ _ (by decide +kernel), tSlot_of _ _ _ _ (by decide +kernel), vSlot_of _ _ _ _ _ (by decide +kernel)⟩

theorem mmaT : ∀ e ∈ mmaRows,
    bundleNow (blkS id (encM e.2.1 mfT) 0 0) 0 =
      some (blkT, 0, (blkS id (encM e.2.1 mfT) 0 0).cores[(0 : CoreIx)].bundle blkT.bundle) ∧
    slotM ((blkS id (encM e.2.1 mfT) 0 0).cores[(0 : CoreIx)].bundle blkT.bundle) = encM e.2.1 mfT ∧ blkT.mUsed ≠ some 0 := by
  decide +kernel

theorem holds_MatrixSlot : ∀ e ∈ mmaRows, mSlot (blkS id (encM e.2.1 mfT) 0 0) 0 (encM e.2.1 mfT) blkT 0 :=
  fun e h => mSlot_of _ _ _ _ (mmaT e h)

/-- An MMA.F of four k-groups issued in block cycle 0. -/
def mT : Mma := mkMma blkT 0 .f mfT
def withMma (b : Block) : Block := { b with mmas := [mT] }

/-- A drain of eight rows to DRN. -/
def drT : Drain :=
  { shape := .s, acc := false, dest := 2, dn := 0, bases := Vector.replicate 4 0, entry := 0, lg := 0, row := 0, rows := 8,
    poison := false, cleared := false, vals := [(0, 7)] }
def withDrain (b : Block) : Block := { b with drains := [drT] }

theorem holds_MatrixEvents :
    (blockNow (blkAt 6 (blkS withMma 0 0 0)) 0 = some (withMma blkT, 6) ∧ consumer (withMma blkT) 6 = some mT ∧
      (mT.stations.all fun st => stationSettled (blkAt 6 (blkS withMma 0 0 0)) st.1 0) = true) ∧
    (blockNow (blkAt 14 (blkS withMma 0 0 0)) 0 = some (withMma blkT, 14) ∧ boundaryDue (withMma blkT) 14 = some mT ∧ mT.f.lg ≠ 0) ∧
    (blockNow (blkAt (drT.rowCycle 0) (blkS withDrain 0 0 0)) 0 = some (withDrain blkT, drT.rowCycle 0) ∧
      drainDue (withDrain blkT) (drT.rowCycle 0) = some drT) ∧
    (blkS withMma 0 0 0).cores[(0 : CoreIx)].blk = some (withMma blkT) ∧
    ((withMma blkT).mmas.filter fun q => !q.f.keep && q.entry == 5 + 1) = [mT] ∧
    mT.shape = .f ∧ cellOff .s 63 63 = none := by decide +kernel

/-- A KEEP with nothing open before it fails a check of R80. -/
theorem holds_MatrixSlot_failed :
    mmaReasons (blkS id 0 0 0).cores[(0 : CoreIx)] blkT (mkMma blkT 0 .f { mfT with keep := true }) blkT.mmas.getLast? ≠ [] ∧
    mmaReasons (blkS id 0 0 0).cores[(0 : CoreIx)] blkT (mkMma blkT 0 .f { mfT with lg := 64 }) blkT.mmas.getLast? = [] ∧
    isReserved (mkMma blkT 0 .f { mfT with lg := 64 }).fmt = false := by decide +kernel

theorem test_drain_to_drn :
    gives (exec (.drainRow 0) (blkAt (drT.rowCycle 0) (blkS withDrain 0 0 0)))
      (fun t => (t.cores[(0 : CoreIx)].blk.bind (·.drn)).map (fun r => r.2.bits.toNat % 2 ^ 64) == some 7) = true := by decide +kernel

def gT : GinjFields := { tr := 7, trans := false, fp32 := false, ba := 15, au := false, nf := 0, xu := 0 }
def cT : GcapFields := { station := .inner, ba := 3, au := true, cs := false, chk := false, tr := 2 }

theorem holds_TransferSlot :
    tSlot (blkS id 0 (encGinj gT) 0) 0 (encGinj gT) blkT 0 ∧
    (tSlot (blkS id 0 (encT 4 (targetN .up * 2 ^ 33 + (15 : Byte).toNat * 2 ^ 25 + (1 : W16).toNat * 2 ^ 9)) 0) 0
        (encT 4 (targetN .up * 2 ^ 33 + (15 : Byte).toNat * 2 ^ 25 + (1 : W16).toNat * 2 ^ 9)) blkT 0) ∧
    tSlot (blkS id 0 (encTr 5 7 .control 0xFFF) 0) 0 (encTr 5 7 .control 0xFFF) blkT 0 ∧
    tSlot (blkS id 0 (encTr 6 0 .tile 0xFFF) 0) 0 (encTr 6 0 .tile 0xFFF) blkT 0 ∧
    tSlot (blkS id 0 (encT 7 ((15 : Fin 16).val * 2 ^ 31 + (0xFFFF : W16).toNat * 2 ^ 15)) 0) 0
      (encT 7 ((15 : Fin 16).val * 2 ^ 31 + (0xFFFF : W16).toNat * 2 ^ 15)) blkT 0 ∧
    tSlot (blkS id 0 (encT 8 ((1 : BitVec 12).toNat * 2 ^ 23 + (0 : W16).toNat * 2 ^ 7)) 0) 0
      (encT 8 ((1 : BitVec 12).toNat * 2 ^ 23 + (0 : W16).toNat * 2 ^ 7)) blkT 0 :=
  ⟨tSlot_of _ _ _ _ (by decide +kernel), tSlot_of _ _ _ _ (by decide +kernel), tSlot_of _ _ _ _ (by decide +kernel),
   tSlot_of _ _ _ _ (by decide +kernel), tSlot_of _ _ _ _ (by decide +kernel), tSlot_of _ _ _ _ (by decide +kernel)⟩

/-- TSIG of each target from core 0: its neighbour above lies outside the task, so OWN and DOWN; UP from core 1 is SIG.UP's. -/
theorem holds_TransferSlot_targets :
    counterNamed (blkS id 0 (encT 4 (targetN .down * 2 ^ 33 + 2 ^ 9)) 0) 0 0 = true ∧
    counterNamed (blkS id 0 0 0) 0 16 = false ∧ inTask (blkS id 0 0 0) 0 (upCore 0) = false ∧
    inTask (blkS id 0 (encT 4 (targetN .down * 2 ^ 33 + 2 ^ 9)) 0) 0 (downCore 0) = true ∧
    buckleBelow (blkS id 0 (encT 4 (targetN .down * 2 ^ 33 + 2 ^ 9)) 0) 0 = false ∧
    inTask (ctlOn 1 0) 1 (upCore 1) = true ∧ buckleBelow (ctlOn 1 0) (upCore 1) = false := by decide +kernel

theorem test_baadd :
    gives (exec (.baadd 0 15 0xFFFF) (blkS id 0 (encT 7 ((15 : Fin 16).val * 2 ^ 31 + (0xFFFF : W16).toNat * 2 ^ 15)) 0))
      (fun t => t.cores[(0 : CoreIx)].blk.map (·.updT) == some [.baAdd 15 4194240]) = true := by decide +kernel

/-- A feeder job of two flits issued in block cycle 0 with source 64. -/
def fdT : Feed :=
  { issued := 0, trans := false, fp32 := false, tagReg := 0, base := 64, scaleBase := 0, nf := 2, placed := 0,
    buf := [(64, 9)], bufPoison := [] }
def withFeed (b : Block) : Block := { b with feeds := [fdT] }

def flitT : Flit := { payload := 5, scales := 0, tag := 0, parity := flitParity 5 0 0 }
def onT (at_ : Nat) : OnGirth := { lane := .inner, core := 0, at_ := at_, absorbed := false, flit := flitT }
def flitS (s : State) (at_ : Nat) : State := { s with flits := [onT at_] }

def wrT : BlockWrite := { due := 3, agent := 7, issued := 0, part := 0, addr := 256, line := 5, len := 256, poison := 0 }
def withWrite (b : Block) : Block := { b with writes := [wrT] }

theorem holds_GirthEvents_feed :
    (blockNow (blkAt (fdT.placeAt 0) (blkS withFeed 0 0 0)) 0 = some (withFeed blkT, fdT.placeAt 0) ∧
      ((withFeed blkT).feeds.find? fun f => f.lane == .outer && decide (f.placed < f.nf) && f.placeAt f.placed == fdT.placeAt 0) = some fdT ∧
      arrived (blkAt (fdT.placeAt 0) (blkS withFeed 0 0 0)) .outer 0 = true ∧
      sinkPending (blkAt (fdT.placeAt 0) (blkS withFeed 0 0 0)) 0 .outer = false ∧
      ((blkAt (fdT.placeAt 0) (blkS withFeed 0 0 0)).flits.find? fun g =>
        g.lane == .outer && g.core == 0 && g.at_ == ecyc (blkAt (fdT.placeAt 0) (blkS withFeed 0 0 0)) 0 && !g.absorbed) = none ∧
      fdT.hasRead (fdT.placeAt 0) 1 = true ∧
      twf false (blkAt (fdT.placeAt 0) (blkS withFeed 0 0 0)).cores[(0 : CoreIx)].sp.poison = true) ∧
    ((flitS (blkAt 3 (blkS id 0 0 0)) 0).flits.find? fun g => g.lane == .inner && g.core == 0 && hopDue (flitS (blkAt 3 (blkS id 0 0 0)) 0) g)
      = some (onT 0) ∧ flitParity flitT.payload flitT.scales flitT.tag = flitT.parity := by decide +kernel

/-- R172: an uncorrectable error of a feeder's read poisons the granule and its flit, and is recorded. -/
theorem test_inject_uncorrectable :
    gives (exec (.flitInject 0 .outer [(64, .uncorrectable)]) (blkAt (fdT.placeAt 0) (blkS withFeed 0 0 0)))
      (fun t => t.flits.map (fun g => g.flit.poisoned) == [true] && t.cores[(0 : CoreIx)].sp.poison == [(1, true)] &&
        t.recorder.arriving.map (fun e => e.code) == [BitVec.ofNat 16 (0x1400 + fdT.agent % 256)]) = true := by decide +kernel

/-- The feeder's station holds a flit that its injector has not taken back. -/
theorem holds_GirthEvents_occupied :
    ((flitS (blkAt (fdT.placeAt 0) (blkS withFeed 0 0 0)) (fdT.placeAt 0)).flits.find? fun g =>
      g.lane == .inner && g.core == 0 && g.at_ == ecyc (blkAt (fdT.placeAt 0) (blkS withFeed 0 0 0)) 0 && !g.absorbed) =
        some (onT (fdT.placeAt 0)) ∧
    (blockNow (blkAt 3 (blkS (fun b => withWrite { b with writes := [] }) 0 0 0)) 0).isSome = true ∧
    spHeld (blkAt 3 (blkS id 0 0 0)) 0 3145728 256 = false := by decide +kernel

theorem holds_GirthEvents_capture :
    tSlot (flitS (blkS id 0 (encGcap cT false) 0) 0) 0 (encGcap cT false) blkT 0 ∧
    tSlot (flitS (blkS id 0 (encGcap cT true) 0) 0) 0 (encGcap cT true) blkT 0 ∧
    tSlot (flitS (blkS id 0 (encT 3 (laneN .inner * 2 ^ 34)) 0) 0) 0 (encT 3 (laneN .inner * 2 ^ 34)) blkT 0 ∧
    stationSettled (flitS (blkS id 0 (encGcap cT false) 0) 0) cT.station 0 = true ∧
    arrived (flitS (blkS id 0 (encGcap cT true) 0) 0) cT.station 0 = true ∧
    arrived (flitS (blkS id 0 (encT 3 (laneN .inner * 2 ^ 34)) 0) 0) .inner 0 = true ∧
    stationFlit (flitS (blkS id 0 (encGcap cT false) 0) 0) cT.station 0 = some (onT 0) ∧
    (blockNow (blkAt 3 (blkS withWrite 0 0 0)) 0 = some (withWrite blkT, 3) ∧
      ((withWrite blkT).writes.filter fun w => w.agent == 7 && w.due == 3) = [wrT] ∧
      spHeld (blkAt 3 (blkS withWrite 0 0 0)) 0 wrT.addr wrT.len = true) :=
  ⟨tSlot_of _ _ _ _ (by decide +kernel), tSlot_of _ _ _ _ (by decide +kernel), tSlot_of _ _ _ _ (by decide +kernel),
   by decide +kernel, by decide +kernel, by decide +kernel, by decide +kernel, by decide +kernel⟩

theorem test_gcap_copies :
    gives (exec (.gcap 0 cT) (flitS (blkS id 0 (encGcap cT false) 0) 0))
      (fun t => t.flits.length == 1 && (t.cores[(0 : CoreIx)].blk.map fun b => b.writes.map fun w => (w.due, w.line == 5)) == some [(3, true)]) = true := by
  decide +kernel

theorem test_parity_error_poisons :
    gives (exec (.flitHop .inner 0 1) (flitS (blkAt 3 (blkS id 0 0 0)) 0))
      (fun t => t.flits.all (fun g => g.flit.tag.getLsbD 3) && t.recorder.arriving.map (fun e => e.code) == [0x2101]) = true := by
  decide +kernel

/-- Both modes of each row of the V slot's tables. -/
theorem vT2 : ∀ e ∈ vRows2, ∀ bf : Bool,
    bundleNow (blkS id 0 0 (encV e.2.1 31 0 31 0 bf 0)) 0 =
      some (blkT, 0, (blkS id 0 0 (encV e.2.1 31 0 31 0 bf 0)).cores[(0 : CoreIx)].bundle blkT.bundle) ∧
    slotV ((blkS id 0 0 (encV e.2.1 31 0 31 0 bf 0)).cores[(0 : CoreIx)].bundle blkT.bundle) = encV e.2.1 31 0 31 0 bf 0 ∧
    blkT.vUsed ≠ some 0 ∧ (drnSettled blkT 0 = true ∨ (31 : Fin 32) ∉ ([0, 31] : List (Fin 32))) := by decide +kernel

theorem vT1 : ∀ e ∈ vRows1, ∀ bf : Bool,
    bundleNow (blkS id 0 0 (encV e.2.1 0 30 0 0 bf 0)) 0 =
      some (blkT, 0, (blkS id 0 0 (encV e.2.1 0 30 0 0 bf 0)).cores[(0 : CoreIx)].bundle blkT.bundle) ∧
    slotV ((blkS id 0 0 (encV e.2.1 0 30 0 0 bf 0)).cores[(0 : CoreIx)].bundle blkT.bundle) = encV e.2.1 0 30 0 0 bf 0 ∧
    blkT.vUsed ≠ some 0 ∧ (drnSettled blkT 0 = true ∨ (31 : Fin 32) ∉ ([30] : List (Fin 32))) := by decide +kernel

theorem holds_VectorLanes :
    (∀ e ∈ vRows2, ∀ bf : Bool, vSlot (blkS id 0 0 (encV e.2.1 31 0 31 0 bf 0)) 0 (encV e.2.1 31 0 31 0 bf 0) [0, 31] blkT 0) ∧
    (∀ e ∈ vRows1, ∀ bf : Bool, vSlot (blkS id 0 0 (encV e.2.1 0 30 0 0 bf 0)) 0 (encV e.2.1 0 30 0 0 bf 0) [30] blkT 0) ∧
    vSlot (blkS id 0 0 (encV 0x04 1 2 3 4 true 0)) 0 (encV 0x04 1 2 3 4 true 0) [2, 3, 4] blkT 0 ∧
    vSlot (blkS id 0 0 (encV 0x0A 1 2 3 0 false 2)) 0 (encV 0x0A 1 2 3 0 false 2) [2, 3] blkT 0 ∧
    vSlot (blkS id 0 0 (encV 0x0B 1 2 3 4 false 0)) 0 (encV 0x0B 1 2 3 4 false 0) [2, 3, 4] blkT 0 :=
  ⟨fun e h bf => vSlot_of _ _ _ _ _ (vT2 e h bf), fun e h bf => vSlot_of _ _ _ _ _ (vT1 e h bf),
   vSlot_of _ _ _ _ _ (by decide +kernel), vSlot_of _ _ _ _ _ (by decide +kernel), vSlot_of _ _ _ _ _ (by decide +kernel)⟩

theorem sfuT : ∀ e ∈ sfuRows,
    bundleNow (blkS id 0 0 (encV e.2 1 2 0 0 false 0)) 0 =
      some (blkT, 0, (blkS id 0 0 (encV e.2 1 2 0 0 false 0)).cores[(0 : CoreIx)].bundle blkT.bundle) ∧
    slotV ((blkS id 0 0 (encV e.2 1 2 0 0 false 0)).cores[(0 : CoreIx)].bundle blkT.bundle) = encV e.2 1 2 0 0 false 0 ∧
    blkT.vUsed ≠ some 0 ∧ (drnSettled blkT 0 = true ∨ (31 : Fin 32) ∉ ([2] : List (Fin 32))) := by decide +kernel

theorem bitT : ∀ e ∈ bitRows,
    bundleNow (blkS id 0 0 (encV e.2.1 1 2 3 0 false 0)) 0 =
      some (blkT, 0, (blkS id 0 0 (encV e.2.1 1 2 3 0 false 0)).cores[(0 : CoreIx)].bundle blkT.bundle) ∧
    slotV ((blkS id 0 0 (encV e.2.1 1 2 3 0 false 0)).cores[(0 : CoreIx)].bundle blkT.bundle) = encV e.2.1 1 2 3 0 false 0 ∧
    blkT.vUsed ≠ some 0 ∧ (drnSettled blkT 0 = true ∨ (31 : Fin 32) ∉ ([2, 3] : List (Fin 32))) := by decide +kernel

theorem holds_VectorMovesAndConversions :
    (∀ e ∈ bitRows, vSlot (blkS id 0 0 (encV e.2.1 1 2 3 0 false 0)) 0 (encV e.2.1 1 2 3 0 false 0) [2, 3] blkT 0) ∧
    (∀ e ∈ sfuRows, vSlot (blkS id 0 0 (encV e.2 1 2 0 0 false 0)) 0 (encV e.2 1 2 0 0 false 0) [2] blkT 0 ∧
      (blkS id 0 0 (encV e.2 1 2 0 0 false 0)).cores[(0 : CoreIx)].slot = some 0) ∧
    vSlot (blkS id 0 0 (encV 0x09 1 2 0 0 true 0)) 0 (encV 0x09 1 2 0 0 true 0) [2] blkT 0 ∧
    vSlot (blkS id 0 0 (encV 0x1B 1 0 0 0 false 7)) 0 (encV 0x1B 1 0 0 0 false (7 : Fin 8).val) [] blkT 0 ∧
    vSlot (blkS id 0 0 (encV 0x18 1 2 0 0 false (9 + 16 + 32))) 0 (encV 0x18 1 2 0 0 false ((9 : BitVec 4).toNat + 16 * b2n true + 32 * b2n true)) [2] blkT 0 ∧
    vSlot (blkS id 0 0 (encV 0x19 1 2 0 0 false 9)) 0 (encV 0x19 1 2 0 0 false (9 : BitVec 4).toNat) [2] blkT 0 ∧
    vSlot (blkS id 0 0 (encV 0x1A 1 2 0 0 false 0)) 0 (encV 0x1A 1 2 0 0 false 0) [2] blkT 0 :=
  ⟨fun e h => vSlot_of _ _ _ _ _ (bitT e h), fun e h => ⟨vSlot_of _ _ _ _ _ (sfuT e h), rfl⟩,
   vSlot_of _ _ _ _ _ (by decide +kernel), vSlot_of _ _ _ _ _ (by decide +kernel), vSlot_of _ _ _ _ _ (by decide +kernel),
   vSlot_of _ _ _ _ _ (by decide +kernel), vSlot_of _ _ _ _ _ (by decide +kernel)⟩

def vrT : VRes := { vd := 30, due := 3, issued := 0, val := { bits := 5, poison := 1 }, flags := 2 }
def withRes (b : Block) : Block := { b with vres := [vrT] }

theorem holds_VectorMemory :
    vSlot (blkS id 0 0 (encVmem 0x1C 1 15 true 0x2000)) 0 (encVmem 0x1C (1 : Fin 32).val 15 true 0x2000) [] blkT 0 ∧
    vSlot (blkS id 0 0 (encVmem 0x1D 31 0 false 1)) 0 (encVmem 0x1D (31 : Fin 32).val 0 false 1) [31] blkT 0 ∧
    (blockNow (blkAt 3 (blkS withRes 0 0 0)) 0 = some (withRes blkT, 3) ∧
      ((withRes blkT).vres.filter fun r => decide (r.due ≤ 3)) = [vrT] ∧ vSlotDone (blkAt 3 (blkS withRes 0 0 0)) 0 = true) :=
  ⟨vSlot_of _ _ _ _ _ (by decide +kernel), vSlot_of _ _ _ _ _ (by decide +kernel), by decide +kernel⟩

/-- V1 and V2 of the block with the same 32-bit value in lane 0. -/
def vecT (a b : Line) (x : Block) : Block := { x with v := (x.v.set 1 { bits := a, poison := 0 }).set 2 { bits := b, poison := 0 } }

/-- The result the V slot has on its way. -/
def resultOf (t : State) : Option Line := t.cores[(0 : CoreIx)].blk.bind fun b => b.vres.head?.map fun r => r.val.bits

theorem test_vadd_lane :
    gives (exec (.vadd 0 3 1 2 false) (blkS (vecT 0x3FC00000 0x40200000) 0 0 (encV 0x01 3 1 2 0 false 0)))
      (fun t => resultOf t == some 0x40800000) = true := by decide +kernel

theorem test_vsel_zero_takes_b :
    gives (exec (.vsel 0 3 1 2 0 false) (blkS (vecT 7 9) 0 0 (encV 0x0B 3 1 2 0 false 0))) (fun t => resultOf t == some 9) = true := by
  decide +kernel

theorem test_vst_writes_next_cycle :
    gives (exec (.vst 0 1 0 false 0) (blkS (vecT 7 9) 0 0 (encVmem 0x1D 1 0 false 0)))
      (fun t => (t.cores[(0 : CoreIx)].blk.map fun b => b.writes.map fun w => (w.due, w.addr, w.line == 7)) == some [(1, 64, true)]) = true := by
  decide +kernel

/-! ### Stacked memory -/

/-- The machine with every generator LOCKED, firmware READY, at core cycle `n`, and port 0 as given. -/
def readyS (n : Nat) : State :=
  { State.reset with
    regions := Vector.replicate 29 { Region.reset with locked := true }
    sec := { Security.reset with fw := .ready }
    time := { Time.reset with cycle := n } }

def portS (n : Nat) (f : Port → Port) : State := { readyS n with ports := (readyS n).ports.set 0 (f Port.reset) }

/-- A request of stream slot 3 of core 0 to the bytes at 0. -/
def reqT (write : Bool) : MemReq :=
  { readReq with
    write := write
    data := if write then List.replicate 64 7 else []
    poison := [false] }

def queuedT (write : Bool) : Queued := { req := reqT write, passed := 0, came := 0 }

/-- A combining entry of one read, served or not. -/
def combT (served : Bool) : Combine :=
  { id := 5, gran := 0, members := [reqT false], alone := true, open_ := true, opened := 0, hot := false, deadline := 0,
    served := served, returned := false, data := List.replicate 256 7, poison := List.replicate 4 false }

/-- The fabric brings one request to port 0. -/
def fabS (w : Bool) : State := { readyS 0 with fabric := [reqT w] }

/-- The same where the host may hold the request's line. -/
def heldLineS : State := { fabS true with cxl := { (fabS true).cxl with
                                                     filter := [0]
                                                     biEn := true } }

theorem holds_StackPortService_request :
    (portNext (fabS true) 0 = some (reqT true) ∧ portRuns (fabS true) 0 = true ∧ snoopsFor (fabS true) (reqT true) = []) ∧
    (portNext (fabS false) 0 = some (reqT false) ∧ (portOf (fabS false) 0).openEntry (reqT false).granule = none) ∧
    (portNext heldLineS 0 = some (reqT true) ∧ portRuns heldLineS 0 = true ∧ snoopsFor heldLineS (reqT true) = [0]) := by decide +kernel

/-- A port on which a read of the granule is under way. -/
def joinS : State := { portS 0 (fun x => { x with entries := [combT false] }) with fabric := [reqT false] }

theorem holds_StackPortService_join :
    portNext joinS 0 = some (reqT false) ∧ portRuns joinS 0 = true ∧ snoopsFor joinS (reqT false) = [] ∧ (reqT false).write = false ∧
    (portOf (closeOld 0 joinS) 0).openEntry (reqT false).granule = some (combT false) ∧ (combT false).returned = false := by
  decide +kernel

theorem holds_StackPortService_serve :
    (pickRequest (portS 0 fun x => { x with queue := [queuedT true] }) 0 ([queuedT true].filter fun q => channelOf (directOf q.req.addr) == (0 : Fin 64).val)
        = some (queuedT true, false) ∧ Memory.wf (portS 0 fun x => { x with queue := [queuedT true] }).dram = true) ∧
    (pickRequest (portS 0 fun x => { x with queue := [queuedT false], entries := [combT false] }) 0
        ([queuedT false].filter fun q => channelOf (directOf q.req.addr) == (0 : Fin 64).val) = some (queuedT false, false) ∧
      (combT false).id = (queuedT false).req.id) ∧
    (([combT true].find? fun e => e.served && !e.returned) = some (combT true) ∧ (combT true).members = [reqT false] ∧
      (reqT false).agent = .stream 0 3) ∧ (combT false).over 64 = true := by decide +kernel

theorem test_reads_combine :
    gives (exec (.stackPortRequest 0) joinS) (fun t => t.ports[(0 : SecIx)].entries.map (fun e => e.members.length) == [2] &&
      t.ports[(0 : SecIx)].combined == 1 && t.ports[(0 : SecIx)].queue.isEmpty) = true := by decide +kernel

theorem test_serve_writes :
    gives (exec (.stackRequestServe 0 0 []) (portS 0 fun x => { x with queue := [queuedT true] }))
      (fun t => t.dram.length == 64 && readByte t.dram 63 == 7 && t.ports[(0 : SecIx)].queue.isEmpty) = true := by decide +kernel

/-- A whole record of the parameter space for step 1, and an assembly from FT 0. -/
def recT : MemReq :=
  { readReq with
    write := true
    addr := 0x20000000000
    len := 192
    data := List.replicate 164 7 ++ natLe 4 1 ++ List.replicate 24 7
    poison := [false, false, false] }

def asmT : RecordAsm := { addr := 0, kind := .param, pieces := [], poison := false, waiting := [], at_ := 0, who := readReq.agent }

/-- The record waits at its port. -/
def recS (p : List Bool) : State := portS 0 fun x => { x with queue := [{ req := { recT with poison := p }, passed := 0, came := 0 }] }

def recP : List Bool := [false, false, false]

theorem holds_RecordAdmission :
    (partNext (recS recP) 0 = some ({ req := { recT with poison := recP }, passed := 0, came := 0 }, false) ∧
      recordAlias recT.addr = some .param ∧ directOf recT.addr % 192 = 0 ∧ recT.data.length = 192 ∧ recP.any id = false ∧
      (portOf (recS recP) 0).records = [] ∧ Memory.wf (recS recP).dram = true ∧
      tget false (recS recP).dramPoison ((directOf recT.addr + 160) / 32) = false ∧
      BitVec.ofNat 32 (leNat ((recT.data.drop 164).take 4)) =
        (BitVec.ofNat 32 (leNat (readBytes (recS recP).dram (directOf recT.addr + 164) 4)) : W32) + 1) ∧
    (partNext (recS [false, true]) 0).isSome = true ∧
    (([asmT].find? fun x => x.late 257) = some asmT ∧ asmT.waiting = [] ∧ pcNow (portS 260 id) 0 = 346) := by decide +kernel

theorem test_record_written :
    gives (exec (.recordPartArrival 0 []) (recS recP))
      (fun t => readByte t.dram 164 == 1 && readByte t.dram 191 == 7 && t.dram.length == 189) = true := by decide +kernel

theorem test_poisoned_record_discarded :
    gives (exec (.recordPartArrival 0 []) (recS [false, true]))
      (fun t => t.dram.isEmpty && t.ports[(0 : SecIx)].poisonDiscard == 1) = true := by decide +kernel

theorem holds_StackUpkeep :
    portRuns (readyS 0) 0 = true ∧ twf 0 (readyS 0).ports[(0 : SecIx)].postponed = true ∧
    twf 0 (readyS 0).ports[(0 : SecIx)].refreshAt = true ∧ nsNow (readyS 0) < 3900 ∧ 3900 ≤ nsNow (readyS 6240) ∧
    bitsOf (cfgOf (readyS 0) (portUnit 0)).scrub 0 8 ≠ 0 ∧ (readyS 0).power.shutdown = false ∧ (99 : Byte).toNat < 100 ∧
    100 ≤ (100 : Byte).toNat := by decide +kernel

theorem test_refresh_due :
    gives (exec (.refresh 0 3 true) (readyS 6240)) (fun t => t.ports[(0 : SecIx)].refreshes == 1 &&
      tget 0 t.ports[(0 : SecIx)].refreshAt 3 == 3900) = true := by decide +kernel

/-! ### Global counters -/

def gsT : GSig := { g := 3, op := .add 5, due := 0, core := 0, ctx := 0, pc := 0, src := none }

def gS (x : GCounter) : State :=
  { coreS id with
    gctr := [(3, x)]
    gsigs := [gsT]
    time := { Time.reset with cycle := 1 } }

def gFull : GCounter := { GCounter.reset with value := 0xFFFFFA }

/-- A release of the RCTR 4 of the barrier that context 0 of core 0 armed. -/
def relT (k : ReleaseKind) : Release :=
  { kind := k, rctr := 4, armer := (0, 0, 0), ft := match k with
      | .timed _ => some 0
      | .immediate _ => none
    past := false }

def gRel (k : ReleaseKind) : GCounter :=
  { GCounter.reset with
    holder := some 0
    releases := [relT k]
    ftSet := true
    rctr := 4 }

/-- An armed barrier at its expected count, and one that an ARM reaches. -/
def gFull2 : GCounter := { GCounter.reset with value := 0xFFFFFB }
def gDone : GCounter :=
  { GCounter.reset with
    armed := true
    value := 5
    expect := 5 }

def stillG : State := { gS gDone with gsigs := [] }
def armG : State := { gS GCounter.reset with
                      gctr := []
                      gsigs := [{ gsT with op := .arm 2 4 false true }] }

theorem holds_GlobalCounterEvents_barrier :
    (twf GCounter.reset stillG.gctr = true ∧ arriving stillG 3 = [] ∧ (globalOf stillG 3).armed = true ∧
      (globalOf stillG 3).expect.toNat ≤ (globalOf stillG 3).value.toNat ∧ (globalOf stillG 3).doneAt ≠ hubCycle stillG + 1 ∧ hubTurn stillG 3) ∧
    (twf GCounter.reset armG.gctr = true ∧ hubTurn armG 3 ∧ arriving armG 3 = [{ gsT with op := .arm 2 4 false true }] ∧
      (globalOf armG 3).value.toNat < (2 : BitVec 24).toNat) ∧
    (2 ^ 24 = (globalOf (gS gFull2) 3).value.toNat + ((arriving (gS gFull2) 3).map GSig.amount).sum ∧
      hubTurn (gS gFull2) 3 ∧ arriving (gS gFull2) 3 = [gsT] ∧ gsT.op = .add 5) := by
  simp only [hubTurn]
  decide +kernel

theorem test_barrier_completes :
    gives (exec (.globalSignalApply 3) stillG) (fun t => (globalOf t 3).value == 0 && !(globalOf t 3).armed &&
      (globalOf t 3).releases == [{ relT (.immediate 20) with rctr := 0 }]) = true := by decide +kernel

/-- The same barrier at a beat. -/
def beatG : State := { gS (gRel (.timed 0)) with time := Time.reset }

theorem gT_arriving : arriving (gS gFull) 3 = [gsT] := by decide +kernel

theorem holds_GlobalCounterEvents :
    (twf GCounter.reset (gS gFull).gctr = true ∧ (globalOf (gS gFull) 3).armed = false ∧
      (∀ i ∈ arriving (gS gFull) 3, i.src = none ∧ ∃ n, i.op = .add n) ∧
      (globalOf (gS gFull) 3).value.toNat + ((arriving (gS gFull) 3).map GSig.amount).sum + 1 = 2 ^ 24) ∧
    (twf GCounter.reset (gS (gRel (.immediate 0))).gctr = true ∧ (globalOf (gS (gRel (.immediate 0))) 3).holder = some 0 ∧
      (gS (gRel (.immediate 0))).tasks[(0 : SlotIx)].st = .running ∧
      immediateDue (gS (gRel (.immediate 0))) (globalOf (gS (gRel (.immediate 0))) 3) = some (relT (.immediate 0))) ∧
    timedDue beatG (globalOf beatG 3) = some (relT (.timed 0), false) ∧
    (hubTurn (gS gFull) 3 ∧ arriving (gS gFull) 3 ≠ []) := by
  refine ⟨⟨by decide +kernel, by decide +kernel, ?_, by decide +kernel⟩, by decide +kernel, by decide +kernel,
    ⟨by decide +kernel, by decide +kernel⟩, by decide +kernel⟩
  rw [gT_arriving]
  intro i hi
  rw [List.mem_singleton.mp hi]
  exact ⟨rfl, 5, rfl⟩

theorem test_global_add :
    gives (exec (.globalSignalApply 3) (gS gFull)) (fun t => (globalOf t 3).value == 0xFFFFFF && t.gsigs.isEmpty) = true := by decide +kernel

/-! ### Submissions and tasks -/

/-- A header of a task of twelve sectors with one context and one counter, at byte 0 of stacked memory. -/
def headRaw : List Byte :=
  natLe 8 0x3001030033425848 ++ natLe 8 0x013F010C00000000 ++ natLe 8 0x0001000000000000 ++ natLe 8 0 ++ natLe 24 0 ++
  natLe 8 0xFFFFFFFFFFFF0000 ++ natLe 8 0 ++ natLe 8 0 ++ natLe 8 256 ++ natLe 8 64 ++ natLe 8 0 ++ natLe 8 0x140 ++ natLe 8 64

/-- Queue 0 holds an entry; the image of `headRaw` lies at 0. -/
def subS : State :=
  { readyS 0 with
    queues := (readyS 0).queues.set 0 { Queue.reset with
                                        enable := true
                                        sqSize := 4
                                        cqSize := 4
                                        sqTail := 1 }
    dram := writeBytes [] 0 headRaw }

/-- The submission of the image at 0 is being checked; `raw` is what has been read of it. -/
def checkS (raw : List Byte) : State :=
  { subS with
    submit := some (0, 1)
    runs := [{ key := submitKey, t := none, got := [(0, raw, false)], ids := [], done := false }] }

/-- Work whose reads have all come. -/
theorem complete_of (key : Nat) (o : Option SlotIx) (work : State → State) (s : State)
    (h : (runOf s key o).done = false ∧ (runOf s key o).ids = [] ∧
      ((work (probing (runOf s key o) s)).probe.map fun p => p.want) = some []) : Complete key o work s := by
  obtain ⟨h1, h2, h3⟩ := h
  cases hp : (work (probing (runOf s key o) s)).probe with
  | none => rw [hp] at h3; cases h3
  | some p =>
    rw [hp] at h3
    exact ⟨h1, h2, p, hp, Option.some.inj h3⟩

theorem holds_SubmissionFetched :
    fetches subS ∧ nextQueue subS = some 0 ∧ nextQueue subS ≠ some 1 ∧ (parseSubmission 0).opc = 0 ∧ (parseSubmission 1).wellFormed = true ∧
    ((parseSubmission 2).opc ≠ 0 ∧ (parseSubmission 2).wellFormed = false) ∧ running subS submitKey = false := by
  refine ⟨⟨by decide +kernel, by decide +kernel, by decide +kernel, by decide +kernel⟩, ?_⟩
  decide +kernel

theorem holds_SubmissionFetched_refused :
    Complete submitKey none (submitWork 0 (parseSubmission 1)) (checkS (List.replicate 512 0)) ∧
    judged (checkS (List.replicate 512 0)) 1 = 1 ∧ (checkS (List.replicate 512 0)).sec.fw = .ready ∧
    (checkS (List.replicate 512 0)).power.shutdown = false :=
  ⟨complete_of _ _ _ _ (by decide +kernel), by decide +kernel⟩

/-- The image is accepted where the device can allocate what it asks for, which the manual leaves open (log 8). -/
theorem holds_SubmissionFetched_accepted
    (h : Config.allocFits (allocBytes (parseHeader (readBytes subS.dram 0 256))) 0 = true) :
    judged (checkS (readBytes subS.dram 0 512)) 1 = 0 := by
  unfold judged firstChecks
  have h' : Config.allocFits (allocBytes (parseHeader (readBy (checkS (readBytes subS.dram 0 512)) submitKey none (parseSubmission 1).image 256)))
      (submission (checkS (readBytes subS.dram 0 512)) 1).freeCtr = true := by
    have e1 : (submission (checkS (readBytes subS.dram 0 512)) 1).freeCtr = 0 := by decide +kernel
    have e2 : readBy (checkS (readBytes subS.dram 0 512)) submitKey none (parseSubmission 1).image 256 = readBytes subS.dram 0 256 := by
      decide +kernel
    rw [e1, e2]
    exact h
  dsimp only
  rw [h']
  decide +kernel

/-- Task 0 as given, with core 0 as given. -/
def taskS (x : Task) (f : Core → Core) (n : Nat) : State :=
  { readyS n with
    cores := (readyS n).cores.set 0 (f Core.reset)
    tasks := (readyS n).tasks.set 0 x }

/-- The twelve cores of the task's sector with the given contents. -/
def sectorS (x : Task) (y : Core) (n : Nat) : State :=
  { readyS n with
    cores := Vector.ofFn fun c => if c.val < 12 then y else Core.reset
    tasks := (readyS n).tasks.set 0 x }

def readyCore : Core := { Core.reset with sp := { Scratchpad.reset with powered := 0x3F } }

def haltedCore : Core :=
  { Core.reset with
    slot := some 0
    ctx := Core.reset.ctx.set 0 { Ctx.reset with st := .halted } }

def taskIn (st : TaskState) : Task := { taskT with st := st }

theorem noResv (n : Nat) (x : Task) (y : Core) (r : Fin 16) : (sectorS x y n).resv[r] = none := by
  show (Vector.replicate 16 (none : Option Resv))[r.val] = none
  simp

theorem holds_TaskStates :
    ((taskIn .loading).st = .loading ∧ (taskIn .loading).halting = none) ∧
    (coresFree (sectorS (taskIn .ready) readyCore 0) (taskIn .ready) = true ∧
      segmentsReady (sectorS (taskIn .ready) readyCore 0) (taskIn .ready) = true ∧ (sectorS (taskIn .ready) readyCore 0).quiesce = none ∧
      ∀ (r : Fin 16) v, (sectorS (taskIn .ready) readyCore 0).resv[r] = some v → False) ∧
    (allHalted (sectorS taskT haltedCore 0) taskT = true ∧ taskT.hold = false) ∧
    (({ taskIn .ending with endStep := 1 } : Task).scrubUntil ≤ (readyS 0).time.cycle) ∧
    (({ taskT with halting := some 0x80 } : Task).live = true ∧ blocksIdle (sectorS { taskT with halting := some 0x80 } Core.reset 0) taskT = true ∧
      girthIdle (sectorS { taskT with halting := some 0x80 } Core.reset 0) taskT = true ∧
      memoryIdle (sectorS { taskT with halting := some 0x80 } Core.reset 0) taskT = true) := by
  refine ⟨by decide +kernel, ⟨by decide +kernel, by decide +kernel, by decide +kernel, ?_⟩, by decide +kernel, by decide +kernel, by decide +kernel⟩
  intro r v h
  rw [noResv] at h
  cases h

/-- A READY task whose images are on its cores, and a LOADING one. -/
def loadedT (st : TaskState) : Task :=
  { taskIn st with
    loaded := true
    noAccept := true }

theorem holds_TaskStates_start :
    (coresFree (sectorS (loadedT .loading) haltedCore 0) (loadedT .loading) = false ∧
      (loadedT .loading).hdr.flag 4 = false ∧
      running (sectorS (loadedT .loading) haltedCore 0) (taskKey 0 1) = false) ∧
    Complete (taskKey 0 1) (some 0) (loadTask 0) (sectorS (loadedT .loading) readyCore 0) ∧
    Complete (taskKey 0 1) (some 0) (loadTask 0) (sectorS (loadedT .loading) haltedCore 0) ∧
    (awaitsResv (sectorS (loadedT .ready) readyCore 0) 0 = false ∧ pinnedOut (sectorS (loadedT .ready) readyCore 0) 0 = false ∧
      Complete (taskKey 0 1) (some 0) (launchTask 0) (sectorS (loadedT .ready) readyCore 0) ∧
      coresFree (sectorS (loadedT .ready) readyCore 0) (loadedT .ready) = true ∧
      segmentsReady (sectorS (loadedT .ready) readyCore 0) (loadedT .ready) = true ∧
      sharesSegments (sectorS (loadedT .ready) readyCore 0) 0 = false) :=
  ⟨by decide +kernel, complete_of _ _ _ _ (by decide +kernel), complete_of _ _ _ _ (by decide +kernel), by decide +kernel, by decide +kernel,
   complete_of _ _ _ _ (by decide +kernel), by decide +kernel⟩

/-- An ENDING task at a step, on cores whose streams and windows are closed. -/
def endingS (n : Nat) : State := sectorS { taskIn .ending with endStep := n } haltedCore 0

theorem holds_TaskStates_end :
    (girthIdle (endingS 0) { taskIn .ending with endStep := 0 } = true ∧ (taskIn .ending).halting = none) ∧
    (allClosed (endingS 1) { taskIn .ending with endStep := 1 } = true ∧ memoryIdle (endingS 1) { taskIn .ending with endStep := 1 } = true ∧
      signalsIdle (endingS 1) { taskIn .ending with endStep := 1 } = true ∧ (taskIn .ending).cmd.posted = []) ∧
    ((taskIn .ending).scrubUntil ≤ (endingS 3).time.cycle) ∧
    (girthIdle (sectorS { taskIn .faulted with autoRelease := true } Core.reset 0) { taskIn .faulted with autoRelease := true } = true ∧
      (taskIn .faulted).halting = none) := by decide +kernel

theorem test_task_starts_its_cores :
    gives (exec (.taskLaunch 0) (sectorS (loadedT .ready) readyCore 0))
      (fun t => t.tasks[(0 : SlotIx)].st == .running && (ctx t 11 0).st == .ready && (ctx t 11 1).st == .idle && t.cores[(12 : CoreIx)].slot.isNone) = true := by
  decide +kernel

theorem test_abort_reason :
    gives (exec (.taskHaltDone 0) (sectorS { taskT with halting := some 0x80 } Core.reset 0))
      (fun t => t.tasks[(0 : SlotIx)].st == .faulted && t.tasks[(0 : SlotIx)].reason == 0x80) = true := by decide +kernel

/-- A PREEMPTIBLE task. -/
def preT (st : TaskState) : Task :=
  { taskT with
    st := st
    hdr := { hdrT with flags := 0x10 } }

/-- The record of a saved core. -/
def saveT (c : CoreIx) : SaveRec :=
  { core := c, ctx := Core.reset.ctx, counters := Core.reset.counters, streams := Core.reset.streams, windows := Core.reset.windows, barred := [],
    array := ArrayState.reset, pend := none }

def savedT : Task :=
  { preT .preempted with
    saved := [saveT 0]
    loaded := true }

/-- The machine of `savedT`, with what the restore reads of the two records. -/
def savedS : State :=
  { sectorS savedT readyCore 0 with
    runs := [{ key := taskKey 0 3, t := some 0, got := (List.range 160).map fun i => (256 * i, List.replicate 256 0, false), ids := [], done := false }] }

/-- A task that is being saved, before and after its records are in memory. -/
def savingS (halting : Option Byte) : State :=
  sectorS { preT .preempting with
            saved := [saveT 0]
            hold := true
            halting := halting } readyCore 0

/-- A reservation of task 1 on sector 0 from FT 640 to FT 1280. -/
def resvT : Resv := { task := 1, sectors := 1, start := 640, stop := 1280, leadDone := false, active := false }

def resvS (n : Nat) : State :=
  { sectorS (preT .running) Core.reset n with
    resv := (Vector.replicate 16 none).set 15 (some resvT)
    tasks := ((readyS n).tasks.set 0 (preT .running)).set 1 { taskT with
                                                             st := .running
                                                             sectors := 2
                                                             segs := [1] } }

theorem holds_TaskScheduling :
    ((preT .running).hdr.flag 4 = true ∧ (preT .running).pinned = false ∧ (preT .running).quantumEnd ≤ ftNow (readyS 0)) ∧
    (running (sectorS (preT .preempting) Core.reset 0) (taskKey 0 2) = false ∧ (preT .preempting).saved = [] ∧
      blocksIdle (sectorS (preT .preempting) Core.reset 0) (preT .preempting) = true ∧
      girthIdle (sectorS (preT .preempting) Core.reset 0) (preT .preempting) = true ∧
      memoryIdle (sectorS (preT .preempting) Core.reset 0) (preT .preempting) = true ∧
      signalsIdle (sectorS (preT .preempting) Core.reset 0) (preT .preempting) = true ∧
      contextsIdle (sectorS (preT .preempting) Core.reset 0) (preT .preempting) = true) ∧
    (running (savingS none) (taskKey 0 2) = false ∧ (savingS none).tasks[(0 : SlotIx)].saved ≠ [] ∧
      (savingS (some 0x80)).tasks[(0 : SlotIx)].halting = some 0x80) ∧
    ((resvS 0).resv[(15 : Fin 16)] = some resvT ∧ leadFt (resvS 0) resvT ≤ ftNow (resvS 0)) ∧
    (atFrame (resvS 1920) = true ∧ resvT.stop.toNat ≤ ftNow (resvS 1920)) := by decide +kernel

theorem holds_TaskScheduling_resume :
    (awaitsResv savedS 0 = false ∧ pinnedOut savedS 0 = false ∧ savedT.halting = none ∧ savedS.quiesce = none) ∧
    Complete (taskKey 0 3) (some 0) (resumeTask 0) savedS ∧ atFrame savedS = true ∧ coresFree savedS savedT = true ∧
    segmentsReady savedS savedT = true ∧ (savedT.saved.map (·.core)).Nodup :=
  ⟨by decide +kernel, complete_of _ _ _ _ (by decide +kernel), by decide +kernel⟩

theorem holds_TaskScheduling_reserved :
    (resvS 960).tasks[resvT.task].halting = none ∧ (resvS 960).tasks[resvT.task].st = .running ∧ resvT.active = false ∧
    Complete (startKey (resvS 960) resvT) (some resvT.task) (startReserved 15 resvT) (resvS 960) ∧ atFrame (resvS 960) = true ∧
    resvT.start.toNat ≤ ftNow (resvS 960) ∧ ftNow (resvS 960) < resvT.stop.toNat :=
  ⟨by decide +kernel, by decide +kernel, by decide +kernel, complete_of _ _ _ _ (by decide +kernel), by decide +kernel⟩

theorem test_quantum_extends_alone :
    gives (exec (.quantumExpiry 0) (sectorS (preT .running) Core.reset 0)) (fun t => t.tasks[(0 : SlotIx)].quantumEnd == 640 * 79) = true := by
  decide +kernel

/-! ### Command lists -/

/-- The words of an entry: word 0 and words 3 to 7. -/
def wordsT (w0 w3 w4 w5 w6 w7 : Nat) : Vector W64 8 :=
  #v[BitVec.ofNat 64 w0, 0, 0, BitVec.ofNat 64 w3, BitVec.ofNat 64 w4, BitVec.ofNat 64 w5, BitVec.ofNat 64 w6, BitVec.ofNat 64 w7]

def entT (q : W32) (ws : Vector W64 8) (delivered : Bool) : Posted :=
  { q := q, words := ws, delivered := delivered, expected := 12, reports := [], status := none, finished := false, postedAt := 0,
    order := 0, nth := 0, rhaor := false }

/-- The task of slot 0 with a command list, its twelve cores as given, at core cycle `n`; two devices in group 0. -/
def listX (h : Header) (f : CmdList → CmdList) (y : Core) (n : Nat) : State :=
  let s := sectorS { taskT with
                     hdr := h
                     cmd := f { CmdList.reset with
                                n := 4
                                tail := 1 } } y n
  { s with
    net := { s.net with
             dims := 0x010102
             groups := Vector.replicate 16 { Group.reset with
                                             valid := true
                                             extent := 0x010102 } }
    links := s.links.set 0 { LinkPort.reset with
                             st := .up
                             version := 3 } }

def listS (e : Posted) (n : Nat) : State := listX hdrT (fun x => { x with posted := [e] }) { Core.reset with slot := some 0 } n

/-- The next entry of the list is already read. -/
def headS (flags : W32) (bad : Bool) (w : Vector W64 8) : State :=
  listX { hdrT with flags := flags } (fun x => { x with
    got := some (bad, w)
    stage0 := { Stage.reset with
                configured := true
                mbStep := 2 } }) { Core.reset with slot := some 0 } 0

theorem atHead_of (s : State) (i : SlotIx)
    (h : s.tasks[i].issues = true ∧ s.tasks[i].cmd.stopped = false ∧ passPost s i = none ∧ configuring s.tasks[i].cmd = false) :
    AtHead s i := ⟨h.1, h.2.1, fun _ => h.2.2.1, h.2.2.2⟩

/-- The sequencer has read the 64 bytes of its next entry, or reads them. -/
def peekS : State :=
  let s := listX hdrT id { Core.reset with slot := some 0 } 0
  { s with runs := [{ key := taskKey 0 0, t := some 0, got := [(0, List.replicate 64 7, false)], ids := [], done := false }] }

theorem holds_EntryPosting_read :
    AtHead peekS 0 ∧ peekS.tasks[(0 : SlotIx)].cmd.got = none ∧
    peekS.tasks[(0 : SlotIx)].cmd.head ≠ peekS.tasks[(0 : SlotIx)].cmd.tail ∧
    Complete (taskKey 0 0) (some 0) (readHead 0) peekS :=
  ⟨atHead_of _ _ (by decide +kernel), by decide +kernel, by decide +kernel, complete_of _ _ _ _ (by decide +kernel)⟩

/-- A pipelined stage with a pass called for. -/
def passS : State :=
  listX { hdrT with flags := 0x80 } (fun x => { x with
    waitingQ := [(0, wordsT 0x40001 0 0 0 0 0)]
    stage0 := { Stage.reset with
                configured := true
                phase := 2
                mbStep := 2
                fwdQ := [0] } }) { Core.reset with slot := some 0 } 0

theorem holds_EntryPosting :
    AtHead (headS 0 true (wordsT 10 0 0 0 0 0)) 0 ∧
    (AtHead (headS 0 false (wordsT 14 0 0 0 0 0)) 0 ∧
      malformed (headS 0 false (wordsT 14 0 0 0 0 0)).tasks[(0 : SlotIx)] (wordsT 14 0 0 0 0 0) = true) ∧
    (AtHead (headS 0 false (wordsT 0xF01 0 0 0 0 0)) 0 ∧
      malformed (headS 0 false (wordsT 0xF01 0 0 0 0 0)).tasks[(0 : SlotIx)] (wordsT 0xF01 0 0 0 0 0) = false ∧
      (headS 0 false (wordsT 0xF01 0 0 0 0 0)).tasks[(0 : SlotIx)].hdr.flag 7 = false ∧ atBeat (headS 0 false (wordsT 0xF01 0 0 0 0 0)) = true ∧
      timeCome (headS 0 false (wordsT 0xF01 0 0 0 0 0)) (wordsT 0xF01 0 0 0 0 0) = true ∧
      postable (headS 0 false (wordsT 0xF01 0 0 0 0 0)) 0 0 (wordsT 0xF01 0 0 0 0 0) = true ∧
      (headS 0 false (wordsT 0xF01 0 0 0 0 0)).tasks[(0 : SlotIx)].cmd.waitingQ = []) ∧
    (AtHead (headS 0x80 false (wordsT 0x40001 0 0 0 0 0)) 0 ∧
      malformed (headS 0x80 false (wordsT 0x40001 0 0 0 0 0)).tasks[(0 : SlotIx)] (wordsT 0x40001 0 0 0 0 0) = false ∧
      (headS 0x80 false (wordsT 0x40001 0 0 0 0 0)).tasks[(0 : SlotIx)].hdr.flag 7 = true ∧ orderBad (wordsT 0x40001 0 0 0 0 0) 0 2 = false) ∧
    (passS.tasks[(0 : SlotIx)].issues = true ∧ passS.tasks[(0 : SlotIx)].cmd.stopped = false ∧ atBeat passS = true ∧
      (passPost passS 0).isSome = true) :=
  ⟨atHead_of _ _ (by decide +kernel), ⟨atHead_of _ _ (by decide +kernel), by decide +kernel⟩,
   ⟨atHead_of _ _ (by decide +kernel), by decide +kernel⟩, ⟨atHead_of _ _ (by decide +kernel), by decide +kernel⟩, by decide +kernel⟩

theorem test_entry_posts :
    gives (exec (.entryPost 0) (headS 0 false (wordsT 0xF01 0 0 0 0 0)))
      (fun t => t.tasks[(0 : SlotIx)].cmd.head == 1 && t.tasks[(0 : SlotIx)].cmd.posted.map (fun e => (e.q, e.expected)) == [(0, 12)]) = true := by
  decide +kernel

/-- The core of a context that has taken entry 7. -/
def takenCore : Core :=
  { Core.reset with
    slot := some 0
    ctx := Core.reset.ctx.set 0 { Ctx.reset with
                                  st := .ready
                                  cur := some 7 } }

def takenS (op : Nat) : State := listX hdrT (fun x => { x with posted := [entT 7 (wordsT (0xF00 + op) 9 0 0 0 0) true] }) takenCore 0

/-- The same with 128 bytes of zeros read at 0. -/
def takenRead (op : Nat) : State :=
  { takenS op with runs := [{ key := entryKey 0 7, t := some 0, got := [(0, List.replicate 128 0, false)], ids := [], done := false }] }

def workT : LkWork :=
  { slot := 0, q := 9, parts := [], args := [], status := 0, nth := 0, words := Vector.replicate 8 0, grads := [], incomplete := [] }

/-- A RUN that its contexts have taken, with the rows of a backward LOOKUP. -/
def rowsT : LkWork :=
  { workT with
    words := ((Vector.replicate 8 0).set 7 9).set 5 0x10000
    grads := [{ table := 0, lrow := 0, vals := [0], poison := false }] }

def ranS : State := { takenRead 10 with lkWork := [rowsT] }

theorem holds_CoreEntries :
    (∀ f ∈ reaching, findPosted (listS (entT 7 (wordsT (0xF00 + f.2) 0 0 0 0 0) false) 0) 0 7 f.2
        = some (entT 7 (wordsT (0xF00 + f.2) 0 0 0 0 0) false) ∧
      (entryCores (listS (entT 7 (wordsT (0xF00 + f.2) 0 0 0 0 0) false) 0).tasks[(0 : SlotIx)] (wordsT (0xF00 + f.2) 0 0 0 0 0)).Nodup) ∧
    (∀ f ∈ kernels, findPosted (listS (entT 7 (wordsT (0xF00 + f.2) 0 0 0 0 0) false) 0) 0 7 f.2
        = some (entT 7 (wordsT (0xF00 + f.2) 0 0 0 0 0) false) ∧
      takenEntry (listS (entT 7 (wordsT (0xF00 + f.2) 0 0 0 0 0) false) 0) 0 7 f.2 = none) ∧
    findPosted (listS (entT 7 (wordsT 12 0 0 0 0 0) false) 0) 0 7 12 = some (entT 7 (wordsT 12 0 0 0 0 0) false) ∧
    findPosted (listS (entT 7 (wordsT 13 0x203 0 0 0 0) false) 0) 0 7 13 = some (entT 7 (wordsT 13 0x203 0 0 0 0) false) ∧
    ({ entT 7 (wordsT 12 0 0 0 0 0) true with status := some 0 } : Posted).answer = some 0 ∧
    running (takenS 3) (entryKey 0 7) = false := by decide +kernel

/-- Kernels with hyper-parameters that are not valid read nothing. -/
theorem holds_CoreEntries_kernels :
    (takenEntry (takenRead 3) 0 7 3 = some (entT 7 (wordsT 0xF03 9 0 0 0 0) true) ∧
      Complete (entryKey 0 7) (some 0) (updateRun 0 (entT 7 (wordsT 0xF03 9 0 0 0 0) true)) (takenRead 3) ∧
      (hyperOf (wordsT 0xF03 9 0 0 0 0)).valid = false) ∧
    (takenEntry ranS 0 7 10 = some (entT 7 (wordsT 0xF0A 9 0 0 0 0) true) ∧
      (ranS.lkWork.find? fun k => k.slot == 0 && k.words[7] == (wordsT 0xF0A 9 0 0 0 0)[3] && bit k.words[5] 16) = some rowsT ∧
      Complete (entryKey 0 7) (some 0) (tableRun 0 (entT 7 (wordsT 0xF0A 9 0 0 0 0) true) rowsT) ranS) :=
  ⟨⟨by decide +kernel, complete_of _ _ _ _ (by decide +kernel), by decide +kernel⟩,
   by decide +kernel, by decide +kernel, complete_of _ _ _ _ (by decide +kernel)⟩

theorem test_fwd_reaches_contexts :
    gives (exec (.fwd 0 7) (listS (entT 7 (wordsT 0xF01 0 0 0 0 0) false) 0))
      (fun t => (ctx t 0 0).queued == [7] && (ctx t 11 0).queued == [7] && (ctx t 12 0).queued == []) = true := by decide +kernel

/-! ### Engine entries -/

def colS (w : Vector W64 8) (n : Nat) : State := listS (entT 7 w true) n

def lkS : State := { colS (wordsT 5 9 0 0 0 0) 0 with lkWork := [workT] }

def conT (step : W32) : Contribution := { rank := 1, step := step, vals := [], poison := [] }

/-- The ADD of a barrier entry, in the last core cycle of a hub cycle. -/
def addT : GSig := { g := 3, op := .barrier 0 7, due := 0, core := 0, ctx := 0, pc := 0, src := none }

def addS : State := { colS (wordsT 7 0 0 0 0x1003 0) 1 with gsigs := [addT] }

def barS : State := { colS (wordsT 7 0 0 0 0x1003 0) 0 with gctr := [(3, { GCounter.reset with value := 0xFFFFFE })] }

theorem holds_EngineEntries_forward :
    openEntry (colS (wordsT 4 0 0 0 0 0) 0) 0 7 4 = some (entT 7 (wordsT 4 0 0 0 0 0) true) ∧
    engineTurn (colS (wordsT 4 0 0 0 0 0) 0) (entT 7 (wordsT 4 0 0 0 0 0) true) = true ∧
    (ownRank (colS (wordsT 4 0 0 0 0 0) 0) (groupAt (colS (wordsT 4 0 0 0 0 0) 0) 0)).isSome = true ∧
    Complete (entryKey 0 7) (some 0) (forwardRun 0 7 (entT 7 (wordsT 4 0 0 0 0 0) true) []) (colS (wordsT 4 0 0 0 0 0) 0) := by
  refine ⟨by decide +kernel, by decide +kernel, by decide +kernel, complete_of _ _ _ _ ⟨by decide +kernel, by decide +kernel, ?_⟩⟩
  unfold forwardRun forwardLookup workFits
  dsimp only
  generalize Config.free 1 _ = v
  revert v
  decide +kernel

theorem holds_EngineEntries_lookups :
    (openEntry (colS (wordsT 4 0 0 0x10000 0 0) 0) 0 7 4 = some (entT 7 (wordsT 4 0 0 0x10000 0 0) true) ∧
      bit (wordsT 4 0 0 0x10000 0 0)[5] 16 = true ∧
      Complete (entryKey 0 7) (some 0) (backwardRun 0 7 (entT 7 (wordsT 4 0 0 0x10000 0 0) true) []) (colS (wordsT 4 0 0 0x10000 0 0) 0)) ∧
    (openEntry lkS 0 7 5 = some (entT 7 (wordsT 5 9 0 0 0 0) true) ∧ exchangeWork lkS 0 (wordsT 5 9 0 0 0 0) = some workT ∧
      workT.status ≠ 4 ∧ Complete (entryKey 0 7) (some 0) (exchangeRun 0 7 workT []) lkS ∧ partsSeen lkS 0 7 workT [] = true) :=
  ⟨⟨by decide +kernel, by decide +kernel, complete_of _ _ _ _ (by decide +kernel)⟩,
   by decide +kernel, by decide +kernel, by decide +kernel, complete_of _ _ _ _ (by decide +kernel), by decide +kernel⟩

theorem holds_EngineEntries_collectives :
    (openEntry (colS (wordsT 6 0 0 0 0 0) 0) 0 7 6 = some (entT 7 (wordsT 6 0 0 0 0 0) true) ∧
      ownRank (colS (wordsT 6 0 0 0 0 0) 0) (groupAt (colS (wordsT 6 0 0 0 0 0) 0) 0) = some 0 ∧
      allThere (groupAt (colS (wordsT 6 0 0 0 0 0) 0) 0) 0 ([conT 0].map (·.rank)) = true ∧
      Complete (entryKey 0 7) (some 0) (reduceWork 0 7 (entT 7 (wordsT 6 0 0 0 0 0) true) 0 [conT 0]) (colS (wordsT 6 0 0 0 0 0) 0) ∧
      InStep (colS (wordsT 6 0 0 0 0 0) 0) 0 (entT 7 (wordsT 6 0 0 0 0 0) true) [conT 0]) ∧
    (openEntry (colS (wordsT 7 0 0 0 0 0) 0) 0 7 7 = some (entT 7 (wordsT 7 0 0 0 0 0) true) ∧
      Complete (entryKey 0 7) (some 0) (gatherWork 0 7 (entT 7 (wordsT 7 0 0 0 0 0) true) 0 [conT 1]) (colS (wordsT 7 0 0 0 0 0) 0) ∧
      ∃ p ∈ [conT 1], p.step ≠ Entry.step (wordsT 7 0 0 0 0 0)) ∧
    (openEntry barS 0 7 7 = some (entT 7 (wordsT 7 0 0 0 0x1003 0) true) ∧ bit (wordsT 7 0 0 0 0x1003 0)[6] 12 = true ∧
      allThere (groupAt barS 0) 0 [1] = true ∧ adding barS 0 7 = false) ∧
    (arriving addS 3 = [addT] ∧ addT.src = none ∧ addT.op = .barrier 0 7 ∧ hubTurn addS 3) ∧
    (0 + ccOf (readyS 15000) 10000 ≤ (readyS 15000).time.cycle) :=
  ⟨⟨by decide +kernel, by decide +kernel, by decide +kernel, complete_of _ _ _ _ (by decide +kernel),
    fun p hp => by rw [List.mem_singleton.mp hp]; decide +kernel, by decide +kernel⟩,
   ⟨by decide +kernel, complete_of _ _ _ _ (by decide +kernel), ⟨conT 1, List.mem_singleton.mpr rfl, by decide +kernel⟩⟩,
   by decide +kernel, ⟨by decide +kernel, rfl, rfl, by decide +kernel, by decide +kernel⟩, by decide +kernel⟩

/-- A REDUCE whose time is over, on the device of rank 0 of two. -/
theorem holds_EngineEntries_late :
    0 + collLimit (colS (wordsT 6 0 0 0 0 0) 15000000) ≤ (colS (wordsT 6 0 0 0 0 0) 15000000).time.cycle ∧
    groupRank (colS (wordsT 6 0 0 0 0 0) 15000000) (groupAt (colS (wordsT 6 0 0 0 0 0) 15000000) 0) (1 : W32).toNat = some 1 ∧
    Complete (entryKey 0 7) (some 0) (lateWork 0 7 { missing := 1, routed := [], grads := [], parts := [], peers := [] }
      (entT 7 (wordsT 6 0 0 0 0 0) true) 0 1) (colS (wordsT 6 0 0 0 0 0) 15000000) :=
  ⟨by decide +kernel, by decide +kernel, complete_of _ _ _ _ (by decide +kernel)⟩

/-- Without a dimension the device is in no group. -/
theorem holds_EngineEntries_stranger :
    ownRank (listS (entT 7 (wordsT 6 0x100 0 0 0 0) true) 0) { Group.reset with valid := false } = none := by decide +kernel

theorem test_barrier_counts :
    gives (exec (.gatherBarrier 0 7 [1]) barS) (fun t => t.gsigs.map (fun a => (a.g, a.due)) == [(3, 0)] &&
      t.tasks[(0 : SlotIx)].cmd.posted.map (fun e => e.status) == [none]) = true ∧
    gives (exec (.globalSignalApply 3) addS) (fun t => (globalOf t 3).value == 1 &&
      t.tasks[(0 : SlotIx)].cmd.posted.map (fun e => e.status) == [some 0]) = true := by decide +kernel

theorem test_gather_step_mismatch :
    gives (exec (.gather 0 7 [conT 1]) (colS (wordsT 7 0 0 0 0 0) 0))
      (fun t => t.tasks[(0 : SlotIx)].cmd.posted.map (fun e => e.status) == [some 0x10]) = true := by decide +kernel

/-! ### The mirror engine -/

/-- A task with a saddlebag of `n` bytes and the entry given. -/
def mirS (n : W64) (w : Vector W64 8) (y : Core) (f : Mirror → Mirror) : State :=
  let s := listX { hdrT with saddleBytes := n } (fun x => { x with posted := [entT 7 w true] }) y 0
  { s with mir := f s.mir }

def runT (captured : Bool) : SnapRun :=
  { slot := 0, q := 7, step := 0, captured := captured, captureFt := 0, homeSlot := false, bagSlot := false, homeSent := false, homeDone := false,
    bagDone := false, bagFailed := false, trailerSent := false, tags := [], seg := 0, total := 0x5000, unread := [] }

def idleCore : Core := { Core.reset with slot := some 0 }

def snapS (captured : Bool) : State :=
  mirS 0x10000 (wordsT 8 0 0 0 0 0) idleCore fun m => { m with
    take := some (runT captured)
    partner := 1 }

/-- A committed home slot of STEP 0 whose bytes have been read: a header of the right MAGIC and FORMAT, and seeds. -/
def backS : State :=
  let s := mirS 128 (wordsT 8 0 0x100 0 0 0) idleCore fun m => { m with home1 := .committed }
  { s with runs := [{ key := entryKey 0 7, t := some 0, ids := [], done := false
                      got := (64, natLe 4 snapMagic ++ natLe 4 3 ++ List.replicate 56 0, false) ::
                        (List.range 220).map fun i => (128 + 64 * i, List.replicate 64 0, false) }] }

/-- The same with no slot of its STEP. -/
def lostS : State := mirS 128 (wordsT 8 0 0x100 0 0 0) idleCore id

def waitCore : Core :=
  { Core.reset with
    slot := some 0
    ctx := Core.reset.ctx.set 0 { Ctx.reset with
                                  st := .waiting
                                  kind := .command } }

def restT : RestoreRun :=
  { slot := 0, q := 7, step := 0, lastWrite := 0, seeds := [(0, 0, 5, 6)], lossRing := 0, digestOk := true }

def restoreS (y : Core) : State := mirS 128 (wordsT 8 0 0x100 0 0 0) y fun m => { m with restore := some restT }

def verS : State :=
  let s := mirS 128 (wordsT 8 0 0x100 0 0 0) idleCore fun m =>
    { m with verify := some { slot := 0, step := 0, ring := 0, ready := true, digestOk := true } }
  { s with staging := { s.staging with unit := s.staging.unit.set 23 { Staged.reset with mirror := 0x164 } } }

theorem holds_SnapshotTaking :
    (openEntry (mirS 128 (wordsT 8 0 0x200 0 0 0) idleCore id) 0 7 8 = some (entT 7 (wordsT 8 0 0x200 0 0 0) true) ∧
      bit (wordsT 8 0 0x200 0 0 0)[4] 8 = false ∧ engineTurn (mirS 128 (wordsT 8 0 0x200 0 0 0) idleCore id) (entT 7 (wordsT 8 0 0x200 0 0 0) true) = true ∧
      mirrorIdle (mirS 128 (wordsT 8 0 0x200 0 0 0) idleCore id)) ∧
    ((snapS false).mir.take = some (runT false) ∧
      ((snapS false).tasks[(runT false).slot].cmd.posted.find? fun e => e.q == (runT false).q) = some (entT 7 (wordsT 8 0 0 0 0 0) true) ∧
      Complete (entryKey 0 7) (some 0) (captureWork (runT false) (entT 7 (wordsT 8 0 0 0 0 0) true)) (snapS false) ∧
      atFrame (snapS false) = true ∧ noBlock (snapS false) 0 = true) ∧
    ((snapS true).mir.take = some (runT true) ∧ (runT true).homeDone = false ∧ (runT true).unread = [] ∧
      running (snapS true) (entryKey 0 7) = false ∧ spaceOf (homeAddr (snapS true) (runT true) + (runT true).total) = some .direct ∧
      (homeAddr (snapS true) (runT true) + (runT true).total) % 256 = 0) ∧
    (mirrorSend (sealed (runT true) 0) true (runT true).total (slotTrailer (runT true) 0) (snapS true)).1.isSome = true :=
  ⟨⟨by decide +kernel, by decide +kernel, by decide +kernel, ⟨rfl, rfl⟩⟩,
   ⟨by decide +kernel, by decide +kernel, complete_of _ _ _ _ (by decide +kernel), by decide +kernel, by decide +kernel⟩,
   by decide +kernel, by decide +kernel⟩

/-- A snapshot that has yet to copy the 64 B at `0x40`, and those bytes as they have been read. -/
def unreadT : SnapRun :=
  { runT true with
    unread := [(64, 64, 0x5000)]
    total := 0x6000 }

def unreadS (f : State → State) (got : List (Nat × List Byte × Bool)) : State :=
  f { snapS true with
      mir := { (snapS true).mir with take := some unreadT }
      runs := if got.isEmpty then [] else [{ key := entryKey 0 7, t := some 0, got := got, ids := [], done := false }] }

def gotT : List (Nat × List Byte × Bool) := [(64, List.replicate 64 7, false)]

/-- A write of 64 B at 0x40 in the queue of its port. -/
def heldQ : Queued := { req := { readReq with write := true, addr := 64, data := List.replicate 64 7 }, passed := 0, came := 0 }
def heldPort (s : State) : State := { s with ports := s.ports.set 0 { s.ports[(0 : SecIx)] with queue := [heldQ] } }

theorem test_segments_are_numbered_on :
    gives (exec (.snapshotCommit false 0) { snapS true with
        links := (snapS true).links.map fun x => { x with credit0 := 65, credit1 := 65 }
        mir := { (snapS true).mir with take := some { runT true with seg := 5 } } })
      (fun t => (t.out.any fun m => match m with
        | .packet _ l k => k.segno == 5 && l.lseq == 0
        | _ => false) && t.mir.take.any fun r => r.seg == 6) = true := by decide +kernel

theorem holds_SnapshotTaking_held :
    ((unreadS heldPort []).ports[(0 : SecIx)].queue = [heldQ] ∧ heldQ.req.write = true ∧
      snapHolds (unreadS heldPort []) (directOf heldQ.req.addr) heldQ.req.data.length = true) ∧
    Complete (entryKey 0 7) (some 0) (copyWork unreadT) (unreadS id gotT) :=
  ⟨by decide +kernel, complete_of _ _ _ _ (by decide +kernel)⟩

/-- R344: the copy is made once the source has been read, and until then its bytes are held. -/
theorem test_copy_waits_for_its_read :
    gives (exec (.snapshotCommit true 0) { unreadS heldPort [] with
        runs := [{ key := entryKey 0 7, t := some 0, got := [], ids := [], done := false }] }) (fun t => snapUnread t == [(64, 64, 0x5000)]) = true ∧
    gives (exec (.snapshotCommit true 0) (unreadS id gotT)) (fun t => snapUnread t == [] && t.fabric.length == 1) = true := by
  decide +kernel

theorem holds_SnapshotRestoring :
    (∀ x ∈ enabledCtxs (restoreS waitCore).tasks[restT.slot], (restoreS waitCore).cores[x.1].slot = some restT.slot ∧
      (ctx (restoreS waitCore) x.1 x.2).st = .waiting ∧
      (ctx (restoreS waitCore) x.1 x.2).kind = .command) ∧ (restT.seeds.map fun x => (x.1, x.2.1)).Nodup ∧
    running (restoreS waitCore) (entryKey restT.slot restT.q) = false ∧
    (∃ x ∈ enabledCtxs (restoreS haltedCore).tasks[restT.slot], (restoreS haltedCore).cores[x.1].slot = some restT.slot ∧
      ((ctx (restoreS haltedCore) x.1 x.2).st = .halted ∨ (ctx (restoreS haltedCore) x.1 x.2).st = .faulted)) ∧
    (openEntry (colS (wordsT 9 0 0 0 0 0) 0) 0 7 9 = some (entT 7 (wordsT 9 0 0 0 0 0) true) ∧
      engineTurn (colS (wordsT 9 0 0 0 0 0) 0) (entT 7 (wordsT 9 0 0 0 0 0) true) = true ∧ rhaorOpen (colS (wordsT 9 0 0 0 0 0) 0) 0 = false) ∧
    ([({ tag := 31, task := 0, at_ := 0, rstep := 4 } : RhTag)].find? fun q => q.tag == (31 : W16).toNat) =
      some { tag := 31, task := 0, at_ := 0, rstep := 4 } ∧
    ringWindow (readyS 0) 0 = false ∧
    0 + ccOf (readyS 15000001) (1000 * atLeast1 Rhaor.reset.timeout.toNat) < (readyS 15000001).time.cycle := by decide +kernel

/-- The machine with its CXL.mem window open. -/
def windowS : State :=
  { readyS 0 with cxl := { (readyS 0).cxl with
                           linkUp := true
                           flit := 1
                           memEn := true
                           hdmSize := 1 } }

theorem holds_SnapshotRestoring_window : ringWindow windowS 0 = true := by decide +kernel

theorem holds_SnapshotRestoring_restore :
    (openEntry lostS 0 7 8 = some (entT 7 (wordsT 8 0 0x100 0 0 0) true) ∧ bit (wordsT 8 0 0x100 0 0 0)[4] 8 = true ∧
      engineTurn lostS (entT 7 (wordsT 8 0 0x100 0 0 0) true) = true ∧ verifyMode lostS ≠ 2 ∧ verifyMode lostS ≠ 3 ∧
      homeHolds lostS.mir (Entry.step (wordsT 8 0 0x100 0 0 0)) = none ∧ lostS.mir.partnerBag = 0) ∧
    Complete (entryKey 0 7) (some 0) (restoreWork 0 7 (entT 7 (wordsT 8 0 0x100 0 0 0) true) (true, true, true)) (beginRestore 0 lostS) ∧
    (homeHolds backS.mir (Entry.step (wordsT 8 0 0x100 0 0 0)) = some true ∧
      restoreCheck backS.tasks[(0 : SlotIx)] (entT 7 (wordsT 8 0 0x100 0 0 0) true).list
        (readBy backS (entryKey 0 7) (some 0) (backS.mir.homeBag.toNat + slotSize backS.tasks[(0 : SlotIx)] * b2n true) slotHead) = 0) ∧
    Complete (entryKey 0 7) (some 0) (restoreWork 0 7 (entT 7 (wordsT 8 0 0x100 0 0 0) true) (true, true, true)) (beginRestore 0 backS) :=
  ⟨by decide +kernel, complete_of _ _ _ _ (by decide +kernel), by decide +kernel, complete_of _ _ _ _ (by decide +kernel)⟩

theorem holds_SnapshotRestoring_replay :
    verifyMode verS = 1 ∧
    Complete (taskKey 0 4) (some 0) (replayWork { slot := 0, step := 0, ring := 0, ready := true, digestOk := true } (some 0))
      { verS with runs := [{ key := taskKey 0 4, t := some 0, got := [(0, List.replicate 64 0, false)], ids := [], done := false }] } :=
  ⟨by decide +kernel, complete_of _ _ _ _ (by decide +kernel)⟩

theorem holds_SnapshotRestoring_interval :
    ({ readyS 0 with time := { Time.reset with isMaster := true } } : State).time.isMaster = true ∧
    (readyS 0).mir.interval = 0 ∧
    ({ Mirror.reset with
       interval := 10
       base := 5 } : Mirror).base.toNat ≤ (1005 : W32).toNat ∧ ((1005 : W32).toNat - (5 : W32).toNat) % (10 : BitVec 24).toNat = 0 ∧
    Mirror.reset.lastStep.toNat + 1000 ≤ (1005 : W32).toNat := by
  decide +kernel

theorem test_restore_writes_seeds :
    gives (exec .restoreSeedWrite (restoreS waitCore))
      (fun t => (ctx t 0 0).seed == 5 && (ctx t 0 0).sctr == 6 && t.mir.restore.isNone) = true := by decide +kernel

/-! ### Links -/

/-- Port 0 UP at HL 3.0 with changes; this device at (0, 0, 0) of two in x. -/
def linkS (f : LinkPort → LinkPort) : State :=
  { readyS 0 with
    links := (readyS 0).links.set 0 (f { LinkPort.reset with
                                         enable := true
                                         st := .up
                                         version := 3
                                         feats := 0x1F
                                         credit0 := 17
                                         credit1 := 17
                                         width := 3 })
    net := { (readyS 0).net with dims := 0x010102 } }

/-- A packet of TYPE `ty` from device 1 with an address, an argument and a payload. -/
def pktT (ty : Byte) (a g : W64) (bs : List Byte) : Packet :=
  { ptype := ty, pflags := 0, len := BitVec.ofNat 16 bs.length, dest := 0, src := 1, tag := 9, ver := 3, reason := 0, addr := a,
    deadline := 0, step := 0, coll := 0, epoch := 0, orig := 0, segno := 0, arg := g, payload := bs }

theorem holds_PacketArrivals_refused :
    ∀ a ∈ arrivalRows, (linkS id).links[(0 : Fin 8)].st = .up ∧ (pktT a.1 0 0 [1]).ptype = a.1 ∧ refusal (linkS id) 0 (pktT a.1 0 0 [1]) ≠ 0 ∨ a.1 = 8 := by
  decide +kernel

theorem holds_PacketArrivals_refused_mgmt :
    refusal (linkS id) 0 { pktT 8 0 0 [] with pflags := 8 } = 2 := by decide +kernel

/-- A remote request to device 1 that waits for TAG 9. -/
def remS : State := { linkS id with net := { (linkS id).net with remote := [(9, { readReq with addr := 2 ^ 39 }, 0)] } }

def sigS : State := { linkS id with gctr := [(4095, { GCounter.reset with holder := some 0 })] }

/-- A posted REDUCE of collective 5 with device 1 in its group, for a COLL segment. -/
def cpS : State := colS (wordsT 6 0 0 0 0 5) 0

def collT : Packet := { pktT 5 0 0 (List.replicate 64 1) with coll := 5 }

/-- The partner's guest slot. -/
def guestS : State :=
  let s := sectorS { taskT with hdr := { hdrT with saddleBytes := 128 } } Core.reset 0
  { s with
    links := (linkS id).links
    net := (linkS id).net
    mir := { s.mir with
             owner := some 0
             guest := 1 } }

theorem holds_PacketArrivals :
    (Taken (linkS id) 0 (pktT 1 0 0 (List.replicate 256 1)) 1 ∧ (2 ^ 39 - 256 : Nat) + 256 = 2 ^ 39) ∧
    Taken (linkS id) 0 (pktT 2 0 256 []) 2 ∧
    (Taken remS 0 (pktT 3 0 0 []) 3 ∧
      (remS.net.remote.find? fun q => q.1 == (pktT 3 0 0 []).tag && BitVec.ofNat 32 (q.2.1.addr / 2 ^ 39 % 2 ^ 24) == (pktT 3 0 0 []).src)
        = some (9, { readReq with addr := 2 ^ 39 }, 0)) ∧
    (Taken sigS 0 (pktT 4 4095 0xFFFF []) 4 ∧ (globalOf sigS (Fin.ofNat 4096 (4095 : W64).toNat)).holder.isSome = true ∧
      (globalOf sigS 3).holder = none ∧ Taken sigS 0 (pktT 4 3 1 []) 4) ∧
    (Taken cpS 0 collT 5 ∧ collEntry cpS collT.coll = some (0, entT 7 (wordsT 6 0 0 0 0 5) true) ∧
      (groupRank cpS (groupAt cpS (Entry.group (wordsT 6 0 0 0 0 5))) collT.src.toNat).isSome = true ∧ collT.step = Entry.step (wordsT 6 0 0 0 0 5)) ∧
    (Taken (linkS id) 0 collT 5 ∧ collEntry (linkS id) collT.coll = none ∧
      (linkS id).net.held.foldl (fun n h => n + h.pkt.payload.length) 0 + collT.payload.length ≤ 16 * 2 ^ 20 ∧
      (collT.coll :: (linkS id).net.held.map fun h => h.pkt.coll).eraseDups.length ≤ 64) ∧
    Taken (linkS id) 0 (pktT 6 0 0 []) 6 ∧
    (Taken guestS 0 (pktT 7 0 (2 ^ 33) (List.replicate 64 1)) 7 ∧ guestS.mir.owner = some 0 ∧
      (pktT 7 0 (2 ^ 33) []).src = guestS.mir.guest.setWidth 32 ∧ 0 + (64 : W16).toNat ≤ slotSize guestS.tasks[(0 : SlotIx)] ∧
      guestS.mir.guest0 = .empty ∧ guestS.mir.guest1 = .empty ∧
      guestAddr guestS 0 (pktT 7 0 (2 ^ 33) (List.replicate 64 1)) + 64 ≤ directEnd) ∧
    Taken (linkS id) 0 (pktT 8 0 0 []) 8 ∧ Taken (linkS id) 0 { pktT 9 0 0 [] with
                                                               orig := 4
                                                               reason := 1 } 9 ∧
    (refusal (linkS id) 0 { pktT 1 0 0 (List.replicate 64 1) with
                            dest := 1
                            src := 0 } = 0 ∧ (1 : W32) ≠ ownAddr (linkS id) ∧
      routePort (linkS id) (1 : W32).toNat false = some 0 ∧ (linkS id).links[(0 : Fin 8)].allows (pktT 1 0 0 (List.replicate 1024 1)) = true ∧
      (linkS id).links[(0 : Fin 8)].waiting = [] ∧ (linkS id).links[(0 : Fin 8)].canLeave (pktT 1 0 0 (List.replicate 1024 1)) = true ∧
      (linkS fun x => { x with credit1 := 16 }).links[(0 : Fin 8)].canLeave (pktT 1 0 0 (List.replicate 1024 1)) = false) := by
  unfold Taken
  refine ⟨?_, ?_, ?_, ?_, ?_, ?_, ?_, ?_, ?_, ?_, ?_⟩
  · decide +kernel
  · decide +kernel
  · decide +kernel
  · decide +kernel
  · decide +kernel
  · decide +kernel
  · decide +kernel
  · decide +kernel
  · decide +kernel
  · decide +kernel
  · decide +kernel

theorem test_write_arrives :
    gives (exec (.write 0 (pktT 1 128 0 (List.replicate 64 1))) (linkS id))
      (fun t => t.fabric.map (fun r => (r.addr, r.len, r.write)) == [(128, 64, true)]) = true := by decide +kernel

theorem test_nak_of_a_signal :
    gives (exec (.nak 0 { pktT 9 0 0 [] with
                          orig := 4
                          reason := 1 }) (linkS id)) (fun t => t.gregs.dropped == 0 && t.links[(0 : Fin 8)].nakRcvd == 1) = true := by decide +kernel

/-- Two frames unacknowledged, the next received number 5. -/
def twoS (f : LinkPort → LinkPort) : State :=
  linkS fun x => f { x with
    rxNext := 5
    txNext := 2
    replay := [(0, pktT 8 0 0 []), (1, pktT 8 0 0 [])] }

/-- A frame whose check word fits `k`. -/
def sealedT (n : W16) (k : Packet) : FrameLink := sealFrame { lseq := n, ack := 0, retry := false, good := true, corr := 0 } k

def frameT (n : W16) (good : Bool) : FrameLink := { sealedT n (pktT 0 0 0 []) with good := good }

theorem holds_LinkProtocol :
    ((twoS id).links[(0 : Fin 8)].st = .up ∧ (frameT 4 true).lseq = (twoS id).links[(0 : Fin 8)].rxNext - 1 ∧ (twoS id).links[(0 : Fin 8)].waiting = []) ∧
    (frameGood (frameT 4 true) (pktT 0 0 0 []) = true ∧ refusal (twoS id) 0 (pktT 0 0 0 []) = 0) ∧
    (frameT 5 true).lseq = (twoS id).links[(0 : Fin 8)].rxNext ∧
    ((frameT 6 true).lseq ≠ (twoS id).links[(0 : Fin 8)].rxNext ∧ ((6 : W16) - 5).toNat < 512) ∧
    (twoS id).links[(0 : Fin 8)].replay.drop (ackedBy (twoS id).links[(0 : Fin 8)] 0) ≠ [] ∧
    (twoS fun x => { x with st := .retraining }).links[(0 : Fin 8)].st = .retraining ∧
    (twoS fun x => { x with st := .training }).links[(0 : Fin 8)].st = .training ∧
    (twoS fun x => { x with st := .negotiating }).links[(0 : Fin 8)].st = .negotiating ∧
    ((remS.net.remote.find? fun q => q.1 == (9 : W16)) = some (9, { readReq with addr := 2 ^ 39 }, 0) ∧
      0 + remoteLimit (readyS 1500001) < (readyS 1500001).time.cycle) := by decide +kernel

/-- A request of a run, and a MIRROR segment of a snapshot, that wait for TAG 9. -/
def runReq : MemReq := { readReq with addr := 2 ^ 39, agent := .engine (entryKey 0 7) (some 0) }
def remRunS : State := { linkS id with net := { (linkS id).net with remote := [(9, runReq, 0)] } }

def tagT : SnapRun := { runT true with tags := [(9, 0)] }
def tagS (n : Nat) : State := { readyS n with mir := { (readyS n).mir with take := some tagT } }

theorem holds_LinkProtocol_timeouts :
    ((remRunS.net.remote.find? fun q => q.1 == (9 : W16)) = some (9, runReq, 0)) ∧
    ((tagS 1500001).net.remote.find? fun q => q.1 == (9 : W16)) = none ∧ (tagS 1500001).mir.take = some tagT ∧
    (tagT.tags.find? fun q => q.1 == 9) = some (9, 0) ∧ 0 + remoteLimit (tagS 1500001) < (tagS 1500001).time.cycle ∧
    tagT.bagDone = false := by decide +kernel

theorem holds_LinkProtocol_bad_frames :
    frameGood (frameT 4 false) (pktT 0 0 0 []) = false ∧ frameGood (frameT 4 true) (pktT 0 0 1 []) = false ∧ (linkS id).links[(0 : Fin 8)].st = .up ∧
    ((frameT 7 true).lseq ≠ (twoS id).links[(0 : Fin 8)].rxNext ∧ ((frameT 7 true).lseq - (twoS id).links[(0 : Fin 8)].rxNext).toNat < 512) := by
  decide +kernel

theorem test_ack_drops_frames :
    gives (exec (.idle 0 ⟨frameT 4 true, pktT 0 0 0 []⟩) (twoS id)) (fun t => t.links[(0 : Fin 8)].replay.map (·.1) == [1]) = true := by decide +kernel

theorem test_train_low_lanes :
    gives (exec (.portTrainingDone 0 0x0F) (twoS fun x => { x with st := .training }))
      (fun t => t.links[(0 : Fin 8)].width == 1 && t.links[(0 : Fin 8)].st == .negotiating) = true := by decide +kernel

/-! ### Fabric time -/

def timeS (f : Time → Time) (n : Nat) : State := { linkS id with time := f { Time.reset with cycle := n } }

def candT (p : Byte) : Candidate := { prio := p, idn := 7, eligible := true, depth := 1, port := 0 }

theorem holds_FabricTime :
    ((timeS (fun t => { t with
        st := .locked
        upstream := 0 }) 0).time.upstream.toNat = (0 : Fin 8).val ∧ (linkS id).links[(0 : Fin 8)].st = .up) ∧
    0 + 375000 ≤ nsNow (timeS id 562500) ∧
    (candBeats { candT 0x80 with idn := 0 } (candT 0x80) = true ∧ (timeS id 0).time.eligible = true ∧ (timeS id 0).time.prio = 0x80 ∧
      (timeS id 0).sec.idn = 0) ∧
    (∃ c ∈ [candT 0], c.eligible = true) ∧
    ((16000 : Int).natAbs ≤ 16000 ∧ ¬ (-16001 : Int).natAbs ≤ 16000) ∧
    (atFrame (timeS (fun t => { t with stepPending := true }) 960) = true ∧ taskActive (timeS (fun t => { t with stepPending := true }) 960) = false) ∧
    0 + 1000000 ≤ nsNow (timeS (fun t => { t with st := .holdover }) 1500000) := by decide +kernel

theorem holds_FabricTime_states :
    (timeS (fun t => { t with
      st := .locked
      upstream := 0 }) 0).time.st ≠ .free ∧
    ((timeS (fun t => { t with
        st := .locked
        upstream := 0 }) 562500).time.isMaster = false ∧ (0 : BitVec 4) ≠ 0xF) ∧
    candBeats (candT 0xFF) { candT 0x80 with idn := 0 } = !candBeats { candT 0x80 with idn := 0 } (candT 0xFF) := by decide +kernel

theorem test_time_runs_on_through_a_step :
    gives (exec .ftStepApply (timeS (fun t => { t with
      st := .acquiring
      upstream := 0
      stepPending := true
      ahead := 16000000 }) 960))
      (fun t => decide (1000000 ≤ ftNow t) && nsNow t == 640 && !upstreamLost t && decide (ftNow t < t.recorder.boundary)) = true := by
  decide +kernel

theorem test_holdover_bound :
    gives (exec .holdoverTick (timeS (fun t => { t with
      st := .holdover
      errBound := 0xFFFA }) 1500000)) (fun t => t.time.errBound == 0xFFFF) = true := by decide +kernel

/-! ### Power and the recorder -/

def hotS : State := { readyS 0 with regions := (readyS 0).regions.set 3 { Region.reset with calibrated := some 0 } }

theorem holds_PowerEvents :
    ((readyS 15360).power.shutdown = false ∧ (readyS 15360).power.winDone < winNow (readyS 15360)) ∧
    (2 ≤ 16 ∧ 16 ≤ 16) ∧
    (∀ f, (readyS 15000000).regions[(3 : Fin 29)].calibrated = some f → f + 10000000 ≤ nsNow (readyS 15000000)) ∧
    (12 ≤ (23 : Fin 29).val ∧ (23 : Fin 29).val < 24 ∧ (11 : Fin 29).val < 12) := by
  refine ⟨by decide +kernel, by decide, ?_, by decide⟩
  intro f h
  have e : (readyS 15000000).regions[(3 : Fin 29)].calibrated = none := by decide +kernel
  rw [e] at h
  cases h

/-- A generator that last calibrated 10 ms ago may again. -/
theorem holds_PowerEvents_calibrated : 0 + 10000000 ≤ nsNow { hotS with time := { Time.reset with cycle := 15000000 } } := by decide +kernel

/-- A running task on the twelve sectors has every crossing but the buckled one among its segments. -/
theorem holds_PowerEvents_crossing :
    (sectorS { taskT with segs := [0] } Core.reset 0).tasks[(0 : SlotIx)].live = true ∧
    spansCrossing (sectorS { taskT with segs := [0] } Core.reset 0) ((segSectors 0 2).flatMap sectorCores) 0 = true := by decide +kernel

theorem test_duty_from_power : nextDuty 800 200 16 1 600 = 10 ∧ nextDuty 600 200 16 1 600 = 16 ∧ nextDuty 9000 700 16 1 600 = 1 := by
  decide +kernel

theorem test_margin_alarm :
    gives (exec (.marginReport 3 8) (readyS 0)) (fun t => t.recorder.arriving.map (fun e => (e.code, e.sev)) == [(0x8001, 1), (0x8002, 2)] &&
      t.duty[(3 : SecIx)].marginUntil == 2) = true := by decide +kernel

def evT (sev : BitVec 2) : Event :=
  { ft := 0, code := 0x1002, sev := sev, tst := .free, unit := 3, arg0 := 0, arg1 := 0, arg2 := 0, summary := false, held := false, seq := 0 }

def logS (f : Recorder → Recorder) (n : Nat) : State := { readyS n with recorder := f Recorder.reset }

theorem holds_RecorderEvents :
    ((logS (fun r => { r with arriving := [evT 1] }) 2).recorder.arriving = [evT 1] ∧ (evT 1).hub < hubCycle (logS (fun r => { r with arriving := [evT 1] }) 2) ∧
      (logS (fun r => { r with arriving := [evT 1] }) 2).recorder.frozeIn false (evT 1).hub = false ∧
      (firstEvent (evT 1) []).sev ≠ 3) ∧
    ((0 : Nat) ≠ hubCycle (logS id 0) + 1 ∧ frozen (logS id 0) = false ∧ (logS id 0).recorder.held = [] ∧
      (logS id 0).recorder.summaries = []) ∧
    hubCycle (logS (fun r => { r with wroteAt := 1 }) 0) + 1 = 1 ∧
    ((firstEvent (evT 3) []).sev = 3 ∧ frozen { logS id 0 with reqFw := { ReqCopy.reset with freeze := true } } = true) ∧
    ((∀ v ∈ [evT 1], v.sev ≠ 3) ∧ (8191 : Nat) < 8192 ∧
      twf noEvent (logS (fun r => { r with
        queue := [evT 1]
        filled := 8191 }) 0).recorder.log = true) ∧
    (logS id 15000000).recorder.boundary ≤ ftNow (logS id 15000000) := by decide +kernel

theorem test_event_numbered :
    gives (exec .eventWrite (logS (fun r => { r with
      queue := [evT 1]
      nextSeq := 5 }) 0)) (fun t => (tget noEvent t.recorder.log 0).seq == 5 && t.recorder.filled == 1) = true := by decide +kernel

/-! ### The mailbox -/

theorem mbT (n : Nat) : mbReady (readyS n) .mgmt :=
  ⟨nofun, by show mbOccupied (readyS n) = false; rfl, by show FwState.ready ≠ FwState.recovery; decide⟩

theorem noResvs (n : Nat) (r : Fin 16) : (readyS n).resv[r] = none := by
  show (Vector.replicate 16 (none : Option Resv))[r.val] = none
  simp

/-- A REALTIME task in slot 0. -/
def rtS : State := { readyS 0 with tasks := (readyS 0).tasks.set 0 { taskT with hdr := { hdrT with flags := 8 } } }

theorem holds_MailboxCommands :
    (∀ p, mbReady (readyS 0) p) ∧
    (sectorMask 0x800 = some 0x800 ∧ (640 : W64).toNat % 640 = 0 ∧ (640 : W64).toNat < (1280 : W64).toNat ∧
      rtS.tasks[(0 : SlotIx)].resident = true ∧ rtS.tasks[(0 : SlotIx)].hdr.flag 3 = true ∧
      (∀ u : SlotIx, u ≠ 0 → rtS.tasks[u].resident = false) ∧ rtS.resv[(0 : Fin 16)] = none ∧ twf 0 (mbOf rtS .mgmt).data = true) ∧
    (resvS 0).resv[(15 : Fin 16)] = some resvT ∧
    ((128 : W32).toNat ≤ 128 ∧ (8064 : W32).toNat + (128 : W32).toNat ≤ 8192) := by
  refine ⟨fun p => ?_, by decide +kernel, by decide +kernel, by decide⟩
  cases p
  · exact ⟨fun _ => ⟨by decide +kernel, by decide +kernel⟩, by decide +kernel, by decide⟩
  · exact mbT 0

theorem test_reserve_refuses_odd_frames :
    gives (exec (.reserve .mgmt 0 1 641 1280) rtS) (fun t => t.mbMgmt.status == 3 && t.resv[(0 : Fin 16)].isNone) = true := by decide +kernel

def quietS (q : Quiesce) (n : Nat) : State := { readyS n with quiesce := some q }

def quT (readyAt : Option Nat) (restoring : Option Byte) : Quiesce :=
  { path := .mgmt, deadline := 1000, held := [], readyAt := readyAt, step := 3, restoring := restoring }

def testT (path : Option Path) : SelfTest :=
  { id := 0, sectors := 1, kind := 1, since := 0, st := 0, failing := 0, path := path }

def testS (n : Nat) : State := { readyS n with sec := { (readyS n).sec with tests := [testT none] } }

/-- A resident task blocks a change of the buckles. -/
def blockedS : State := { taskS (taskIn .ready) id 0 with
                          buckleNext := 1
                          buckle := 3 }

theorem holds_QuiesceAndTests :
    (mbReady (readyS 0) .mgmt ∧ (readyS 0).quiesce = none ∧ (1000000 : W32).toNat ≤ 1000000 ∧ unreserved (readyS 0) 1000000) ∧
    (quiesceWaits (quietS (quT none none) 0) = false ∧ quiesceBlocked (quietS (quT none none) 0) = false ∧
      (quietS (quT none none) 0).flits = []) ∧
    (atFrame (quietS (quT (some 640) none) 960) = true ∧ 640 ≤ nsNow (quietS (quT (some 640) none) 960) ∧
      railReady (quietS (quT (some 640) none) 960) (quT (some 640) none) = true) ∧
    (heldRestored (quietS (quT none (some 0)) 0) (quT none (some 0)) = true ∧ (quietS (quT none (some 0)) 0).mbQueue = []) ∧
    heldRestored (sectorS (taskIn .preempted) Core.reset 0) { quT none (some 0) with held := [0] } = false ∧
    ((quT none none).deadline ≤ nsNow (taskS taskT id 1500) ∧ quiesceWaits (taskS taskT id 1500) = true) ∧
    (quiesceWaits blockedS = false ∧ quiesceBlocked blockedS = true) ∧
    (sectorMask 1 = some 1 ∧ canTest (readyS 0) 1 1 = true ∧ canTest (taskS taskT id 0) 1 1 = false) ∧
    (((testS 0).sec.tests.find? fun x => x.id == 0 && x.st == 0) = some (testT none) ∧ canTest (testS 0) 1 1 = true) ∧
    0 + 1000000 * atLeast1 (testS 15000000000).stTimeout.toNat ≤ nsNow (testS 15000000000) := by
  refine ⟨⟨mbT 0, rfl, by decide, ?_⟩, by decide +kernel⟩
  intro r v h
  rw [noResvs] at h
  cases h

theorem test_quiesce_deferred :
    gives (exec (.selfTest .mgmt 1 1) (taskS taskT id 0)) (fun t => t.mbMgmt.status == 6 && t.sec.tests.length == 1) = true := by decide +kernel

/-! ### Registers -/


theorem noLatch (n : Nat) (r : Req) (off : Nat) : unlatched (readyS n) r off := by
  intro q h
  cases r <;> cases h

theorem holds_RegisterAccess :
    (∀ q ∈ readCleared, answers (readyS 0) q.1 = true ∧ served .host q.1 = true ∧ selValid (reqCopy (readyS 0) .host) q.1 = true ∧
      unitLive (readyS 0) (reqCopy (readyS 0) .host) q.1 = true ∧ regKind q.1 ≠ none) ∧
    (∀ q ∈ readCleared, ∀ r, unlatched (readyS 0) r q.1) ∧
    (discards (readyS 0) .host = false ∧ reaches (readyS 0) .mgmt 0x100 ∧ regKind 0x100 = some true ∧ (0x100 : Nat) % 4 = 0) ∧
    (answers (readyS 0) 0x10218 = true ∧ served .fw 0x10218 = true ∧ regKind 0x10218 ≠ some true) := by
  refine ⟨by decide +kernel, fun q _ r => noLatch 0 r q.1, ?_, by decide +kernel⟩
  unfold reaches readable
  decide +kernel

def droppedS : State := { readyS 0 with gregs := { (readyS 0).gregs with dropped := 7 } }

theorem test_read_clears :
    gives (exec (.readClear .host 0x10218 4) droppedS) (fun t => t.gregs.dropped == 0 && t.out == [.readData .host 7]) = true := by decide +kernel

/-- R315: a hot reset discards the host's writes until the link is up; R386: a queue is set up before READY. -/
theorem test_writes_around_resets :
    gives (exec .hotReset (readyS 0)) (fun t => t.cxl.inReset && gives (exec (.queueEnable .host) t) (fun u => !u.queues[(0 : Fin 8)].enable) &&
      gives (exec (.cxlLinkUp 16 0 1) t) fun u => gives (exec (.queueEnable .host) u) fun v => v.queues[(0 : Fin 8)].enable) = true ∧
    gives (exec (.queueEnable .host) State.reset) (fun t => t.queues[(0 : Fin 8)].enable && t.sec.fw == .booting) = true := by decide +kernel

theorem test_temp_reports_without_rails :
    (readLive .mgmt 0x400100 { readyS 0 with power := { (readyS 0).power with shutdown := true } }).1
      = (readyS 0).regions[(0 : Fin 29)].temp.setWidth 32 <<< 8 ∧
    (readLive .mgmt 0x200000 { readyS 0 with power := { (readyS 0).power with shutdown := true } }).1 = 0 := by decide +kernel

theorem test_mgmt_misaligned :
    gives (exec (.mgmtRead32 0x102) (readyS 0)) (fun t => t.out == [.mctp 2 1 0x102 0]) = true ∧
    gives (exec (.mgmtRead64 0x10218) droppedS) (fun t => t.out == [.mctp 2 0 0x10218 7]) = true := by decide +kernel

theorem holds_RegisterCommands :
    ∀ off ∈ [0x10D00, 0x100400, 0x10104 + 8 * (15 : SlotIx).val, 0x10300 + 32 * (15 : SlotIx).val, 0x10A00 + 8 * (7 : Fin 8).val,
        0x10A04 + 8 * (7 : Fin 8).val, 0x10B18, 0x400020, 0x300000, 0x400008],
      answers (readyS 0) off = true ∧ served .host off = true ∧ selValid (reqCopy (readyS 0) .host) off = true ∧
      unitLive (readyS 0) (reqCopy (readyS 0) .host) off = true := by decide +kernel

/-- A commit received in cycle 0 that no unit has reached. -/
def commitS (n : Nat) : State := { readyS n with staging := { Staging.reset with
                                                              received := some (0, 0)
                                                              epoch := 1 } }

theorem holds_RegisterCommands_values :
    ((commitS 32).staging.received = some (0, 0) ∧ 0 < (commitS 32).time.cycle ∧ 0 ≠ hubCycle (commitS 32) ∧ (commitS 32).staging.reached[(35 : Fin 36)] ≠ (commitS 32).staging.epoch ∧
      atBeat (commitS 32) = true) ∧
    (atFrame (commitS 960) = true ∧ (commitS 960).staging.reached[(23 : Fin 36)] ≠ (commitS 960).staging.epoch) ∧
    ((0 : Int) < ((4 : W32) - 0).toInt ∧ ((4 : W32) - (0 + BitVec.ofNat 32 4)).toInt = 0) ∧
    (-8 ≤ (((0x18 : W32).setWidth 5 : BitVec 5)).toInt ∧ (((0x08 : W32).setWidth 5 : BitVec 5)).toInt ≤ 8) := by decide +kernel

theorem test_cmd_tail_range :
    gives (exec (.cmdTailWrite .host 0 4) (listX hdrT id Core.reset 0)) (fun t => t.tasks[(0 : SlotIx)].cmd.tail == 4) = true ∧
    gives (exec (.cmdTailWrite .host 0 5) (listX hdrT id Core.reset 0))
      (fun t => t.tasks[(0 : SlotIx)].cmd.tail == 1 && t.recorder.arriving.map (fun e => e.code) == [0x0203]) = true := by decide +kernel

theorem test_tag_check_needs_an_idle_core :
    gives (exec (.tagCheckWrite .host false) (readyS 0)) (fun t => !t.cores[(0 : CoreIx)].girth.tagCheck) = true ∧
    gives (exec (.tagCheckWrite .host false) (sectorS taskT idleCore 0)) (fun t => t.cores[(0 : CoreIx)].girth.tagCheck) = true := by
  decide +kernel

/-! ### The host port and resets -/

/-- The link UP, back-invalidation on, one unit of 256 MiB at 256 MiB committed. -/
def hostS (f : Cxl → Cxl) : State :=
  { readyS 0 with cxl := f { Cxl.reset with
                             linkUp := true
                             width := 16
                             flit := 1
                             memEn := true
                             uioEn := true
                             biEn := true
                             hdmBase := 1
                             hdmSize := 1
                             hpaBase := 0x40000000
                             ways := 2
                             gran := 256 } }

def extT (a : W64) (n : Nat) : ExtReq := { write := false, addr := a, bytes := [], len := n, poison := false }

def slowT (write : Bool) : MemReq := { reqT write with id := 5 }

/-- A line of the window that a snoop holds back, of the request `id`. -/
def snoopT (line id : Nat) : Nat × Bool × MemReq := (line, true, { reqT true with id := id })

/-- A request of the slow tier with the messages `left` of it still unanswered. -/
def slowReqT (left : List Nat) : SlowReq :=
  { req := slowT false
    left := left
    got := []
    failed := false }

/-- The request's messages sent in cycle 0. -/
def slowS (write : Bool) (left : List Nat) (n : Nat) : State :=
  { readyS n with cxl := { Cxl.reset with
                           outstanding := [(slowT write, 0)]
                           slow := [slowReqT left] } }

/-- The line that a partial write reads before it is written has been sent. -/
def partS : State :=
  { readyS 0 with cxl := { Cxl.reset with
                           outstanding := [(slowT false, 0)]
                           slow := [{ slowReqT [5] with req := reqT true }] } }

theorem holds_HostPort_window :
    ((hostS id).cxl.linkUp = true ∧ (hostS id).cxl.memEn = true ∧ extBytes (extT 0x40000000 64) = 64 ∧
      (0x40000000 : W64).toNat % 64 + 64 ≤ 64 ∧ dpaOf (hostS id) 0x40000000 = some 0 ∧
      dpaOf (hostS id) (0x40000000 + 2 ^ 29 - 64) = some (2 ^ 28 - 64) ∧ dpaOf (hostS id) (0x40000000 + 2 ^ 29) = none ∧
      dpaOf (hostS id) 0x3FFFFFFF = none) ∧
    ((hostS id).cxl.uioEn = true ∧ (0x40000000 : W64).toNat % 256 + 256 ≤ 256 ∧
      (dpaOf (hostS id) (0x40000000 + 256 - 1)).isSome = true) ∧
    (256 < (0x400001C0 : W64).toNat % 256 + 128 ∧ dpaOf (hostS id) 0x400001C0 = some 0xC0 ∧
      dpaOf (hostS id) ((0x400001C0 / 256 + 1) * 256) = some 256 ∧ (dpaOf (hostS id) (0x400001C0 + 128 - 1)).isSome = true) := by
  decide +kernel

theorem holds_HostPort_slow :
    ((slowS false [5] 0).cxl.waiting = [] ∧
      ((slowS false [5] 0).cxl.outstanding.find? fun q => q.1.id == 5) = some (slowT false, 0) ∧
      ((slowS false [5] 0).cxl.slow.find? fun u => u.left.contains 5) = some (slowReqT [5]) ∧
      (slowReqT [5]).req.agent = .stream 0 3) ∧
    (((slowS false [5, 6] 0).cxl.slow.find? fun u => u.left.contains 5) = some (slowReqT [5, 6]) ∧
      (slowReqT [5, 6]).left.erase 5 ≠ []) ∧
    ((partS.cxl.outstanding.find? fun q => q.1.id == 5) = some (slowT false, 0) ∧
      (partS.cxl.slow.find? fun u => u.left.contains 5) = some { slowReqT [5] with req := reqT true } ∧ partS.cxl.waiting = []) ∧
    ((slowT false).write = false ∧ (slowT true).write = true) ∧
    0 + ccOf (slowS false [5] 1500001) (1000 * atLeast1 (slowS false [5] 1500001).cxl.timeout.toNat) <
      (slowS false [5] 1500001).time.cycle := by decide +kernel

theorem holds_HostPort :
    ((hostS fun x => { x with linkUp := false }).cxl.linkUp = false ∧ (2 : BitVec 2) ≠ 3) ∧
    (([snoopT 64 1, snoopT 128 2].filter fun q => q.1 == (64 : W64).toNat) = [snoopT 64 1] ∧
      ∀ q ∈ [snoopT 64 1, snoopT 128 2], q.1 ≠ (64 : W64).toNat → q.2.2.id ≠ (snoopT 64 1).2.2.id) ∧
    ((hostS id).cxl.biEn = true ∧ 1 ≤ (hostS id).cxl.hdmSize.toNat ∧ (896 : BitVec 11).toNat + (256 : BitVec 9).toNat = 1152 ∧
      16 ∈ [1, 2, 4, 8, 16] ∧ 16384 ∈ [256, 512, 1024, 2048, 4096, 8192, 16384]) ∧
    ((hostS id).cxl.outstanding = [] ∧ (hostS id).sec.fw = .ready) ∧
    twf true (hostS id).cxl.masked = true ∧ twf false (hostS id).cxl.pendingBits = true := by decide +kernel

theorem test_window_offset :
    gives (exec (.hostMemRequest (extT 0x40000240 64)) (hostS id)) (fun t => t.fabric.map (fun r => r.addr) == [2 ^ 28 + 320]) = true := by
  decide +kernel

theorem test_interleaved_peer_granules :
    gives (exec (.uioPeerRequest (extT 0x400001C0 128)) (hostS id))
      (fun t => t.fabric.map (fun r => (r.addr, r.len)) == [(2 ^ 28 + 192, 64), (2 ^ 28 + 256, 64)]) = true := by decide +kernel

theorem test_unmask_sends_pending :
    gives (exec (.msixVectorUnmask 5) (hostS fun x => { x with
      pendingBits := [(5, true)] })) (fun t => t.out == [.msix 5] && t.cxl.pendingBits.isEmpty) = true := by decide +kernel

def imgT (svn : W16) : FwImage := { valid := true, svn := svn, build := 1, minor := 0, major := 3 }
def fuseT : Fuses := { idn := 7, b0 := true, signedTasks := false, minSvn := 2 }

theorem holds_Resets :
    tooHot (readyS 0) = false ∧ (State.reset.sec.fw = .booting ∧ State.reset.regions[(28 : Fin 29)].locked = false) ∧
    (({ readyS 0 with sec := Security.reset } : State).sec.fw = .booting ∧ (readyS 0).regions[(28 : Fin 29)].locked = true) ∧
    ((readyS 0).sec.fw ≠ .booting ∧ (readyS 0).sec.updating = false ∧ ({ (readyS 0).sec with updating := true } : Security).updating = true) ∧
    (readyS 0).sec.fw = .ready := by decide +kernel

theorem test_boot_needs_the_minimum_svn :
    gives (exec (.powerUp (imgT 1) (imgT 3) fuseT) State.reset) (fun t => t.sec.fw == .booting && t.sec.svn == 3 && t.sec.fwSlot) = true ∧
    gives (exec (.powerUp (imgT 1) (imgT 0) fuseT) State.reset) (fun t => t.sec.fw == .recovery) = true := by decide +kernel

theorem test_perst_faults_live_tasks :
    gives (exec .perstN (taskS taskT id 0)) (fun t => t.tasks[(0 : SlotIx)].st == .faulted && t.tasks[(0 : SlotIx)].reason == 0xFE) = true := by
  decide +kernel

theorem test_flr_retires_companion_tags :
    gives (exec .flr (modRhaor 2 (readyS 0) fun x => { x with enable := true, tags := [⟨5, 0, 0, 0⟩] }))
      (fun t => t.rhaor[(2 : Fin 8)].tags.isEmpty && !t.rhaor[(2 : Fin 8)].enable && t.rhaor[(2 : Fin 8)].errCount == 1) = true := by
  decide +kernel

/-! ### The step, the rules stated whole -/

theorem holds_IdleStepIsTick :
    (State.reset.pending = [] ∧ settled State.reset = true) ∧ (incS.pending = [] ∧ settled incS = false) := by decide +kernel

theorem test_step_takes_the_front :
    gives (step { readyS 0 with pending := [.cacheEnable true, .flr] }) (fun t => t.pending == [.flr] && t.cxl.cacheEn) = true := by decide +kernel

theorem test_tick_advances :
    settled State.reset = true ∧ (advanceClock State.reset).time.cycle = 1 ∧
    (advanceClock State.reset).duty[(0 : SecIx)].ecyc = 1 := by decide +kernel

theorem holds_StepKeepsMemoryCanonical :
    State.reset.memOk = true ∧ (portS 0 fun x => { x with queue := [queuedT true] }).memOk = true ∧
    gives (step { portS 0 (fun x => { x with queue := [queuedT true] }) with pending := [.stackRequestServe 0 0 []] })
      (fun t => t.memOk) = true := by decide +kernel

theorem holds_StepKeepsTablesCanonical :
    State.reset.tablesOk = true ∧ (gS gFull).tablesOk = true ∧
    gives (step { gS gFull with pending := [.globalSignalApply 3] }) (fun t => t.tablesOk) = true := by decide +kernel

def latchS : State := { readyS 0 with reqHost := { ReqCopy.reset with latch := some (0x400010, 9) } }

theorem holds_PairReads :
    (isPairLow 0x400010 = true ∧ (0x400010 : W32).toNat % 4 = 0) ∧
    ((reqCopy latchS .host).latch = some (0x400010, 9) ∧ (0x400014 : W32).toNat = 0x400010 + 4 ∧ isPairLow (0x400014 : W32).toNat = false) ∧
    (0x10218 : W32).toNat % 8 = 0 := by decide +kernel

theorem test_high_half_is_latched :
    gives (exec (.lowHalfRead .host 0x400014) latchS) (fun t => t.out == [.readData .host 9]) = true := by decide +kernel

theorem holds_TdpCapWrites :
    reaches (readyS 0) .host 0x400008 ∧ (600 : Nat) = max 600 (min 1500 ((599 : W32).toNat % 2048)) ∧
    (1500 : Nat) = max 600 (min 1500 ((2047 : W32).toNat % 2048)) ∧
    ((readyS 15360).power.shutdown = false ∧ (readyS 15360).power.winDone < winNow (readyS 15360)) := by
  unfold reaches readable
  decide +kernel

theorem test_cap_rises_at_the_window :
    gives (exec (.tdpCapWrite .host 900) (readyS 0)) (fun t => t.power.tdpCap == 600 && t.power.tdpNext == 900) = true := by decide +kernel

theorem test_measurements_name_the_running_image :
    gives (exec (.spdmMessage (.measurements 0x13)) (readyS 0)) (fun t => match t.out with
      | [.measured x] => x.svn == (readyS 0).sec.svn && x.minSvn == (readyS 0).sec.minSvn
      | _ => false) = true := by decide +kernel

theorem holds_Resets_spdm : (readyS 0).sec.fw = .ready ∧ ∀ n, (Spdm.ideKey true) ≠ .measurements n := by
  exact ⟨by decide +kernel, fun n h => by cases h⟩

theorem holds_TrimRange :
    (20000 < (20001 : W32).toInt.natAbs ∧ 20000 < (-20001 : W32).toInt.natAbs ∧ (readyS 0).time.st ≠ .holdover) ∧
    ((-20000 : W32).toInt.natAbs ≤ 20000 ∧ (timeS (fun t => { t with st := .holdover }) 0).time.st = .holdover) := by decide +kernel

/-! ### Premises about due times and about what a request waits for -/

/-- A response of four granules of which one finds no room in its cycle (R171). -/
def waitT : MemResp := { respT false with req := { readReq with len := 128 }, data := List.replicate 128 7, poison := [false, false], left := [0, 1] }
def waitS : State :=
  let s := strX 0 strT (fun x => { x with landAt := (1, 192) }) id
  { s with resps := [waitT] }

theorem holds_StreamEngine_waits : landNow waitS 0 = some waitT ∧ waits waitS 0 waitT = [1] := by decide +kernel

theorem holds_DescriptorReads_due :
    descDue (descS writeRaw (.scfg 3 64 0)) 0 0 = some (64, 48) ∧ descDue (descS [] (.scfg 3 64 0)) 0 0 = some (64, 48) ∧
    descDue winStall 0 0 = some (64, 32) ∧ descDue winStalled 0 0 = some (64, 32) ∧
    openT.openAt ≤ (wndX 0 openT id id).time.cycle ∧
    (wndX 0 { openT with openAt := 1 } id id).time.cycle < (windowOf (wndX 0 { openT with openAt := 1 } id id) 0 2).openAt := by
  decide +kernel

theorem holds_premises_of_power :
    (windowDue (readyS 0) = false ∧ (readyS 0).power.shutdown = false) ∧
    (readyS 0).regions[portRegion 0].stretched (nsNow (readyS 0)) = false ∧
    (({ Region.reset with slow := (0, 10, 3) } : Region).slow.2.2 ≤ 3 * ({ Region.reset with slow := (0, 10, 3) } : Region).slow.2.1 / 10 ∧
      ({ Region.reset with slow := (0, 10, 3) } : Region).lostBy 5 = 1) ∧
    ({ readyS 0 with power := { (readyS 0).power with shutdown := true } } : State).power.shutdown = true := by decide +kernel

theorem holds_premises_of_requests :
    (queuedT true).part = false ∧ (queuedT false).part = false ∧
    max (0 : Nat) heldS.tasks[(0 : SlotIx)].stash.freedAt = 0 ∧ (linkS id).net.fetching.contains 9 = false ∧
    nsNow (restoreS waitCore) < restT.lastWrite + 10000000 ∧
    placeFree (sectorS (loadedT .ready) readyCore 0) 0 = true ∧ placeFree savedS 0 = true ∧ (resvS 960).quiesce = none ∧
    (quiesceBusy (taskS taskT id 1500) = true ∧
      (quiesceWaits (sectorS (taskIn .ending) haltedCore 1500) = true ∧ quiesceBusy (sectorS (taskIn .ending) haltedCore 1500) = false)) ∧
    (awake latchS .host 0x400014 = true ∧ awake (readyS 0) .fw 0x10218 = true) := by decide +kernel

/-! ### What the rules of links and of the slow tier compute -/

/-- R323: the check value of the nine digits, which every description of CRC-32C gives (PRESUMED, log 112). -/
theorem test_crc32c : crc32c [0x31, 0x32, 0x33, 0x34, 0x35, 0x36, 0x37, 0x38, 0x39] = 0xE3069283 := by decide +kernel

/-- R326: a frame without credits waits, and leaves once the partner returns them. -/
theorem test_credits_let_a_frame_go :
    gives (exec (.packetForward 0 { pktT 1 0 0 (List.replicate 64 1) with dest := 1, src := 0 }) (linkS fun x => { x with credit1 := 1 }))
      (fun t => t.out.isEmpty && t.links[(0 : Fin 8)].waiting.length == 1) = true ∧
    gives (exec (.idle 0 ⟨sealFrame { lseq := 0xFFFF, ack := 0xFFFF, retry := false, good := true, corr := 0, credit1 := 1 } (pktT 0 0 0 []), pktT 0 0 0 []⟩)
        (linkS fun x => { x with
          credit1 := 1
          waiting := [({ pktT 1 0 0 (List.replicate 64 1) with dest := 1, src := 0 }, none)] }))
      (fun t => t.out.length == 1 && t.links[(0 : Fin 8)].waiting.isEmpty && t.links[(0 : Fin 8)].credit1 == 0) = true := by decide +kernel

/-- R390: a training from stored seeds that finds no lanes goes on from the defaults, once. -/
theorem test_seeds_fail_once :
    gives (exec (.portTrainingDone 0 0) (twoS fun x => { x with st := .training, fromSeeds := true, seeds := some { own := 0, partner := 1, settings := 0 } }))
      (fun t => t.links[(0 : Fin 8)].st == .training && t.links[(0 : Fin 8)].seeds.isNone) = true ∧
    gives (exec (.portTrainingDone 0 0) (twoS fun x => { x with st := .training })) (fun t => t.links[(0 : Fin 8)].st == .failed) = true := by
  decide +kernel

/-- R300: the rest of a line of which a write covers the first 8 bytes is written back as it was read. -/
theorem test_partial_line_merged :
    (mergedLine { reqT true with len := 8, data := List.replicate 8 7 } 9 0 (List.replicate 64 1) false).data =
      List.replicate 8 7 ++ List.replicate 56 1 := by decide +kernel

/-- R125: the parts of a core's save record that the manual lays out are read back as they were written. -/
theorem test_context_record_round_trip :
    let x := { Ctx.reset with pc := 5, seed := 7, vflags := 3, st := .halted }
    (Ctx.fromBytes Ctx.reset x.bytes).pc = 5 ∧ (Ctx.fromBytes Ctx.reset x.bytes).seed = 7 ∧ (Ctx.fromBytes Ctx.reset x.bytes).st = .halted := by
  decide +kernel

/-! ### WellFormed: one ill-formed term for each check -/

theorem refused_mma :
    (Instr.mmaF 0 { mfT with xb := 1 }).wellFormed = false ∧ (Instr.mmaF 0 { mfT with xu := 3 }).wellFormed = false ∧
    (Instr.mmaH 0 { mfT with xu := 3 }).wellFormed = false ∧ (Instr.mmaQ 0 { mfT with xu := 3 }).wellFormed = false ∧
    (Instr.mmaN 0 { mfT with xb := 4 }).wellFormed = false ∧ (Instr.mmaN 0 { mfT with xu := 3 }).wellFormed = false ∧
    (Instr.mmaS 0 { mfT with xb := 7 }).wellFormed = false ∧ (Instr.mmaS 0 { mfT with xu := 3 }).wellFormed = false := by decide

theorem refused_slots :
    (Instr.ginj 0 { gT with xu := 3 }).wellFormed = false ∧ (Instr.loop 0 0 1).wellFormed = false ∧
    (Instr.vcmp 0 1 2 3 true 3).wellFormed = false ∧ (Instr.vcvt 0 1 2 10 false false).wellFormed = false ∧
    (Instr.vext 0 1 2 15).wellFormed = false := by decide

theorem refused_packets :
    ∀ f ∈ [Instr.write 0, .read 0, .resp 0, .signal 0, .coll 0, .tsync 0, .mirror 0, .mgmt 0, .nak 0, .packetForward 0,
        .linkFrameReceive 0 (frameT 0 true)],
      (f { pktT 1 0 0 [1, 2] with len := 1 }).wellFormed = false := by decide

theorem refused_accesses :
    (Instr.lowHalfRead .host 0x2000000).wellFormed = false ∧
    (Instr.readClear .host 0 3).wellFormed = false ∧ (Instr.registerWrite .host 0x2000000 4 0).wellFormed = false ∧
    (Instr.hostMemRequest (extT 0 65)).wellFormed = false ∧ (Instr.hostMemRequest (extT 0 0)).wellFormed = false ∧
    (Instr.hostMemRequest { extT 0 64 with write := true }).wellFormed = false ∧ (Instr.uioPeerRequest (extT 0 257)).wellFormed = false ∧
    (Instr.cxlLinkUp 2 0 0).wellFormed = false ∧ (Instr.cxlLinkUp 16 0 3).wellFormed = false := by decide

theorem accepted_terms :
    (Instr.mmaN 0 { mfT with xb := 3 }).wellFormed = true ∧ (Instr.loop 0 1 0).wellFormed = true ∧
    (Instr.write 0 (pktT 1 0 0 [1, 2])).wellFormed = true ∧ (Instr.registerWrite .fw 0x1FFFFFC 8 0).wellFormed = true ∧
    (Instr.uioPeerRequest (extT 0 256)).wellFormed = true := by decide

end Sys2Proof.Tests
end

section
/-! PROOF. Register reads and the latch of R7: what a live read leaves alone, what a read of 32 and of 64 bits answers, and from
these the statement on 64-bit pairs. -/

namespace Sys2Proof.Machine

/-! ### The frame of a live read -/

/-- What a register read leaves alone when it does not touch the latch: the messages sent, stacked memory, and every requester's own
copies. -/
structure ReadFrame (s t : State) : Prop where
  out : t.out = s.out
  dram : t.dram = s.dram
  reqHost : t.reqHost = s.reqHost
  reqMgmt : t.reqMgmt = s.reqMgmt
  reqFw : t.reqFw = s.reqFw

theorem ReadFrame.refl (s : State) : ReadFrame s s := ⟨rfl, rfl, rfl, rfl, rfl⟩

theorem ReadFrame.trans {s t u : State} (a : ReadFrame s t) (b : ReadFrame t u) : ReadFrame s u :=
  ⟨b.out.trans a.out, b.dram.trans a.dram, b.reqHost.trans a.reqHost, b.reqMgmt.trans a.reqMgmt, b.reqFw.trans a.reqFw⟩

theorem ReadFrame.reqCopy {s t : State} (h : ReadFrame s t) (r : Req) : reqCopy t r = reqCopy s r := by
  cases r
  · exact h.reqHost
  · exact h.reqMgmt
  · exact h.reqFw

theorem ReadFrame.ite {s t u : State} {p : Prop} [Decidable p] (a : ReadFrame s t) (b : ReadFrame s u) :
    ReadFrame s (if p then t else u) := by
  split
  · exact a
  · exact b

section Clearing
variable (x : ReqCopy) (r : Req) (off : Nat) (s : State)

theorem clearHub_frame : ReadFrame s (clearHub x off s) := by
  unfold clearHub
  repeat' refine .ite ?_ ?_
  all_goals exact ⟨rfl, rfl, rfl, rfl, rfl⟩

theorem clearCore_frame : ReadFrame s (clearCore x off s) := by
  unfold clearCore
  repeat' refine .ite ?_ ?_
  all_goals exact ⟨rfl, rfl, rfl, rfl, rfl⟩

theorem clearStack_frame : ReadFrame s (clearStack x off s) := by
  unfold clearStack
  repeat' refine .ite ?_ ?_
  all_goals exact ⟨rfl, rfl, rfl, rfl, rfl⟩

theorem clearLink_frame : ReadFrame s (clearLink x off s) := by
  unfold clearLink
  repeat' refine .ite ?_ ?_
  all_goals exact ⟨rfl, rfl, rfl, rfl, rfl⟩

theorem clearPower_frame : ReadFrame s (clearPower x off s) := by
  unfold clearPower
  repeat' refine .ite ?_ ?_
  all_goals exact ⟨rfl, rfl, rfl, rfl, rfl⟩

theorem clearRecorder_frame : ReadFrame s (clearRecorder off s) := by
  unfold clearRecorder
  repeat' refine .ite ?_ ?_
  all_goals exact ⟨rfl, rfl, rfl, rfl, rfl⟩

theorem clearRc_frame : ReadFrame s (clearRc r off s) :=
  .ite (.refl s) <| .ite (clearHub_frame _ off s) <| .ite (clearCore_frame _ off s) <| .ite (clearStack_frame _ off s) <|
    .ite (clearLink_frame _ off s) <| .ite (clearPower_frame _ off s) <| .ite (clearRecorder_frame off s) <|
    .ite ⟨rfl, rfl, rfl, rfl, rfl⟩ (.refl s)

/-- A live read changes at most the fields that reads clear (R8) and, where it selects nothing, the recorder (R14). -/
theorem readLive_frame : ReadFrame s (readLive r off s).2 := by
  unfold readLive
  dsimp only
  split_ifs
  · exact .refl s
  · exact .refl s
  · exact ⟨rfl, rfl, rfl, rfl, rfl⟩
  · exact .refl s
  · exact clearRc_frame r off s

end Clearing

/-! ### A requester's own copies -/

section Copies
variable (s : State) (r : Req) (f : ReqCopy → ReqCopy)

@[simp] theorem reqCopy_modReq_same : reqCopy (modReq s r f) r = f (reqCopy s r) := by cases r <;> rfl

theorem reqCopy_modReq_other {q : Req} (h : q ≠ r) : reqCopy (modReq s r f) q = reqCopy s q := by
  revert h
  cases r <;> cases q <;> simp [reqCopy, modReq]

@[simp] theorem modReq_out : (modReq s r f).out = s.out := by cases r <;> rfl

@[simp] theorem reqCopy_emit (m : OutMsg) : reqCopy (emit s m) r = reqCopy s r := by cases r <;> rfl

end Copies

/-! ### What a read answers (R7) -/

section Reads
variable (r : Req) {off : Nat} {s : State}

/-- A read of a low half answers it live and records the pair with its high half of the same instant. -/
theorem read32_low (ha : off % 4 = 0) (hl : isPairLow off = true) :
    read32 r off s = ((readLive r off s).1,
      modReq (readLive r off s).2 r fun x => { x with latch := some (off, (readLive r (off + 4) s).1) }) := by
  simp [read32, ha, hl]

/-- A read of the high half of the latched pair answers the latched value and changes nothing. -/
theorem read32_latched {lo : Nat} {v : W32} (hq : (reqCopy s r).latch = some (lo, v)) (ho : off = lo + 4) (ha : off % 4 = 0)
    (hl : isPairLow off = false) (hw : awake s r off = true) : read32 r off s = (v, s) := by
  subst ho
  simp [read32, ha, hl, hq, hw]

/-- A read of any other word is live. -/
theorem read32_unlatched (hu : Claims.unlatched s r off) (ha : off % 4 = 0) (hl : isPairLow off = false) :
    read32 r off s = readLive r off s := by
  cases hq : (reqCopy s r).latch with
  | none => simp [read32, ha, hl, hq]
  | some q => simp [read32, ha, hl, hq, hu q hq]

/-- An aligned read of 64 bits is two live reads. -/
theorem read64_aligned (ha : off % 8 = 0) :
    read64 r off s = (BitVec.ofNat 64 ((readLive r off s).1.toNat + (readLive r (off + 4) (readLive r off s).2).1.toNat * 2 ^ 32),
      (readLive r (off + 4) (readLive r off s).2).2) := by
  simp [read64, ha]

/-- It leaves the latch, as every copy, alone. -/
theorem read64_frame (ha : off % 8 = 0) : ReadFrame s (read64 r off s).2 := by
  rw [read64_aligned r ha]
  exact (readLive_frame r off s).trans (readLive_frame r (off + 4) _)

end Reads

/-! ### The two commands -/

section Commands
variable (r : Req) (off : W32) (s : State)

theorem exec_lowHalfRead : exec (.lowHalfRead r off) s =
    .next (emit (read32 r off.toNat s).2 (.readData r ((read32 r off.toNat s).1.setWidth 64))) := rfl

theorem exec_readClear_eight : exec (.readClear r off 8) s =
    .next (emit (read64 r off.toNat s).2 (.readData r (read64 r off.toNat s).1)) := by
  change execReadClear r off 8 s = _
  rw [execReadClear, readReg, if_pos rfl]

/-- What is sent after a frame-keeping read is appended to what was sent before it. -/
theorem ReadFrame.emit_out {s t : State} (h : ReadFrame s t) (m : OutMsg) : (emit t m).out = s.out ++ [m] := by
  rw [← h.out]; rfl

variable {r off s}

theorem lowHalfRead_of_low (hl : isPairLow off.toNat = true) (ha : off.toNat % 4 = 0) :
    ∃ t, exec (.lowHalfRead r off) s = .next t ∧
      t.out = s.out ++ [.readData r ((readLive r off.toNat s).1.setWidth 64)] ∧
      (reqCopy t r).latch = some (off.toNat, (readLive r (off.toNat + 4) s).1) ∧
      ∀ q, q ≠ r → reqCopy t q = reqCopy s q := by
  have hf := readLive_frame r off.toNat s
  refine ⟨_, exec_lowHalfRead r off s, ?_⟩
  rw [read32_low r ha hl]
  refine ⟨?_, by simp, fun q hq => ?_⟩
  · change (modReq _ r _).out ++ _ = _
    rw [modReq_out, hf.out]
  · rw [reqCopy_emit, reqCopy_modReq_other _ _ _ hq, hf.reqCopy]

theorem lowHalfRead_of_latched {lo : Nat} {v : W32} (hq : (reqCopy s r).latch = some (lo, v)) (ho : off.toNat = lo + 4)
    (ha : off.toNat % 4 = 0) (hl : isPairLow off.toNat = false) (hw : awake s r off.toNat = true) :
    exec (.lowHalfRead r off) s = .next { s with out := s.out ++ [.readData r (v.setWidth 64)] } := by
  rw [exec_lowHalfRead, read32_latched r hq ho ha hl hw]; rfl

theorem lowHalfRead_of_unlatched (hu : Claims.unlatched s r off.toNat) (ha : off.toNat % 4 = 0) (hl : isPairLow off.toNat = false) :
    ∃ t, exec (.lowHalfRead r off) s = .next t ∧
      t.out = s.out ++ [.readData r ((readLive r off.toNat s).1.setWidth 64)] ∧ reqCopy t r = reqCopy s r := by
  have hf := readLive_frame r off.toNat s
  refine ⟨_, exec_lowHalfRead r off s, ?_⟩
  rw [read32_unlatched r hu ha hl, reqCopy_emit]
  exact ⟨hf.emit_out _, hf.reqCopy r⟩

theorem readClear_eight_of_aligned (ha : off.toNat % 8 = 0) :
    ∃ t, exec (.readClear r off 8) s = .next t ∧ reqCopy t r = reqCopy s r ∧
      t.out = s.out ++ [.readData r (BitVec.ofNat 64 ((readLive r off.toNat s).1.toNat +
        (readLive r (off.toNat + 4) (readLive r off.toNat s).2).1.toNat * 2 ^ 32))] := by
  have hf := read64_frame (s := s) r ha
  refine ⟨_, exec_readClear_eight r off s, ?_, ?_⟩
  · rw [reqCopy_emit, hf.reqCopy]
  · rw [hf.emit_out, read64_aligned r ha]

end Commands

/-- Settles O58: a clause for each of the four reads of R7, a low half, the high half of the latched pair, any other word, and an
aligned pair. -/
theorem pairReads : Obligations.PairReads :=
  ⟨fun _ _ _ => lowHalfRead_of_low, fun _ _ _ _ _ => lowHalfRead_of_latched, fun _ _ _ => lowHalfRead_of_unlatched,
    fun _ _ _ => readClear_eight_of_aligned⟩

end Sys2Proof.Machine
end

section
/-! PROOF. What the hub's bookkeeping leaves alone: the requests it sends, the completions it writes, the faults and releases of tasks.
Two frames say it once for every such operation; the statements on task states and on power events use them. -/

namespace Sys2Proof.Machine

/-! ### The two frames -/

/-- What every operation of the hub leaves alone: time, the clock regions, power, duty and stacked memory; an event on its way to the
recorder stays on its way. -/
structure Calm (s t : State) : Prop where
  time : t.time = s.time := by rfl
  regions : t.regions = s.regions := by rfl
  power : t.power = s.power := by rfl
  duty : t.duty = s.duty := by rfl
  dram : t.dram = s.dram := by rfl
  events : ∀ v ∈ s.recorder.arriving, v ∈ t.recorder.arriving := by exact fun _ h => h

/-- What the sending of requests and the completion of entries leave alone besides: the stack ports, and of every task all but its
command list and its stash. -/
structure HubFrame (s t : State) : Prop extends Calm s t where
  ports : t.ports = s.ports := by rfl
  tasks : ∀ j : SlotIx, ∃ c x, t.tasks[j] = { s.tasks[j] with cmd := c, stash := x } := by exact fun _ => ⟨_, _, rfl⟩

theorem Calm.refl (s : State) : Calm s s := {}

theorem Calm.trans {s t u : State} (a : Calm s t) (b : Calm t u) : Calm s u where
  time := b.time.trans a.time
  regions := b.regions.trans a.regions
  power := b.power.trans a.power
  duty := b.duty.trans a.duty
  dram := b.dram.trans a.dram
  events v h := b.events v (a.events v h)

theorem HubFrame.refl (s : State) : HubFrame s s := {}

theorem HubFrame.trans {s t u : State} (a : HubFrame s t) (b : HubFrame t u) : HubFrame s u where
  toCalm := a.toCalm.trans b.toCalm
  ports := b.ports.trans a.ports
  tasks j := by
    obtain ⟨_, _, ha⟩ := a.tasks j
    obtain ⟨c, x, hb⟩ := b.tasks j
    exact ⟨c, x, by rw [hb, ha]⟩

theorem Calm.ite {s t u : State} {p : Prop} [Decidable p] (a : Calm s t) (b : Calm s u) : Calm s (if p then t else u) := by
  split <;> assumption

theorem HubFrame.ite {s t u : State} {p : Prop} [Decidable p] (a : HubFrame s t) (b : HubFrame s u) :
    HubFrame s (if p then t else u) := by
  split <;> assumption

theorem Calm.foldl {α : Type} {f : State → α → State} (h : ∀ s a, Calm s (f s a)) (l : List α) (s : State) :
    Calm s (l.foldl f s) :=
  List.foldlRecOn l f (Calm.refl s) fun u hu a _ => hu.trans (h u a)

theorem HubFrame.foldl {α : Type} {f : State → α → State} (h : ∀ s a, HubFrame s (f s a)) (l : List α) (s : State) :
    HubFrame s (l.foldl f s) :=
  List.foldlRecOn l f (HubFrame.refl s) fun u hu a _ => hu.trans (h u a)

/-! ### Single updates -/

section Updates
variable (s : State)

theorem modTask_same (t : SlotIx) (f : Task → Task) : (modTask s t f).tasks[t] = f s.tasks[t] := by simp [modTask]

theorem modTask_other {t j : SlotIx} (f : Task → Task) (h : j ≠ t) : (modTask s t f).tasks[j] = s.tasks[j] := by
  have hv : t.val ≠ j.val := fun e => h (Fin.ext e.symm)
  simp [modTask, hv]

theorem modTask_self (t : SlotIx) (f : Task → Task) (h : f s.tasks[t] = s.tasks[t]) : modTask s t f = s := by
  rw [modTask, h]
  simp

theorem modTask_calm (t : SlotIx) (f : Task → Task) : Calm s (modTask s t f) := {}

/-- An update of a task's command list and stash. -/
theorem modTask_frame (t : SlotIx) (f : Task → Task) (h : ∀ T, ∃ c x, f T = { T with cmd := c, stash := x }) :
    HubFrame s (modTask s t f) where
  tasks j := by
    by_cases hj : j = t
    · subst hj; rw [modTask_same]; exact h _
    · rw [modTask_other s f hj]; exact ⟨_, _, rfl⟩

theorem modCmd_frame (t : SlotIx) (f : CmdList → CmdList) : HubFrame s (modCmd s t f) :=
  modTask_frame s t _ fun _ => ⟨_, _, rfl⟩

/-- The event that a unit records is on its way. -/
theorem record_noted (code : Nat) (sev : BitVec 2) (unit a0 a1 a2 : Nat) :
    Claims.Noted (record s code sev unit a0 a1 a2) (BitVec.ofNat 16 code) sev unit :=
  ⟨_, List.mem_append_right _ (List.mem_singleton_self _), rfl, rfl, rfl⟩

theorem mir_frame (m : Mirror) : HubFrame s { s with mir := m } := {}

theorem record_frame (code : Nat) (sev : BitVec 2) (unit a0 a1 a2 : Nat) : HubFrame s (record s code sev unit a0 a1 a2) where
  events _ h := List.mem_append_left _ h

end Updates

theorem noted_mono {s t : State} (h : ∀ v ∈ s.recorder.arriving, v ∈ t.recorder.arriving) {code : W16} {sev : BitVec 2} {unit : Nat}
    (n : Claims.Noted s code sev unit) : Claims.Noted t code sev unit :=
  let ⟨v, hv, e⟩ := n
  ⟨v, h v hv, e⟩

/-! ### Requests (R197, R285, R299 to R302, R320) -/

section Requests

theorem putFrame_frame (p : Fin 8) (k : Packet) (s : State) : HubFrame s (putFrame p k s) := {}

theorem sendFrame_frame (p : Fin 8) (k : Packet) (o : Option (Fin 8)) (s : State) : HubFrame s (sendFrame p k o s) :=
  .ite (putFrame_frame p k s) {}

theorem sendPacket_frame {k : Packet} {s t : State} (h : sendPacket k s = some t) : HubFrame s t := by
  unfold sendPacket at h
  split at h
  · cases h
  · cases h; exact sendFrame_frame _ k none s

theorem sendOrDrop_frame (k : Packet) (s : State) : HubFrame s (sendOrDrop k s) := by
  unfold sendOrDrop
  split
  next t h => exact sendPacket_frame h
  next => exact record_frame ..

theorem failReq_frame (r : MemReq) (s : State) : HubFrame s (failReq r s) := by
  unfold failReq
  split <;> exact {}

theorem slowEmit_frame (m : MemReq) (s : State) : HubFrame s (slowEmit m s) := {}

theorem slowDrain_frame (n : Nat) (s : State) : HubFrame s (slowDrain n s) := by
  induction n generalizing s with
  | zero => exact .refl s
  | succ n ih =>
    unfold slowDrain
    split
    next => exact .refl s
    next m _ => exact .trans {} ((slowEmit_frame m _).trans (ih _))

theorem slowGo_frame (r : MemReq) (s : State) : HubFrame s (slowGo r s) := .trans {} (slowDrain_frame _ _)

theorem slowSend_frame (r : MemReq) (s : State) : HubFrame s (slowSend r s) := by
  unfold slowSend
  dsimp only
  refine .ite (failReq_frame r s) (.ite (.ite (failReq_frame r s) ?_) (.ite (failReq_frame r s) (slowGo_frame r s)))
  split
  next => exact slowGo_frame r s
  next =>
    refine .ite (failReq_frame r s) ?_
    split
    · exact failReq_frame r s
    · exact .trans {} (slowGo_frame r _)

theorem remotePacket_frame (r : MemReq) (w : Bool) (data : List Byte) (poison : Bool) (s : State) :
    HubFrame s (remotePacket r w data poison s) := by
  unfold remotePacket
  dsimp only
  split
  next => exact failReq_frame r s
  next t h => exact (sendPacket_frame h).trans {}

theorem remoteSend_frame (r : MemReq) (s : State) : HubFrame s (remoteSend r s) :=
  .ite (failReq_frame r s) (.ite (remotePacket_frame ..) (remotePacket_frame ..))

theorem enterMesh_frame (r : MemReq) (s : State) : HubFrame s (enterMesh r s) := {}

/-- A page is allocated to a stash: the task's other fields are as they were (R232, R234). -/
theorem stashAlloc_frame {t : SlotIx} {sid pg : Nat} {s u : State} {a : Nat} (h : stashAlloc t sid pg s = some (a, u)) :
    HubFrame s u := by
  unfold stashAlloc at h
  dsimp only at h
  split at h
  · cases h; exact modTask_frame s t _ fun _ => ⟨_, _, rfl⟩
  · split at h
    · split at h
      · cases h
        refine .trans (.ite (.refl s) ?_) (modTask_frame _ t _ fun _ => ⟨_, _, rfl⟩)
        exact .trans {} (record_frame ..)
      · cases h
    · cases h

theorem sendReq_frame (r : MemReq) (s : State) : HubFrame s (sendReq r s) := by
  have go (a : Nat) (s : State) : HubFrame s (match spaceOf a with
      | some .slow => slowSend { r with addr := a } s
      | some .remote => remoteSend { r with addr := a } s
      | none | some .stash => failReq { r with addr := a } s
      | some .direct | some .param | some .table => enterMesh { r with addr := a } s) := by
    split
    · exact slowSend_frame _ s
    · exact remoteSend_frame _ s
    · exact failReq_frame _ s
    · exact failReq_frame _ s
    all_goals exact enterMesh_frame _ s
  unfold sendReq
  split
  · exact failReq_frame r s
  · exact slowSend_frame r s
  · exact remoteSend_frame r s
  · dsimp only
    split
    · exact failReq_frame r s
    · split
      · exact go _ s
      · refine .ite (failReq_frame r s) ?_
        split
        next h => exact (stashAlloc_frame h).trans (go _ _)
        next => exact modTask_frame s _ _ fun _ => ⟨_, _, rfl⟩
  · exact enterMesh_frame r s

theorem stashResume_frame (t : SlotIx) (s : State) : HubFrame s (stashResume t s) := by
  unfold stashResume
  refine .trans (modTask_frame s t _ fun _ => ⟨_, _, rfl⟩) (.foldl (fun s h => ?_) _ _)
  dsimp only
  split
  · exact sendReq_frame ..
  · split
    next e => exact (stashAlloc_frame e).trans (sendReq_frame ..)
    next => exact modTask_frame s t _ fun _ => ⟨_, _, rfl⟩

end Requests

/-! ### Completions (R225, R297, R313) -/

/-- The hub has written completions: only its messages, the attachment's state and the queues differ. -/
def Reported (s t : State) : Prop := t = { s with out := t.out, cxl := t.cxl, queues := t.queues }

theorem Reported.trans {s t u : State} (a : Reported s t) (b : Reported t u) : Reported s u :=
  Eq.trans b (by rw [a])

theorem Reported.tasks {s t : State} (h : Reported s t) : t.tasks = s.tasks := by rw [h]

theorem Reported.frame {s t : State} (h : Reported s t) : HubFrame s t := by rw [h]; exact {}

section Completions

theorem msix_reported (v : Byte) (s : State) : Reported s (msix v s) := by
  unfold msix
  repeat' split
  all_goals exact rfl

theorem putCompletion_reported (q : Fin 8) (e : Completion) (s : State) : Reported s (putCompletion q e s) :=
  .trans (t := modQueue (emit s _) q _) rfl (msix_reported _ _)

theorem complete_reported (q : Fin 8) (e : Completion) (s : State) : Reported s (complete q e s) := by
  unfold complete
  dsimp only
  repeat' split
  · exact rfl
  · exact rfl
  · exact putCompletion_reported q e s

theorem completeTask_reported (t : SlotIx) (kind : Byte) (s : State) : Reported s (completeTask t kind s) := by
  unfold completeTask
  dsimp only
  split
  · exact rfl
  · exact complete_reported _ _ s

theorem taskInterrupt_reported (t : SlotIx) (s : State) : Reported s (taskInterrupt t s) := by
  unfold taskInterrupt
  split
  · exact rfl
  · exact msix_reported _ s

theorem freeStash_frame (t : SlotIx) (sid : Nat) (s : State) : HubFrame s (freeStash t sid s) :=
  .trans (modTask_frame s t _ fun _ => ⟨_, _, rfl⟩) (stashResume_frame t _)

theorem noteUpdate_frame (step : W32) (s : State) : HubFrame s (noteUpdate step s) := {}

theorem sendRecord_frame (t : SlotIx) (intr : Bool) (a : Nat) (bs : List Byte) (s : State) : HubFrame s (sendRecord t intr a bs s) :=
  .trans {} (sendReq_frame _ _)

theorem finishEntry_frame (t : SlotIx) (e : Posted) (status : Byte) (s : State) : HubFrame s (finishEntry t e status s) := by
  have cmd (u : State) (f : CmdList → CmdList) : HubFrame u (if decide (0x80 ≤ status.toNat) then modCmd u t f else u) :=
    .ite (modCmd_frame u t f) (.refl u)
  have note (u : State) (p : Bool) (w : W32) : HubFrame u (if p then noteUpdate w u else u) := .ite (noteUpdate_frame w u) (.refl u)
  have free (u : State) (p : Bool) (n : Nat) : HubFrame u (if p then freeStash t n u else u) := .ite (freeStash_frame t n u) (.refl u)
  exact (sendRecord_frame t _ _ _ s).trans <| (cmd _ _).trans <| (modCmd_frame _ t _).trans <| (mir_frame _ _).trans <| (note _ _ _).trans (free _ _ _)

theorem finishAll_frame (t : SlotIx) (status : Byte) (was s : State) : HubFrame s (finishAll t status was s) :=
  .foldl (fun s e => finishEntry_frame t e _ s) _ s

theorem finishOpen_frame (t : SlotIx) (s : State) : HubFrame s (finishOpen t s) :=
  .foldl (fun s e => finishEntry_frame t e _ s) _ s

end Completions

/-! ### Requests that fail at their destination (R203, R357) -/

theorem answerMem_frame (r : MemReq) (data : List Byte) (poison : List Bool) (s : State) (h : ∀ key t, r.agent ≠ .engine key t) :
    HubFrame s (answerMem r data poison s) := by
  unfold answerMem
  split
  next => exact {}
  next e => exact absurd e (h _ _)
  next => exact .ite (taskInterrupt_reported _ s).frame (.refl s)
  next => exact {}
  next => exact {}
  next => exact sendOrDrop_frame _ s

theorem failMem_frame (r : MemReq) (s : State) : HubFrame s (failMem r s) := by
  unfold failMem
  split
  next => exact failReq_frame r s
  next => exact .trans {} (failReq_frame r _)
  next hs he => exact answerMem_frame r _ _ s he

/-! ### Tasks that fault, halt or are released (R59, R117) -/

theorem dropRuns_frame (t : SlotIx) (s : State) : HubFrame s (dropRuns t s) := {}

theorem mapTaskCores_frame (s : State) (t : SlotIx) (f : Core → Core) : HubFrame s (mapTaskCores s t f) := {}

theorem noteReleased_frame (before s : State) : HubFrame s (noteReleased before s) := by
  unfold noteReleased
  split <;> exact {}

/-- A task becomes FAULTED: its state and REASON are set, and else only what the completion of its entries touches. -/
theorem faultTask_frame (t : SlotIx) (r : Byte) (quiet : Bool) (s : State) :
    HubFrame (modTask s t fun x => { x with st := .faulted, reason := r, halting := none, hold := false }) (faultTask t r quiet s) :=
  (mapTaskCores_frame _ t _).trans <| (mir_frame _ _).trans <| (dropRuns_frame t _).trans <| (noteReleased_frame _ _).trans <| (finishAll_frame t 0x83 s _).trans <|
    (record_frame ..).trans <| .ite (.refl _) (completeTask_reported t 3 _).frame

theorem faultTask_calm (t : SlotIx) (r : Byte) (quiet : Bool) (s : State) : Calm s (faultTask t r quiet s) :=
  (modTask_calm s t _).trans (faultTask_frame t r quiet s).toCalm

theorem haltTask_calm (t : SlotIx) (r : Byte) (s : State) : Calm s (haltTask t r s) := by
  unfold haltTask
  dsimp only
  split
  · exact .ite {} {}
  · exact .ite {} {}

/-! ### Updates of cores alone -/

/-- Only cores differ. -/
def OnlyCores (s t : State) : Prop := t = { s with cores := t.cores }

theorem OnlyCores.trans {s t u : State} (a : OnlyCores s t) (b : OnlyCores t u) : OnlyCores s u := Eq.trans b (by rw [a])

theorem OnlyCores.foldl {α : Type} {f : State → α → State} (h : ∀ s a, OnlyCores s (f s a)) (l : List α) (s : State) :
    OnlyCores s (l.foldl f s) :=
  List.foldlRecOn l f (show OnlyCores s s from rfl) fun u hu a _ => hu.trans (h u a)

theorem OnlyCores.tasks {s t : State} (h : OnlyCores s t) : t.tasks = s.tasks := by rw [h]

theorem modCore_only (s : State) (c : CoreIx) (f : Core → Core) : OnlyCores s (modCore s c f) := rfl

theorem powerDownSegments_only (t : SlotIx) (s : State) : OnlyCores s (powerDownSegments t s) := .foldl (fun s c => modCore_only s c _) _ s

/-- What the release of a task leaves of its slot. -/
def Task.given (x : Task) : Task :=
  { x with saved := [], stash := Stash.reset, hold := false, pinned := false, sectors := 0, segs := [] }

/-- What a release touches besides the task's own slot: cores, global counters, saddlebag, reservations and runs. -/
def OnlyHeld (s t : State) : Prop :=
  t = { s with cores := t.cores, gctr := t.gctr, mir := t.mir, resv := t.resv, lkWork := t.lkWork, runs := t.runs }

theorem OnlyHeld.refl (s : State) : OnlyHeld s s := rfl

theorem OnlyHeld.trans {s t u : State} (a : OnlyHeld s t) (b : OnlyHeld t u) : OnlyHeld s u := Eq.trans b (by rw [a])

theorem OnlyHeld.ite {s t u : State} {p : Prop} [Decidable p] (a : OnlyHeld s t) (b : OnlyHeld s u) :
    OnlyHeld s (if p then t else u) := by
  split <;> assumption

theorem OnlyCores.held {s t : State} (h : OnlyCores s t) : OnlyHeld s t := Eq.trans h (by rw [h])

theorem OnlyHeld.modTask {s u : State} (h : OnlyHeld s u) (t : SlotIx) (f : Task → Task) :
    OnlyHeld (modTask s t f) (modTask u t f) := by
  unfold OnlyHeld at h ⊢
  rw [h]
  rfl

theorem gctr_held (s : State) (g : Tbl GCounter) : OnlyHeld s { s with gctr := g } := rfl
theorem mir_held (s : State) (m : Mirror) : OnlyHeld s { s with mir := m } := rfl
theorem resv_held (s : State) (r : Vector (Option Resv) 16) : OnlyHeld s { s with resv := r } := rfl
theorem runs_held (s : State) (w : List LkWork) (r : List EngRun) : OnlyHeld s { s with lkWork := w, runs := r } := rfl

theorem OnlyHeld.calm {s t : State} (h : OnlyHeld s t) : Calm s t := by rw [h]; exact {}

/-- A release changes the task's own slot, cores, global counters, saddlebag, reservations and runs, and nothing else. -/
theorem releaseTask_held (t : SlotIx) (s : State) : OnlyHeld (modTask s t Task.given) (releaseTask t s) := by
  have hc := (OnlyCores.foldl (fun s c => modCore_only s c fun x =>
      if x.slot = some t then { x with slot := none, girth := { x.girth with tagCheck := true }, pend := none }
      else if x.slot.isNone then { x with girth := { x.girth with tagCheck := true } } else x) s.tasks[t].cores s).trans
    (powerDownSegments_only t _)
  exact ((((hc.held.trans (gctr_held _ _)).trans (.ite (mir_held _ _) (.refl _))).trans (resv_held _ _)).modTask t Task.given).trans (runs_held _ _ _)

theorem releaseTask_calm (t : SlotIx) (s : State) : Calm s (releaseTask t s) :=
  (modTask_calm s t _).trans (releaseTask_held t s).calm

theorem freeTask_calm (t : SlotIx) (s : State) : Calm s (freeTask t s) := (releaseTask_calm t s).trans (modTask_calm _ t _)

theorem releaseWhenIdle_calm (t : SlotIx) (s : State) : Calm s (releaseWhenIdle t s) :=
  .ite (freeTask_calm t s) (modTask_calm s t _)

/-! ### Loss of a generator (R314, R315, R357) -/

theorem abortQueueTasks_calm (s : State) : Calm s (abortQueueTasks s) := by
  refine .foldl (fun s t => ?_) _ s
  exact .ite (.refl s) (.ite (releaseWhenIdle_calm t s) (.ite ((modTask_calm s t _).trans (haltTask_calm t 0x80 _)) (.refl s)))

theorem failSlow_calm (s : State) : Calm s (failSlow s) :=
  .trans (t := { s with cxl := _ }) {} (.foldl (fun s (q : SlowReq) => (failMem_frame q.req s).toCalm) _ _)

theorem retireTags_calm (s : State) : Calm s (retireTags s) :=
  .foldl (fun _ i => .foldl (fun s q => .trans (t := modRhaor i s _) {} (record_frame ..).toCalm) _ _) _ s

theorem resetMem_calm (s : State) : Calm s (resetMem s) := {}

theorem cxl_calm (s : State) (x : Cxl) : Calm s { s with cxl := x } := {}

theorem detached_calm (s : State) (u : Option (Fin 8 × BitVec 512)) (rs : List EngRun) (qs : Vector Queue 8) (n : Fin 8) (r : ReqCopy)
    (x : Cxl) : Calm s { s with submit := u, runs := rs, queues := qs, rrQueue := n, reqHost := r, cxl := x } := {}

theorem resetIo_calm (s : State) : Calm s (resetIo s) := by
  have h : Calm s (retireTags (failSlow (abortQueueTasks s))) :=
    (abortQueueTasks_calm s).trans <| (failSlow_calm _).trans (retireTags_calm _)
  exact h.trans (detached_calm _ _ _ _ _ _ _)

theorem hotReset_calm (s : State) : Calm s (hotReset s) := by
  have h : Calm s (resetMem (resetIo s)) := (resetIo_calm s).trans (resetMem_calm _)
  exact h.trans (cxl_calm _ _)

theorem portDown_calm (p : Fin 8) (s : State) : Calm s (portDown p s) := {}

theorem lostQuadrant_calm (k : Nat) (s : State) : Calm s (lostQuadrant k s) :=
  ((portDown_calm _ s).trans (portDown_calm _ _)).trans (.ite (hotReset_calm _) (.refl _))

end Sys2Proof.Machine
end

section
/-! PROOF. The power controller, the sensors and lost clocks (chapter 18): what each of their events leaves, and from these the statement
on power events. -/

namespace Sys2Proof.Machine
open Claims

/-! ### Updates of duty, regions and ports -/

section Records
variable (s : State)

theorem modDuty_same (p : SecIx) (f : Duty → Duty) : (modDuty s p f).duty[p] = f s.duty[p] := by simp [modDuty]

theorem modDuty_other {p q : SecIx} (f : Duty → Duty) (h : q ≠ p) : (modDuty s p f).duty[q] = s.duty[q] := by
  have hv : p.val ≠ q.val := fun e => h (Fin.ext e.symm)
  simp [modDuty, hv]

theorem modRegion_same (r : Fin 29) (f : Region → Region) : (modRegion s r f).regions[r] = f s.regions[r] := by simp [modRegion]

theorem modPort_same (p : SecIx) (f : Port → Port) : (modPort s p f).ports[p] = f s.ports[p] := by simp [modPort]

end Records

/-- Of a list's steps that each act on their own place only, the one at `i` brings `i` from `before` to `after`. -/
theorem foldl_hits {α β : Type} {f : β → α → β} {before after : β → Prop} {i : α}
    (skip : ∀ s a, a ≠ i → before s → before (f s a)) (hit : ∀ s, before s → after (f s i)) (keep : ∀ s a, a ≠ i → after s → after (f s a)) :
    ∀ (l : List α) (s : β), l.Nodup → i ∈ l → before s → after (l.foldl f s)
  | [], _, _, hi, _ => absurd hi List.not_mem_nil
  | a :: l, s, hn, hi, hb => by
    obtain ⟨ha, hl⟩ := List.nodup_cons.mp hn
    by_cases h : a = i
    · subst h
      exact List.foldlRecOn l f (hit s hb) fun u hu b hm => keep u b (fun e => ha (e ▸ hm)) hu
    · exact foldl_hits skip hit keep l _ hl ((List.mem_cons.mp hi).resolve_left (Ne.symm h)) (skip s a h hb)

/-- The same over all places of a finite range. -/
theorem foldl_finRange_hits {n : Nat} {β : Type} {f : β → Fin n → β} {before after : β → Prop} (i : Fin n)
    (skip : ∀ s a, a ≠ i → before s → before (f s a)) (hit : ∀ s, before s → after (f s i))
    (keep : ∀ s a, a ≠ i → after s → after (f s a)) {s : β} (h : before s) : after ((List.finRange n).foldl f s) :=
  foldl_hits skip hit keep _ s (List.nodup_finRange n) (List.mem_finRange i) h

/-! ### The control window (R11, R365 to R369) -/

/-- Only duty differs. -/
def OnlyDuty (s t : State) : Prop := t = { s with duty := t.duty }

theorem OnlyDuty.refl (s : State) : OnlyDuty s s := rfl

theorem OnlyDuty.trans {s t u : State} (a : OnlyDuty s t) (b : OnlyDuty t u) : OnlyDuty s u := Eq.trans b (by rw [a])

theorem modDuty_only (s : State) (p : SecIx) (f : Duty → Duty) : OnlyDuty s (modDuty s p f) := rfl

/-- The limits of all sectors at a window boundary change duty alone; each sector's current limit is formed with its own modelled
current and its own mean level. -/
theorem windowLimits_spec {amps : SecIx → Nat × Nat} {s u : State}
    (h : (List.finRange 12).foldl (fun s i => modDuty s i (windowLimits s (amps i).1 (amps i).2 i)) s = u) :
    OnlyDuty s u ∧ ∀ p : SecIx, u.duty[p].sectorLim =
      nextDuty (amps p).1 (amps p).2 (if s.duty[p].levelCount = 0 then 16 else s.duty[p].levelSum)
        (if s.duty[p].levelCount = 0 then 1 else s.duty[p].levelCount) 200000 := by
  subst h
  refine ⟨List.foldlRecOn _ _ (OnlyDuty.refl s) fun u hu i _ => hu.trans (modDuty_only u i _), fun p => ?_⟩
  refine foldl_finRange_hits (before := fun u : State => u.duty[p] = s.duty[p]) (after := fun u : State => u.duty[p].sectorLim = _) p
    (fun u i h hu => ?_) (fun u hu => ?_) (fun u i h hu => ?_) rfl
  · rw [modDuty_other u _ h.symm]; exact hu
  · rw [modDuty_same, hu]; rfl
  · rw [modDuty_other u _ h.symm]; exact hu

theorem levels_eq (s : State) :
    levels s = (if s.power.levelCount = 0 then 16 else s.power.levelSum, if s.power.levelCount = 0 then 1 else s.power.levelCount) := by
  unfold levels
  split <;> rfl

theorem execControlWindow_due {core dram rest leakage : Nat} {s : State} (hs : s.power.shutdown = false) (hw : s.power.winDone < winNow s) :
    ∃ t, exec (.controlWindow core dram rest leakage) s = .next t ∧ t.power.tdpCap = s.power.tdpNext ∧
      t.power.mode = s.power.modeNext ∧ t.power.winDone = winNow s ∧
      t.power.dCap = nextDuty (if s.power.mode = true then core + dram + rest else modelPower s)
        (if s.power.mode = true then leakage else stepLeakage s.power.coreStep) (levels s).1 (levels s).2 s.power.tdpNext.toNat ∧
      (∀ p : SecIx, t.duty[p].sectorLim =
        nextDuty (sectorCurrent s p).1 (sectorCurrent s p).2 (if s.duty[p].levelCount = 0 then 16 else s.duty[p].levelSum)
          (if s.duty[p].levelCount = 0 then 1 else s.duty[p].levelCount) 200000) ∧
      t = { s with power := t.power, act := t.act, duty := t.duty, ports := t.ports } := by
  have due : windowDue s = true := by simp [windowDue, hs, hw]
  change ∃ t, execControlWindow core dram rest leakage s = _ ∧ _
  unfold execControlWindow
  simp only [due, Bool.not_true, Bool.false_eq_true, if_false]
  generalize hu : List.foldl _ _ _ = u
  obtain ⟨hu, lim⟩ := windowLimits_spec hu
  rw [hu, levels_eq]
  exact ⟨_, rfl, rfl, rfl, rfl, rfl, lim, rfl⟩

/-! ### next_duty (R367) -/

theorem nextDutyFrom_range (p stat sum count cap : Nat) : ∀ n, 1 ≤ nextDutyFrom p stat sum count cap n ∧ nextDutyFrom p stat sum count cap n ≤ max 1 n
  | 0 => by simp [nextDutyFrom]
  | n + 1 => by
    have ih := nextDutyFrom_range p stat sum count cap n
    unfold nextDutyFrom
    split
    · omega
    · split <;> omega

/-- A level above 1 that is chosen keeps the power within the cap. -/
theorem nextDutyFrom_fits {p stat sum count cap d : Nat} (hd : 2 ≤ d) :
    ∀ n, nextDutyFrom p stat sum count cap n = d → stat * sum + (p - stat) * count * d ≤ cap * sum
  | 0, h => by simp only [nextDutyFrom] at h; omega
  | n + 1, h => by
    unfold nextDutyFrom at h
    split at h
    · omega
    · split at h
      next hc => exact h ▸ hc
      next => exact nextDutyFrom_fits hd n h

/-- A level that was passed over does not. -/
theorem nextDutyFrom_exceeds {p stat sum count cap d : Nat} (hd : 2 ≤ d) :
    ∀ n, d ≤ n → nextDutyFrom p stat sum count cap n < d → cap * sum < stat * sum + (p - stat) * count * d
  | 0, hn, _ => by omega
  | n + 1, hn, h => by
    unfold nextDutyFrom at h
    split at h
    · omega
    · split at h
      next => omega
      next hc =>
        by_cases e : d = n + 1
        · subst e; omega
        · exact nextDutyFrom_exceeds hd n (by omega) h

/-! ### Thermal shutdown (R374) -/

/-- A thermal shutdown that was not yet in force: its cause, the pin, and the DRAM rail; the clock regions and the events stay. -/
structure ShutDown (cause : BitVec 3) (s t : State) : Prop where
  on : t.power.shutdown = true
  cause : t.power.shutdownCause = cause
  pin : t.power.thermtripN = false
  guard : t.power.guardUntil = s.power.guardUntil
  dram : t.dram = []
  regions : t.regions = s.regions
  events : ∀ v ∈ s.recorder.arriving, v ∈ t.recorder.arriving

theorem thermalShutdown_off {s : State} (h : s.power.shutdown = false) (cause : BitVec 3) :
    ShutDown cause s (thermalShutdown cause s) := by
  have hc : Calm { s with power := { s.power with shutdown := true, shutdownCause := cause, thermtripN := false } } _ :=
    .foldl (f := fun s t => if s.tasks[t].live then faultTask t 0xFE true s else s)
      (fun u t => .ite (faultTask_calm t 0xFE true u) (.refl u)) (List.finRange 16) _
  unfold thermalShutdown
  rw [if_neg (by simp [h])]
  dsimp only
  generalize List.foldl _ _ _ = u at hc ⊢
  refine ⟨?_, ?_, ?_, ?_, rfl, ?_, ?_⟩
  · exact congrArg (·.shutdown) hc.power
  · exact congrArg (·.shutdownCause) hc.power
  · exact congrArg (·.thermtripN) hc.power
  · exact congrArg (·.guardUntil) hc.power
  · exact hc.regions
  · exact hc.events

theorem thermalShutdown_on {s : State} (h : s.power.shutdown = true) (cause : BitVec 3) : thermalShutdown cause s = s := by
  simp [thermalShutdown, h]

theorem thermalShutdown_shutdown (s : State) (cause : BitVec 3) : (thermalShutdown cause s).power.shutdown = true := by
  cases h : s.power.shutdown
  · exact (thermalShutdown_off h cause).on
  · rw [thermalShutdown_on h]; exact h

theorem thermalShutdown_regions (s : State) (cause : BitVec 3) : (thermalShutdown cause s).regions = s.regions := by
  cases h : s.power.shutdown
  · exact (thermalShutdown_off h cause).regions
  · rw [thermalShutdown_on h]

theorem thermalShutdown_events (s : State) (cause : BitVec 3) : ∀ v ∈ s.recorder.arriving, v ∈ (thermalShutdown cause s).recorder.arriving := by
  cases h : s.power.shutdown
  · exact (thermalShutdown_off h cause).events
  · rw [thermalShutdown_on h]; exact fun _ hv => hv

/-! ### The package sensors (R368, R370) -/

theorem detBreak_eq (b : Bool) (s : State) : ∃ n, detBreak b s = { s with power := { s.power with detBreaks := n } } := by
  unfold detBreak
  split
  · exact ⟨_, rfl⟩
  · exact ⟨_, rfl⟩

/-- The state once the guard has been armed, where the package's power arms it. -/
theorem guardArmed (watts : Nat) (s : State) : ∃ u, (1650 < watts → Noted u 0x8301 2 0 ∧ u.power.guardUntil = winNow s + 2) ∧
    u.power.shutdown = s.power.shutdown ∧ u.power.tdpCap = s.power.tdpCap ∧ (watts ≤ 1650 → u = s) ∧
    ∀ mean, s.power.shutdown = false → exec (.packageSensorRead watts mean) s =
      .next (if u.power.tdpCap.toNat * 11 < mean * 10 then thermalShutdown 3 (record u 0x8302 fatal 0 0 watts 0) else u) := by
  obtain ⟨n, hn⟩ := detBreak_eq (decide (winNow s < s.power.guardUntil)) s
  refine ⟨if 1650 < watts then record { s with power := { s.power with detBreaks := n, guardUntil := winNow s + 2
                                                                       guardCount := satInc s.power.guardCount } } 0x8301 error 0 0 watts 0
    else s, fun h => ?_, ?_, ?_, fun h => if_neg (by omega), fun mean hs => ?_⟩
  · rw [if_pos h]; exact ⟨record_noted .., rfl⟩
  · split <;> rfl
  · split <;> rfl
  · change execPackageSensorRead watts mean s = _
    unfold execPackageSensorRead
    rw [if_neg (by simp [hs]), hn, apply_ite Host.Outcome.next]
    rfl

theorem packageSensorRead_spec {watts mean : Nat} {s : State} (hs : s.power.shutdown = false) :
    ∃ t, exec (.packageSensorRead watts mean) s = .next t ∧
      (1650 < watts → Noted t 0x8301 2 0 ∧ t.power.guardUntil = winNow s + 2) ∧
      (s.power.tdpCap.toNat * 11 < mean * 10 → t.power.shutdown = true ∧ t.power.shutdownCause = 3 ∧
        t.power.thermtripN = false ∧ t.dram = [] ∧ Noted t 0x8302 3 0) ∧
      (watts ≤ 1650 → mean * 10 ≤ s.power.tdpCap.toNat * 11 → t = s) := by
  obtain ⟨u, harm, hoff, hcap, hcalm, he⟩ := guardArmed watts s
  refine ⟨_, he mean hs, ?_⟩
  rw [hcap]
  have off := thermalShutdown_off (s := record u 0x8302 fatal 0 0 watts 0) (hoff.trans hs) 3
  by_cases hm : s.power.tdpCap.toNat * 11 < mean * 10
  · rw [if_pos hm]
    refine ⟨fun h => ?_, fun _ => ⟨off.on, off.cause, off.pin, off.dram, noted_mono off.events (record_noted ..)⟩, fun _ h => by omega⟩
    obtain ⟨hn, hg⟩ := harm h
    exact ⟨noted_mono off.events (noted_mono (record_frame ..).events hn), off.guard.trans hg⟩
  · rw [if_neg hm]
    exact ⟨harm, fun h => absurd h hm, fun h _ => hcalm h⟩

/-! ### Margin, calibration, droop (R358, R360, R361) -/

/-- What a margin report leaves of the state before it is judged against the alarm threshold: the slack in its region's register, and
perhaps a warning. -/
structure MarginRead (r : Fin 29) (slack : Byte) (s u : State) : Prop where
  only : ∃ x rc, u = { s with regions := s.regions.set r x, recorder := rc }
  slack : u.regions[r].marginMin = slack
  count : u.regions[r].alarmCount = s.regions[r].alarmCount

theorem MarginRead.modRegion {r : Fin 29} {slack : Byte} {s u : State} (h : MarginRead r slack s u) {f : Region → Region}
    (hf : ∀ x, (f x).marginMin = x.marginMin ∧ (f x).alarmCount = x.alarmCount) : MarginRead r slack s (modRegion u r f) where
  only := by
    obtain ⟨x, rc, rfl⟩ := h.only
    exact ⟨f x, rc, by simp [Machine.modRegion]⟩
  slack := by rw [modRegion_same, (hf _).1, h.slack]
  count := by rw [modRegion_same, (hf _).2, h.count]

theorem MarginRead.record {r : Fin 29} {slack : Byte} {s u : State} (h : MarginRead r slack s u) (code : Nat) (sev : BitVec 2)
    (unit a0 a1 a2 : Nat) : MarginRead r slack s (record u code sev unit a0 a1 a2) where
  only := by
    obtain ⟨x, rc, rfl⟩ := h.only
    exact ⟨x, _, rfl⟩
  slack := h.slack
  count := h.count

theorem marginRead_slack (r : Fin 29) (slack : Byte) (s : State) :
    MarginRead r slack s (modRegion s r fun x => { x with marginMin := slack }) where
  only := ⟨_, _, rfl⟩
  slack := by rw [modRegion_same]
  count := by rw [modRegion_same]

theorem MarginRead.ite {r : Fin 29} {slack : Byte} {s u v : State} {p : Prop} [Decidable p] (a : MarginRead r slack s u)
    (b : MarginRead r slack s v) : MarginRead r slack s (if p then u else v) := by
  split <;> assumption

theorem MarginRead.frame {r : Fin 29} {slack : Byte} {s u : State} (h : MarginRead r slack s u) :
    u.cores = s.cores ∧ winNow u = winNow s := by
  obtain ⟨x, rc, rfl⟩ := h.only
  exact ⟨rfl, rfl⟩

/-- The state in which an alarm acts on region `r`: its event is on its way and it has been counted. -/
structure MarginAlarm (r : Fin 29) (slack : Byte) (s w : State) : Prop where
  noted : Noted w 0x8002 2 r.val
  slack : w.regions[r].marginMin = slack
  count : w.regions[r].alarmCount = satInc s.regions[r].alarmCount
  cores : w.cores = s.cores
  win : winNow w = winNow s

theorem MarginRead.alarm {r : Fin 29} {slack : Byte} {s u : State} (h : MarginRead r slack s u) :
    MarginAlarm r slack s (Machine.record (Machine.modRegion u r fun x => { x with alarmCount := satInc x.alarmCount }) 0x8002 error
      r.val 0 slack.toNat 0) where
  noted := record_noted ..
  slack := by rw [record_regions, modRegion_same]; exact h.slack
  count := by rw [record_regions, modRegion_same, ← h.count]
  cores := h.frame.1
  win := h.frame.2

theorem marginReport_spec (r : Fin 29) (slack : Byte) (s : State) :
    ∃ t, exec (.marginReport r slack) s = .next t ∧ t.regions[r].marginMin = slack ∧ t.cores = s.cores ∧
      (s.regions[r].warnTh.toNat < slack.toNat → s.regions[r].alarmTh.toNat < slack.toNat →
        t = { s with regions := t.regions }) ∧
      (slack.toNat ≤ s.regions[r].alarmTh.toNat → Noted t 0x8002 2 r.val ∧
        t.regions[r].alarmCount = satInc s.regions[r].alarmCount ∧
        (∀ h : r.val < 12, t.duty[(⟨r.val, h⟩ : SecIx)].marginUntil = winNow s + 2) ∧
        ∀ h : 12 ≤ r.val ∧ r.val < 24, (portOf t ⟨r.val - 12, by omega⟩).marginHalf = true) := by
  change ∃ t, execMarginReport r slack s = _ ∧ _
  unfold execMarginReport
  dsimp only
  generalize hu : ite (slack.toNat ≤ s.regions[r].warnTh.toNat) _ _ = u
  have hr : MarginRead r slack s u := by
    subst hu
    have h0 := marginRead_slack r slack s
    have h1 := h0.modRegion (f := fun x => { x with warnCount := satInc x.warnCount }) fun _ => ⟨rfl, rfl⟩
    refine .ite (.ite (.record (h1.modRegion ?_) ..) h1) h0
    exact fun _ => ⟨rfl, rfl⟩
  obtain ⟨hcores, hwin⟩ := hr.frame
  by_cases ha : slack.toNat ≤ s.regions[r].alarmTh.toNat
  · rw [if_pos ha]
    have hw := hr.alarm
    generalize record _ 0x8002 error r.val 0 slack.toNat 0 = w at hw ⊢
    split
    next h =>
      obtain ⟨n, hb⟩ := detBreak_eq (decide (winNow w < w.duty[(⟨r.val, h⟩ : SecIx)].marginUntil)) w
      rw [hb]
      refine ⟨_, rfl, hw.slack, hw.cores, fun _ _ => by omega, fun _ => ⟨hw.noted, hw.count, fun _ => ?_, fun _ => by omega⟩⟩
      rw [modDuty_same]
      exact congrArg (· + 2) hw.win
    next h =>
      split
      · refine ⟨_, rfl, hw.slack, hw.cores, fun _ _ => by omega, fun _ => ⟨hw.noted, hw.count, fun _ => by omega, fun _ => ?_⟩⟩
        unfold portOf
        rw [modPort_same]
      · exact ⟨w, rfl, hw.slack, hw.cores, fun _ _ => by omega, fun _ => ⟨hw.noted, hw.count, fun _ => by omega, fun _ => by omega⟩⟩
  · rw [if_neg ha]
    refine ⟨u, rfl, hr.slack, hcores, fun hw _ => ?_, fun h => absurd h ha⟩
    rw [← hu, if_neg (by omega)]; rfl

theorem calibration_due {r : Fin 29} {s : State} (h : ∀ f, s.regions[r].calibrated = some f → f + 10000000 ≤ nsNow s) :
    exec (.calibration r) s = .next (modRegion s r fun x => { x with calibrated := some (nsNow s) }) := by
  change execCalibration r s = _
  unfold execCalibration
  split
  next f hf => rw [if_pos (h f hf)]
  next => rfl

theorem droopStretch_spec {p : SecIx} {ns : Nat} {s : State} (h : s.regions[portRegion p].stretched (nsNow s) = false) :
    ∃ t lost, exec (.droopStretch p ns) s = .next t ∧ lost ≤ 3 * ns / 10 ∧
      t = { s with freeCtr := s.freeCtr + 1, regions := s.regions.set (portRegion p) { s.regions[portRegion p] with
        stretchCount := satInc s.regions[portRegion p].stretchCount, stretchNs := satAdd s.regions[portRegion p].stretchNs ns
        lost := s.regions[portRegion p].lostBy (nsNow s), slow := (nsNow s, ns, lost) } } := by
  refine ⟨_, (Config.free 32 s.freeCtr).toNat % (3 * ns / 10 + 1), ?_, Nat.le_of_lt_succ (Nat.mod_lt _ (Nat.succ_pos _)), rfl⟩
  change execDroopStretch p ns s = _
  unfold execDroopStretch
  rw [if_neg (by rw [h]; decide)]
  rfl

/-- A stretch's lost cycles come evenly over its length: never fewer later, and in any span at most 15% of its port cycles and the one in
progress. -/
theorem lostBy_pace {x : Region} {a b : Nat} (hab : a ≤ b) (hl : x.slow.2.2 ≤ 3 * x.slow.2.1 / 10) :
    x.lostBy a ≤ x.lostBy b ∧ x.lostBy b ≤ x.lostBy a + 3 * (b - a) / 10 + 1 := by
  unfold Region.lostBy
  generalize x.slow.1 = t0, x.slow.2.2 = l, x.slow.2.1 = n at hl ⊢
  generalize hN : max 1 n = N
  generalize hA : min (a - t0) n = ma
  generalize hB : min (b - t0) n = mb
  have hNpos : 0 < N := by omega
  have hmono : ma ≤ mb := by omega
  refine ⟨Nat.add_le_add_left (Nat.div_le_div_right (Nat.mul_le_mul_left l hmono)) _, ?_⟩
  have hsplit : l * mb = l * ma + l * (mb - ma) := by rw [← Nat.mul_add]; congr 1; omega
  have hrate : l * (mb - ma) / N ≤ 3 * (b - a) / 10 := by
    rw [Nat.le_div_iff_mul_le (by omega)]
    have h1 : l * (mb - ma) / N * N ≤ l * (mb - ma) := Nat.div_mul_le_self _ _
    have h2 : 10 * l ≤ 3 * N := by omega
    have h3 : 10 * (l * (mb - ma)) ≤ 3 * N * (mb - ma) := by
      calc 10 * (l * (mb - ma)) = 10 * l * (mb - ma) := by ring
        _ ≤ 3 * N * (mb - ma) := Nat.mul_le_mul_right _ h2
    have h4 : N * (l * (mb - ma) / N * 10) ≤ N * (3 * (b - a)) := by
      calc N * (l * (mb - ma) / N * 10) = 10 * (l * (mb - ma) / N * N) := by ring
        _ ≤ 10 * (l * (mb - ma)) := Nat.mul_le_mul_left _ h1
        _ ≤ 3 * N * (mb - ma) := h3
        _ ≤ 3 * N * (b - a) := Nat.mul_le_mul_left _ (by omega)
        _ = N * (3 * (b - a)) := by ring
    exact Nat.le_of_mul_le_mul_left h4 hNpos
  have hadd := Nat.add_div (a := l * ma) (b := l * (mb - ma)) hNpos
  rw [← hsplit] at hadd
  split at hadd <;> omega

/-! ### A task that becomes FAULTED -/

theorem faultTask_same (t : SlotIx) (r : Byte) (quiet : Bool) (s : State) : ∃ c x, (faultTask t r quiet s).tasks[t] =
    { s.tasks[t] with st := .faulted, reason := r, halting := none, hold := false, cmd := c, stash := x } := by
  obtain ⟨c, x, h⟩ := (faultTask_frame t r quiet s).tasks t
  exact ⟨c, x, by rw [h, modTask_same]⟩

theorem faultTask_other {t j : SlotIx} (r : Byte) (quiet : Bool) (s : State) (hj : j ≠ t) :
    ∃ c x, (faultTask t r quiet s).tasks[j] = { s.tasks[j] with cmd := c, stash := x } := by
  obtain ⟨c, x, h⟩ := (faultTask_frame t r quiet s).tasks j
  exact ⟨c, x, by rw [h, modTask_other s _ hj]⟩

/-- The task in slot `i` is FAULTED with a REASON. -/
def FaultedWith (r : Byte) (i : SlotIx) (s : State) : Prop := s.tasks[i].st = .faulted ∧ s.tasks[i].reason = r

/-- The task in slot `i` is as in `s`, but for its command list and stash. -/
def SameTask (s : State) (i : SlotIx) (u : State) : Prop := ∃ c x, u.tasks[i] = { s.tasks[i] with cmd := c, stash := x }

/-- The tasks on the sector that loses its clock. -/
def faultSector (p : SecIx) (s : State) : State :=
  (List.finRange 16).foldl (fun s t => if s.tasks[t].live && bit s.tasks[t].sectors p.val then faultTask t 0xFE false s else s) s

theorem faultSector_calm (p : SecIx) (s : State) : Calm s (faultSector p s) :=
  .foldl (fun u t => .ite (faultTask_calm t 0xFE false u) (.refl u)) _ s

/-- Every live task of the sector is FAULTED with REASON 0xFE. -/
theorem faultSector_faults (p : SecIx) {i : SlotIx} {s : State} (hl : s.tasks[i].live = true) (hb : bit s.tasks[i].sectors p.val = true) :
    FaultedWith 0xFE i (faultSector p s) := by
  refine foldl_finRange_hits (before := SameTask s i) (after := FaultedWith 0xFE i) i (fun u a ha hu => ?_) (fun u hu => ?_)
    (fun u a ha hu => ?_) ⟨_, _, rfl⟩
  · split
    · obtain ⟨_, _, h⟩ := hu
      obtain ⟨c, x, h'⟩ := faultTask_other 0xFE false u ha.symm
      exact ⟨c, x, by rw [h', h]⟩
    · exact hu
  · obtain ⟨c, x, h⟩ := hu
    obtain ⟨_, _, h'⟩ := faultTask_same i 0xFE false u
    have hc : (u.tasks[i].live && bit u.tasks[i].sectors p.val) = true := by
      rw [h]
      exact Bool.and_eq_true_iff.mpr ⟨hl, hb⟩
    rw [if_pos hc, FaultedWith, h']
    exact ⟨rfl, rfl⟩
  · split
    · obtain ⟨_, _, h⟩ := faultTask_other 0xFE false u ha.symm
      rw [FaultedWith, h]
      exact hu
    · exact hu

/-! ### A lost generator (R357) -/

/-- The clock regions are as they were, and no event is lost. -/
structure Kept (s t : State) : Prop where
  regions : t.regions = s.regions
  events : ∀ v ∈ s.recorder.arriving, v ∈ t.recorder.arriving

theorem Calm.kept {s t : State} (h : Calm s t) : Kept s t := ⟨h.regions, h.events⟩

theorem thermalShutdown_kept (cause : BitVec 3) (s : State) : Kept s (thermalShutdown cause s) :=
  ⟨thermalShutdown_regions s cause, thermalShutdown_events s cause⟩

/-- The blocks and the pending launches of a sector's cores are gone. -/
def stopSector (p : SecIx) (s : State) : State :=
  (sectorCores p).foldl (fun s c => modCore s c fun x => { x with blk := none, pend := none }) s

theorem stopSector_only (p : SecIx) (s : State) : OnlyCores s (stopSector p s) := .foldl (fun s c => modCore_only s c _) _ s

theorem lostCore_eq (p : SecIx) (s : State) :
    lostCore p s = modDuty (stopSector p (faultSector p s)) p fun d => { d with refused := true } := rfl

theorem lostCore_spec (p : SecIx) (s : State) : Kept s (lostCore p s) ∧ (lostCore p s).duty[p].refused = true ∧
    ∀ i : SlotIx, s.tasks[i].live = true → bit s.tasks[i].sectors p.val = true → FaultedWith 0xFE i (lostCore p s) := by
  have hc := faultSector_calm p s
  have ht := fun i hl hb => faultSector_faults p (i := i) (s := s) hl hb
  rw [lostCore_eq]
  generalize faultSector p s = u at hc ht ⊢
  rw [stopSector_only p u]
  generalize (stopSector p u).cores = cs
  exact ⟨⟨hc.regions, hc.events⟩, by rw [modDuty_same], ht⟩

theorem lostPort_frame (p : SecIx) (s : State) :
    HubFrame (modPort s p fun x => { x with entries := [], queue := [], records := [] }) (lostPort p s) :=
  .foldl (fun s r => failMem_frame r s) _ _

theorem lostPort_spec (p : SecIx) (s : State) : Kept s (lostPort p s) ∧ (portOf (lostPort p s) p).entries = [] ∧
    (portOf (lostPort p s) p).queue = [] := by
  have h := lostPort_frame p s
  refine ⟨⟨h.regions, h.events⟩, ?_, ?_⟩
  all_goals
    unfold portOf
    rw [h.ports, modPort_same]

theorem lostQuadrant_zero (s : State) : (lostQuadrant 0 s).cxl.linkUp = false := rfl

theorem lostLock_spec (r : Fin 29) (s : State) :
    ∃ t, exec (.lostLock r) s = .next t ∧ t.regions[r].locked = false ∧ t.regions[r].lostLock = true ∧ Noted t 0x8100 3 r.val ∧
      (∀ h : r.val < 12, t.duty[(⟨r.val, h⟩ : SecIx)].refused = true ∧
        ∀ i : SlotIx, s.tasks[i].live = true → bit s.tasks[i].sectors r.val = true → t.tasks[i].st = .faulted ∧ t.tasks[i].reason = 0xFE) ∧
      (∀ h : 12 ≤ r.val ∧ r.val < 24, (portOf t ⟨r.val - 12, by omega⟩).entries = [] ∧
        (portOf t ⟨r.val - 12, by omega⟩).queue = []) ∧
      (r.val = 24 → t.cxl.linkUp = false) ∧
      (r.val = 28 → t.power.shutdown = true) := by
  change ∃ t, execLostLock r s = _ ∧ _
  unfold execLostLock
  dsimp only
  have hreg := modRegion_same s r fun x => { x with locked := false, lostLock := true, lostLockAt := s.time.cycle + 1 }
  have hn := record_noted (modRegion s r fun x => { x with locked := false, lostLock := true, lostLockAt := s.time.cycle + 1 }) 0x8100 fatal r.val 0 0 0
  have htask : (record (modRegion s r fun x => { x with locked := false, lostLock := true, lostLockAt := s.time.cycle + 1 }) 0x8100
    fatal r.val 0 0 0).tasks = s.tasks := rfl
  rw [← record_regions _ 0x8100 fatal r.val 0 0 0] at hreg
  generalize record _ 0x8100 fatal r.val 0 0 0 = u at hreg hn htask ⊢
  have kept {t : State} (h : Kept u t) : t.regions[r].locked = false ∧ t.regions[r].lostLock = true ∧ Noted t 0x8100 3 r.val := by
    rw [h.regions, hreg]
    exact ⟨rfl, rfl, noted_mono h.events hn⟩
  rw [← htask]
  split
  next h =>
    obtain ⟨hk, hd, ht⟩ := lostCore_spec ⟨r.val, h⟩ u
    obtain ⟨h1, h2, h3⟩ := kept hk
    exact ⟨_, rfl, h1, h2, h3, fun _ => ⟨hd, ht⟩, fun _ => by omega, fun _ => by omega, fun _ => by omega⟩
  next hc =>
    split
    next h =>
      obtain ⟨hk, he, hq⟩ := lostPort_spec ⟨r.val - 12, by omega⟩ u
      obtain ⟨h1, h2, h3⟩ := kept hk
      exact ⟨_, rfl, h1, h2, h3, fun _ => absurd ‹_› hc, fun _ => ⟨he, hq⟩, fun _ => by omega, fun _ => by omega⟩
    next hp =>
      split
      next h =>
        obtain ⟨h1, h2, h3⟩ := kept (lostQuadrant_calm (r.val - 24) u).kept
        exact ⟨_, rfl, h1, h2, h3, fun _ => absurd ‹_› hc, fun _ => by omega, fun e => by rw [e]; exact lostQuadrant_zero u, fun _ => by omega⟩
      next h =>
        obtain ⟨h1, h2, h3⟩ := kept (thermalShutdown_kept 4 u)
        exact ⟨_, rfl, h1, h2, h3, fun _ => absurd ‹_› hc, fun _ => by omega, fun _ => by omega, fun _ => thermalShutdown_shutdown u 4⟩

/-! ### A crossing without margin (R40) -/

/-- Only tasks, cores and the model's free counter differ. -/
def OnlyTasks (s t : State) : Prop := t = { s with tasks := t.tasks, cores := t.cores, freeCtr := t.freeCtr }

theorem OnlyTasks.trans {s t u : State} (a : OnlyTasks s t) (b : OnlyTasks t u) : OnlyTasks s u := Eq.trans b (by rw [a])

/-- The task in slot `i` is being halted. -/
def Halting (i : SlotIx) (s : State) : Prop := s.tasks[i].halting.isSome = true

theorem haltTask_only (t : SlotIx) (r : Byte) (s : State) : OnlyTasks s (haltTask t r s) := by
  unfold haltTask OnlyTasks
  dsimp only
  split
  · split <;> rfl
  · split <;> rfl

/-- A halt sets HALTING of its own task, or leaves it as an earlier one set it. -/
theorem haltTask_tasks (t : SlotIx) (r : Byte) (s : State) :
    ∃ h a, (haltTask t r s).tasks = (modTask s t fun x => { x with halting := some h, haltAt := a }).tasks := by
  unfold haltTask
  dsimp only
  split
  next old h =>
    split
    · exact ⟨r, s.tasks[t].haltAt, rfl⟩
    · refine ⟨old, s.tasks[t].haltAt, ?_⟩
      rw [modTask_self s _ _ (by rw [← h])]
  next => exact ⟨r, s.time.cycle, by split <;> rfl⟩

theorem haltTask_other {t j : SlotIx} (r : Byte) (s : State) (h : j ≠ t) : (haltTask t r s).tasks[j] = s.tasks[j] := by
  obtain ⟨_, _, e⟩ := haltTask_tasks t r s
  rw [e, modTask_other s _ h]

/-- A task that is told to halt is halting. -/
theorem haltTask_halting (t : SlotIx) (r : Byte) (s : State) : (haltTask t r s).tasks[t].halting.isSome = true := by
  obtain ⟨_, _, e⟩ := haltTask_tasks t r s
  rw [e, modTask_same]
  rfl

theorem bit_setBit_same {n : Nat} (x : BitVec n) {i : Nat} (h : i < n) : bit (setBit x i true) i = true := by
  simp only [bit, setBit, if_true, BitVec.getLsbD_or, BitVec.getLsbD_ofNat, Nat.testBit_two_pow_self, h, decide_true, Bool.and_self, Bool.or_true]

/-- A live task with a segment that spans the crossing after sector `x`. -/
def spansOf (s : State) (x : SecIx) (T : Task) : Bool :=
  T.live && T.segs.any fun f => spansCrossing s ((segSectors f T.hdr.segSectors).flatMap sectorCores) x

/-- Every task of `s` that spans the crossing in `w` is told to halt. -/
def haltSpanning (w : State) (x : SecIx) (s : State) : State :=
  (List.finRange 16).foldl (fun s t =>
    if spansOf w x s.tasks[t] then haltTask t (Config.free 8 s.freeCtr) { s with freeCtr := s.freeCtr + 1 } else s) s

/-- The crossing after sector `x` is marked, with its event. -/
def alarmCrossing (x : SecIx) (s : State) : State :=
  record { s with xingAlarm := setBit s.xingAlarm x.val true } 0x2200 fatal x.val 0 0 0

theorem exec_crossingMarginLoss (x : SecIx) (s : State) :
    exec (.crossingMarginLoss x) s = .next (haltSpanning (alarmCrossing x s) x (alarmCrossing x s)) := rfl

theorem spansOf_alarmCrossing (s : State) (x : SecIx) (i : SlotIx) :
    spansOf (alarmCrossing x s) x (alarmCrossing x s).tasks[i] = spansOf s x s.tasks[i] := rfl

theorem haltSpanning_only (w : State) (x : SecIx) (s : State) : OnlyTasks s (haltSpanning w x s) := by
  refine List.foldlRecOn _ _ (show OnlyTasks s s from rfl) fun u hu t _ => hu.trans ?_
  split
  · exact .trans (t := { u with freeCtr := u.freeCtr + 1 }) rfl (haltTask_only t _ _)
  · exact rfl

theorem haltSpanning_halts {w : State} {x : SecIx} {i : SlotIx} {s : State} (h : spansOf w x s.tasks[i] = true) :
    Halting i (haltSpanning w x s) := by
  refine foldl_finRange_hits (before := fun u : State => u.tasks[i] = s.tasks[i]) (after := Halting i) i (fun u a ha hu => ?_)
    (fun u hu => ?_) (fun u a ha hu => ?_) rfl
  · split
    · rw [haltTask_other _ _ ha.symm]; exact hu
    · exact hu
  · rw [if_pos (by rw [hu]; exact h)]
    exact haltTask_halting i _ _
  · split
    · rw [Halting, haltTask_other _ _ ha.symm]; exact hu
    · exact hu

theorem crossingMarginLoss_spec (x : SecIx) (s : State) :
    ∃ t, exec (.crossingMarginLoss x) s = .next t ∧ bit t.xingAlarm x.val = true ∧ Noted t 0x2200 3 x.val ∧
      (∀ i : SlotIx, s.tasks[i].live = true →
        (∃ f ∈ s.tasks[i].segs, spansCrossing s ((segSectors f s.tasks[i].hdr.segSectors).flatMap sectorCores) x = true) →
        t.tasks[i].halting.isSome = true) ∧
      t = { s with
            xingAlarm := t.xingAlarm
            recorder := t.recorder
            tasks := t.tasks
            cores := t.cores
            freeCtr := t.freeCtr } := by
  have hx : bit (alarmCrossing x s).xingAlarm x.val = true := bit_setBit_same s.xingAlarm x.isLt
  have hn : Noted (alarmCrossing x s) 0x2200 3 x.val := record_noted ..
  have ho := haltSpanning_only (alarmCrossing x s) x (alarmCrossing x s)
  have hh (i : SlotIx) (hs : spansOf s x s.tasks[i] = true) : Halting i (haltSpanning (alarmCrossing x s) x (alarmCrossing x s)) :=
    haltSpanning_halts ((spansOf_alarmCrossing s x i).trans hs)
  refine ⟨_, exec_crossingMarginLoss x s, ?_⟩
  generalize haltSpanning _ x _ = t at ho hh ⊢
  refine ⟨?_, ?_, fun i hl hf => hh i (Bool.and_eq_true_iff.mpr ⟨hl, List.any_eq_true.mpr hf⟩), ?_⟩
  · rw [ho]; exact hx
  · rw [ho]; exact hn
  · rw [ho]; rfl

/-! ### Junction temperature (R373, R374) -/

/-- Only the regions, the recorder and the power registers differ; a shutdown is in force as it was. -/
structure OnlyNotes (s t : State) : Prop where
  only : t = { s with regions := t.regions, recorder := t.recorder, power := t.power }
  shutdown : t.power.shutdown = s.power.shutdown

theorem OnlyNotes.refl (s : State) : OnlyNotes s s := ⟨rfl, rfl⟩

theorem OnlyNotes.trans {s t u : State} (a : OnlyNotes s t) (b : OnlyNotes t u) : OnlyNotes s u :=
  ⟨Eq.trans b.only (by rw [a.only]), b.shutdown.trans a.shutdown⟩

theorem detBreak_notes (b : Bool) (s : State) : OnlyNotes s (detBreak b s) := by
  obtain ⟨n, h⟩ := detBreak_eq b s
  rw [h]
  exact ⟨rfl, rfl⟩

/-- What a sensor's reading `deg` has left of the state before it is judged against 110 °C. -/
structure TempRead (r : Fin 29) (deg : Byte) (s u : State) : Prop where
  notes : OnlyNotes s u
  temp : u.regions[r].temp = deg

theorem TempRead.of_regions {r : Fin 29} {deg : Byte} {s u v : State} (h : TempRead r deg s u) (n : OnlyNotes u v)
    (hr : v.regions = u.regions) : TempRead r deg s v :=
  ⟨h.notes.trans n, by rw [hr]; exact h.temp⟩

theorem TempRead.record {r : Fin 29} {deg : Byte} {s u : State} (h : TempRead r deg s u) (code : Nat) (sev : BitVec 2)
    (unit a0 a1 a2 : Nat) : TempRead r deg s (record u code sev unit a0 a1 a2) :=
  h.of_regions ⟨rfl, rfl⟩ rfl

theorem TempRead.detBreak {r : Fin 29} {deg : Byte} {s u : State} (h : TempRead r deg s u) (b : Bool) :
    TempRead r deg s (detBreak b u) :=
  h.of_regions (detBreak_notes b u) (by obtain ⟨n, e⟩ := detBreak_eq b u; rw [e])

theorem TempRead.ite {r : Fin 29} {deg : Byte} {s u v : State} {p : Prop} [Decidable p] (a : TempRead r deg s u)
    (b : TempRead r deg s v) : TempRead r deg s (if p then u else v) := by
  split <;> assumption

theorem junctionTemp_spec (r : Fin 29) (deg : Byte) (s : State) :
    ∃ t, exec (.junctionTemp r deg) s = .next t ∧ t.regions[r].temp = deg ∧
      (110 ≤ deg.toNat → t.power.shutdown = true ∧ (s.power.shutdown = false → t.power.shutdownCause = 1 ∧ Noted t 0x8203 3 r.val)) ∧
      (deg.toNat < 110 → t = { s with
                               regions := t.regions
                               recorder := t.recorder
                               power := t.power } ∧ t.power.shutdown = s.power.shutdown) := by
  change ∃ t, execJunctionTemp r deg s = _ ∧ _
  unfold execJunctionTemp
  dsimp only
  have h0 (a b : Bool) : TempRead r deg s (modRegion s r fun x => { x with temp := deg, tjWarned := a, tjHot := b }) :=
    ⟨⟨rfl, rfl⟩, by rw [modRegion_same]⟩
  generalize hu : @ite State _ (_) _ _ = u
  have hr : TempRead r deg s u := by
    subst hu
    exact .ite (.record (.detBreak (.ite ((h0 _ _).record ..) (h0 _ _)) _) ..) (.ite ((h0 _ _).record ..) (h0 _ _))
  have off := thermalShutdown_off (s := record u 0x8203 fatal r.val 0 deg.toNat 0) (cause := 1)
  split
  next h =>
    obtain ⟨hd, hs⟩ := Bool.and_eq_true_iff.mp h
    have off := off (by simpa using hs)
    refine ⟨_, rfl, by rw [off.regions]; exact hr.temp, fun _ => ⟨off.on, fun _ => ⟨off.cause, noted_mono off.events (record_noted ..)⟩⟩, fun hl => ?_⟩
    exact absurd (of_decide_eq_true hd) (by omega)
  next h =>
    refine ⟨u, rfl, hr.temp, fun hd => ?_, fun _ => ⟨hr.notes.only, hr.notes.shutdown⟩⟩
    have hs : u.power.shutdown = true := by simpa [hd] using h
    exact ⟨hs, fun e => by rw [hr.notes.shutdown, e] at hs; cases hs⟩

theorem energyIntegrate_spec (uj : Nat) (s : State) :
    exec (.energyIntegrate uj) s = .next { s with power := { s.power with energy := s.power.energy + BitVec.ofNat 64 uj } } := rfl

/-- Settles O44: a clause for each event of the power controller and of the sensors, and the arithmetic of next_duty and of a stretch. -/
theorem powerEvents : Obligations.PowerEvents :=
  ⟨fun _ _ _ _ _ => execControlWindow_due,
   fun _ _ _ _ _ _ hd hn => ⟨(nextDutyFrom_range ..).1, (nextDutyFrom_range ..).2, nextDutyFrom_fits hd 16, nextDutyFrom_exceeds hd 16 hn⟩,
   fun _ _ _ => packageSensorRead_spec, marginReport_spec, fun _ _ => calibration_due, fun _ _ _ => droopStretch_spec,
   fun _ _ _ => lostBy_pace, lostLock_spec, crossingMarginLoss_spec, junctionTemp_spec, energyIntegrate_spec⟩

end Sys2Proof.Machine
end

section
/-! PROOF. The life of a task: what its load, launch, end and halt leave, each said once, and from these the statement on task states. -/

namespace Sys2Proof.Machine
open Claims

/-! ### Runs that are carried on -/

section Runs
variable {s : State} {key : Nat} {o : Option SlotIx} {k : Rank} {work : State → State} {i : Instr}

/-- With nothing lacking, work that may not yet go on waits. -/
theorem engineRunIf_idle {ready : State → Bool} {p : Probe} (hd : (runOf s key o).done = false) (hi : (runOf s key o).ids = [])
    (hp : (work (probing (runOf s key o) s)).probe = some p) (hw : p.want = []) (hr : ready (probing (runOf s key o) s) = false) :
    engineRunIf key o k ready work s = .next s := by
  simp [engineRunIf, hd, hi, hp, hw, hr]

theorem carries_of_engineRun {go : Bool} (h : exec i s = engineRun key o k go work s) : Carries i key o k go work s := by
  refine ⟨fun hw => h.trans (engineRunIf_wait hw), fun p hd hi hp => ⟨fun hw => ?_, fun hw hg => ?_, fun hw hg => ?_⟩⟩
  · exact h.trans (engineRunIf_fetch hd hi hp hw)
  · exact h.trans (engineRunIf_commit hd hi hp hw hg)
  · exact h.trans (engineRunIf_idle hd hi hp hw hg)

/-- The work in evaluation writes nothing and reads nothing again. -/
def ReadsOnly (s : State) : Prop := ∀ p, s.probe = some p → p.wrote = [] ∧ p.again = []

theorem probing_readsOnly (u : EngRun) (s : State) : ReadsOnly (probing u s) := by
  intro p hp
  cases hp
  exact ⟨rfl, rfl⟩

theorem runCommit_reads {u : EngRun} {w : State} {p : Probe} (hp : w.probe = some p) (ha : p.again = []) :
    ∃ rs, runCommit u k [] w = { w with probe := none, runs := rs } := by
  simp only [runCommit, Probe.repeats, hp, ha, List.foldl_nil]
  exact ⟨_, rfl⟩

/-- Work that only reads, once it lacks nothing, comes to pass as it was evaluated. -/
theorem exec_of_complete (h : exec i s = engineRun key o k true work s) (hc : Complete key o work s)
    (hr : ReadsOnly (work (probing (runOf s key o) s))) :
    ∃ rs, exec i s = .next { work (probing (runOf s key o) s) with probe := none, runs := rs } := by
  obtain ⟨hd, hi, p, hp, hw⟩ := hc
  obtain ⟨hwrote, hagain⟩ := hr p hp
  obtain ⟨rs, e⟩ := runCommit_reads (k := k) (u := runOf s key o) hp hagain
  exact ⟨rs, by rw [h, engineRun, engineRunIf_commit hd hi hp hw rfl, hwrote, e]⟩

/-- A run that has not begun has read nothing. -/
theorem runOf_idle (h : running s key = false) : runOf s key o = { key := key, t := o, got := [], ids := [], done := false } := by
  have hn : s.runs.find? (fun u => u.key == key) = none := by
    rw [List.find?_eq_none]
    intro u hu e
    exact absurd (List.any_eq_true.mpr ⟨u, hu, e⟩) (by rw [running] at h; rw [h]; decide)
  rw [runOf, hn]
  rfl

/-- Work that reads nothing new is complete where it has not begun. -/
theorem complete_of_idle (h : running s key = false)
    (hp : (work (probing (runOf s key o) s)).probe = (probing (runOf s key o) s).probe) : Complete key o work s := by
  rw [Complete, hp, runOf_idle h]
  exact ⟨rfl, rfl, _, rfl, rfl⟩

end Runs

/-! ### Loading of images (R18, R130) -/

/-- Only what the work in evaluation has read differs. -/
def OnlyProbe (s t : State) : Prop := t = { s with probe := t.probe }

theorem see_only (a n : Nat) (s : State) : OnlyProbe s (see a n s) := by
  unfold see devRead OnlyProbe
  split <;> rfl

theorem OnlyProbe.trans {s t u : State} (a : OnlyProbe s t) (b : OnlyProbe t u) : OnlyProbe s u := Eq.trans b (by rw [a])

theorem see_readsOnly (a n : Nat) {s : State} (h : ReadsOnly s) : ReadsOnly (see a n s) := by
  unfold see devRead
  split
  · exact h
  next p hp =>
    intro q hq
    cases hq
    exact h p hp

/-- What loading the images of the task in slot `t` changes: its cores, and of every task at most whether its images are the ones there. -/
structure ImagesLoaded (t : SlotIx) (s u : State) : Prop where
  only : u = { s with probe := u.probe, cores := u.cores, tasks := u.tasks }
  tasks : ∀ j : SlotIx, ∃ b, u.tasks[j] = { s.tasks[j] with loaded := b }
  cores : ∀ c, c ∉ s.tasks[t].cores → u.cores[c] = s.cores[c]
  reads : ReadsOnly s → ReadsOnly u

theorem foldl_modCore_spec {α : Type} {at_ : α → CoreIx} {f : α → Core → Core} {l : List α} {s w : State}
    (h : l.foldl (fun s q => modCore s (at_ q) (f q)) s = w) : OnlyCores s w ∧ ∀ c, (∀ q ∈ l, at_ q ≠ c) → w.cores[c] = s.cores[c] := by
  subst h
  refine ⟨.foldl (fun s q => modCore_only s (at_ q) (f q)) l s, fun c hc => ?_⟩
  exact List.foldlRecOn (motive := fun u : State => u.cores[c] = s.cores[c]) l _ rfl fun u hu q hq =>
    (modCore_other u (at_ q) (f q) (hc q hq).symm).trans hu

theorem loadImages_spec (t : SlotIx) (s : State) : ImagesLoaded t s (loadImages t s) := by
  unfold loadImages
  dsimp only
  split
  · exact ⟨rfl, fun _ => ⟨_, rfl⟩, fun _ _ => rfl, id⟩
  · have hp := (see_only (s.tasks[t].image.toNat + s.tasks[t].hdr.blockOff.toNat) s.tasks[t].hdr.blockLen s).trans
      (see_only (s.tasks[t].image.toNat + s.tasks[t].hdr.ctrlOff.toNat) s.tasks[t].hdr.ctrlLen _)
    have hr := fun h : ReadsOnly s => see_readsOnly (s.tasks[t].image.toNat + s.tasks[t].hdr.ctrlOff.toNat) s.tasks[t].hdr.ctrlLen
      (see_readsOnly (s.tasks[t].image.toNat + s.tasks[t].hdr.blockOff.toNat) s.tasks[t].hdr.blockLen h)
    generalize see _ _ (see _ _ s) = v at hp hr ⊢
    generalize hw : List.foldl _ v _ = w
    obtain ⟨hw, hc⟩ := foldl_modCore_spec (at_ := id) (f := fun _ x => { x with control := loadedControl v s.tasks[t]
                                                                                blocks := loadedBlocks v s.tasks[t] }) hw
    rw [hp] at hw hc
    rw [hw]
    refine ⟨rfl, fun j => ?_, fun c h => hc c fun d hd e => h (e ▸ hd), hr⟩
    dsimp only
    rw [Fin.getElem_fin, Vector.getElem_ofFn]
    split
    · exact ⟨_, rfl⟩
    · split <;> exact ⟨_, rfl⟩

theorem loadImages_loaded {t : SlotIx} {s : State} (h : s.tasks[t].loaded = true) : loadImages t s = s := by
  unfold loadImages
  dsimp only
  rw [if_pos h]

theorem ImagesLoaded.others {t : SlotIx} {s u : State} (h : ImagesLoaded t s u) : OthersButImages s u t := fun j _ => by
  obtain ⟨b, e⟩ := h.tasks j
  rw [e]

/-! ### The end of a load (R121, R311, R377) -/

theorem powerSegments_only (T : Task) (s : State) : OnlyCores s (powerSegments T s) := .foldl (fun s c => modCore_only s c _) _ s

/-- A load that is done makes the task READY, powers its scratchpad segments and reports it. -/
theorem loadedTask_only (t : SlotIx) (s : State) : ∃ cs o x qs, loadedTask t s =
    { s with tasks := (modTask s t fun x => { x with st := .ready }).tasks, cores := cs, out := o, cxl := x, queues := qs } := by
  unfold loadedTask
  dsimp only
  rw [powerSegments_only s.tasks[t] s]
  generalize (powerSegments s.tasks[t] s).cores = cs
  split
  · exact ⟨_, _, _, _, rfl⟩
  · have h := completeTask_reported t 1 (modTask { s with cores := cs } t fun x => { x with st := .ready })
    exact ⟨_, _, _, _, h⟩

/-- A freed slot is as at reset; every other task, stacked memory, the recorder and the work in evaluation are as they were. -/
structure Freed (t : SlotIx) (s u : State) : Prop where
  same : u.tasks[t] = Task.reset
  others : OtherTasks s u t
  dram : u.dram = s.dram
  recorder : u.recorder = s.recorder
  probe : u.probe = s.probe

theorem freeTask_freed (t : SlotIx) (s : State) : Freed t s (freeTask t s) := by
  have h := releaseTask_held t s
  unfold freeTask
  generalize releaseTask t s = u at h ⊢
  refine ⟨modTask_same u t _, fun j hj => ?_, ?_, ?_, ?_⟩
  · rw [modTask_other u _ hj, h]
    exact modTask_other s _ hj
  all_goals rw [h]; rfl

theorem Freed.reported {t : SlotIx} {s u v : State} (h : Freed t s u) (r : Reported u v) : Freed t s v := by
  rw [r]
  exact ⟨h.same, h.others, h.dram, h.recorder, h.probe⟩

theorem refuseLoad_noted (s : State) : Noted (refuseLoad s) 0x0202 notice 2 := record_noted ..

theorem refuseLoad_frame (s : State) : HubFrame s (refuseLoad s) := .trans (t := { s with freeCtr := s.freeCtr + 1 }) {} (record_frame ..)

/-- A task that is not PREEMPTIBLE does not load over a busy core. -/
theorem loadTask_busy {t : SlotIx} {s : State} (hb : coresFree s s.tasks[t] = false) (hf : s.tasks[t].hdr.flag 4 = false) :
    Freed t (refuseLoad (record s 0x000B error 0xFF s.tasks[t].image.toNat 0 0)) (loadTask t s) := by
  have h := freeTask_freed t (refuseLoad (record s 0x000B error 0xFF s.tasks[t].image.toNat 0 0))
  unfold loadTask
  dsimp only
  rw [if_neg (by rw [hb]; decide), if_neg (by rw [hf]; decide)]
  split
  · exact h
  · exact h.reported (complete_reported _ _ _)

theorem loadTask_preemptible {t : SlotIx} {s : State} (hb : coresFree s s.tasks[t] = false) (hf : s.tasks[t].hdr.flag 4 = true) :
    loadTask t s = loadedTask t (refuseLoad s) := by
  unfold loadTask
  dsimp only
  rw [if_neg (by rw [hb]; decide), if_pos hf]

theorem loadTask_free {t : SlotIx} {s : State} (hb : coresFree s s.tasks[t] = true) : loadTask t s = loadedTask t (loadImages t s) := by
  unfold loadTask
  dsimp only
  rw [if_pos hb]

/-- A load of nothing new reads nothing. -/
theorem loadTask_probe {t : SlotIx} {s : State} (h : coresFree s s.tasks[t] = false ∨ s.tasks[t].loaded = true) :
    (loadTask t s).probe = s.probe := by
  have hl (u : State) : (loadedTask t u).probe = u.probe := by
    obtain ⟨_, _, _, _, e⟩ := loadedTask_only t u
    rw [e]
  cases hb : coresFree s s.tasks[t]
  · cases hf : s.tasks[t].hdr.flag 4
    · exact (loadTask_busy hb hf).probe
    · rw [loadTask_preemptible hb hf, hl]; rfl
  · rw [loadTask_free hb, hl, loadImages_loaded (h.resolve_left (by rw [hb]; decide))]

/-- A load that is not refused leaves the task READY. -/
structure LoadedReady (t : SlotIx) (s u : State) : Prop where
  same : u.tasks[t] = { s.tasks[t] with st := .ready, loaded := u.tasks[t].loaded }
  others : OthersButImages s u t
  dram : u.dram = s.dram
  reads : ReadsOnly s → ReadsOnly u

theorem loadedTask_ready {t : SlotIx} {s v : State} (ht : ∀ j : SlotIx, ∃ b, v.tasks[j] = { s.tasks[j] with loaded := b })
    (hd : v.dram = s.dram) (hr : ReadsOnly s → ReadsOnly v) : LoadedReady t s (loadedTask t v) := by
  obtain ⟨_, _, _, _, e⟩ := loadedTask_only t v
  rw [e]
  refine ⟨?_, fun j hj => ?_, hd, hr⟩
  · obtain ⟨b, hb⟩ := ht t
    dsimp only
    rw [modTask_same, hb]
  · obtain ⟨b, hb⟩ := ht j
    dsimp only
    rw [modTask_other v _ hj, hb]

theorem loadTask_ready {t : SlotIx} {s : State} (h : coresFree s s.tasks[t] = true ∨ s.tasks[t].hdr.flag 4 = true) :
    LoadedReady t s (loadTask t s) := by
  cases hb : coresFree s s.tasks[t]
  · rw [loadTask_preemptible hb (h.resolve_left (by rw [hb]; decide))]
    exact loadedTask_ready (fun _ => ⟨_, rfl⟩) rfl id
  · have hi := loadImages_spec t s
    rw [loadTask_free hb]
    exact loadedTask_ready hi.tasks (by rw [hi.only]) hi.reads

theorem loadTask_reads {t : SlotIx} {s : State} (h : ReadsOnly s) : ReadsOnly (loadTask t s) := by
  by_cases hr : coresFree s s.tasks[t] = true ∨ s.tasks[t].hdr.flag 4 = true
  · exact (loadTask_ready hr).reads h
  · obtain ⟨hb, hf⟩ := not_or.mp hr
    have hp := (loadTask_busy (Bool.eq_false_iff.mpr hb) (Bool.eq_false_iff.mpr hf)).probe
    exact fun p e => h p (hp.symm.trans e)

section Load
variable {i : SlotIx} {s : State}

theorem exec_taskLoadDone (hst : s.tasks[i].st = .loading) (hh : s.tasks[i].halting = none) :
    exec (.taskLoadDone i) s = engineRun (taskKey i 1) (some i) Rank.open_ true (loadTask i) s := by
  change execTaskLoadDone i s = _
  unfold execTaskLoadDone
  dsimp only
  rw [if_neg (by rw [hst, hh]; decide)]

theorem taskLoadDone_refused (hst : s.tasks[i].st = .loading) (hh : s.tasks[i].halting = none)
    (hc : Complete (taskKey i 1) (some i) (loadTask i) s) (hb : coresFree s s.tasks[i] = false) (hf : s.tasks[i].hdr.flag 4 = false) :
    ∃ t, exec (.taskLoadDone i) s = .next t ∧ t.tasks[i] = Task.reset ∧ OtherTasks s t i ∧ t.dram = s.dram ∧
      (∃ e ∈ t.recorder.arriving, e.code = 0x0202) ∧ ∃ e ∈ t.recorder.arriving, e.code = 0x000B ∧ e.unit = 0xFF ∧ e.sev = 2 := by
  obtain ⟨rs, he⟩ := exec_of_complete (exec_taskLoadDone hst hh) hc (loadTask_reads (probing_readsOnly _ _))
  have h := loadTask_busy (s := probing (runOf s (taskKey i 1) (some i)) s) hb hf
  generalize loadTask i _ = u at he h
  refine ⟨_, he, h.same, h.others, h.dram, ?_⟩
  change (∃ e ∈ u.recorder.arriving, _) ∧ ∃ e ∈ u.recorder.arriving, _
  rw [h.recorder]
  obtain ⟨e, he, hcode, -, -⟩ := refuseLoad_noted (record (probing (runOf s (taskKey i 1) (some i)) s) 0x000B error 0xFF
    s.tasks[i].image.toNat 0 0)
  obtain ⟨v, hv, vcode, vsev, vunit⟩ := noted_mono (refuseLoad_frame _).events
    (record_noted (probing (runOf s (taskKey i 1) (some i)) s) 0x000B error 0xFF s.tasks[i].image.toNat 0 0)
  exact ⟨⟨e, he, hcode⟩, v, hv, vcode, vunit, vsev⟩

theorem taskLoadDone_ready (hst : s.tasks[i].st = .loading) (hh : s.tasks[i].halting = none)
    (hc : Complete (taskKey i 1) (some i) (loadTask i) s) (hr : coresFree s s.tasks[i] = true ∨ s.tasks[i].hdr.flag 4 = true) :
    ∃ t, exec (.taskLoadDone i) s = .next t ∧ t.tasks[i] = { s.tasks[i] with st := .ready, loaded := t.tasks[i].loaded } ∧
      OthersButImages s t i ∧ t.dram = s.dram := by
  obtain ⟨rs, he⟩ := exec_of_complete (exec_taskLoadDone hst hh) hc (loadTask_reads (probing_readsOnly _ _))
  have h := loadTask_ready (s := probing (runOf s (taskKey i 1) (some i)) s) hr
  generalize loadTask i _ = u at he h
  exact ⟨_, he, h.same, h.others, h.dram⟩

end Load

/-- What one step of a list sets, and every later step keeps, holds at its end. -/
theorem foldl_sets {α β : Type} {f : β → α → β} {P : β → Prop} {p : α → Prop} (hit : ∀ s a, p a → P (f s a))
    (keep : ∀ s a, P s → P (f s a)) : ∀ (l : List α) (s : β), (∃ a ∈ l, p a) → P (l.foldl f s)
  | [], _, ⟨_, ha, _⟩ => absurd ha List.not_mem_nil
  | b :: l, s, ⟨a, ha, hp⟩ => by
    rcases List.mem_cons.mp ha with rfl | hm
    · exact List.foldlRecOn l f (hit s a hp) fun u hu c _ => keep u c hu
    · exact foldl_sets hit keep l _ ⟨a, hm, hp⟩

/-! ### Launch (R105, R213) -/

/-- Core `c` is the task's, and its enabled contexts are at their entry words. -/
def Entered (t : SlotIx) (h : Header) (c : CoreIx) (s : State) : Prop :=
  s.cores[c].slot = some t ∧ ∀ k, bit h.contexts k.val = true → (ctx s c k).st = .ready ∧ (ctx s c k).pc = h.entry[k].setWidth 13

theorem launched_entered (T : Task) (t : SlotIx) (idx : Nat) (n : Nat) (c : CoreIx) (s : State) :
    Entered t T.hdr c (modCore s c fun x => x.launched T t idx n) := by
  unfold Entered ctx
  rw [modCore_core]
  refine ⟨rfl, fun k hk => ?_⟩
  have hx : (Core.launched T t idx n s.cores[c]).ctx[k] = Ctx.launched T.hdr idx n k := by simp [Core.launched]
  rw [hx, Ctx.launched, if_pos hk]
  exact ⟨rfl, rfl⟩

/-- The cores of a task are launched, each with its place. -/
def launchCores (t : SlotIx) (T : Task) (s : State) : State :=
  (T.cores.zip (List.range T.cores.length)).foldl (fun s q => modCore s q.1 fun x => x.launched T t q.2 q.1.val) s

theorem launchCores_spec (t : SlotIx) (T : Task) (s : State) : OnlyCores s (launchCores t T s) ∧
    (∀ c ∈ T.cores, Entered t T.hdr c (launchCores t T s)) ∧ ∀ c, c ∉ T.cores → (launchCores t T s).cores[c] = s.cores[c] := by
  obtain ⟨ho, hother⟩ := foldl_modCore_spec (at_ := fun q : CoreIx × Nat => q.1) (f := fun q x => x.launched T t q.2 q.1.val)
    (s := s) (l := T.cores.zip (List.range T.cores.length)) rfl
  refine ⟨ho, fun c hc => ?_, fun c hc => hother c fun q hq e => hc (e ▸ (List.of_mem_zip hq).1)⟩
  refine foldl_sets (p := fun q : CoreIx × Nat => q.1 = c) (fun u q hq => hq ▸ launched_entered T t q.2 _ q.1 u) (fun u q hu => ?_) _ _ ?_
  · by_cases h : q.1 = c
    · exact h ▸ launched_entered T t q.2 _ q.1 u
    · unfold Entered ctx at hu ⊢
      rw [modCore_other u q.1 _ (Ne.symm h)]
      exact hu
  · have hm : c ∈ (T.cores.zip (List.range T.cores.length)).map Prod.fst := by
      rw [List.map_fst_zip (by simp)]
      exact hc
    obtain ⟨q, hq, e⟩ := List.mem_map.mp hm
    exact ⟨q, hq, e⟩

/-- What a launch leaves: the task RUNNING on its own cores, and every other core as it was. -/
structure Launched (t : SlotIx) (s u : State) : Prop where
  st : u.tasks[t].st = .running
  others : OthersButImages s u t
  dram : u.dram = s.dram
  own : ∀ c ∈ s.tasks[t].cores, Entered t s.tasks[t].hdr c u
  other : ∀ c, c ∉ s.tasks[t].cores → u.cores[c] = s.cores[c]
  reads : ReadsOnly s → ReadsOnly u

/-- The global counters of a task are at reset, in its hold (R213). -/
theorem foldl_gset_only (first : Nat) (t : SlotIx) (l : List Nat) (s : State) : ∃ g,
    l.foldl (fun s i => gset (Fin.ofNat 4096 (first + i)) { GCounter.reset with holder := some t } s) s = { s with gctr := g } := by
  induction l generalizing s with
  | nil => exact ⟨_, rfl⟩
  | cons i l ih =>
    obtain ⟨g, h⟩ := ih (gset (Fin.ofNat 4096 (first + i)) { GCounter.reset with holder := some t } s)
    exact ⟨g, h⟩

theorem launchTask_eq (t : SlotIx) (s : State) : ∃ g l q, launchTask t s =
    modTask { launchCores t s.tasks[t] (loadImages t s) with gctr := g, lookup := l } t fun x =>
      { x with st := .running, started := true, quantumEnd := q } := by
  obtain ⟨g, h⟩ := foldl_gset_only s.tasks[t].gctrFirst t (List.range s.tasks[t].hdr.globals) (launchCores t s.tasks[t] (loadImages t s))
  exact ⟨g, _, _, congrArg (fun u : State => modTask { u with lookup := u.lookup.map fun e => { e with rows := 0 } } t fun x =>
    { x with st := .running, started := true, quantumEnd := frameUp (ftNow u) + 640 * u.sec.quantum }) h⟩

theorem launchTask_spec (t : SlotIx) (s : State) : Launched t s (launchTask t s) := by
  have hi := loadImages_spec t s
  obtain ⟨ho, hown, hother⟩ := launchCores_spec t s.tasks[t] (loadImages t s)
  obtain ⟨g, l, q, e⟩ := launchTask_eq t s
  rw [e]
  generalize loadImages t s = v at hi ho hown hother ⊢
  generalize launchCores t s.tasks[t] v = w at ho hown hother ⊢
  have hd : w.dram = s.dram := by rw [ho, hi.only]
  have hp : w.probe = v.probe := by rw [ho]
  refine ⟨?_, fun j hj => ?_, hd, hown, fun c hc => (hother c hc).trans (hi.cores c hc), fun h p e => hi.reads h p (hp.symm.trans e)⟩
  · rw [modTask_same]
  · rw [modTask_other _ _ hj]
    dsimp only
    rw [ho.tasks]
    exact hi.others j hj

section Launch
variable {i : SlotIx} {s : State}

theorem exec_taskLaunch (hst : s.tasks[i].st = .ready) (hh : s.tasks[i].halting = none) (hq : s.quiesce = none)
    (ha : awaitsResv s i = false) (hp : pinnedOut s i = false) : exec (.taskLaunch i) s =
      engineRun (taskKey i 1) (some i) Rank.open_ (placeFree s i && (!sharesSegments s i || atFrame s)) (launchTask i) s := by
  change execTaskLaunch i s = _
  unfold execTaskLaunch
  dsimp only
  rw [if_pos (by rw [hst, hh, hq, ha, hp]; decide)]

theorem taskLaunch_starts (hst : s.tasks[i].st = .ready) (hh : s.tasks[i].halting = none) (hq : s.quiesce = none)
    (ha : awaitsResv s i = false) (hp : pinnedOut s i = false) (hc : Complete (taskKey i 1) (some i) (launchTask i) s)
    (hf : placeFree s i = true) (hs : sharesSegments s i = false ∨ atFrame s = true) :
    ∃ t, exec (.taskLaunch i) s = .next t ∧ t.tasks[i].st = .running ∧ OthersButImages s t i ∧ t.dram = s.dram ∧
      (∀ c ∈ s.tasks[i].cores, t.cores[c].slot = some i ∧ ∀ k, bit s.tasks[i].hdr.contexts k.val = true →
        (ctx t c k).st = .ready ∧ (ctx t c k).pc = s.tasks[i].hdr.entry[k].setWidth 13) ∧
      ∀ c, c ∉ s.tasks[i].cores → t.cores[c] = s.cores[c] := by
  have hgo : (placeFree s i && (!sharesSegments s i || atFrame s)) = true := by
    rw [hf]
    rcases hs with h | h <;> simp [h]
  have he := exec_taskLaunch hst hh hq ha hp
  rw [hgo] at he
  have h := launchTask_spec i (probing (runOf s (taskKey i 1) (some i)) s)
  obtain ⟨rs, he⟩ := exec_of_complete he hc (h.reads (probing_readsOnly _ _))
  generalize launchTask i _ = u at he h
  exact ⟨_, he, h.st, h.others, h.dram, h.own, h.other⟩

end Launch

/-! ### The end of a task (R123, R211) -/

section End
variable {i : SlotIx} {s : State}

theorem taskEnd_ending (hst : s.tasks[i].st = .running) (hh : s.tasks[i].halting = none) (hhold : s.tasks[i].hold = false)
    (ha : allHalted s s.tasks[i] = true) : ∃ t, exec (.taskEnd i) s = .next t ∧
      t.tasks[i] = { s.tasks[i] with st := .ending, endStep := 0 } ∧ OtherTasks s t i ∧ t.dram = s.dram := by
  refine ⟨modTask s i fun x => { x with st := .ending, endStep := 0 }, ?_, modTask_same s i _, fun j hj => modTask_other s _ hj, rfl⟩
  change execTaskEnd i s = _
  unfold execTaskEnd
  dsimp only
  rw [if_neg (by rw [hh]; decide), if_pos (by rw [hst, hhold, ha]; decide)]

/-- What TASK_END does for an ENDING task whose Girth is idle. -/
theorem exec_taskEnd_ending (hst : s.tasks[i].st = .ending) (hh : s.tasks[i].halting = none) (hg : girthIdle s s.tasks[i] = true) :
    exec (.taskEnd i) s =
      if s.tasks[i].endStep = 0 then .next (s.tasks[i].cores.foldl (fun s c => closeAll c s) (modTask s i fun x => { x with endStep := 1 }))
      else if s.tasks[i].endStep = 1 then
        if allClosed s s.tasks[i] && memoryIdle s s.tasks[i] && signalsIdle s s.tasks[i]
            && s.tasks[i].cmd.openEntries.all fun e => Entry.engine e.words == 0 then .next (checkEnd i s)
        else .next s
      else if s.time.cycle < s.tasks[i].scrubUntil then .next s
      else .next (endTask i (s.tasks[i].endStep == 3) s) := by
  change execTaskEnd i s = _
  unfold execTaskEnd
  dsimp only
  rw [if_neg (by rw [hh]; decide), if_neg (by rw [hst]; simp), if_neg (by rw [hst, hg]; decide)]

/-- An update that leaves a core's streams alone. -/
theorem modCore_streams (u : State) (c d : CoreIx) {f : Core → Core} (hf : ∀ x, (f x).streams = x.streams) :
    (modCore u c f).cores[d].streams = u.cores[d].streams := by
  by_cases h : d = c
  · subst h; rw [modCore_core, hf]
  · rw [modCore_other u c f h]

/-- Only cores differ, and of them no stream. -/
def KeepsStreams (s t : State) : Prop := OnlyCores s t ∧ ∀ d : CoreIx, t.cores[d].streams = s.cores[d].streams

theorem closeWindow_streams (c : CoreIx) (w : Fin 8) (s : State) : KeepsStreams s (closeWindow c w s) := by
  unfold closeWindow
  dsimp only
  split
  · exact ⟨rfl, fun _ => rfl⟩
  · refine List.foldlRecOn _ _ (motive := KeepsStreams s) ⟨rfl, fun d => modCore_streams s c d fun _ => rfl⟩ fun u hu e _ => ?_
    refine ⟨hu.1.trans (modCore_only u _ _), fun d => ?_⟩
    rw [modCore_streams u]
    · exact hu.2 d
    · exact fun _ => rfl

/-- No stream of core `c` is active. -/
def NoneActive (c : CoreIx) (s : State) : Prop := ∀ j, (streamOf s c j).st ≠ .active

theorem closeAll_spec (c : CoreIx) (s : State) : OnlyCores s (closeAll c s) ∧ NoneActive c (closeAll c s) ∧
    ∀ d, NoneActive d s → NoneActive d (closeAll c s) := by
  unfold closeAll
  dsimp only
  generalize hv : modCore s c _ = v
  have hw : KeepsStreams v (List.foldl (fun s w => closeWindow c w s) v (List.finRange 8)) :=
    List.foldlRecOn _ _ (motive := KeepsStreams v) ⟨rfl, fun _ => rfl⟩ fun u hu w _ =>
      let h := closeWindow_streams c w u
      ⟨hu.1.trans h.1, fun d => (h.2 d).trans (hu.2 d)⟩
  have hs (d : CoreIx) (h : NoneActive d v) : NoneActive d (List.foldl (fun s w => closeWindow c w s) v (List.finRange 8)) := by
    unfold NoneActive streamOf at h ⊢
    rw [hw.2 d]
    exact h
  have hown : NoneActive c v := by
    intro j
    rw [← hv, streamOf, modCore_core]
    simp only [Fin.getElem_fin, Vector.getElem_map]
    split
    · exact SlotState.noConfusion
    next h => exact fun e => h (beq_iff_eq.mpr e)
  refine ⟨.trans (hv ▸ modCore_only s c _) hw.1, hs c hown, fun d hd => hs d ?_⟩
  by_cases h : d = c
  · exact h ▸ hown
  · unfold NoneActive streamOf at hd ⊢
    rw [← hv, modCore_other s c _ h]
    exact hd

theorem taskEnd_closes (hst : s.tasks[i].st = .ending) (hh : s.tasks[i].halting = none) (hg : girthIdle s s.tasks[i] = true)
    (hs : s.tasks[i].endStep = 0) : ∃ t, exec (.taskEnd i) s = .next t ∧ t.tasks[i].endStep = 1 ∧ OtherTasks s t i ∧
      ∀ c ∈ s.tasks[i].cores, ∀ j, (streamOf t c j).st ≠ .active := by
  refine ⟨_, (exec_taskEnd_ending hst hh hg).trans (if_pos hs), ?_⟩
  have ho := OnlyCores.foldl (f := fun s c => closeAll c s) (fun u c => (closeAll_spec c u).1) s.tasks[i].cores
    (modTask s i fun x => { x with endStep := 1 })
  have hc (c : CoreIx) (hc : c ∈ s.tasks[i].cores) : NoneActive c (s.tasks[i].cores.foldl (fun s c => closeAll c s)
      (modTask s i fun x => { x with endStep := 1 })) :=
    foldl_sets (p := (· = c)) (fun u a ha => ha ▸ (closeAll_spec a u).2.1) (fun u a hu => (closeAll_spec a u).2.2 c hu) _ _ ⟨c, hc, rfl⟩
  generalize List.foldl _ _ _ = u at ho hc ⊢
  refine ⟨?_, fun j hj => ?_, hc⟩
  · rw [ho.tasks, modTask_same]
  · rw [ho.tasks, modTask_other s _ hj]

/-- The drift check of a core changes that core and the recorder alone. -/
theorem driftCore_tasks (T : Task) (q : CoreIx × Nat) (s : State) : (driftCore T q s).tasks = s.tasks := by
  unfold driftCore
  split <;> rfl

theorem scrubCores_only (T : Task) (s : State) : OnlyCores s (scrubCores T s) := .foldl (fun s c => modCore_only s c _) _ s

/-- The counters of every core of the task are as its counter table says. -/
def undrifted (s : State) (T : Task) : Bool :=
  (T.cores.zip (List.range T.cores.length)).all fun q => (driftOf s T q.1 q.2).isEmpty

theorem checkEnd_spec (i : SlotIx) (s : State) : OtherTasks s (checkEnd i s) i ∧
    (checkEnd i s).tasks[i].endStep = if undrifted s s.tasks[i] then 2 else 3 := by
  have ht := List.foldlRecOn (motive := fun u : State => u.tasks = s.tasks) (s.tasks[i].cores.zip (List.range s.tasks[i].cores.length))
    (fun s' q => driftCore s.tasks[i] q s') (b := s) rfl fun u hu q _ => (driftCore_tasks s.tasks[i] q u).trans hu
  have hd : ((s.tasks[i].cores.zip (List.range s.tasks[i].cores.length)).any fun q => !(driftOf s s.tasks[i] q.1 q.2).isEmpty) =
      !undrifted s s.tasks[i] := by rw [undrifted, List.not_all_eq_any_not]
  unfold checkEnd
  dsimp only
  rw [hd]
  generalize List.foldl _ s _ = u at ht ⊢
  have hc (v : State) (p : Bool) : (if p then scrubCores s.tasks[i] v else v).tasks = v.tasks := by
    split
    · exact (scrubCores_only _ v).tasks
    · rfl
  refine ⟨fun j hj => ?_, ?_⟩
  · rw [hc, modTask_other u _ hj, ht]
  · rw [hc, modTask_same]
    cases undrifted s s.tasks[i] <;> rfl

theorem taskEnd_checks (hst : s.tasks[i].st = .ending) (hh : s.tasks[i].halting = none) (hg : girthIdle s s.tasks[i] = true)
    (hs : s.tasks[i].endStep = 1) (hc : allClosed s s.tasks[i] = true) (hm : memoryIdle s s.tasks[i] = true)
    (hi : signalsIdle s s.tasks[i] = true) (he : ∀ e ∈ s.tasks[i].cmd.posted, e.finished = false → Entry.engine e.words = 0) :
    ∃ t, exec (.taskEnd i) s = .next t ∧ OtherTasks s t i ∧
      t.tasks[i].endStep = (if (s.tasks[i].cores.zip (List.range s.tasks[i].cores.length)).all fun q =>
        (driftOf s s.tasks[i] q.1 q.2).isEmpty then 2 else 3) := by
  have hopen : (s.tasks[i].cmd.openEntries.all fun e => Entry.engine e.words == 0) = true := by
    simp only [CmdList.openEntries, List.all_eq_true, List.mem_filter, beq_iff_eq]
    exact fun e h => he e h.1 (by simpa using h.2)
  obtain ⟨ho, hd⟩ := checkEnd_spec i s
  refine ⟨checkEnd i s, ?_, ho, hd⟩
  rw [exec_taskEnd_ending hst hh hg, if_neg (by omega), if_pos hs, if_pos (by rw [hc, hm, hi, hopen]; decide)]

theorem releaseTask_same (t : SlotIx) (s : State) : (releaseTask t s).tasks[t] = s.tasks[t].given := by
  rw [releaseTask_held t s]
  exact modTask_same s t _

theorem endTask_spec (t : SlotIx) (drift : Bool) (s : State) : (endTask t drift s).tasks[t].sectors = 0 ∧
    (endTask t drift s).tasks[t].st = (if drift then .faulted else .done) ∧
    (endTask t drift s).tasks[t].reason = if drift then 0xFF else 0 := by
  have hg := releaseTask_same t (finishOpen t s)
  unfold endTask
  dsimp only
  generalize releaseTask t (finishOpen t s) = u at hg ⊢
  cases drift
  · rw [if_neg (by decide), (completeTask_reported t 2 _).tasks, modTask_same, hg]
    exact ⟨rfl, rfl, rfl⟩
  · rw [if_pos rfl, (completeTask_reported t 3 _).tasks, record_tasks, modTask_same, hg]
    exact ⟨rfl, rfl, rfl⟩

theorem taskEnd_ended (hst : s.tasks[i].st = .ending) (hh : s.tasks[i].halting = none) (hg : girthIdle s s.tasks[i] = true)
    (hs : 2 ≤ s.tasks[i].endStep) (hu : s.tasks[i].scrubUntil ≤ s.time.cycle) :
    ∃ t, exec (.taskEnd i) s = .next t ∧ t.tasks[i].sectors = 0 ∧
      (if s.tasks[i].endStep = 3 then t.tasks[i].st = .faulted ∧ t.tasks[i].reason = 0xFF
       else t.tasks[i].st = .done ∧ t.tasks[i].reason = 0) := by
  obtain ⟨hsec, hst', hr⟩ := endTask_spec i (s.tasks[i].endStep == 3) s
  refine ⟨endTask i (s.tasks[i].endStep == 3) s, ?_, hsec, ?_⟩
  · rw [exec_taskEnd_ending hst hh hg, if_neg (by omega), if_neg (by omega), if_neg (by omega)]
  · rw [hst', hr]
    by_cases h : s.tasks[i].endStep = 3
    · rw [if_pos h, h]; exact ⟨rfl, rfl⟩
    · rw [if_neg h, beq_false_of_ne h]; exact ⟨rfl, rfl⟩

end End

/-! ### Halt (R59, R117) -/

section Halt
variable {i : SlotIx} {s : State}

theorem taskHaltDone_faults {r : Byte} (hh : s.tasks[i].halting = some r) (hl : s.tasks[i].live = true) (hp : s.tasks[i].st ≠ .preempting)
    (ha : s.tasks[i].autoRelease = false)
    (hq : s.tasks[i].st = .running ∨ s.tasks[i].st = .ending →
      blocksIdle s s.tasks[i] = true ∧ girthIdle s s.tasks[i] = true ∧ memoryIdle s s.tasks[i] = true) :
    ∃ t, exec (.taskHaltDone i) s = .next t ∧ t.tasks[i].st = .faulted ∧ t.tasks[i].reason = r ∧ t.tasks[i].halting = none := by
  obtain ⟨c, x, hf⟩ := faultTask_same i r false s
  have hd : haltedTask i r s = faultTask i r false s := by
    unfold haltedTask
    dsimp only
    rw [if_neg (by rw [ha]; decide)]
  refine ⟨faultTask i r false s, ?_, by rw [hf], by rw [hf], by rw [hf]⟩
  change execTaskHaltDone i s = _
  unfold execTaskHaltDone
  dsimp only
  rw [hh]
  dsimp only
  rw [if_neg (by rw [hl, beq_false_of_ne hp]; decide), hd]
  split
  next h =>
    obtain ⟨hb, hg, hm⟩ := hq (by simpa using h)
    rw [if_pos (by rw [hb, hg, hm]; decide)]
  next => rfl

theorem taskHaltDone_frees (hh : s.tasks[i].halting = none) (hst : s.tasks[i].st = .faulted) (ha : s.tasks[i].autoRelease = true)
    (hg : girthIdle s s.tasks[i] = true) : ∃ t, exec (.taskHaltDone i) s = .next t ∧ t.tasks[i] = Task.reset := by
  refine ⟨freeTask i s, ?_, (freeTask_freed i s).same⟩
  change execTaskHaltDone i s = _
  unfold execTaskHaltDone
  dsimp only
  rw [hh]
  dsimp only
  rw [if_pos (by rw [hst, ha]; decide), releaseWhenIdle, if_pos hg]

end Halt

theorem taskLoadDone_complete {i : SlotIx} {s : State} (h : coresFree s s.tasks[i] = false ∨ s.tasks[i].loaded = true)
    (hr : running s (taskKey i 1) = false) : Complete (taskKey i 1) (some i) (loadTask i) s :=
  complete_of_idle hr (loadTask_probe h)

/-- Settles O34: a clause for each step of a task's life, from its load to its release. -/
theorem taskStates : Obligations.TaskStates :=
  ⟨fun _ _ hst hh => ⟨carries_of_engineRun (exec_taskLoadDone hst hh), taskLoadDone_complete, taskLoadDone_refused hst hh,
      taskLoadDone_ready hst hh⟩,
   fun _ _ hst hh hq ha hp => ⟨carries_of_engineRun (exec_taskLaunch hst hh hq ha hp), taskLaunch_starts hst hh hq ha hp⟩,
   fun _ _ => taskEnd_ending, fun _ _ => taskEnd_closes, fun _ _ => taskEnd_checks, fun _ _ => taskEnd_ended,
   fun _ _ _ => taskHaltDone_faults, fun _ _ => taskHaltDone_frees⟩

end Sys2Proof.Machine
end

section
/-! PROOF. Fabric time between devices (chapter 02): what a change of its state, a trim, an election and a step leave, each said once, and
from these the statements on fabric time and on the range of the trim. -/

namespace Sys2Proof.Machine

/-! ### Changes of the time state (R24, R32, R297) -/

/-- Fabric time has changed and its change was signalled. -/
def Retimed (s t : State) : Prop := t = { s with time := t.time, cxl := t.cxl, out := t.out }

/-- Fabric time has changed, and a bound beyond its limit may have been recorded (R32). -/
def Bounded (s t : State) : Prop := t = { s with time := t.time, recorder := t.recorder }

/-- Fabric time has changed, its change was signalled and events were recorded. -/
def Moved (s t : State) : Prop := t = { s with time := t.time, cxl := t.cxl, out := t.out, recorder := t.recorder }

theorem Moved.trans {s t u : State} (a : Moved s t) (b : Moved t u) : Moved s u := Eq.trans b (by rw [a])

theorem Retimed.moved {s t : State} (h : Retimed s t) : Moved s t := Eq.trans h (by rw [h])

theorem Bounded.moved {s t : State} (h : Bounded s t) : Moved s t := Eq.trans h (by rw [h])

theorem Moved.cores {s t : State} (h : Moved s t) : t.cores = s.cores := by rw [h]

section Changes
variable (s : State)

@[simp] theorem modTime_time (f : Time → Time) : (modTime s f).time = f s.time := rfl

@[simp] theorem msix_time (v : Byte) : (msix v s).time = s.time := by rw [msix_reported v s]

theorem msix_retimed (v : Byte) : Retimed s (msix v s) := by
  unfold msix
  repeat' split
  all_goals exact rfl

@[simp] theorem setTimeState_time (st : TimeState) : (setTimeState st s).time = { s.time with st := st } := by
  unfold setTimeState
  split
  next h => rw [← h]
  next => simp

theorem setTimeState_retimed (st : TimeState) : Retimed s (setTimeState st s) := by
  unfold setTimeState
  split
  · exact rfl
  · exact Eq.trans (msix_retimed _ 3) rfl

/-- An update of the time fields followed by a change of state. -/
theorem setTimeState_modTime_retimed (st : TimeState) (f : Time → Time) : Retimed s (setTimeState st (modTime s f)) :=
  Eq.trans (setTimeState_retimed _ st) rfl

theorem setTimeState_recorder (st : TimeState) : (setTimeState st s).recorder = s.recorder := by rw [setTimeState_retimed s st]

@[simp] theorem timeEvent_time (reason : Nat) (sev : BitVec 2) : (timeEvent reason sev s).time = s.time := rfl

/-! ### HOLDOVER (R32) -/

@[simp] theorem noteHold_time : (noteHold s).time =
    { s.time with holdNoted := s.time.holdNoted || decide (s.time.holdLimit.toNat < s.time.errBound.toNat) } := by
  unfold noteHold
  split
  next h =>
    obtain ⟨hb, -⟩ : s.time.holdLimit.toNat < s.time.errBound.toNat ∧ s.time.holdNoted = false := by simpa using h
    simp [hb]
  next h =>
    have hn : (s.time.holdNoted || decide (s.time.holdLimit.toNat < s.time.errBound.toNat)) = s.time.holdNoted := by
      cases hc : s.time.holdNoted with
      | false => simpa [hc] using h
      | true => rfl
    rw [hn]

theorem noteHold_bounded : Bounded s (noteHold s) := by
  unfold noteHold
  split <;> exact rfl

theorem noteHold_keeps_events : ∀ v ∈ s.recorder.arriving, v ∈ (noteHold s).recorder.arriving := by
  unfold noteHold
  split
  · exact fun _ h => List.mem_append_left _ h
  · exact fun _ h => h

theorem enterHoldover_time : (enterHoldover s).time =
    { s.time with
      st := .holdover
      holdNoted := decide (s.time.holdLimit.toNat < s.time.errBound.toNat)
      holdAt := nsNow s } := by
  simp [enterHoldover]

theorem enterHoldover_moved : Moved s (enterHoldover s) :=
  (setTimeState_modTime_retimed s _ _).moved.trans (noteHold_bounded _).moved

theorem enterHoldover_keeps_events : ∀ v ∈ s.recorder.arriving, v ∈ (enterHoldover s).recorder.arriving := fun v h =>
  noteHold_keeps_events _ v (by rw [setTimeState_recorder]; exact h)

end Changes

section Bounds
variable {s : State}

theorem upstreamLoss_due (hst : s.time.st = .locked ∨ s.time.st = .acquiring) (hm : s.time.isMaster = false) (hu : s.time.upstream ≠ 0xF)
    (hl : s.time.lastSync + 375000 ≤ nsNow s) : exec .upstreamLoss s = .next (enterHoldover s) := by
  have hlost : upstreamLost s = true := by simpa [upstreamLost, hm, hl] using ⟨hst, hu⟩
  change execUpstreamLoss s = _
  rw [execUpstreamLoss, if_pos hlost]

/-- The bound of HOLDOVER after one more millisecond. -/
def holdoverBound (s : State) : State := modTime s fun x => { x with
  errBound := BitVec.ofNat 16 (min 0xFFFF (x.errBound.toNat + 10))
  holdAt := x.holdAt + 1000000 }

/-- What a millisecond in HOLDOVER leaves. -/
theorem holdoverTick_due (hst : s.time.st = .holdover) (hd : s.time.holdAt + 1000000 ≤ nsNow s) :
    ∃ t, exec .holdoverTick s = .next t ∧ t.time.errBound.toNat = min 0xFFFF (s.time.errBound.toNat + 10) ∧
      t.time.holdAt = s.time.holdAt + 1000000 ∧ t.time.st = .holdover ∧ Bounded s t := by
  have hdue : holdoverDue s = true := by simp [holdoverDue, hst, hd]
  refine ⟨noteHold (holdoverBound s), show execHoldoverTick s = _ from ?_, ?_, ?_, ?_, Eq.trans (noteHold_bounded _) rfl⟩
  · rw [execHoldoverTick, if_neg (by simp [hdue])]
    rfl
  · rw [noteHold_time]
    exact Nat.mod_eq_of_lt (by omega)
  · rw [noteHold_time]; rfl
  · rw [noteHold_time]; exact hst

end Bounds

/-! ### The trim (R29, R30, R33) -/

section Trim
variable {s : State}

/-- A trim that is set lies within 200 ppm. -/
theorem retrim_range (s : State) : (retrim s).time.trim.toInt.natAbs ≤ 20000 := by
  obtain ⟨v, hv⟩ : ∃ v : Int, (retrim s).time.trim = BitVec.ofInt 32 (max (-20000) (min 20000 v)) := ⟨_, rfl⟩
  have hv' : (BitVec.ofInt 32 (max (-20000) (min 20000 v))).toInt = max (-20000) (min 20000 v) :=
    BitVec.toInt_ofInt_eq_self (by decide) (by omega) (by omega)
  rw [hv, hv']
  omega

/-- The state in which an exchange has measured the offset `d`. -/
def synced (d : Int) (s : State) : State := measure d (modTime s fun x => { x with lastSync := nsNow s })

theorem tsyncExchange_upstream {p : Fin 8} {rt : Nat} {d : Int} (hu : s.time.upstream.toNat = p.val) (hp : s.links[p].st = .up)
    (hs : s.time.st ≠ .free) : exec (.tsyncExchange p rt d) s =
      .next (if s.time.st = .holdover then synced d s else retrim (synced d s)) := by
  have hup : portUp s p.val = true := by
    rw [portUp, dif_pos p.isLt]
    exact beq_iff_eq.mpr hp
  change execTsyncExchange p rt d s = _
  rw [execTsyncExchange, if_pos (by simp [hu, hup, hs])]
  simp [synced, measure]

theorem tsyncExchange_spec {p : Fin 8} {rt : Nat} {d : Int} (hu : s.time.upstream.toNat = p.val) (hp : s.links[p].st = .up)
    (hs : s.time.st ≠ .free) :
    ∃ t, exec (.tsyncExchange p rt d) s = .next t ∧
      t.time = { s.time with offset := BitVec.ofInt 32 d, ahead := d, lastSync := nsNow s, trim := t.time.trim } ∧
      (if s.time.st = .holdover then t.time.trim = s.time.trim else t.time.trim.toInt.natAbs ≤ 20000) ∧
      t = { s with time := t.time, freeCtr := t.freeCtr } := by
  refine ⟨_, tsyncExchange_upstream hu hp hs, ?_⟩
  split
  · exact ⟨rfl, rfl, rfl⟩
  · exact ⟨rfl, retrim_range _, rfl⟩

/-- A trim beyond the range is recorded and puts the device in HOLDOVER. -/
theorem trimOutOfRange_beyond {trim : W32} (ht : 20000 < trim.toInt.natAbs) (hs : s.time.st ≠ .holdover) :
    exec (.trimOutOfRange trim) s = .next (enterHoldover (timeEvent 2 error s)) := by
  change execTrimOutOfRange trim s = _
  rw [execTrimOutOfRange, if_pos (by simp [ht, hs])]

theorem trimOutOfRange_none {trim : W32} (h : trim.toInt.natAbs ≤ 20000 ∨ s.time.st = .holdover) :
    exec (.trimOutOfRange trim) s = .next s := by
  change execTrimOutOfRange trim s = _
  rw [execTrimOutOfRange, if_neg]
  rcases h with h | h
  · simp [Nat.not_lt.mpr h]
  · simp [h]

end Trim

/-- Settles O60: the event that is recorded stays on its way while the device enters HOLDOVER. -/
theorem trimRange : Obligations.TrimRange := by
  refine ⟨fun trim s ht hs => ⟨_, trimOutOfRange_beyond ht hs, by rw [enterHoldover_time], ?_, ?_⟩, fun _ _ => trimOutOfRange_none⟩
  · exact noted_mono (enterHoldover_keeps_events _) (record_noted ..)
  · exact Moved.trans (t := timeEvent 2 error s) rfl (enterHoldover_moved _)

/-! ### The election (R24) -/

/-- The pair (PRIO, identity) as one number: the lower one wins. -/
def candRank (c : Candidate) : Nat := c.prio.toNat * 2 ^ 64 + c.idn.toNat

theorem candBeats_iff (a b : Candidate) : candBeats a b = true ↔ candRank a < candRank b := by
  have ha := a.idn.isLt
  have hb := b.idn.isLt
  have he : a.prio = b.prio ↔ a.prio.toNat = b.prio.toNat := BitVec.toNat_inj.symm
  simp only [candBeats, candRank, Bool.or_eq_true, Bool.and_eq_true, decide_eq_true_eq, beq_iff_eq, he]
  omega

/-- The best eligible candidate among `others`. -/
def elected (others : List Candidate) : Option Candidate := (others.filter (·.eligible)).argmin candRank

/-- This device as a candidate. -/
def ownCandidate (s : State) : Candidate := { prio := s.time.prio, idn := s.sec.idn, eligible := s.time.eligible, depth := 0, port := 0 }

/-- The state after this device became the master. -/
def becomeMaster (s : State) : State :=
  setTimeState .locked <| modTime s fun x => { x with isMaster := true, depth := 0, upstream := 0xF, errBound := 0, stepPending := false }

/-- The state after this device took its place in the tree of `c`. -/
def joinTree (c : Candidate) (s : State) : State :=
  setTimeState .acquiring <| modTime s fun x =>
    { x with isMaster := false, depth := c.depth, upstream := BitVec.ofNat 4 c.port.val, lastSync := nsNow s }

theorem elected_none {others : List Candidate} (h : elected others = none) : ∀ c ∈ others, c.eligible = false := by
  simpa [elected] using h

theorem elected_some {others : List Candidate} {b : Candidate} (h : elected others = some b) :
    b ∈ others ∧ b.eligible = true ∧ ∀ c ∈ others, c.eligible = true → candRank b ≤ candRank c := by
  obtain ⟨hb, he⟩ := List.mem_filter.mp (List.argmin_mem h)
  exact ⟨hb, he, fun c hc hce => List.le_of_mem_argmin (List.mem_filter.mpr ⟨hc, hce⟩) h⟩

section Election
variable {others : List Candidate} {own : Candidate} {s : State}

/-- An election by its best candidate. -/
theorem exec_masterElection (hs : s.time.st ≠ .free) : exec (.masterElection others) s =
    .next ((elected others).elim (if s.time.eligible then becomeMaster s else s) fun c =>
      if s.time.eligible && candBeats (ownCandidate s) c then becomeMaster s else joinTree c s) := by
  change execMasterElection others s = _
  unfold execMasterElection
  rw [if_neg (by simpa using hs)]
  dsimp only
  rw [show List.foldl _ _ _ = elected others from List.foldl_ext _ _ _ fun o c _ => by
    cases o with
    | none => rfl
    | some x => simp only [List.argAux, candBeats_iff]]
  cases elected others with
  | none => exact (apply_ite Host.Outcome.next ..).symm
  | some c => exact (apply_ite Host.Outcome.next ..).symm

theorem candRank_own (hp : own.prio = s.time.prio) (hi : own.idn = s.sec.idn) : candRank (ownCandidate s) = candRank own := by
  simp [candRank, ownCandidate, hp, hi]

/-- A device that beats every other eligible one becomes the master. -/
theorem masterElection_won (hs : s.time.st ≠ .free) (he : s.time.eligible = true) (hp : own.prio = s.time.prio) (hi : own.idn = s.sec.idn)
    (hb : ∀ c ∈ others, c.eligible = true → candBeats own c = true) : exec (.masterElection others) s = .next (becomeMaster s) := by
  rw [exec_masterElection hs]
  cases hel : elected others with
  | none => simp [he]
  | some b =>
    obtain ⟨hmem, hbe, -⟩ := elected_some hel
    have hown : candBeats (ownCandidate s) b = true := by
      rw [candBeats_iff, candRank_own hp hi, ← candBeats_iff]
      exact hb b hmem hbe
    simp [he, hown]

/-- A device that an eligible one beats, or that is not eligible beside one that is, joins the tree of the best eligible device. -/
theorem masterElection_lost (hs : s.time.st ≠ .free) (hp : own.prio = s.time.prio) (hi : own.idn = s.sec.idn)
    (hb : ∃ c ∈ others, c.eligible = true ∧ (s.time.eligible = false ∨ candBeats c own = true)) :
    ∃ b ∈ others, b.eligible = true ∧ exec (.masterElection others) s = .next (joinTree b s) := by
  obtain ⟨c, hc, hce, hlost⟩ := hb
  cases hel : elected others with
  | none => exact absurd hce (by simp [elected_none hel c hc])
  | some b =>
    obtain ⟨hmem, hbe, hmin⟩ := elected_some hel
    have hout : ¬ (s.time.eligible && candBeats (ownCandidate s) b) = true := by
      rw [Bool.and_eq_true, candBeats_iff, candRank_own hp hi]
      rintro ⟨he, hlt⟩
      rcases hlost with h | h
      · exact absurd he (by simp [h])
      · have := (candBeats_iff c own).mp h
        have := hmin c hc hce
        omega
    refine ⟨b, hmem, hbe, ?_⟩
    rw [exec_masterElection hs, hel, Option.elim_some, if_neg hout]

end Election

theorem becomeMaster_time (s : State) : (becomeMaster s).time =
    { s.time with st := .locked, isMaster := true, depth := 0, upstream := 0xF, errBound := 0, stepPending := false } :=
  setTimeState_time ..

theorem joinTree_time (c : Candidate) (s : State) : (joinTree c s).time =
    { s.time with st := .acquiring, isMaster := false, depth := c.depth, upstream := BitVec.ofNat 4 c.port.val, lastSync := nsNow s } :=
  setTimeState_time ..

theorem becomeMaster_retimed (s : State) : Retimed s (becomeMaster s) := setTimeState_modTime_retimed ..

theorem joinTree_retimed (c : Candidate) (s : State) : Retimed s (joinTree c s) := setTimeState_modTime_retimed ..

/-! ### Lock and acquisition (R33) -/

section Lock
variable {d : Int} {s : State}

/-- The state in which the offset `d` was measured at lock, the step and the bound are as `f` says, and the trim follows. -/
def lockTrim (d : Int) (f : Time → Time) (s : State) : State := retrim (modTime (measure d s) f)

/-- The device is LOCKED with the bound of its depth; beyond ten hops that is recorded (R27). -/
def lockedAt (d : Int) (s : State) : State :=
  let s := setTimeState .locked (lockTrim d (fun x => { x with stepPending := false, errBound := boundAt x.depth }) s)
  if 10 < s.time.depth.toNat then timeEvent 1 notice s else s

/-- A step is pending and the device goes on acquiring. -/
def stepAwaited (d : Int) (s : State) : State := setTimeState .acquiring (lockTrim d (fun x => { x with stepPending := true }) s)

theorem exec_timeLock (hst : s.time.st = .acquiring ∨ s.time.st = .holdover) (hm : s.time.isMaster = false) (hu : s.time.upstream ≠ 0xF) :
    exec (.timeLock d) s = .next (if d.natAbs ≤ 16000 then lockedAt d s else stepAwaited d s) := by
  change execTimeLock d s = _
  rw [execTimeLock, if_pos (by simpa [hm] using ⟨hst, hu⟩), apply_ite Host.Outcome.next]
  unfold lockedAt
  simp only [setTimeState_time]
  rfl

theorem setTimeState_cores (st : TimeState) : (setTimeState st s).cores = s.cores := (setTimeState_retimed s st).moved.cores

theorem lockedAt_cores : (lockedAt d s).cores = s.cores := by
  unfold lockedAt
  dsimp only
  split <;> exact setTimeState_cores _

theorem lockedAt_time : (lockedAt d s).time =
    { s.time with
      offset := BitVec.ofInt 32 d
      ahead := d
      trim := (lockTrim d (fun x => { x with stepPending := false, errBound := boundAt x.depth }) s).time.trim
      stepPending := false
      errBound := boundAt s.time.depth
      st := .locked } := by
  unfold lockedAt
  dsimp only
  split <;> exact setTimeState_time ..

theorem stepAwaited_time : (stepAwaited d s).time =
    { s.time with
      offset := BitVec.ofInt 32 d
      ahead := d
      trim := (lockTrim d (fun x => { x with stepPending := true }) s).time.trim
      stepPending := true
      st := .acquiring } :=
  setTimeState_time ..

theorem timeLock_spec (hst : s.time.st = .acquiring ∨ s.time.st = .holdover) (hm : s.time.isMaster = false) (hu : s.time.upstream ≠ 0xF) :
    ∃ t, exec (.timeLock d) s = .next t ∧ t.cores = s.cores ∧ t.time.offset = BitVec.ofInt 32 d ∧ t.time.ahead = d ∧
      t.time.trim.toInt.natAbs ≤ 20000 ∧
      (if d.natAbs ≤ 16000 then t.time.st = .locked ∧ t.time.stepPending = false ∧
          t.time.errBound = BitVec.ofNat 16 (2 * s.time.depth.toNat)
       else t.time.st = .acquiring ∧ t.time.stepPending = true) := by
  refine ⟨_, exec_timeLock hst hm hu, ?_⟩
  split
  · rw [lockedAt_time]
    exact ⟨lockedAt_cores, rfl, rfl, retrim_range _, rfl, rfl, rfl⟩
  · rw [stepAwaited_time]
    exact ⟨setTimeState_cores _, rfl, rfl, retrim_range _, rfl, rfl⟩

theorem ftAcquire_spec (r : Req) (s : State) : ∃ t, exec (.ftAcquire r) s = .next t ∧
    (if s.time.st = .free ∨ s.time.st = .holdover then
      t.time = { s.time with st := .acquiring, lastSync := nsNow s } ∧ Retimed s t
     else t = s) := by
  refine ⟨acquireTime s, rfl, ?_⟩
  unfold acquireTime
  split
  next h =>
    rw [if_pos (by simpa using h)]
    exact ⟨setTimeState_time .., setTimeState_modTime_retimed ..⟩
  next h => rw [if_neg (by simpa using h)]

end Lock

/-! ### The step (R33) -/

section Step
variable {s : State}

/-- A new grid shows the FT it was set to, rounded down to a core cycle. -/
theorem ftScaled_rebase (ft : Nat) (step : BitVec 3) (s : State) :
    ftScaled (rebase ft step s) = (ft - ft % 640) * bpf step + 20 * (ft % 640 * bpf step / 20) := by
  generalize hk : (s.time.cycle + 32 * bpf step - 1) / (32 * bpf step) = k
  have hgrid : ftScaled (rebase ft step s) =
      ((((ft - ft % 640 : Nat) : Int) - 640 * (k : Int)) * (bpf step : Int) +
        20 * ((k * (32 * bpf step) + ft % 640 * bpf step / 20 : Nat) : Int)).toNat := by rw [← hk]; rfl
  rw [hgrid]
  generalize ft % 640 * bpf step / 20 = q
  generalize ft - ft % 640 = g
  have : ((g : Int) - 640 * (k : Int)) * (bpf step : Int) + 20 * ((k * (32 * bpf step) + q : Nat) : Int) =
      ((g * bpf step + 20 * q : Nat) : Int) := by push_cast; ring
  rw [this, Int.toNat_natCast]

/-- A core cycle is shorter than 1 ns, so the FT shown is less than 1 ns short. -/
theorem ftNow_rebase (ft : Nat) (step : BitVec 3) (s : State) :
    ftNow (rebase ft step s) ≤ ft ∧ ft ≤ ftNow (rebase ft step s) + 1 := by
  have hb : 21 ≤ bpf step := by unfold bpf; omega
  have hnow : ftNow (rebase ft step s) = ftScaled (rebase ft step s) / bpf step := rfl
  have hsum : (ft - ft % 640) * bpf step + ft % 640 * bpf step = ft * bpf step := by
    rw [← Nat.add_mul, Nat.sub_add_cancel (Nat.mod_le ..)]
  rw [hnow, ftScaled_rebase]
  constructor
  · exact Nat.div_le_of_le_mul (by rw [Nat.mul_comm (bpf step)]; omega)
  · rw [← Nat.sub_le_iff_le_add, Nat.le_div_iff_mul_le (by omega), Nat.sub_mul]
    omega

/-- Cycle numbers never go back. -/
theorem rebase_cycle (ft : Nat) (step : BitVec 3) (s : State) : s.time.cycle ≤ (rebase ft step s).time.cycle := by
  have hb : 0 < 32 * bpf step := by unfold bpf; omega
  have hceil : s.time.cycle ≤ (s.time.cycle + 32 * bpf step - 1) / (32 * bpf step) * (32 * bpf step) := by
    have := Nat.div_add_mod (s.time.cycle + 32 * bpf step - 1) (32 * bpf step)
    have := Nat.mod_lt (s.time.cycle + 32 * bpf step - 1) hb
    rw [Nat.mul_comm]
    omega
  exact hceil.trans (Nat.le_add_right ..)

/-- The master's time as last measured, to which a pending step goes. -/
def stepTarget (s : State) : Nat := ((ftNow s : Int) + s.time.ahead / 16).toNat

/-- What a pending step leaves: the fields that R33 and log 116 speak of. -/
theorem stepFt_pending (h : s.time.stepPending = true) :
    (stepFt s).tasks = s.tasks ∧ (stepFt s).power.coreStep = s.power.coreStep ∧
      ftNow (stepFt s) = ftNow (rebase (stepTarget s) s.power.coreStep s) ∧
      (stepFt s).time = { (rebase (stepTarget s) s.power.coreStep s).time with
        stepPending := false
        stepped := s.time.stepped + ((ftNow (stepFt s) : Int) - ftNow s) } := by
  rw [stepFt, if_neg (by simp [h])]
  exact ⟨rfl, rfl, rfl, rfl⟩

theorem ftStepApply_spec (hp : s.time.stepPending = true) (hf : atFrame s = true) (ha : taskActive s = false) :
    ∃ t, exec .ftStepApply s = .next t ∧ t.time.stepPending = false ∧ t.time.offset = s.time.offset ∧ t.tasks = s.tasks ∧
      t.power.coreStep = s.power.coreStep ∧ s.time.cycle ≤ t.time.cycle ∧ ftNow t ≤ stepTarget s ∧ stepTarget s ≤ ftNow t + 1 ∧
      nsNow t = nsNow s ∧ (upstreamLost t = true → upstreamLost s = true) := by
  obtain ⟨htasks, hcore, hnow, htime⟩ := stepFt_pending hp
  obtain ⟨hle, hge⟩ := ftNow_rebase (stepTarget s) s.power.coreStep s
  rw [← hnow] at hle hge
  have hcycle : s.time.cycle ≤ (stepFt s).time.cycle := by rw [htime]; exact rebase_cycle ..
  have hns : nsNow (stepFt s) = nsNow s := by
    rw [nsNow, htime, nsNow]
    dsimp only
    congr 1
    omega
  have hlost : upstreamLost (stepFt s) = upstreamLost s := by
    rw [upstreamLost, hns, htime]
    rfl
  refine ⟨stepFt s, ?_, by rw [htime], by rw [htime]; rfl, htasks, hcore, hcycle, hle, hge, hns, by rw [hlost]; exact id⟩
  change execFtStepApply s = _
  rw [execFtStepApply, if_pos (by simp [stepDue, hp, hf, ha])]

end Step

/-- Settles O43: a clause for each event of fabric time. -/
theorem fabricTime : Obligations.FabricTime := by
  refine ⟨fun _ _ _ _ => tsyncExchange_spec, fun s hst hm hu hl => ?upstreamLost, fun others own s hs he hp hi hb => ?won,
    fun others own s hs hp hi hb => ?lost, fun _ _ => timeLock_spec, fun _ => ftStepApply_spec, fun _ => rfl,
    fun _ => holdoverTick_due, ftAcquire_spec⟩
  case upstreamLost => exact ⟨_, upstreamLoss_due hst hm hu hl, enterHoldover_time s, enterHoldover_moved s⟩
  case won =>
    have ht := becomeMaster_time s
    exact ⟨_, masterElection_won hs he hp hi hb, by rw [ht], by rw [ht], by rw [ht], by rw [ht], by rw [ht], becomeMaster_retimed s⟩
  case lost =>
    obtain ⟨b, hmem, hbe, hex⟩ := masterElection_lost hs hp hi hb
    have ht := joinTree_time b s
    exact ⟨_, hex, by rw [ht], by rw [ht], joinTree_retimed b s, b, hmem, hbe, by rw [ht], by rw [ht]⟩

end Sys2Proof.Machine
end

section
/-! PROOF. What a control instruction leaves, said once for every family of chapter 06: the retirement of an instruction that
issues (R103), and a context fault with all it leaves alone (R116, R117). -/

namespace Sys2Proof.Machine
open Claims

/-! ### Retirement (R103, R107) -/

section Retirement
variable (s : State) (c : CoreIx) (k : CtxIx)

theorem sreg_eq_reads (r : SReg) : sreg s c k r = reads s c k r := rfl

theorem nval_eq_amount (n : NOp) : nval s c k n = amount s c k n := by
  cases n
  · rfl
  · exact BitVec.eq_of_toNat_eq (by simp [nval, amount, sreg_eq_reads])

theorem ctrHeld_eq_counterNamed (n : Nat) : ctrHeld s c n = counterNamed s c n := by
  unfold ctrHeld taskOn counterNamed
  cases s.cores[c].slot <;> rfl

/-- Two updates of one context are one. -/
theorem modCtx_modCtx (f g : Ctx → Ctx) : modCtx (modCtx s c k f) c k g = modCtx s c k fun y => g (f y) := by
  simp [modCtx, modCore, Core.modCtx]

theorem ctx_modCtx (f : Ctx → Ctx) : ctx (modCtx s c k f) c k = f (ctx s c k) := modCtx_ctx s c k f

/-- An update of one context with the note of the issue. -/
theorem noteIssue_issued (f : Ctx → Ctx) : Issued s (noteIssue c k (modCtx s c k f)) c k (f (ctx s c k)) := by
  simp [Issued, noteIssue, modCtx, modCore, Core.modCtx, ctx]

theorem retireTo_issued (f : Ctx → Ctx) (pc : BitVec 13) :
    Issued s (retireTo c k pc (modCtx s c k f)) c k { f (ctx s c k) with pc := pc } := by
  rw [retireTo, modCtx_modCtx]
  exact noteIssue_issued s c k _

theorem retire_issued (f : Ctx → Ctx) :
    Issued s (retire c k (modCtx s c k f)) c k { f (ctx s c k) with pc := (f (ctx s c k)).pc + 1 } := by
  rw [retire, modCtx_ctx]
  exact retireTo_issued s c k f _

theorem retire_passed : Issued s (retire c k s) c k (passed s c k) := noteIssue_issued s c k _

theorem jumpTo_issued (f : Ctx → Ctx) (pc : BitVec 13) :
    Issued s (jumpTo c k pc (modCtx s c k f)) c k
      { f (ctx s c k) with
        pcReady := s.time.cycle + 2
        pc := pc } := by
  rw [jumpTo, modCtx_modCtx]
  exact retireTo_issued s c k _ pc

theorem jumpTo_passed (pc : BitVec 13) : Issued s (jumpTo c k pc s) c k
    { ctx s c k with
      pcReady := s.time.cycle + 2
      pc := pc } := retireTo_issued s c k _ pc

/-- A scalar write followed by the step to the next word is what `wrote` says. -/
theorem sset_wrote (y : Ctx) (rd : SReg) (v : W64) (lat : Nat) :
    { y.sset rd v (s.time.cycle + lat) with pc := y.pc + 1 } = wrote s y rd v lat := by
  unfold Ctx.sset wrote
  split <;> rfl

theorem result_issued (rd : SReg) (v : W64) (lat : Nat) :
    Issued s (result c k rd v lat s) c k (wrote s (ctx s c k) rd v lat) := by
  have h := retire_issued s c k fun y => y.sset rd v (s.time.cycle + lat)
  rwa [sset_pc, sset_wrote] at h

/-- A result behind another update of the context that leaves its PC alone. -/
theorem result_modCtx_issued (f : Ctx → Ctx) (rd : SReg) (v : W64) (lat : Nat) :
    Issued s (result c k rd v lat (modCtx s c k f)) c k (wrote s (f (ctx s c k)) rd v lat) := by
  rw [result, modCtx_modCtx]
  have h := retire_issued s c k fun y => (f y).sset rd v (s.time.cycle + lat)
  rwa [sset_pc, sset_wrote] at h

variable {s c k}

/-- What an instruction that may issue answers, once what its effect leaves is known. -/
theorem issue_answers {x : Out} {w dc : W32} {srcs : List SReg} {f : State → State} {P : State → Prop}
    (hx : x = issue c k w dc srcs s f) (h : issueOk s c k w dc srcs = true) (hp : P (f s)) : ∃ t, x = .next t ∧ P t :=
  ⟨f s, hx.trans (issue_ok s c k h), hp⟩

end Retirement

/-! ### What a fault leaves alone -/

/-- A context that has at most been held: only its state and wait kind may differ. -/
def Held (x y : Ctx) : Prop := y = { x with st := y.st, kind := y.kind }

theorem Held.refl (x : Ctx) : Held x x := rfl

theorem Held.trans {x y z : Ctx} (a : Held x y) (b : Held y z) : Held x z := Eq.trans b (by rw [a])

/-- The registers that no fault changes: all but S30 and S31, the PC and the fault record. -/
structure RegsKept (x y : Ctx) : Prop where
  ad : y.ad = x.ad := by rfl
  vflags : y.vflags = x.vflags := by rfl
  seed : y.seed = x.seed := by rfl
  sctr : y.sctr = x.sctr := by rfl
  s : ∀ r : SReg, r.val < 30 → y.s[r] = x.s[r] := by exact fun _ _ => rfl

theorem RegsKept.trans {x y z : Ctx} (a : RegsKept x y) (b : RegsKept y z) : RegsKept x z where
  ad := b.ad.trans a.ad
  vflags := b.vflags.trans a.vflags
  seed := b.seed.trans a.seed
  sctr := b.sctr.trans a.sctr
  s r h := (b.s r h).trans (a.s r h)

theorem Held.regs {x y : Ctx} (h : Held x y) : RegsKept x y := by rw [h]; exact {}

/-- What a fault leaves of a core. -/
structure CoreKept (x y : Core) : Prop where
  only : y = { x with ctx := y.ctx, counters := y.counters, serveDue := y.serveDue, pend := y.pend, lastIssue := y.lastIssue,
                      yielded := y.yielded } := by rfl
  pend : y.pend = x.pend ∨ y.pend = none := by exact .inl rfl
  counters : ∀ n : Fin 256, (y.counters[n]).value = (x.counters[n]).value ∧ (y.counters[n]).limit = (x.counters[n]).limit := by
    exact fun _ => ⟨rfl, rfl⟩
  regs : ∀ k : CtxIx, RegsKept x.ctx[k] y.ctx[k] := by exact fun _ => {}

theorem CoreKept.trans {x y z : Core} (a : CoreKept x y) (b : CoreKept y z) : CoreKept x z where
  only := Eq.trans b.only (by rw [a.only])
  pend := by
    rcases b.pend with h | h
    · rw [h]; exact a.pend
    · exact .inr h
  counters n := ⟨(b.counters n).1.trans (a.counters n).1, (b.counters n).2.trans (a.counters n).2⟩
  regs k := (a.regs k).trans (b.regs k)

/-- What a fault of context `k` of core `c` leaves of the machine: of every other context all but its state and wait kind. -/
structure Faults (c : CoreIx) (k : CtxIx) (s t : State) : Prop where
  only : t = { s with cores := t.cores, tasks := t.tasks, recorder := t.recorder, freeCtr := t.freeCtr } := by rfl
  cores : ∀ d : CoreIx, CoreKept s.cores[d] t.cores[d] := by exact fun _ => {}
  others : ∀ (d : CoreIx) (j : CtxIx), (d ≠ c ∨ j ≠ k) → Held (ctx s d j) (ctx t d j) := by exact fun _ _ _ => rfl

section Faults
variable {c : CoreIx} {k : CtxIx} {s t u : State}

theorem Faults.refl (s : State) : Faults c k s s := {}

theorem Faults.trans (a : Faults c k s t) (b : Faults c k t u) : Faults c k s u where
  only := Eq.trans b.only (by rw [a.only])
  cores d := (a.cores d).trans (b.cores d)
  others d j h := (a.others d j h).trans (b.others d j h)

theorem Faults.frame (h : Faults c k s t) : FaultFrame s t :=
  ⟨h.only, fun d => ⟨(h.cores d).only, (h.cores d).counters, fun j =>
    let r := (h.cores d).regs j
    ⟨r.ad, r.vflags, r.seed, r.sctr, r.s⟩⟩⟩

theorem Faults.time (h : Faults c k s t) : t.time = s.time := by rw [h.only]
theorem Faults.dram (h : Faults c k s t) : t.dram = s.dram := by rw [h.only]
theorem Faults.probe (h : Faults c k s t) : t.probe = s.probe := by rw [h.only]

/-- An update of context `k` of core `c` that keeps the registers. -/
theorem modCore_faults {f : Core → Core} (hk : CoreKept s.cores[c] (f s.cores[c]))
    (ho : ∀ j, j ≠ k → Held s.cores[c].ctx[j] (f s.cores[c]).ctx[j]) : Faults c k s (modCore s c f) where
  cores d := by
    by_cases h : d = c
    · subst h; rw [modCore_core]; exact hk
    · rw [modCore_other s c f h]; exact {}
  others d j h := by
    unfold ctx
    by_cases hd : d = c
    · subst hd; rw [modCore_core]; exact ho j (h.resolve_left (by simp))
    · rw [modCore_other s c f hd]; exact rfl

theorem Core.modCtx_same (x : Core) (f : Ctx → Ctx) : (x.modCtx k f).ctx[k] = f x.ctx[k] := by simp [Core.modCtx]

theorem Core.modCtx_other (x : Core) (f : Ctx → Ctx) {j : CtxIx} (h : j ≠ k) : (x.modCtx k f).ctx[j] = x.ctx[j] := by
  have hv : k.val ≠ j.val := fun e => h (Fin.ext e.symm)
  simp [Core.modCtx, hv]

theorem Core.modCtx_kept {x : Core} {f : Ctx → Ctx} (h : RegsKept x.ctx[k] (f x.ctx[k])) : CoreKept x (x.modCtx k f) where
  regs j := by
    by_cases e : j = k
    · subst e; rw [Core.modCtx_same]; exact h
    · rw [Core.modCtx_other x f e]; exact {}

theorem modCtx_faults {f : Ctx → Ctx} (h : RegsKept (ctx s c k) (f (ctx s c k))) : Faults c k s (modCtx s c k f) :=
  modCore_faults (Core.modCtx_kept h) fun j hj => by rw [Core.modCtx_other _ f hj]; exact rfl

/-- The removal from the wait queues leaves every counter's value and limit. -/
theorem Core.unqueue_kept (x : Core) : CoreKept x (x.unqueue k) where
  counters n := by simp [Core.unqueue]

/-- A context taken out of the wait queues, and updated. -/
theorem unqueue_faults {f : Ctx → Ctx} (h : RegsKept (ctx s c k) (f (ctx s c k))) :
    Faults c k s (modCore s c fun y => (y.unqueue k).modCtx k f) :=
  modCore_faults ((Core.unqueue_kept _).trans (Core.modCtx_kept h)) fun j hj => by
    rw [Core.modCtx_other _ f hj]; exact rfl

theorem record_faults (code : Nat) (sev : BitVec 2) (unit a0 a1 a2 : Nat) : Faults c k s (record s code sev unit a0 a1 a2) := {}

theorem modTask_faults (i : SlotIx) (f : Task → Task) : Faults c k s (modTask s i f) := {}

theorem Faults.ite {p : Prop} [Decidable p] (a : Faults c k s t) (b : Faults c k s u) : Faults c k s (if p then t else u) := by
  split <;> assumption

theorem noteIssue_faults : Faults c k s (noteIssue c k s) := modCore_faults {} fun _ _ => rfl

theorem recorder_faults (h : Faults c k s t) (r : Recorder) : Faults c k s { t with recorder := r } :=
  h.trans {}

theorem freeCtr_faults (n : Nat) : Faults c k s { s with freeCtr := n } := {}

end Faults

/-! ### Halts -/

theorem mapTaskCores_core (s : State) (i : SlotIx) (f : Core → Core) (d : CoreIx) :
    (mapTaskCores s i f).cores[d] = if s.cores[d].slot = some i then f s.cores[d] else s.cores[d] := by
  simp [mapTaskCores]

/-- A halt of a task holds contexts and drops launches; it leaves every context's registers and fault record. -/
theorem haltTask_core (i : SlotIx) (r : Byte) (s : State) (d : CoreIx) : CoreKept s.cores[d] (haltTask i r s).cores[d] ∧
    ∀ j : CtxIx, Held (ctx s d j) (ctx (haltTask i r s) d j) := by
  have same : CoreKept s.cores[d] s.cores[d] ∧ ∀ j : CtxIx, Held (ctx s d j) (ctx s d j) := ⟨{}, fun _ => rfl⟩
  unfold haltTask
  dsimp only
  split
  · split <;> exact same
  · split
    · exact same
    · unfold ctx
      rw [mapTaskCores_core]
      split
      · have hh (j : CtxIx) : Held s.cores[d].ctx[j]
            ((s.cores[d].ctx.map fun k => if k.st = .ready then { k with st := .waiting, kind := .hold } else k)[j]) := by
          simp only [Fin.getElem_fin, Vector.getElem_map]
          split <;> exact rfl
        exact ⟨{ pend := .inr rfl, regs := fun j => (hh j).regs }, hh⟩
      · exact same

theorem haltTask_faults (i : SlotIx) (r : Byte) (s : State) (c : CoreIx) (k : CtxIx) : Faults c k s (haltTask i r s) where
  only := by rw [haltTask_only i r s]
  cores d := (haltTask_core i r s d).1
  others d j _ := (haltTask_core i r s d).2 j

theorem haltTask_recorder (i : SlotIx) (r : Byte) (s : State) : (haltTask i r s).recorder = s.recorder := by
  rw [haltTask_only i r s]

/-! ### Context faults (R116, R117) -/

theorem latch_regs (x : Ctx) (cause : Byte) (inf : W16) (pc : BitVec 13) (now : Nat) (h : Option (BitVec 13)) (held : Bool) :
    RegsKept x (x.latch cause inf pc now h held) := by
  unfold Ctx.latch
  cases h with
  | none => exact {}
  | some a =>
    refine { s := fun r hr => ?_ }
    have h30 : 30 ≠ r.val := by omega
    have h31 : 31 ≠ r.val := by omega
    simp [h30, h31]

/-- What the latch records, whether or not a handler is entered. -/
theorem latch_fault (x : Ctx) (cause : Byte) (inf : W16) (pc : BitVec 13) (now : Nat) (h : Option (BitVec 13)) (held : Bool) :
    let y := x.latch cause inf pc now h held
    y.faulted = true ∧ y.cause = cause ∧ y.faultPc = pc ∧ y.faultCount = x.faultCount ∧ y.info = inf := by
  unfold Ctx.latch
  cases h <;> exact ⟨rfl, rfl, rfl, rfl, rfl⟩

/-- The state with a fault counted and latched, and its event on its way. -/
def latchState (c : CoreIx) (k : CtxIx) (cause : Byte) (inf : W16) (pc : BitVec 13) (h : Option (BitVec 13)) (held : Bool)
    (s : State) : State :=
  record (modCore (modCtx s c k fun x => { x with faultCount := satInc x.faultCount }) c fun y =>
    (y.unqueue k).modCtx k fun x => x.latch cause inf pc s.time.cycle h held) (0x1000 + cause.toNat) error c.val pc.toNat inf.toNat k.val

section Context
variable {c : CoreIx} {k : CtxIx} {cause : Byte} {inf : W16} {pc : BitVec 13} {s : State}

theorem faultCtx_untasked (hf : (ctx s c k).faulted = false) (ht : taskOn s c = none) :
    faultCtx c k cause inf pc s = latchState c k cause inf pc none false s := by
  unfold ctx at hf
  unfold faultCtx
  simp only [hf, ht, latchState, Bool.false_and, Bool.false_eq_true, if_false]

theorem faultCtx_notified {i : SlotIx} {T : Task} (hf : (ctx s c k).faulted = false) (ht : taskOn s c = some (i, T))
    (hn : T.hdr.flag 6 = true) :
    faultCtx c k cause inf pc s = latchState c k cause inf pc (some (T.hdr.faultHandler.setWidth 13)) (!T.issues) s := by
  unfold ctx at hf
  unfold faultCtx
  simp only [hf, ht, hn, latchState, Bool.false_and, Bool.false_eq_true, if_false, if_true]

theorem faultCtx_halting {i : SlotIx} {T : Task} (hf : (ctx s c k).faulted = false) (ht : taskOn s c = some (i, T))
    (hn : T.hdr.flag 6 = false) :
    faultCtx c k cause inf pc s = haltTask i (0x80 + cause) (latchState c k cause inf pc none (!T.issues) s) := by
  unfold ctx at hf
  unfold faultCtx
  simp only [hf, ht, hn, latchState, Bool.false_and, Bool.false_eq_true, if_false]

theorem latchState_faults (h : Option (BitVec 13)) (held : Bool) : Faults c k s (latchState c k cause inf pc h held s) :=
  (modCtx_faults {}).trans <| (unqueue_faults (latch_regs _ cause inf pc s.time.cycle h held)).trans (record_faults ..)

theorem latchState_ctx (h : Option (BitVec 13)) (held : Bool) : ctx (latchState c k cause inf pc h held s) c k =
    Ctx.latch { ctx s c k with faultCount := satInc (ctx s c k).faultCount } cause inf pc s.time.cycle h held := by
  unfold latchState ctx
  rw [record_cores, modCore_core, Core.modCtx_same]
  exact congrArg (Ctx.latch · cause inf pc s.time.cycle h held) (modCtx_ctx s c k _)

theorem eventCode (cause : Byte) : BitVec.ofNat 16 (0x1000 + cause.toNat) = 0x1000 + cause.setWidth 16 := by
  exact BitVec.eq_of_toNat_eq (by simp)

theorem latchState_latched (h : Option (BitVec 13)) (held : Bool) : Latched s (latchState c k cause inf pc h held s) c k cause pc ∧
    (ctx (latchState c k cause inf pc h held s) c k).info = inf := by
  obtain ⟨h1, h2, h3, h4, h5⟩ := latch_fault { ctx s c k with faultCount := satInc (ctx s c k).faultCount } cause inf pc
    s.time.cycle h held
  rw [Latched, latchState_ctx]
  exact ⟨⟨h1, h2, h3, h4, _, rfl, eventCode cause, rfl⟩, h5⟩

/-- What is latched stays latched where contexts are held and nothing is recorded. -/
theorem latched_held {t u : State} (h : Latched s t c k cause pc ∧ (ctx t c k).info = inf) (hh : Held (ctx t c k) (ctx u c k))
    (hr : u.recorder = t.recorder) : Latched s u c k cause pc ∧ (ctx u c k).info = inf := by
  unfold Latched at h ⊢
  rw [hr, hh]
  exact h

/-- A fault changes what `Faults` allows. -/
theorem faultCtx_faults : Faults c k s (faultCtx c k cause inf pc s) := by
  have count : Faults c k s (modCtx s c k fun x => { x with faultCount := satInc x.faultCount }) := modCtx_faults {}
  have latch (h : Option (BitVec 13)) (held : Bool) : Faults c k s (latchState c k cause inf pc h held s) := latchState_faults h held
  unfold faultCtx
  dsimp only
  refine .ite (.ite ?_ count) (.ite (.ite (recorder_faults ?_ _) count) (.ite (latch _ _) ?_))
  · have h : Faults c k s _ := count.trans (unqueue_faults (f := fun x => { x with st := .faulted }) {})
    split
    · exact h.trans (haltTask_faults ..)
    · exact h
  · have h (o : Option (BitVec 13)) (b : Bool) := count.trans (modCtx_faults (f := fun x => x.latch cause inf pc s.time.cycle o b) (latch_regs ..))
    split
    · exact .ite ((h _ _).trans (modTask_faults ..)) (h _ _)
    · exact h _ _
  · split
    · exact (latch _ _).trans (haltTask_faults ..)
    · exact latch _ _

/-- A fault of a context that held none is latched, and its event is on its way (R116). -/
theorem faultCtx_latched (hf : (ctx s c k).faulted = false) : Latched s (faultCtx c k cause inf pc s) c k cause pc ∧
    (ctx (faultCtx c k cause inf pc s) c k).info = inf := by
  cases ht : taskOn s c with
  | none => rw [faultCtx_untasked hf ht]; exact latchState_latched ..
  | some q =>
    obtain ⟨i, T⟩ := q
    cases hn : T.hdr.flag 6 with
    | true => rw [faultCtx_notified hf ht hn]; exact latchState_latched ..
    | false =>
      rw [faultCtx_halting hf ht hn]
      exact latched_held (latchState_latched ..) ((haltTask_core ..).2 k) (haltTask_recorder ..)

/-- An update of a core that keeps its contexts. -/
theorem modCore_keepsCtx (t : State) {f : Core → Core} (hf : ∀ x, (f x).ctx = x.ctx) (d : CoreIx) (j : CtxIx) :
    ctx (modCore t c f) d j = ctx t d j := by
  unfold ctx
  by_cases h : d = c
  · subst h; rw [modCore_core, hf]
  · rw [modCore_other _ _ _ h]

/-- The note of the issue changes no context. -/
theorem noteIssue_ctx (t : State) (d : CoreIx) (j : CtxIx) : ctx (noteIssue c k t) d j = ctx t d j :=
  modCore_keepsCtx t (f := fun x => { x with lastIssue := some (t.time.cycle, k), yielded := none }) (fun _ => rfl) d j

/-- A fault at issue: `FaultFrame`, and the cause with its information at the instruction's own PC (R116). -/
theorem retireFault_spec (hf : (ctx s c k).faulted = false) : FaultFrame s (retireFault c k cause inf s) ∧
    Latched s (retireFault c k cause inf s) c k cause (ctx s c k).pc ∧ (ctx (retireFault c k cause inf s) c k).info = inf :=
  ⟨(faultCtx_faults.trans noteIssue_faults).frame, latched_held (faultCtx_latched hf)
    (by rw [retireFault, noteIssue_ctx]; exact rfl) rfl⟩

/-- A fault at issue whose information word is free (log 2). -/
theorem retireFault_freeInfo_spec (hf : (ctx s c k).faulted = false) :
    let t := withFreeInfo s fun i s => retireFault c k cause i s
    FaultFrame s t ∧ Latched s t c k cause (ctx s c k).pc :=
  have h : Faults c k s (withFreeInfo s fun i s => retireFault c k cause i s) :=
    (freeCtr_faults _).trans (faultCtx_faults.trans noteIssue_faults)
  ⟨h.frame, (retireFault_spec (s := { s with freeCtr := s.freeCtr + 1 }) hf).2.1⟩

end Context
end Sys2Proof.Machine
end

section
/-! PROOF. Arithmetic, address registers and branches of the control instructions (R107): each operation of the model is the
number R107 gives, and its instruction writes that number and nothing else. -/

namespace Sys2Proof.Machine
open Claims

/-! ### The numbers of R107 -/

theorem add_eq_ofNat (a b : W64) : a + b = BitVec.ofNat 64 (a.toNat + b.toNat) := BitVec.eq_of_toNat_eq (by simp)

theorem sub_eq_ofInt (a b : W64) : a - b = BitVec.ofInt 64 ((a.toNat : Int) - b.toNat) := by
  refine BitVec.eq_of_toNat_eq ?_
  rw [BitVec.toNat_sub, BitVec.toNat_ofInt]
  have ha := a.isLt
  have hb := b.isLt
  omega

theorem shl_eq_ofNat (a : W64) (n : Nat) : a <<< n = BitVec.ofNat 64 (a.toNat * 2 ^ n) :=
  BitVec.eq_of_toNat_eq (by simp [Nat.shiftLeft_eq])

theorem shr_eq_ofNat (a : W64) (n : Nat) : a >>> n = BitVec.ofNat 64 (a.toNat / 2 ^ n) := by
  have h : a.toNat / 2 ^ n < 2 ^ 64 := Nat.lt_of_le_of_lt (Nat.div_le_self _ _) a.isLt
  refine BitVec.eq_of_toNat_eq ?_
  rw [BitVec.toNat_ushiftRight, BitVec.toNat_ofNat, Nat.shiftRight_eq_div_pow, Nat.mod_eq_of_lt h]

theorem sra_eq_ofInt (a : W64) (n : Nat) : a.sshiftRight n = BitVec.ofInt 64 (a.toInt / 2 ^ n) := by
  rw [BitVec.sshiftRight, Int.shiftRight_eq_div_pow]
  rfl

theorem slt_eq_toInt (a b : W64) : (if a.slt b then 1 else 0 : W64) = if a.toInt < b.toInt then 1 else 0 := by
  simp [BitVec.slt]

theorem ult_eq_toNat (a b : W64) : (if a.ult b then 1 else 0 : W64) = if a.toNat < b.toNat then 1 else 0 := by
  simp [BitVec.ult]

theorem min_eq_ofInt (a b : W64) : (if a.slt b then a else b) = BitVec.ofInt 64 (min a.toInt b.toInt) := by
  by_cases h : a.toInt < b.toInt
  · simp [BitVec.slt, h, min_eq_left h.le]
  · simp [BitVec.slt, h, min_eq_right (not_lt.mp h)]

theorem max_eq_ofInt (a b : W64) : (if a.slt b then b else a) = BitVec.ofInt 64 (max a.toInt b.toInt) := by
  by_cases h : a.toInt < b.toInt
  · simp [BitVec.slt, h, max_eq_right h.le]
  · simp [BitVec.slt, h, max_eq_left (not_lt.mp h)]

theorem mul_eq_ofNat (a b : W64) : a * b = BitVec.ofNat 64 (a.toNat * b.toNat) := BitVec.eq_of_toNat_eq (by simp)

/-- A 16-bit immediate stands unchanged in 64 bits. -/
theorem setWidth_toNat_imm (i : W16) : (i.setWidth 64).toNat = i.toNat := by
  have := i.isLt
  rw [BitVec.toNat_setWidth]
  omega

theorem addImm_eq_ofInt (a : W64) (i : W16) : a + i.signExtend 64 = BitVec.ofInt 64 (a.toNat + i.toInt) := by
  rw [BitVec.ofInt_add, BitVec.ofInt_natCast, BitVec.ofNat_toNat, BitVec.setWidth_eq]
  rfl

theorem andImm_eq_ofNat (a : W64) (i : W16) : a &&& i.setWidth 64 = BitVec.ofNat 64 (a.toNat &&& i.toNat) :=
  BitVec.eq_of_toNat_eq (by simp)

theorem orImm_eq_ofNat (a : W64) (i : W16) : a ||| i.setWidth 64 = BitVec.ofNat 64 (a.toNat ||| i.toNat) := by
  rw [← setWidth_toNat_imm, ← BitVec.toNat_or, BitVec.ofNat_toNat, BitVec.setWidth_eq]

theorem xorImm_eq_ofNat (a : W64) (i : W16) : a ^^^ i.setWidth 64 = BitVec.ofNat 64 (a.toNat ^^^ i.toNat) := by
  rw [← setWidth_toNat_imm, ← BitVec.toNat_xor, BitVec.ofNat_toNat, BitVec.setWidth_eq]

theorem beq_eq_toNat (a b : W64) : (a == b) = decide (a.toNat = b.toNat) := by
  simp [BitVec.toNat_inj, Bool.beq_eq_decide_eq]

theorem bne_eq_toNat (a b : W64) : (a != b) = decide (a.toNat ≠ b.toNat) := by
  simp [BitVec.toNat_inj, bne, Bool.beq_eq_decide_eq]

theorem not_slt_eq_toInt (a b : W64) : (!a.slt b) = decide (b.toInt ≤ a.toInt) := by
  rw [BitVec.slt, ← decide_not, decide_eq_decide, not_lt]

theorem not_ult_eq_toNat (a b : W64) : (!a.ult b) = decide (b.toNat ≤ a.toNat) := by
  rw [BitVec.ult, ← decide_not, decide_eq_decide, not_lt]

theorem immAt_eq_ofNat (i : W16) (h : Fin 4) : immAt i h = BitVec.ofNat 64 (i.toNat * 2 ^ (16 * h.val)) := by
  rw [immAt, shl_eq_ofNat, setWidth_toNat_imm]

/-- MOVK replaces bits 16 h to 16 h + 15 and keeps the others. -/
theorem movk_bits (v : W64) (imm : W16) (h : Fin 4) (i : Nat) (hi : i < 64) :
    ((v &&& ~~~immAt 0xFFFF h) ||| immAt imm h).getLsbD i =
      if 16 * h.val ≤ i ∧ i < 16 * h.val + 16 then imm.getLsbD (i - 16 * h.val) else v.getLsbD i := by
  have ones (j : Nat) : (0xFFFF : W16).getLsbD j = decide (j < 16) := BitVec.getLsbD_allOnes
  have at_ (x : W16) : (immAt x h).getLsbD i = (decide (16 * h.val ≤ i) && x.getLsbD (i - 16 * h.val)) := by
    by_cases hl : i < 16 * h.val
    · simp [immAt, hl]
    · simp [immAt, hi, hl, Nat.not_lt.mp hl]
  rw [BitVec.getLsbD_or, BitVec.getLsbD_and, BitVec.getLsbD_not, at_, at_, ones]
  by_cases hl : 16 * h.val ≤ i
  · by_cases hu : i < 16 * h.val + 16
    · have hd : i - 16 * h.val < 16 := by omega
      simp [hl, hu, hd]
    · have hd : ¬ i - 16 * h.val < 16 := by omega
      have hx : imm.getLsbD (i - 16 * h.val) = false := BitVec.getLsbD_of_ge _ _ (by omega)
      simp [hu, hd, hx, hi]
  · simp [hl, hi]

theorem relPc_eq_target (pc : BitVec 13) (off : W16) : relPc pc off = target pc off := by
  have h : off.setWidth 13 = BitVec.ofInt 13 off.toInt := by
    rw [BitVec.toInt_eq_toNat_bmod]
    refine BitVec.eq_of_toNat_eq ?_
    rw [BitVec.toNat_setWidth, BitVec.toNat_ofInt, Int.bmod_def]
    have := off.isLt
    split <;> omega
  rw [relPc, target, BitVec.ofInt_add, BitVec.ofInt_add, BitVec.ofInt_natCast, BitVec.ofNat_toNat, BitVec.setWidth_eq, h]
  rfl

/-- The word after `pc`, as JAL writes it. -/
theorem nextWord_eq_ofNat (pc : BitVec 13) : (pc + 1).setWidth 64 = BitVec.ofNat 64 ((pc.toNat + 1) % 8192) := by
  refine BitVec.eq_of_toNat_eq ?_
  simp

/-- The low bits of a register. -/
theorem setWidth_eq_ofNat_toNat {n m : Nat} (v : BitVec n) : v.setWidth m = BitVec.ofNat m v.toNat :=
  BitVec.eq_of_toNat_eq (by simp)

/-! ### The instructions -/

section Instructions
variable {s : State} {c : CoreIx} {k : CtxIx}

/-- A register-register operation of value `g`. -/
theorem alu_answers {rd ra rb : SReg} {fn lat : Nat} {f g : W64 → W64 → W64} (hfg : ∀ a b, f a b = g a b)
    (h : issueOk s c k (encR 0 rd.val ra.val rb.val fn) 0 [ra, rb] = true) :
    ∃ t, alu c k rd ra rb fn lat f s = .next t ∧
      Issued s t c k (wrote s (ctx s c k) rd (g (reads s c k ra) (reads s c k rb)) lat) := by
  rw [← hfg]
  exact issue_answers rfl h (result_issued ..)

/-- An operation of value `g` with an immediate. -/
theorem aluImm_answers {op : Nat} {rd ra : SReg} {imm : W16} {f g : W64 → W16 → W64} (hfg : ∀ a i, f a i = g a i)
    (h : issueOk s c k (encI op rd.val ra.val imm) 0 [ra] = true) :
    ∃ t, aluImm c k op rd ra imm (f · imm) s = .next t ∧ Issued s t c k (wrote s (ctx s c k) rd (g (reads s c k ra) imm) 1) := by
  rw [← hfg]
  exact issue_answers rfl h (result_issued ..)

/-- A branch of condition `p`. -/
theorem branch_answers {op : Nat} {ra rb : SReg} {off : W16} {f p : W64 → W64 → Bool} (hfp : ∀ a b, f a b = p a b)
    (h : issueOk s c k (encI op ra.val rb.val off) 0 [ra, rb] = true) :
    ∃ t, branch c k op ra rb off f s = .next t ∧ Issued s t c k
      (if p (reads s c k ra) (reads s c k rb) = true
       then { ctx s c k with pc := target (ctx s c k).pc off, pcReady := s.time.cycle + 2 }
       else { ctx s c k with pc := (ctx s c k).pc + 1 }) := by
  refine issue_answers rfl h ?_
  rw [hfp, sreg_eq_reads, sreg_eq_reads, relPc_eq_target]
  split
  · exact jumpTo_passed s c k _
  · exact retire_passed s c k

end Instructions
end Sys2Proof.Machine

open Sys2Proof Sys2Proof.Machine Sys2Proof.Claims

/-- Settles O1: each row of opcode 0x00 is an `alu` operation whose value is R107's number. -/
theorem aluResult : Obligations.AluResult := by
  unfold Obligations.AluResult
  simp only [aluRows, List.forall_mem_cons]
  refine ⟨?add, ?sub, ?and, ?or, ?xor, ?shl, ?shr, ?sra, ?slt, ?sltu, ?min, ?max, ?mul, by simp⟩ <;> intro c k rd ra rb s h
  case add => exact (alu_answers (lat := 1) add_eq_ofNat h :)
  case sub => exact (alu_answers (lat := 1) sub_eq_ofInt h :)
  case and => exact (alu_answers (lat := 1) (fun a b : W64 => Eq.refl (a &&& b)) h :)
  case or => exact (alu_answers (lat := 1) (fun a b : W64 => Eq.refl (a ||| b)) h :)
  case xor => exact (alu_answers (lat := 1) (fun a b : W64 => Eq.refl (a ^^^ b)) h :)
  case shl => exact (alu_answers (lat := 1) (fun a b => shl_eq_ofNat a (shamt b)) h :)
  case shr => exact (alu_answers (lat := 1) (fun a b => shr_eq_ofNat a (shamt b)) h :)
  case sra => exact (alu_answers (lat := 1) (fun a b => sra_eq_ofInt a (shamt b)) h :)
  case slt => exact (alu_answers (lat := 1) slt_eq_toInt h :)
  case sltu => exact (alu_answers (lat := 1) ult_eq_toNat h :)
  case min => exact (alu_answers (lat := 1) min_eq_ofInt h :)
  case max => exact (alu_answers (lat := 1) max_eq_ofInt h :)
  case mul => exact (alu_answers (lat := 3) mul_eq_ofNat h :)

/-- Settles O2: the rows with an immediate are `aluImm` operations; MOVZ and MOVK by the bits of `immAt`. -/
theorem aluImmediateResult : Obligations.AluImmediateResult := by
  unfold Obligations.AluImmediateResult
  refine ⟨?rows, fun c k rd imm h s ok => ?movz, fun c k rd imm h s ok => ?movk⟩
  case rows =>
    simp only [immRows, List.forall_mem_cons]
    refine ⟨?addi, ?andi, ?ori, ?xori, by simp⟩ <;> intro c k rd ra imm s h
    case addi => exact (aluImm_answers addImm_eq_ofInt h :)
    case andi => exact (aluImm_answers andImm_eq_ofNat h :)
    case ori => exact (aluImm_answers orImm_eq_ofNat h :)
    case xori => exact (aluImm_answers xorImm_eq_ofNat h :)
  case movz =>
    rw [← immAt_eq_ofNat]
    change ∃ t, execMovz c k rd imm h s = .next t ∧ _
    exact issue_answers rfl ok (result_issued ..)
  case movk =>
    change ∃ t v, execMovk c k rd imm h s = .next t ∧ _
    obtain ⟨t, ht, hi⟩ := issue_answers (x := execMovk c k rd imm h s) (P := fun t => Issued s t c k _) rfl ok (result_issued ..)
    exact ⟨t, _, ht, hi, movk_bits _ imm h⟩

/-- Settles O3: the three instructions update the context and go on at the next word. -/
theorem addressRegisterResult : Obligations.AddressRegisterResult := by
  unfold Obligations.AddressRegisterResult
  refine ⟨fun c k ad ra s h => ?mova, fun c k ad ad2 imm s h => ?adda, fun c k rd ad s h => ?movs⟩
  case mova =>
    rw [← setWidth_eq_ofNat_toNat]
    change ∃ t, execMova c k ad ra s = .next t ∧ _
    exact issue_answers rfl h (retire_issued ..)
  case adda =>
    change ∃ t, execAdda c k ad ad2 imm s = .next t ∧ _
    exact issue_answers rfl h (retire_issued ..)
  case movs =>
    rw [← setWidth_eq_ofNat_toNat]
    change ∃ t, execMovs c k rd ad s = .next t ∧ _
    exact issue_answers rfl h (result_issued ..)

/-- Settles O4: the branches by their conditions, JAL and JR by `jumpTo`. -/
theorem branchResult : Obligations.BranchResult := by
  unfold Obligations.BranchResult
  refine ⟨?rows, fun c k rd imm s h => ?jal, fun c k ra s h => ?jr⟩
  case rows =>
    simp only [branchRows, List.forall_mem_cons]
    refine ⟨?beq, ?bne, ?blt, ?bge, ?bltu, ?bgeu, by simp⟩ <;> intro c k ra rb off s h
    case beq => exact (branch_answers beq_eq_toNat h :)
    case bne => exact (branch_answers bne_eq_toNat h :)
    case blt => exact (branch_answers (fun a b : W64 => Eq.refl (decide (a.toInt < b.toInt))) h :)
    case bge => exact (branch_answers not_slt_eq_toInt h :)
    case bltu => exact (branch_answers (fun a b : W64 => Eq.refl (decide (a.toNat < b.toNat))) h :)
    case bgeu => exact (branch_answers not_ult_eq_toNat h :)
  case jal =>
    rw [← nextWord_eq_ofNat, ← relPc_eq_target, ← sset_wrote]
    change ∃ t, execJal c k rd imm s = .next t ∧ _
    exact issue_answers rfl h (jumpTo_issued ..)
  case jr =>
    rw [← setWidth_eq_ofNat_toNat]
    change ∃ t, execJr c k ra s = .next t ∧ _
    exact issue_answers rfl h (jumpTo_passed ..)
end

section
/-! PROOF. Counter signals, waits and takes of a context (R107, R109, R204, R208, R209). -/

namespace Sys2Proof.Machine
open Claims

section Signals
variable {s : State} {c : CoreIx} {k : CtxIx} {ctr : Byte}

/-- A core of the running task, as the signals look it up. -/
theorem taskOn_hasCore (s : State) (c d : CoreIx) {i : SlotIx} {T : Task} (h : taskOn s c = some (i, T)) : inTask s c d = T.hasCore d := by
  unfold taskOn at h
  unfold inTask
  cases hs : s.cores[c].slot with
  | none => rw [hs] at h; cases h
  | some j =>
    rw [hs] at h
    cases h
    rfl

theorem taskOn_of_counterNamed {n : Nat} (h : counterNamed s c n = true) : ∃ i T, taskOn s c = some (i, T) := by
  unfold counterNamed at h
  unfold taskOn
  cases hs : s.cores[c].slot with
  | none => rw [hs] at h; cases h
  | some i => exact ⟨i, _, rfl⟩

theorem signalled_ctx (d : CoreIx) (n : W16) (lat : Nat) (src : BitVec 3) : ctx (signalled s c k d ctr n lat src) c k = ctx s c k := by
  unfold signalled
  split <;> rfl

/-- A signal leaves and its instruction is passed. -/
theorem sendSignal_issued (d : CoreIx) (n : W16) (lat : Nat) (src : BitVec 3) :
    Issued (signalled s c k d ctr n lat src) (retire c k (sendSignal c k d ctr n lat src s)) c k (passed s c k) := by
  have h := retire_passed (signalled s c k d ctr n lat src) c k
  rwa [passed, signalled_ctx] at h

theorem ctrInfo_number (n : Byte) : ctrInfo n 0 0 = BitVec.ofNat 16 n.toNat := by simp [ctrInfo]

/-- The information of ROUTE: the counter and its target. -/
theorem routeInfo_eq (n : Byte) (t : Nat) (h : t < 256) : routeInfo n (BitVec.ofNat 8 t) = BitVec.ofNat 16 (n.toNat + 256 * t) := by
  have hn := n.isLt
  refine BitVec.eq_of_toNat_eq ?_
  have hd := Nat.shiftLeft_add_eq_or_of_lt (b := n.toNat) (i := 8) hn t
  rw [Nat.shiftLeft_eq] at hd
  rw [routeInfo, BitVec.toNat_or, BitVec.toNat_shiftLeft, BitVec.toNat_setWidth, BitVec.toNat_setWidth, BitVec.toNat_ofNat,
    BitVec.toNat_ofNat, Nat.shiftLeft_eq, Nat.mod_eq_of_lt h, Nat.mod_eq_of_lt (show n.toNat < 2 ^ 16 by omega),
    Nat.mod_eq_of_lt (show t < 2 ^ 16 by omega), Nat.mod_eq_of_lt (show t * 2 ^ 8 < 2 ^ 16 by omega), Nat.or_comm, ← hd]
  omega

/-- COUNTER_RANGE with the counter as information (R109). -/
theorem rangeFault_spec (hf : (ctx s c k).faulted = false) : FaultFrame s (rangeFault c k ctr s) ∧
    Latched s (rangeFault c k ctr s) c k 0x0A (ctx s c k).pc ∧ (ctx (rangeFault c k ctr s) c k).info = BitVec.ofNat 16 ctr.toNat := by
  rw [← ctrInfo_number]
  exact retireFault_spec hf

/-- ROUTE with counter and target as information (R109). -/
theorem routeFault_spec (hf : (ctx s c k).faulted = false) {t : Nat} (ht : t < 256) :
    let u := retireFault c k 0x0B (routeInfo ctr (BitVec.ofNat 8 t)) s
    FaultFrame s u ∧ Latched s u c k 0x0B (ctx s c k).pc ∧ (ctx u c k).info = BitVec.ofNat 16 (ctr.toNat + 256 * t) := by
  rw [← routeInfo_eq ctr t ht]
  exact retireFault_spec hf

variable {d : CoreIx} {n : W16} {src : BitVec 3} {closed : Bool}

theorem sigNeighbour_sent (hc : counterNamed s c ctr.toNat = true) (ht : inTask s c d = true) :
    sigNeighbour c d k false ctr n src s = retire c k (sendSignal c k d ctr n 3 src s) := by
  obtain ⟨i, T, hT⟩ := taskOn_of_counterNamed hc
  rw [taskOn_hasCore s c d hT] at ht
  simp [sigNeighbour, ctrHeld_eq_counterNamed, hc, hT, ht]

theorem sigNeighbour_range (hc : counterNamed s c ctr.toNat = false) : sigNeighbour c d k closed ctr n src s = rangeFault c k ctr s := by
  simp [sigNeighbour, ctrHeld_eq_counterNamed, hc]

theorem sigNeighbour_route (hc : counterNamed s c ctr.toNat = true) (h : inTask s c d = false ∨ closed = true) :
    sigNeighbour c d k closed ctr n src s = retireFault c k 0x0B (routeInfo ctr (BitVec.ofNat 8 d.val)) s := by
  obtain ⟨i, T, hT⟩ := taskOn_of_counterNamed hc
  rw [taskOn_hasCore s c d hT] at h
  rcases h with h | h <;> simp [sigNeighbour, ctrHeld_eq_counterNamed, hc, hT, h]

/-- A SIG.UP or SIG.DN that faults ROUTE. -/
theorem sigNeighbour_route_spec (hc : counterNamed s c ctr.toNat = true) (h : inTask s c d = false ∨ closed = true)
    (hf : (ctx s c k).faulted = false) :
    let u := sigNeighbour c d k closed ctr n src s
    FaultFrame s u ∧ Latched s u c k 0x0B (ctx s c k).pc ∧ (ctx u c k).info = BitVec.ofNat 16 (ctr.toNat + 256 * d.val) := by
  rw [sigNeighbour_route hc h]
  exact routeFault_spec hf (by omega)

/-- A signal over the tree to core `t` of the task; the effect of SIG.C once it issues. -/
def sigTree (c : CoreIx) (k : CtxIx) (t : Nat) (ctr : Byte) (n : W16) (s : State) : State :=
  if !ctrHeld s c ctr.toNat then rangeFault c k ctr s
  else match taskOn s c with
    | none => s
    | some (_, T) =>
      if h : t < 144 then
        if T.hasCore ⟨t, h⟩ then retire c k (sendSignal c k ⟨t, h⟩ ctr n 19 4 s)
        else retireFault c k 0x0B (routeInfo ctr (BitVec.ofNat 8 t)) s
      else retireFault c k 0x0B (routeInfo ctr (BitVec.ofNat 8 t)) s

theorem execSigC_eq (ra rb : SReg) : execSigC c k ra rb ctr s =
    issue c k (encR 0x1B 0 ra.val rb.val ctr.toNat) 0 [ra, rb] s fun s =>
      sigTree c k ((sreg s c k ra).toNat % 256) ctr ((sreg s c k rb).setWidth 16) s := rfl

theorem sigTree_sent (hc : counterNamed s c ctr.toNat = true) (ht : inTask s c d = true) :
    sigTree c k d.val ctr n s = retire c k (sendSignal c k d ctr n 19 4 s) := by
  obtain ⟨i, T, hT⟩ := taskOn_of_counterNamed hc
  rw [taskOn_hasCore s c d hT] at ht
  simp [sigTree, ctrHeld_eq_counterNamed, hc, hT, ht]

theorem sigTree_range (hc : counterNamed s c ctr.toNat = false) (t : Nat) : sigTree c k t ctr n s = rangeFault c k ctr s := by
  simp [sigTree, ctrHeld_eq_counterNamed, hc]

theorem sigTree_route (hc : counterNamed s c ctr.toNat = true) {t : Nat} (h : ∀ d : CoreIx, t = d.val → inTask s c d = false) :
    sigTree c k t ctr n s = retireFault c k 0x0B (routeInfo ctr (BitVec.ofNat 8 t)) s := by
  obtain ⟨i, T, hT⟩ := taskOn_of_counterNamed hc
  by_cases ht : t < 144
  · have hd := h ⟨t, ht⟩ rfl
    rw [taskOn_hasCore s c _ hT] at hd
    simp [sigTree, ctrHeld_eq_counterNamed, hc, hT, ht, hd]
  · simp [sigTree, ctrHeld_eq_counterNamed, hc, hT, ht]

end Signals

/-! ### Waits and takes (R208, R209) -/

section Counters
variable {s : State} {c : CoreIx} {k : CtxIx} {ctr : Byte}

theorem consume_eq_withCounter {n : W16} (h : n.toNat ≤ (counterOf s c ctr).value.toNat) : consume c ctr n.toNat s =
    withCounter s c ctr { counterOf s c ctr with value := (counterOf s c ctr).value - n } := by
  have hv : BitVec.ofNat 16 ((counterOf s c ctr).value.toNat - n.toNat) = (counterOf s c ctr).value - n := by
    have h1 := (counterOf s c ctr).value.isLt
    refine BitVec.eq_of_toNat_eq ?_
    rw [BitVec.toNat_ofNat, BitVec.toNat_sub]
    omega
  rw [← hv]
  rfl

theorem withCounter_ctx (q : Counter) (d : CoreIx) (j : CtxIx) : ctx (withCounter s c ctr q) d j = ctx s d j := by
  unfold ctx withCounter
  by_cases h : d = c
  · subst h; simp
  · have hv : c.val ≠ d.val := fun e => h (Fin.ext e.symm)
    simp [hv]

theorem consume_issued {n : W16} (h : n.toNat ≤ (counterOf s c ctr).value.toNat) :
    Issued (withCounter s c ctr { counterOf s c ctr with value := (counterOf s c ctr).value - n })
      (retire c k (consume c ctr n.toNat s)) c k (passed s c k) := by
  rw [consume_eq_withCounter h]
  have hp := retire_passed (withCounter s c ctr { counterOf s c ctr with value := (counterOf s c ctr).value - n }) c k
  rwa [passed, withCounter_ctx] at hp

/-- A context that begins to wait for an object. -/
theorem waitOn_issued (kind : WaitKind) (o : Byte) (n : W16) : Issued s (waitOn c k kind (some (o, n)) s) c k
    { ctx s c k with
      st := .waiting
      kind := kind
      waitObj := o
      waitN := n } := noteIssue_issued s c k _

/-- A context that joins a counter's queue and waits for an object. -/
theorem joinQueue_issued (n : W16) (kind : WaitKind) (o : Byte) : Issued
    (withCounter s c ctr { counterOf s c ctr with queue := (counterOf s c ctr).queue ++ [{ ctx := k, n := n }] })
    (waitOn c k kind (some (o, n)) (joinQueue c k ctr n s)) c k
    { ctx s c k with
      st := .waiting
      kind := kind
      waitObj := o
      waitN := n } := by
  have h := waitOn_issued (s := joinQueue c k ctr n s) (c := c) (k := k) kind o n
  have hc : ctx (joinQueue c k ctr n s) c k = ctx s c k := withCounter_ctx _ c k
  rwa [hc] at h

/-- The effect of WAIT once it issues. -/
def waitFor (c : CoreIx) (k : CtxIx) (ctr : Byte) (v : W16) (s : State) : State :=
  let q := counterOf s c ctr
  if !ctrHeld s c ctr.toNat then rangeFault c k ctr s
  else if v = 0 then retire c k s
  else if q.limit.toNat < v.toNat then retireFault c k 0x0A (ctrInfo ctr 0 1) s
  else if q.queue.isEmpty && decide (v.toNat ≤ q.value.toNat) then retire c k (consume c ctr v.toNat s)
  else waitOn c k .counter (some (ctr, v)) (joinQueue c k ctr v s)

theorem execWait_eq (n : NOp) : execWait c k ctr n s =
    issue c k (encK 0x1D ctr n) 0 (nsrc n) s fun s => waitFor c k ctr (nval s c k n) s := rfl

/-- A WAIT within LIMIT passes, consumes, or joins the queue. -/
theorem waitFor_issued {v : W16} (hc : counterNamed s c ctr.toNat = true) (hl : v.toNat ≤ (counterOf s c ctr).limit.toNat) :
    if v = 0 then Issued s (waitFor c k ctr v s) c k (passed s c k)
    else if (counterOf s c ctr).queue = [] ∧ v.toNat ≤ (counterOf s c ctr).value.toNat
    then Issued (withCounter s c ctr { counterOf s c ctr with value := (counterOf s c ctr).value - v }) (waitFor c k ctr v s) c k
      (passed s c k)
    else Issued (withCounter s c ctr { counterOf s c ctr with queue := (counterOf s c ctr).queue ++ [{ ctx := k, n := v }] })
      (waitFor c k ctr v s) c k
      { ctx s c k with
        st := .waiting
        kind := .counter
        waitObj := ctr
        waitN := v } := by
  split
  next hv =>
    rw [waitFor, ctrHeld_eq_counterNamed, hc, Bool.not_true, if_neg Bool.false_ne_true, if_pos hv]
    exact retire_passed s c k
  next hv =>
    split
    next hq =>
      rw [waitFor, ctrHeld_eq_counterNamed, hc, Bool.not_true, if_neg Bool.false_ne_true, if_neg hv, if_neg (Nat.not_lt.mpr hl), if_pos (by simp [hq])]
      exact consume_issued hq.2
    next hq =>
      rw [waitFor, ctrHeld_eq_counterNamed, hc, Bool.not_true, if_neg Bool.false_ne_true, if_neg hv, if_neg (Nat.not_lt.mpr hl),
        if_neg (by simpa using hq)]
      exact joinQueue_issued v .counter ctr

theorem waitFor_range (hc : counterNamed s c ctr.toNat = false) (v : W16) : waitFor c k ctr v s = rangeFault c k ctr s := by
  simp [waitFor, ctrHeld_eq_counterNamed, hc]

theorem waitFor_limit {v : W16} (hc : counterNamed s c ctr.toNat = true) (hl : (counterOf s c ctr).limit.toNat < v.toNat) :
    waitFor c k ctr v s = retireFault c k 0x0A (ctrInfo ctr 0 1) s := by
  have hv : v ≠ 0 := by
    rintro rfl
    exact absurd hl (by simp)
  rw [waitFor, ctrHeld_eq_counterNamed, hc, Bool.not_true, if_neg Bool.false_ne_true, if_neg hv, if_pos hl]

/-- The effect of TAKE once it issues. -/
def takeFrom (c : CoreIx) (k : CtxIx) (ctr : Byte) (v : W16) (s : State) : State :=
  if !ctrHeld s c ctr.toNat then rangeFault c k ctr s
  else if v.toNat ≤ (counterOf s c ctr).value.toNat then retire c k (consume c ctr v.toNat s)
  else retireFault c k 0x09 (ctrInfo ctr 0 0) s

theorem execTake_eq (n : NOp) : execTake c k ctr n s =
    issue c k (encK 0x1E ctr n) 0 (nsrc n) s fun s => takeFrom c k ctr (nval s c k n) s := rfl

theorem takeFrom_covered {v : W16} (hc : counterNamed s c ctr.toNat = true) (hv : v.toNat ≤ (counterOf s c ctr).value.toNat) :
    takeFrom c k ctr v s = retire c k (consume c ctr v.toNat s) := by
  rw [takeFrom, ctrHeld_eq_counterNamed, hc, Bool.not_true, if_neg Bool.false_ne_true, if_pos hv]

theorem takeFrom_range (hc : counterNamed s c ctr.toNat = false) (v : W16) : takeFrom c k ctr v s = rangeFault c k ctr s := by
  simp [takeFrom, ctrHeld_eq_counterNamed, hc]

theorem takeFrom_underflow {v : W16} (hc : counterNamed s c ctr.toNat = true) (hv : (counterOf s c ctr).value.toNat < v.toNat) :
    takeFrom c k ctr v s = retireFault c k 0x09 (ctrInfo ctr 0 0) s := by
  rw [takeFrom, ctrHeld_eq_counterNamed, hc, Bool.not_true, if_neg Bool.false_ne_true, if_neg (Nat.not_le.mpr hv)]

/-- The effect of CTRRD once it issues. -/
def readCounter (c : CoreIx) (k : CtxIx) (rd : SReg) (ctr : W16) (s : State) : State :=
  let q := s.cores[c].counter (ctr.setWidth 8)
  if !ctrHeld s c ctr.toNat then rangeFault c k (ctr.setWidth 8) s
  else result c k rd (BitVec.ofNat 64 (q.limit.toNat * 2 ^ 16 + q.value.toNat)) 2 s

theorem execCtrrd_eq (rd : SReg) (ctr : W16) : execCtrrd c k rd ctr s =
    issue c k (encI 0x1F rd.val 0 ctr) 0 [] s fun s => readCounter c k rd ctr s := rfl

theorem setWidth_byte (b : Byte) : (b.setWidth 16).setWidth 8 = b ∧ (b.setWidth 16).toNat = b.toNat := by
  have h := b.isLt
  exact ⟨BitVec.eq_of_toNat_eq (by simp), by rw [BitVec.toNat_setWidth]; omega⟩

theorem readCounter_issued (rd : SReg) (hc : counterNamed s c ctr.toNat = true) :
    Issued s (readCounter c k rd (ctr.setWidth 16) s) c k (wrote s (ctx s c k) rd
      (BitVec.ofNat 64 ((counterOf s c ctr).limit.toNat * 65536 + (counterOf s c ctr).value.toNat)) 2) := by
  obtain ⟨hw, hn⟩ := setWidth_byte ctr
  unfold readCounter
  rw [hw, hn, ctrHeld_eq_counterNamed, hc]
  exact result_issued ..

end Counters
end Sys2Proof.Machine

open Sys2Proof Sys2Proof.Machine Sys2Proof.Claims

/-- Settles O6: each signal by what `sendSignal` puts on its way; the faults by `rangeFault_spec` and `routeFault_spec`. -/
theorem counterSignals : Obligations.CounterSignals := by
  unfold Obligations.CounterSignals
  refine ⟨fun c k ctr n s h hc => ?sig, fun c k ctr n s h hc ht hb => ?up, fun c k ctr n s h hc ht hb => ?dn,
    fun c d k ra rb ctr s h hc hd ht => ?tree, ?range, fun c k ra rb ctr s h hc hf => ?treeRange,
    fun up c k ctr n s h hc hr hf => ?route, fun c k ra rb ctr s h hc ht hf => ?treeRoute⟩
  case sig =>
    change ∃ t, execSig c k ctr n s = .next t ∧ _
    refine issue_answers rfl h ?_
    rw [ctrHeld_eq_counterNamed, hc, ← nval_eq_amount]
    exact sendSignal_issued ..
  case up =>
    change ∃ t, execSigUp c k ctr n s = .next t ∧ _
    refine issue_answers rfl h ?_
    rw [hb, sigNeighbour_sent hc ht, ← nval_eq_amount]
    exact sendSignal_issued ..
  case dn =>
    change ∃ t, execSigDn c k ctr n s = .next t ∧ _
    refine issue_answers rfl h ?_
    rw [hb, sigNeighbour_sent hc ht, ← nval_eq_amount]
    exact sendSignal_issued ..
  case tree =>
    change ∃ t, execSigC c k ra rb ctr s = .next t ∧ _
    refine issue_answers (execSigC_eq ra rb) h ?_
    rw [sreg_eq_reads, hd, sigTree_sent hc ht, sreg_eq_reads, setWidth_eq_ofNat_toNat]
    exact sendSignal_issued ..
  case range =>
    simp only [List.forall_mem_cons]
    refine ⟨?own, ?up, ?dn, by simp⟩ <;> intro c k ctr n s h hc hf
    case own =>
      change ∃ t, execSig c k ctr n s = .next t ∧ _
      refine issue_answers rfl h ?_
      rw [ctrHeld_eq_counterNamed, hc]
      exact rangeFault_spec hf
    case up =>
      change ∃ t, execSigUp c k ctr n s = .next t ∧ _
      refine issue_answers rfl h ?_
      rw [sigNeighbour_range hc]
      exact rangeFault_spec hf
    case dn =>
      change ∃ t, execSigDn c k ctr n s = .next t ∧ _
      refine issue_answers rfl h ?_
      rw [sigNeighbour_range hc]
      exact rangeFault_spec hf
  case treeRange =>
    change ∃ t, execSigC c k ra rb ctr s = .next t ∧ _
    refine issue_answers (execSigC_eq ra rb) h ?_
    rw [sigTree_range hc]
    exact rangeFault_spec hf
  case route =>
    cases up with
    | true =>
      change ∃ t, execSigUp c k ctr n s = .next t ∧ _
      exact issue_answers rfl h (sigNeighbour_route_spec hc hr hf)
    | false =>
      change ∃ t, execSigDn c k ctr n s = .next t ∧ _
      exact issue_answers rfl h (sigNeighbour_route_spec hc hr hf)
  case treeRoute =>
    change ∃ t, execSigC c k ra rb ctr s = .next t ∧ _
    refine issue_answers (execSigC_eq ra rb) h ?_
    rw [sreg_eq_reads, sigTree_route hc ht]
    exact routeFault_spec hf (Nat.mod_lt _ (by decide))

/-- Settles O8: WAIT, TAKE and CTRRD by the branches of their effects. -/
theorem counterInstructions : Obligations.CounterInstructions := by
  unfold Obligations.CounterInstructions
  refine ⟨fun c k ctr n s h hc hl => ?wait, fun c k ctr n s h hc hv => ?take, fun c k rd ctr s h hc => ?ctrrd,
    fun wait c k ctr n s h hc hf => ?range, fun c k rd ctr s h hc hf => ?ctrrdRange, fun c k ctr n s h hc hl hf => ?limit,
    fun c k ctr n s h hc hv hf => ?underflow⟩
  case wait =>
    rw [← nval_eq_amount] at hl ⊢
    exact ⟨_, (execWait_eq n).trans (issue_ok s c k h), waitFor_issued hc hl⟩
  case take =>
    change ∃ t, execTake c k ctr n s = .next t ∧ _
    refine issue_answers (execTake_eq n) h ?_
    rw [← nval_eq_amount] at hv ⊢
    rw [takeFrom_covered hc hv]
    exact consume_issued hv
  case ctrrd =>
    change ∃ t, execCtrrd c k rd (ctr.setWidth 16) s = .next t ∧ _
    exact issue_answers (execCtrrd_eq rd _) h (readCounter_issued rd hc)
  case range =>
    have hr := rangeFault_spec (ctr := ctr) hf
    cases wait with
    | true =>
      change ∃ t, execWait c k ctr n s = .next t ∧ _
      refine issue_answers (execWait_eq n) h ?_
      rw [waitFor_range hc]
      exact ⟨hr.1, hr.2.1⟩
    | false =>
      change ∃ t, execTake c k ctr n s = .next t ∧ _
      refine issue_answers (execTake_eq n) h ?_
      rw [takeFrom_range hc]
      exact ⟨hr.1, hr.2.1⟩
  case ctrrdRange =>
    change ∃ t, execCtrrd c k rd ctr s = .next t ∧ _
    refine issue_answers (execCtrrd_eq rd ctr) h ?_
    rw [readCounter, ctrHeld_eq_counterNamed, hc]
    have hr := rangeFault_spec (ctr := ctr.setWidth 8) hf
    exact ⟨hr.1, hr.2.1⟩
  case limit =>
    change ∃ t, execWait c k ctr n s = .next t ∧ _
    refine issue_answers (execWait_eq n) h ?_
    rw [← nval_eq_amount] at hl
    rw [waitFor_limit hc hl]
    have hr := retireFault_spec (cause := 0x0A) (inf := ctrInfo ctr 0 1) hf
    exact ⟨hr.1, hr.2.1⟩
  case underflow =>
    change ∃ t, execTake c k ctr n s = .next t ∧ _
    refine issue_answers (execTake_eq n) h ?_
    rw [← nval_eq_amount] at hv
    rw [takeFrom_underflow hc hv]
    have hr := retireFault_spec (cause := 0x09) (inf := ctrInfo ctr 0 0) hf
    exact ⟨hr.1, hr.2.1⟩
end

section
/-! PROOF. The other control instructions (R107), TRAP and its return, and the entry of a handler (R106, R116, R117). -/

namespace Sys2Proof.Machine
open Claims

section Special
variable {s : State} {c : CoreIx} {k : CtxIx} {i : SlotIx}

theorem wrote_vflags (y : Ctx) (rd : SReg) (v : W64) (lat : Nat) (f : BitVec 4) :
    wrote s { y with vflags := f } rd v lat = { wrote s y rd v lat with vflags := f } := by
  unfold wrote
  split <;> rfl

/-- VFLG clears the flags its immediate names. -/
theorem vflags_cleared (f : BitVec 4) (imm : W16) (i : Nat) (hi : i < 4) :
    (f &&& ~~~(imm.setWidth 4)).getLsbD i = (f.getLsbD i && !imm.getLsbD i) := by
  simp [hi]

theorem taskOn_of_runs (h : runs s c i = true) : taskOn s c = some (i, s.tasks[i]) ∧ s.tasks[i].issues = true := by
  rw [runs, Bool.and_eq_true, beq_iff_eq] at h
  unfold taskOn
  rw [h.1]
  exact ⟨rfl, h.2⟩

theorem trapReturns_of_runs (h : runs s c i = true) (hf : (ctx s c k).faulted = true) (hn : s.tasks[i].hdr.flags.getLsbD 6 = true) :
    trapReturns s c k = true := by
  unfold ctx at hf
  unfold trapReturns
  rw [(taskOn_of_runs h).1, hf]
  exact hn

theorem trapReturns_of_unfaulted (hf : (ctx s c k).faulted = false) : trapReturns s c k = false := by
  unfold ctx at hf
  unfold trapReturns
  rw [hf, Bool.false_and]

/-- A TRAP of a context without a latched fault. -/
theorem execTrap_eq {imm : W16} (hf : (ctx s c k).faulted = false) : execTrap c k imm s =
    issue c k (encI 0x3B 0 0 imm) 0x03FF0000 [] s fun s => retireFault c k 0x12 imm s := by
  rw [execTrap, trapReturns_of_unfaulted hf, Bool.and_false, if_neg Bool.false_ne_true]

theorem execTrapReturn_eq (h : trapReturns s c k = true) : execTrapReturn c k s =
    issue c k (encI 0x3B 0 0 0xFFFF) 0x03FF0000 [31] s fun s => noteIssue c k (returnFromFault c k s) := by
  rw [execTrapReturn, if_pos h]

theorem execIllegal_eq {w : W32} (h : ctlLegal w = false) : execIllegal c k w s =
    issue c k w 0 [] s fun s => withFreeInfo s fun i s => retireFault c k 0x01 i s := by
  rw [execIllegal, h, if_neg Bool.false_ne_true]

/-- The word behind the one that S31 names. -/
theorem returnPc_eq (v : W64) : (v.setWidth 13 + 1 : BitVec 13) = BitVec.ofNat 13 (v.toNat + 1) := BitVec.eq_of_toNat_eq (by simp)

/-- What the latch leaves in a context that enters its handler (R117). -/
theorem latch_handler (x : Ctx) (cause : Byte) (inf : W16) (pc a : BitVec 13) (now : Nat) :
    let y := x.latch cause inf pc now (some a) false
    y.st = .ready ∧ y.pc = a ∧ y.s[31] = BitVec.ofNat 64 (cause.toNat * 2 ^ 16 + pc.toNat) ∧ y.s[30] = inf.setWidth 64 := by
  simp [Ctx.latch]

theorem latchState_tasks (cause : Byte) (inf : W16) (pc : BitVec 13) (h : Option (BitVec 13)) (held : Bool) :
    (latchState c k cause inf pc h held s).tasks = s.tasks := rfl

/-- A fault in a running task that asks for notification enters the handler at FAULT_HANDLER. -/
theorem retireFault_notified {cause : Byte} {inf : W16} (hf : (ctx s c k).faulted = false) (hr : runs s c i = true)
    (hn : s.tasks[i].hdr.flags.getLsbD 6 = true) :
    let t := retireFault c k cause inf s
    ctx t c k = Ctx.latch { ctx s c k with faultCount := satInc (ctx s c k).faultCount } cause inf (ctx s c k).pc s.time.cycle
      (some (s.tasks[i].hdr.faultHandler.setWidth 13)) false ∧ t.tasks = s.tasks := by
  obtain ⟨ht, hi⟩ := taskOn_of_runs hr
  have he := faultCtx_notified (cause := cause) (inf := inf) (pc := (ctx s c k).pc) hf ht hn
  rw [hi, Bool.not_true] at he
  change ctx (noteIssue c k (faultCtx c k cause inf (ctx s c k).pc s)) c k = _ ∧
    (noteIssue c k (faultCtx c k cause inf (ctx s c k).pc s)).tasks = _
  rw [he, noteIssue_ctx, latchState_ctx]
  exact ⟨rfl, rfl⟩

/-- An issue that also marks the context as having yielded. -/
theorem yielded_spec {t : State} {y : Ctx} (h : Issued s t c k y) :
    let u := modCore t c fun x => { x with yielded := some k }
    OnlyCore s u c ∧ ctx u c k = y ∧ (∀ j, j ≠ k → ctx u c j = ctx s c j) ∧ u.cores[c].yielded = some k ∧
      u.cores[c].lastIssue = some (s.time.cycle, k) := by
  unfold Issued at h
  subst h
  unfold OnlyCore ctx
  simp only [modCore_core]
  refine ⟨by simp [modCore], by simp, fun j hj => ?_, trivial, by simp⟩
  have hv : k.val ≠ j.val := fun e => hj (Fin.ext e.symm)
  simp [hv]

end Special
end Sys2Proof.Machine

open Sys2Proof Sys2Proof.Machine Sys2Proof.Claims

/-- Settles O10: each instruction is a result, a pass, or an update of its own context. -/
theorem specialInstructions : Obligations.SpecialInstructions := by
  unfold Obligations.SpecialInstructions
  refine ⟨fun c k rd s h => ?ftrd, fun c k ra rb s h => ?srset, fun c k rd imm s h => ?vflg, fun c k s h => ?yield,
    fun c k s h => ?nop, fun c k s h => ?halt⟩
  case ftrd =>
    change ∃ t, execFtrd c k rd s = .next t ∧ _
    exact issue_answers rfl h (result_issued ..)
  case srset =>
    change ∃ t, execSrset c k ra rb s = .next t ∧ _
    refine issue_answers rfl h ?_
    exact retire_issued s c k fun y => { y with seed := reads s c k ra, sctr := reads s c k rb }
  case vflg =>
    change ∃ t f, execVflg c k rd imm s = .next t ∧ _
    have hi := result_modCtx_issued s c k (fun y => { y with vflags := (ctx s c k).vflags &&& ~~~(imm.setWidth 4) }) rd
      ((ctx s c k).vflags.setWidth 64) 1
    rw [wrote_vflags] at hi
    rw [← setWidth_eq_ofNat_toNat]
    exact ⟨_, _, issue_ok s c k h, hi, vflags_cleared _ imm⟩
  case yield =>
    change ∃ t, execYield c k s = .next t ∧ _
    refine issue_answers rfl h ?_
    exact yielded_spec (retire_passed s c k)
  case nop =>
    change ∃ t, execNop c k s = .next t ∧ _
    exact issue_answers rfl h (retire_passed ..)
  case halt =>
    change ∃ t, execHalt c k s = .next t ∧ _
    exact issue_answers rfl h (noteIssue_issued ..)

/-- Settles O11: TRAP and an unlisted word by `retireFault_spec`, the return by the update of its context. -/
theorem trapsAndReturn : Obligations.TrapsAndReturn := by
  unfold Obligations.TrapsAndReturn
  refine ⟨fun c k imm s h hf => ?trap, fun c k i s h hf hr hn => ?trapReturn, fun c k w s h hw hf => ?illegal⟩
  case trap =>
    change ∃ t, execTrap c k imm s = .next t ∧ _
    exact issue_answers (execTrap_eq hf) h (retireFault_spec hf)
  case trapReturn =>
    change ∃ t, execTrapReturn c k s = .next t ∧ _
    refine issue_answers (execTrapReturn_eq (trapReturns_of_runs hr hf hn)) h ?_
    rw [← returnPc_eq]
    exact noteIssue_issued s c k _
  case illegal =>
    change ∃ t, execIllegal c k w s = .next t ∧ _
    exact issue_answers (execIllegal_eq hw) h (retireFault_freeInfo_spec hf)

/-- Settles O12: by the latch of a notified task (`retireFault_notified`). -/
theorem notifiedFaultEntersHandler : Obligations.NotifiedFaultEntersHandler := by
  unfold Obligations.NotifiedFaultEntersHandler
  intro c k imm i s h hf hr hn
  change ∃ t, execTrap c k imm s = .next t ∧ _
  refine issue_answers (execTrap_eq hf) h ?_
  obtain ⟨hc, ht⟩ := retireFault_notified (cause := 0x12) (inf := imm) hf hr hn
  obtain ⟨hst, hpc, h31, h30⟩ := latch_handler { ctx s c k with faultCount := satInc (ctx s c k).faultCount } 0x12 imm (ctx s c k).pc
    (s.tasks[i].hdr.faultHandler.setWidth 13) s.time.cycle
  have hs := (latch_regs { ctx s c k with faultCount := satInc (ctx s c k).faultCount } 0x12 imm (ctx s c k).pc s.time.cycle
    (some (s.tasks[i].hdr.faultHandler.setWidth 13)) false).s
  rw [hc, ← setWidth_eq_ofNat_toNat, ← setWidth_eq_ofNat_toNat]
  exact ⟨hst, hpc, h31, h30, hs, ht⟩
end

section
/-! PROOF. The launch instructions (R111, R112, R36). -/

namespace Sys2Proof.Machine
open Claims

section Launches
variable {s : State} {c : CoreIx} {k : CtxIx} {blk : BitVec 12} {ctr : Byte}

theorem mkLaunch_eq_launchOf (form : LaunchForm) (ft : W64) (beat : Nat) :
    mkLaunch s c k blk ctr form ft beat = launchOf s c k blk ctr form ft beat := by
  have h : (#v[(ctx s c k).s[24], (ctx s c k).s[25], (ctx s c k).s[26], (ctx s c k).s[27], (ctx s c k).s[28], (ctx s c k).s[29],
      (ctx s c k).s[30], (ctx s c k).s[31]] : Vector W64 8) = Vector.ofFn fun i => (ctx s c k).s[24 + i.val]'(by omega) := by
    ext i hi
    match i, hi with
    | 0, _ | 1, _ | 2, _ | 3, _ | 4, _ | 5, _ | 6, _ | 7, _ => simp
  unfold launchOf
  rw [← h]
  rfl

theorem withLaunch_ctx (l : Launch) : ctx (withLaunch s c l) c k = ctx s c k := by simp [ctx, withLaunch]

/-- The launch is pending and its instruction passed. -/
theorem recordLaunch_issued (form : LaunchForm) (ft : W64) (beat : Nat) :
    Issued (withLaunch s c (launchOf s c k blk ctr form ft beat)) (recordLaunch c k (mkLaunch s c k blk ctr form ft beat) s) c k
      (passed s c k) := by
  rw [mkLaunch_eq_launchOf]
  have h := retire_passed (withLaunch s c (launchOf s c k blk ctr form ft beat)) c k
  rwa [passed, withLaunch_ctx] at h

variable {f : State → State}

theorem launch_free (hc : counterNamed s c ctr.toNat = true) (hp : s.cores[c].pend = none) : launch c k ctr s f = f s := by
  rw [launch, ctrHeld_eq_counterNamed, hc, hp]
  rfl

theorem launch_waits (hc : counterNamed s c ctr.toNat = true) (hp : s.cores[c].pend ≠ none) :
    launch c k ctr s f = waitOn c k .launch none s := by
  rw [launch, ctrHeld_eq_counterNamed, hc, Bool.not_true, if_neg Bool.false_ne_true, if_pos (Option.isSome_iff_ne_none.mpr hp)]

theorem launch_range (hc : counterNamed s c ctr.toNat = false) : launch c k ctr s f = rangeFault c k ctr s := by
  rw [launch, ctrHeld_eq_counterNamed, hc, Bool.not_false, if_pos rfl]

/-- A wait without an object takes two free values. -/
theorem waitOn_free_issued (kind : WaitKind) : ∃ o n, Issued { s with freeCtr := (waitOn c k kind none s).freeCtr }
    (waitOn c k kind none s) c k
    { ctx s c k with
      st := .waiting
      kind := kind
      waitObj := o
      waitN := n } :=
  ⟨_, _, noteIssue_issued { s with freeCtr := s.freeCtr + 2 } c k _⟩

/-- A launch instruction that waits, whatever it would record. -/
theorem launch_wait_spec (hc : counterNamed s c ctr.toNat = true) (hp : s.cores[c].pend ≠ none) : ∃ o n,
    Issued { s with freeCtr := (launch c k ctr s f).freeCtr } (launch c k ctr s f) c k
      { ctx s c k with
        st := .waiting
        kind := .launch
        waitObj := o
        waitN := n } := by
  rw [launch_waits hc hp]
  exact waitOn_free_issued .launch

/-- A LAUNCH.AT taken late: counted, the epoch advanced, and the fault (R36). -/
def launchLate (c : CoreIx) (k : CtxIx) (ft : Nat) (s : State) : State :=
  withFreeInfo (modCore (lateAction s 1 ft (ftNow s)) c fun x => { x with epoch := x.epoch + 1 }) fun i s => retireFault c k 0x10 i s

theorem execLaunchAt_eq (rf : SReg) : execLaunchAt c k blk ctr rf s =
    issue c k (encL 0x22 blk ctr rf.val) 0 (rf :: launchSrcs) s fun s => launch c k ctr s fun s =>
      if 32 * beatAt s (sreg s c k rf).toNat ≤ s.time.cycle then launchLate c k (sreg s c k rf).toNat s
      else recordLaunch c k (mkLaunch s c k blk ctr .at_ (sreg s c k rf) (beatAt s (sreg s c k rf).toNat)) s := rfl

theorem launchLate_spec {ft : Nat} (hf : (ctx s c k).faulted = false) (hp : s.cores[c].pend = none) :
    let t := launchLate c k ft s
    (ctx t c k).faulted = true ∧ (ctx t c k).cause = 0x10 ∧ (ctx t c k).faultPc = (ctx s c k).pc ∧
      t.time.lateCount = satInc s.time.lateCount ∧ t.cores[c].epoch = s.cores[c].epoch + 1 ∧ t.cores[c].pend = none := by
  have hcore : (modCore (lateAction s 1 ft (ftNow s)) c fun x => { x with epoch := x.epoch + 1 }).cores[c] =
    { s.cores[c] with epoch := s.cores[c].epoch + 1 } := modCore_core ..
  have hctx : ctx (modCore (lateAction s 1 ft (ftNow s)) c fun x => { x with epoch := x.epoch + 1 }) c k = ctx s c k :=
    modCore_keepsCtx (lateAction s 1 ft (ftNow s)) (f := fun x => { x with epoch := x.epoch + 1 }) (fun _ => rfl) c k
  have hF : Faults c k (modCore (lateAction s 1 ft (ftNow s)) c fun x => { x with epoch := x.epoch + 1 }) (launchLate c k ft s) :=
    (freeCtr_faults _).trans (faultCtx_faults.trans noteIssue_faults)
  have hl := (retireFault_freeInfo_spec (cause := 0x10) (hctx ▸ hf)).2
  rw [hctx] at hl
  obtain ⟨hfa, hca, hpc, -⟩ := hl
  have hk := hF.cores c
  rw [hcore] at hk
  refine ⟨hfa, hca, hpc, by rw [hF.time]; rfl, by rw [hk.only], ?_⟩
  rcases hk.pend with h | h
  · exact h.trans hp
  · exact h

end Launches
end Sys2Proof.Machine

open Sys2Proof Sys2Proof.Machine Sys2Proof.Claims

/-- Settles O13: the three forms through `launch`, the late LAUNCH.AT through `launchLate`. -/
theorem launchInstructions : Obligations.LaunchInstructions := by
  unfold Obligations.LaunchInstructions
  refine ⟨fun c k blk ctr s h => ?own, fun c k blk ctr s h => ?seg, fun c k blk ctr rf s h hb => ?at_,
    fun c k blk ctr rf s => ?wait, fun c k blk ctr rf s => ?range, fun c k blk ctr rf s h hf hb => ?late⟩
  case own =>
    obtain ⟨ok, hc, hp⟩ := h
    change ∃ t, execLaunch c k blk ctr s = .next t ∧ _
    refine issue_answers rfl ok ?_
    rw [launch_free hc hp]
    exact recordLaunch_issued ..
  case seg =>
    obtain ⟨ok, hc, hp⟩ := h
    change ∃ t, execLaunchSeg c k blk ctr s = .next t ∧ _
    refine issue_answers rfl ok ?_
    rw [launch_free hc hp]
    exact recordLaunch_issued ..
  case at_ =>
    obtain ⟨ok, hc, hp⟩ := h
    change ∃ t, execLaunchAt c k blk ctr rf s = .next t ∧ _
    refine issue_answers (execLaunchAt_eq rf) ok ?_
    rw [launch_free hc hp, sreg_eq_reads, if_neg (Nat.not_le.mpr hb)]
    exact recordLaunch_issued ..
  case wait =>
    simp only [launchForms, List.forall_mem_cons]
    refine ⟨fun ok hc hp => ?_, fun ok hc hp => ?_, fun ok hc hp => ?_, by simp⟩
    · obtain ⟨o, n, h⟩ := launch_wait_spec (k := k) (f := fun s => recordLaunch c k (mkLaunch s c k blk ctr .local_ 0 0) s) hc hp
      change ∃ t o n, execLaunch c k blk ctr s = .next t ∧ _
      exact ⟨_, o, n, issue_ok s c k ok, h⟩
    · obtain ⟨o, n, h⟩ := launch_wait_spec (k := k) (f := fun s => recordLaunch c k (mkLaunch s c k blk ctr .seg 0 0) s) hc hp
      change ∃ t o n, execLaunchSeg c k blk ctr s = .next t ∧ _
      exact ⟨_, o, n, issue_ok s c k ok, h⟩
    · obtain ⟨o, n, h⟩ := launch_wait_spec hc hp
      exact ⟨_, o, n, (execLaunchAt_eq rf).trans (issue_ok s c k ok), h⟩
  case range =>
    simp only [launchForms, List.forall_mem_cons]
    refine ⟨fun ok hc hf => ?_, fun ok hc hf => ?_, fun ok hc hf => ?_, by simp⟩
    · change ∃ t, execLaunch c k blk ctr s = .next t ∧ _
      refine issue_answers rfl ok ?_
      rw [launch_range hc]
      exact ⟨(rangeFault_spec hf).1, (rangeFault_spec hf).2.1⟩
    · change ∃ t, execLaunchSeg c k blk ctr s = .next t ∧ _
      refine issue_answers rfl ok ?_
      rw [launch_range hc]
      exact ⟨(rangeFault_spec hf).1, (rangeFault_spec hf).2.1⟩
    · change ∃ t, execLaunchAt c k blk ctr rf s = .next t ∧ _
      refine issue_answers (execLaunchAt_eq rf) ok ?_
      rw [launch_range hc]
      exact ⟨(rangeFault_spec hf).1, (rangeFault_spec hf).2.1⟩
  case late =>
    obtain ⟨ok, hc, hp⟩ := h
    change ∃ t, execLaunchAt c k blk ctr rf s = .next t ∧ _
    refine issue_answers (execLaunchAt_eq rf) ok ?_
    rw [launch_free hc hp, sreg_eq_reads, if_pos hb]
    exact launchLate_spec hf hp
end

section
/-! PROOF. The starts of timed blocks (R36, R112, R113, R133). -/

namespace Sys2Proof.Machine
open Claims

/-! ### The duty pattern at a start -/

/-- Only the duty pattern and its sums differ, and no sector's count of enabled cycles. -/
structure Ramped (s t : State) : Prop where
  only : t = { s with duty := t.duty, power := t.power } := by rfl
  ecyc : ∀ p : SecIx, t.duty[p].ecyc = s.duty[p].ecyc := by exact fun _ => rfl

section Ramps
variable {s t u : State}

theorem Ramped.trans (a : Ramped s t) (b : Ramped t u) : Ramped s u where
  only := Eq.trans b.only (by rw [a.only])
  ecyc p := (b.ecyc p).trans (a.ecyc p)

theorem Ramped.cores (h : Ramped s t) : t.cores = s.cores := by rw [h.only]

theorem modDuty_ramped (s : State) (p : SecIx) {f : Duty → Duty} (hf : ∀ d, (f d).ecyc = d.ecyc) : Ramped s (modDuty s p f) where
  ecyc q := by
    by_cases h : q = p
    · subst h; rw [modDuty_same, hf]
    · rw [modDuty_other s f h]

theorem foldl_ramped {f : State → SecIx → State} (hf : ∀ u p, Ramped u (f u p)) (g : List SecIx) (s : State) : Ramped s (g.foldl f s) :=
  List.foldlRecOn g f {} fun u hu p _ => hu.trans (hf u p)

theorem fix_ecyc (d : Duty) (now lev : Nat) (cause : BitVec 3) (enabled : Bool) : (d.fix now lev cause enabled).ecyc = d.ecyc := rfl

theorem fixDuty_ramped (s : State) (g : List SecIx) : Ramped s (fixDuty s g) := by
  unfold fixDuty
  extract_lets l again old pw t
  have ht : Ramped s t := {}
  refine ht.trans (foldl_ramped (fun u p => ?_) g t)
  exact modDuty_ramped u p fun d => fix_ecyc d ..

theorem startRamp_ramped (s : State) (c : CoreIx) : Ramped s (startRamp s c) := by
  unfold startRamp
  dsimp only
  split
  · have h := foldl_ramped (f := fun u p => modDuty u p fun d => { d with rampFrom := some ((s.time.cycle + 31) / 32 * 32) })
      (fun u p => modDuty_ramped u p fun _ => rfl) (girthSegment s (sectorOf c)) s
    split
    · exact h.trans (fixDuty_ramped ..)
    · exact h
  · exact {}

end Ramps

/-! ### The start of a block (R133) -/

/-- A core whose pending launch `l` has started, at enabled cycle `n`. -/
def startedCore (l : Launch) (n : Nat) (x : Core) : Core :=
  { x with pend := none, blk := some (mkBlock l x.ctx[l.ctx] n), timed := { x.timed with digest := l.digest, blockCycles := 0 },
           ctx := x.ctx.map fun y => if y.st = .waiting && y.kind = .launch then { y with st := .ready } else y }

/-- What a start leaves of the other cores, and of the rest of the machine. -/
structure Starts (L : List CoreIx) (s t : State) : Prop where
  only : t = { s with cores := t.cores, duty := t.duty, power := t.power } := by rfl
  ecyc : ∀ p : SecIx, t.duty[p].ecyc = s.duty[p].ecyc := by exact fun _ => rfl
  others : ∀ d : CoreIx, d ∉ L → t.cores[d] = s.cores[d] := by exact fun _ _ => rfl

section Starts
variable {s t u : State} {c : CoreIx} {l : Launch} {L : List CoreIx}

theorem Starts.trans (a : Starts L s t) (b : Starts L t u) : Starts L s u where
  only := Eq.trans b.only (by rw [a.only])
  ecyc p := (b.ecyc p).trans (a.ecyc p)
  others d h := (b.others d h).trans (a.others d h)

theorem Starts.mono {M : List CoreIx} (h : Starts L s t) (hs : L ⊆ M) : Starts M s t :=
  { h with others := fun d hd => h.others d fun hm => hd (hs hm) }

theorem modCore_starts (s : State) (c : CoreIx) (f : Core → Core) : Starts [c] s (modCore s c f) where
  others d h := modCore_other s c f (by simpa using h)

theorem startBlock_eq (hp : s.cores[c].pend = some l) :
    startBlock s c = startRamp (modCore s c (startedCore l (ecyc s c))) c := by
  unfold startBlock
  rw [hp]
  rfl

theorem startBlock_core (hp : s.cores[c].pend = some l) : (startBlock s c).cores[c] = startedCore l (ecyc s c) s.cores[c] := by
  rw [startBlock_eq hp, (startRamp_ramped _ c).cores, modCore_core]

theorem startBlock_starts (s : State) (c : CoreIx) : Starts [c] s (startBlock s c) := by
  cases hp : s.cores[c].pend with
  | none =>
    unfold startBlock
    rw [hp]
    exact {}
  | some l =>
    rw [startBlock_eq hp]
    have hr := startRamp_ramped (modCore s c (startedCore l (ecyc s c))) c
    exact (modCore_starts s c _).trans
      { only := Eq.trans hr.only (by rw [hr.cores]), ecyc := hr.ecyc, others := fun d _ => by rw [hr.cores] }

/-- A started core, as R133 describes it. -/
theorem startedFrom_of_core {x : Core} (hx : x.ctx = s.cores[c].ctx) (h : t.cores[c] = startedCore l (ecyc s c) x) :
    StartedFrom s t c l := by
  unfold StartedFrom blockOf ctx
  rw [h, ← hx]
  exact ⟨rfl, _, rfl, rfl, rfl, rfl, rfl, rfl, rfl, rfl, rfl, rfl, rfl, rfl, rfl⟩

/-- A start that advances the core's Girth epoch (R45). -/
def startNext (s : State) (c : CoreIx) : State := startBlock (modCore s c fun x => { x with epoch := x.epoch + 1 }) c

theorem startNext_starts (s : State) (c : CoreIx) : Starts [c] s (startNext s c) :=
  (modCore_starts s c _).trans (startBlock_starts _ c)

theorem startNext_core (hp : s.cores[c].pend = some l) :
    (startNext s c).cores[c] = startedCore l (ecyc s c) { s.cores[c] with epoch := s.cores[c].epoch + 1 } := by
  have hc := modCore_core s c fun x => { x with epoch := x.epoch + 1 }
  have h : (modCore s c fun x => { x with epoch := x.epoch + 1 }).cores[c].pend = some l := by rw [hc]; exact hp
  rw [startNext, startBlock_core h, hc]
  rfl

theorem startAll_starts (s : State) (L : List CoreIx) : Starts L s (L.foldl startNext s) :=
  List.foldlRecOn L _ {} fun u hu d hd => hu.trans ((startNext_starts u d).mono (by simpa using hd))

/-- Each of several cores starts its own pending launch. -/
theorem startAll_core (hn : L.Nodup) (hc : c ∈ L) (hp : s.cores[c].pend = some l) :
    (L.foldl startNext s).cores[c] = startedCore l (ecyc s c) { s.cores[c] with epoch := s.cores[c].epoch + 1 } := by
  refine foldl_hits (before := fun u => u.cores[c] = s.cores[c] ∧ ecyc u c = ecyc s c)
    (after := fun u => u.cores[c] = startedCore l (ecyc s c) { s.cores[c] with epoch := s.cores[c].epoch + 1 })
    (fun u d hd h => ?skip) (fun u h => ?hit) (fun u d hd h => ?keep) L s hn hc ⟨rfl, rfl⟩
  case skip =>
    have hs := startNext_starts u d
    exact ⟨(hs.others c (by simpa using hd.symm)).trans h.1, (hs.ecyc _).trans h.2⟩
  case hit =>
    obtain ⟨hx, he⟩ := h
    rw [startNext_core (l := l) (by rw [hx]; exact hp), hx, he]
  case keep => exact ((startNext_starts u d).others c (by simpa using hd.symm)).trans h

theorem startAll_spec (hn : L.Nodup) (hc : c ∈ L) (hp : s.cores[c].pend = some l) :
    StartedFrom s (L.foldl startNext s) c l ∧ (L.foldl startNext s).cores[c].epoch = s.cores[c].epoch + 1 := by
  have h := startAll_core hn hc hp
  exact ⟨startedFrom_of_core (x := { s.cores[c] with epoch := s.cores[c].epoch + 1 }) rfl h, by rw [h]; rfl⟩

end Starts

/-! ### Launches that are discarded (R36, R113) -/

/-- An update that discards the pending launch and advances the epoch by `n`. -/
structure Discards (n : Nat) (f : Core → Core) : Prop where
  ctx : ∀ x, (f x).ctx = x.ctx := by exact fun _ => rfl
  pend : ∀ x, (f x).pend = none := by exact fun _ => rfl
  blk : ∀ x, (f x).blk = x.blk := by exact fun _ => rfl
  epoch : ∀ x, (f x).epoch = x.epoch + n := by exact fun _ => rfl

/-- The launch `l` of core `d` is discarded by `f` and its context faults. -/
def dropLaunch (f : Core → Core) (cause : Byte) (d : CoreIx) (l : Launch) (u : State) : State :=
  withFreeInfo (modCore u d f) fun i u => faultCtx d l.ctx cause i l.pc u

/-- The launch that core `d` had in `s`, if any, is discarded in `u`. -/
def dropAt (s : State) (f : Core → Core) (cause : Byte) (u : State) (d : CoreIx) : State :=
  match s.cores[d].pend with
  | none => u
  | some l => dropLaunch f cause d l u

section Drops
variable {s u : State} {f : Core → Core} {cause : Byte} {n : Nat} {c d : CoreIx} {l : Launch}

theorem dropLaunch_faults (f : Core → Core) (cause : Byte) (d : CoreIx) (l : Launch) (u : State) :
    Faults d l.ctx (modCore u d f) (dropLaunch f cause d l u) := (freeCtr_faults _).trans faultCtx_faults

/-- A discarded launch of one core leaves the others, but for a halt of their task. -/
theorem dropLaunch_other (h : c ≠ d) : CoreKept u.cores[c] (dropLaunch f cause d l u).cores[c] ∧
    ∀ j : CtxIx, Held (ctx u c j) (ctx (dropLaunch f cause d l u) c j) := by
  have hc : (modCore u d f).cores[c] = u.cores[c] := modCore_other u d f h
  have hF := dropLaunch_faults f cause d l u
  have ho (j : CtxIx) := hF.others c j (.inl h)
  unfold ctx at ho ⊢
  rw [hc] at ho
  exact ⟨hc ▸ hF.cores c, ho⟩

theorem dropAt_other (h : c ≠ d) : CoreKept u.cores[c] (dropAt s f cause u d).cores[c] ∧
    ∀ j : CtxIx, Held (ctx u c j) (ctx (dropAt s f cause u d) c j) := by
  unfold dropAt
  split
  · exact ⟨{}, fun _ => Held.refl _⟩
  · exact dropLaunch_other h

/-- What a discarded launch leaves of its core: the fault, no pending launch, the running block. -/
structure Dropped (cause : Byte) (j : CtxIx) (n : Nat) (x y : Core) : Prop where
  faulted : y.ctx[j].faulted = true
  cause : y.ctx[j].cause = cause
  pend : y.pend = none
  blk : y.blk = x.blk
  epoch : y.epoch = x.epoch + n

theorem dropLaunch_dropped (hf : Discards n f) (h : (ctx u d l.ctx).faulted = false) :
    Dropped cause l.ctx n u.cores[d] (dropLaunch f cause d l u).cores[d] := by
  have hc : (modCore u d f).cores[d] = f u.cores[d] := modCore_core u d f
  have hx : ctx (modCore u d f) d l.ctx = ctx u d l.ctx := modCore_keepsCtx u hf.ctx d l.ctx
  have hk := (dropLaunch_faults f cause d l u).cores d
  have hl : Latched _ (dropLaunch f cause d l u) d l.ctx cause l.pc :=
    (faultCtx_latched (s := { modCore u d f with freeCtr := (modCore u d f).freeCtr + 1 }) (hx ▸ h)).1
  rw [hc] at hk
  obtain ⟨hfa, hca, -⟩ := hl
  refine ⟨hfa, hca, ?_, by rw [hk.only]; exact hf.blk _, by rw [hk.only]; exact hf.epoch _⟩
  rcases hk.pend with h | h
  · exact h.trans (hf.pend _)
  · exact h

/-- Of several cores whose launches are discarded, each is left as `Dropped` says. -/
theorem dropAll_dropped (hf : Discards n f) {L : List CoreIx} (hn : L.Nodup) (hc : c ∈ L) (hp : s.cores[c].pend = some l)
    (h : (ctx u c l.ctx).faulted = false) : Dropped cause l.ctx n u.cores[c] (L.foldl (dropAt s f cause) u).cores[c] := by
  refine foldl_hits
    (before := fun t : State => t.cores[c].blk = u.cores[c].blk ∧ t.cores[c].epoch = u.cores[c].epoch ∧ (ctx t c l.ctx).faulted = false)
    (after := fun t : State => Dropped cause l.ctx n u.cores[c] t.cores[c])
    (fun t d hd hb => ?skip) (fun t hb => ?hit) (fun t d hd ha => ?keep) L u hn hc ⟨rfl, rfl, h⟩
  case skip =>
    obtain ⟨hblk, hep, hfa⟩ := hb
    obtain ⟨hk, hh⟩ := dropAt_other (s := s) (u := t) (f := f) (cause := cause) hd.symm
    exact ⟨by rw [hk.only]; exact hblk, by rw [hk.only]; exact hep, by rw [hh l.ctx]; exact hfa⟩
  case hit =>
    obtain ⟨hblk, hep, hfa⟩ := hb
    have hd : Dropped cause l.ctx n t.cores[c] (dropAt s f cause t c).cores[c] := by
      unfold dropAt
      rw [hp]
      exact dropLaunch_dropped hf hfa
    exact { hd with blk := hd.blk.trans hblk, epoch := hd.epoch.trans (by rw [hep]) }
  case keep =>
    obtain ⟨hk, hh⟩ := dropAt_other (s := s) (u := t) (f := f) (cause := cause) hd.symm
    have hx := hh l.ctx
    unfold ctx at hx
    refine ⟨by rw [hx]; exact ha.faulted, by rw [hx]; exact ha.cause, ?_, by rw [hk.only]; exact ha.blk, by rw [hk.only]; exact ha.epoch⟩
    rcases hk.pend with e | e
    · exact e.trans ha.pend
    · exact e

end Drops

/-! ### The three starts -/

section Launching
variable {s : State} {c : CoreIx} {l : Launch} {i : SlotIx}

theorem launchAllowed_of_runs (h : runs s c i = true) : launchAllowed s c = true := by
  obtain ⟨ht, hi⟩ := taskOn_of_runs h
  unfold launchAllowed
  rw [ht]
  exact hi

theorem segCores_of_runs (h : runs s c i = true) : segCores s c = s.tasks[i].segmentOf c := by
  unfold segCores
  rw [(taskOn_of_runs h).1]

theorem execLocalBlockStart_eq (hp : s.cores[c].pend = some l) (hl : l.form = .local_) (hd : l.issued + 4 ≤ s.time.cycle)
    (hb : blockOf s c = none) (hr : runs s c i = true) : execLocalBlockStart c s = .next (startBlock s c) := by
  unfold blockOf at hb
  unfold execLocalBlockStart
  rw [hp]
  simp only [hl, hd, hb, launchAllowed_of_runs hr, decide_true, Option.isNone_none, Bool.and_self, if_true]

theorem execSegmentArrival_eq (hp : s.cores[c].pend = some l) (hl : l.form = .seg) (ha : l.arrived = none) (hb : blockOf s c = none)
    (hr : runs s c i = true) : execSegmentArrival c s =
      .next (modCore s c fun x => { x with pend := some { l with arrived := some s.time.cycle } }) := by
  unfold blockOf at hb
  unfold execSegmentArrival
  rw [hp]
  simp only [hl, ha, hb, launchAllowed_of_runs hr, decide_true, Option.isNone_none, Bool.and_self, if_true]

/-- The launches of a segment agree in block and digest. -/
def agreed (s : State) (cs : List CoreIx) (l : Launch) : Bool := cs.all fun d => match s.cores[d].pend with
  | some m => m.blk == l.blk && m.digest == l.digest
  | none => false

theorem agreed_of_forall {cs : List CoreIx} (h : ∀ d ∈ cs, ∃ m, s.cores[d].pend = some m ∧ m.blk = l.blk ∧ m.digest = l.digest) :
    agreed s cs l = true := by
  refine List.all_eq_true.mpr fun d hd => ?_
  obtain ⟨m, hm, hb, hg⟩ := h d hd
  rw [hm]
  simp [hb, hg]

theorem not_agreed {cs : List CoreIx} {d : CoreIx} {m : Launch} (hd : d ∈ cs) (hm : s.cores[d].pend = some m)
    (h : m.blk ≠ l.blk ∨ m.digest ≠ l.digest) : agreed s cs l = false := by
  refine List.all_eq_false.mpr ⟨d, hd, ?_⟩
  rw [hm]
  rcases h with h | h <;> simp [h]

/-- A beat at least 32 cc after the last arrival is not before the start of the segment. -/
theorem segStartCycle_le {n : Nat} (hb : s.time.cycle % 32 = 0) (hn : n + 32 ≤ s.time.cycle) : segStartCycle n ≤ s.time.cycle := by
  unfold segStartCycle
  omega

theorem execSegmentLaunchStart_eq {n : Nat} {d : CoreIx} (hr : runs s c i = true) (hd : d ∈ s.tasks[i].segmentOf c)
    (hl : lastArrival s (s.tasks[i].segmentOf c) = some n) (hb : s.time.cycle % 32 = 0) (hn : n + 32 ≤ s.time.cycle)
    (hx : launchRefused s (s.tasks[i].segmentOf c) = false) (hp : s.cores[c].pend = some l) :
    execSegmentLaunchStart c s = .next (if agreed s (s.tasks[i].segmentOf c) l then (s.tasks[i].segmentOf c).foldl startNext s
      else (s.tasks[i].segmentOf c).foldl (dropAt s (fun x => { x with pend := none }) 0x0F) s) := by
  have he : (s.tasks[i].segmentOf c).isEmpty = false := List.isEmpty_eq_false_iff.mpr (List.ne_nil_of_mem hd)
  have hs := segStartCycle_le hb hn
  unfold execSegmentLaunchStart
  dsimp only
  rw [segCores_of_runs hr, he, hl, hp]
  simp only [atBeat, hb, hs, launchAllowed_of_runs hr, hx, BEq.rfl, decide_true, Bool.not_false, Bool.and_self, if_true]
  split
  next ha =>
    rw [if_pos (show agreed s _ l = true from ha)]
    rfl
  next ha =>
    rw [if_neg (show ¬ agreed s _ l = true from ha)]
    rfl

/-- The cores of a segment whose timed launch is due, and those of them that start. -/
def timedGo (s : State) (c : CoreIx) : List CoreIx :=
  ((segCores s c).filter (atDue s)).filter fun d => (launchAllowed s c && !launchRefused s (segCores s c)) && atStarts s d

def timedFail (s : State) (c : CoreIx) : List CoreIx :=
  ((segCores s c).filter (atDue s)).filter fun d => !((launchAllowed s c && !launchRefused s (segCores s c)) && atStarts s d)

theorem execTimedLaunchStart_eq (c : CoreIx) (s : State) : execTimedLaunchStart c s =
    .next ((timedFail s c).foldl (dropAt s (fun x => { x with epoch := x.epoch + 1, pend := none }) 0x10)
      ((timedGo s c).foldl startNext s)) := rfl

theorem atDue_of_beat (hp : s.cores[c].pend = some l) (hl : l.form = .at_) (hb : 32 * l.beat = s.time.cycle) : atDue s c = true := by
  unfold atDue
  rw [hp]
  simp [hl, hb]

theorem atStarts_of_beat (hp : s.cores[c].pend = some l) (hl : l.form = .at_) (hb : 32 * l.beat = s.time.cycle)
    (hi : blockOf s c = none) : atStarts s c = true := by
  unfold blockOf at hi
  unfold atStarts
  rw [hp, hi]
  simp [hl, hb]

theorem atStarts_of_busy {b : Block} (hi : blockOf s c = some b) : atStarts s c = false := by
  unfold blockOf at hi
  unfold atStarts
  rw [hi]
  rfl

/-- A core whose launch is due starts where it has no block and its beat has not passed. -/
theorem atStarts_of_due (hd : atDue s c = true) (hi : blockOf s c = none)
    (hm : ∀ m, s.cores[c].pend = some m → m.form = .at_ → s.time.cycle ≤ 32 * m.beat) : atStarts s c = true := by
  unfold atDue at hd
  cases hp : s.cores[c].pend with
  | none => rw [hp] at hd; cases hd
  | some m =>
    rw [hp] at hd
    simp only [Bool.and_eq_true, beq_iff_eq, decide_eq_true_eq] at hd
    exact atStarts_of_beat hp hd.1 (Nat.le_antisymm hd.2 (hm m hp hd.1)) hi

theorem timedGo_subset (s : State) (c : CoreIx) : timedGo s c ⊆ segCores s c :=
  List.Subset.trans (List.filter_subset_self _) (List.filter_subset_self _)

theorem timedGo_nodup (h : (segCores s c).Nodup) : (timedGo s c).Nodup := (h.filter _).filter _

/-- No launch fails where every core of the segment is free for a launch whose beat has not passed. -/
theorem timedFail_nil {cs : List CoreIx} (hs : segCores s c = cs) (ok : launchAllowed s c = true) (hx : launchRefused s cs = false)
    (hall : ∀ d ∈ cs, blockOf s d = none ∧ ∀ m, s.cores[d].pend = some m → m.form = .at_ → s.time.cycle ≤ 32 * m.beat) :
    timedFail s c = [] := by
  refine List.filter_eq_nil_iff.mpr fun d hd => ?_
  obtain ⟨hm, hdue⟩ := List.mem_filter.mp hd
  rw [hs] at hm ⊢
  obtain ⟨hi, hle⟩ := hall d hm
  simp [ok, hx, atStarts_of_due hdue hi hle]

end Launching
end Sys2Proof.Machine

open Sys2Proof Sys2Proof.Machine Sys2Proof.Claims

/-- Settles O14: starts by `startAll_spec`, discarded launches by `dropAll_dropped`. -/
theorem blockStart : Obligations.BlockStart := by
  unfold Obligations.BlockStart
  refine ⟨fun c l i s hp hl hd hb hr => ?local_, fun c l i s hp hl ha hb hr => ?arrival,
    fun c l i n s hr hc hn hl hb hd hx hp hall => ?segment, fun c l i s hr hc hn hx hp hl hb hall => ?timed,
    fun c d l m i n s hr hn hd hl hb ht hx hp hm hne => ?mismatch, fun c l b i s hr hc hn hp hl hb hblk hf => ?busy⟩
  case local_ =>
    have hs := startBlock_starts s c
    exact ⟨_, execLocalBlockStart_eq hp hl hd hb hr, startedFrom_of_core rfl (startBlock_core hp),
      fun d hne => hs.others d (by simpa using hne), hs.only⟩
  case arrival => exact ⟨_, execSegmentArrival_eq hp hl ha hb hr, by simp [modCore]⟩
  case segment =>
    refine ⟨_, execSegmentLaunchStart_eq hr hc hl hb hd hx hp, ?_⟩
    rw [if_pos (agreed_of_forall hall)]
    have hs := startAll_starts s (s.tasks[i].segmentOf c)
    exact ⟨fun d hm m hpm => startAll_spec hn hm hpm, hs.others, hs.only⟩
  case timed =>
    have hseg := segCores_of_runs hr
    generalize s.tasks[i].segmentOf c = cs at *
    have ok := launchAllowed_of_runs hr
    have hfail := timedFail_nil hseg ok hx hall
    have hs := (startAll_starts s (timedGo s c)).mono (hseg ▸ timedGo_subset s c)
    have hgo : c ∈ timedGo s c := by
      simp [timedGo, hseg, hc, hx, ok, atDue_of_beat hp hl hb, atStarts_of_beat hp hl hb (hall c hc).1]
    have hst := startAll_spec (timedGo_nodup (hseg ▸ hn)) hgo hp
    refine ⟨_, execTimedLaunchStart_eq c s, ?_⟩
    rw [hfail]
    exact ⟨hst.1, hst.2, hs.others, hs.only⟩
  case mismatch =>
    refine ⟨_, execSegmentLaunchStart_eq hr hd hl hb ht hx hp, fun x hxm y hy hfa => ?_⟩
    rw [not_agreed hd hm hne, if_neg Bool.false_ne_true]
    have h := dropAll_dropped (cause := 0x0F) (f := fun x => { x with pend := none }) (n := 0) { epoch := fun x => by simp } hn hxm hy hfa
    exact ⟨h.faulted, h.cause, h.epoch.trans (by simp), h.pend, h.blk⟩
  case busy =>
    have hseg := segCores_of_runs hr
    generalize s.tasks[i].segmentOf c = cs at *
    have hgo : c ∉ timedGo s c := by simp [timedGo, atStarts_of_busy hblk]
    have hfail : c ∈ timedFail s c := by simp [timedFail, hseg, hc, atDue_of_beat hp hl hb, atStarts_of_busy hblk]
    have hnd : (timedFail s c).Nodup := ((hseg ▸ hn).filter _).filter _
    have hcore := (startAll_starts s (timedGo s c)).others c hgo
    have h := dropAll_dropped (cause := 0x10) (f := fun x => { x with epoch := x.epoch + 1, pend := none }) (n := 1)
      (u := (timedGo s c).foldl startNext s) { epoch := fun x => by simp } hnd hfail hp (by unfold ctx; rw [hcore]; exact hf)
    rw [hcore] at h
    exact ⟨_, execTimedLaunchStart_eq c s, h.faulted, h.cause, h.pend, h.blk.trans hblk, h.epoch.trans (by simp)⟩
end

section
/-! PROOF. The end of a timed block and the duty pattern (R114, R164, R362, R371). -/

namespace Sys2Proof.Machine
open Claims

/-! ### A sector's Girth segment (R47) -/

/-- Where a predicate holds up to `k`, the run of the first indices that satisfy it is as long. -/
theorem le_length_takeWhile_range {P : Nat → Bool} {k m : Nat} (hk : k ≤ m) (h : ∀ i < k, P i = true) :
    k ≤ ((List.range m).takeWhile P).length := by
  obtain ⟨d, rfl⟩ := Nat.exists_eq_add_of_le hk
  rw [List.range_add, List.takeWhile_append_of_pos fun a ha => h a (List.mem_range.mp ha), List.length_append, List.length_range]
  omega

theorem of_lt_length_takeWhile_range {P : Nat → Bool} {i m : Nat} (h : i < ((List.range m).takeWhile P).length) : P i = true := by
  have hm := List.mem_takeWhile_imp (List.getElem_mem h)
  have hp := (List.takeWhile_prefix (l := List.range m) P).getElem h
  rwa [hp, List.getElem_range] at hm

theorem length_takeWhile_range_le (P : Nat → Bool) (m : Nat) : ((List.range m).takeWhile P).length ≤ m := by
  have h := (List.takeWhile_prefix (l := List.range m) P).length_le
  rwa [List.length_range] at h

/-- A sector lies in its own segment. -/
theorem mem_girthSegment (s : State) (p : SecIx) : p ∈ girthSegment s p := by
  unfold girthSegment
  dsimp only
  set k := ((List.range 11).takeWhile fun i => !bit s.buckle ((p.val + 23 - i) % 12)).length with hk
  have hk11 : k ≤ 11 := length_takeWhile_range_le _ 11
  have hopen (j : Nat) (hj : j < k) : (!bit s.buckle ((p.val + 23 - j) % 12)) = true :=
    of_lt_length_takeWhile_range (P := fun i => !bit s.buckle ((p.val + 23 - i) % 12)) (hk ▸ hj)
  have hn := le_length_takeWhile_range (P := fun i => !bit s.buckle ((p.val + 12 - k + i) % 12)) hk11 fun i hi => by
    have h := hopen (k - 1 - i) (by omega)
    rwa [show (p.val + 23 - (k - 1 - i)) % 12 = (p.val + 12 - k + i) % 12 by omega] at h
  have hlt : k < 1 + ((List.range 11).takeWhile fun i => !bit s.buckle ((p.val + 12 - k + i) % 12)).length := by omega
  exact List.mem_map.mpr ⟨k, List.mem_range.mpr hlt, Fin.ext (by simp only; omega)⟩

/-! ### The level of a beat (R362, R363) -/

/-- No limit raises the level. -/
theorem dutyLevel_le (ls : List (Nat × BitVec 3)) : (dutyLevel ls).1 ≤ 16 :=
  List.foldlRecOn (motive := fun a : Nat × BitVec 3 => a.1 ≤ 16) ls _ (Nat.le_refl 16) fun a ha l _ => by
    split
    · omega
    · exact ha

theorem patternSlot_lt (s : State) : patternSlot s < 16 := by
  unfold patternSlot
  omega

theorem slotEnabled_pattern (s : State) (d : Nat) :
    slotEnabled (patternSlot s) d = decide (patternSlot s * d / 16 < (patternSlot s + 1) * d / 16) := by
  rw [slotEnabled, Nat.mod_eq_of_lt (patternSlot_lt s)]

/-- The beat and its pattern slot are those of `s`. -/
def SamePattern (s u : State) : Prop := u.time = s.time ∧ u.power.ftStep = s.power.ftStep ∧ u.power.coreStep = s.power.coreStep

theorem SamePattern.beatNow {s u : State} (h : SamePattern s u) : beatNow u = beatNow s := by
  obtain ⟨ht, -, -⟩ := h
  rw [Machine.beatNow, ht, Machine.beatNow]

theorem SamePattern.patternSlot {s u : State} (h : SamePattern s u) : patternSlot u = patternSlot s := by
  rw [Machine.patternSlot, h.beatNow, h.1, h.2.1, h.2.2, Machine.patternSlot]

/-- A sector with the level `v` fixed for the current beat of `s`. -/
def LevelFixed (s : State) (v : Nat) (d : Duty) : Prop := d.dEff = v ∧ d.beat = beatNow s ∧ d.enabled = slotEnabled (patternSlot s) v

theorem fix_levelFixed (s : State) (d : Duty) (v : Nat) (cause : BitVec 3) :
    LevelFixed s v (d.fix (beatNow s) v cause (slotEnabled (patternSlot s) v)) := ⟨rfl, rfl, rfl⟩

/-- The level fixed for a segment: every sector has it. -/
theorem fixDuty_fixed (s : State) {g : List SecIx} {q : SecIx} (h : q ∈ g) :
    LevelFixed s (dutyLevel (dutyLimits s g)).1 (fixDuty s g).duty[q] := by
  unfold fixDuty
  extract_lets l again old pw t
  have ht : SamePattern s t := by
    unfold SamePattern t pw
    split <;> exact ⟨rfl, rfl, rfl⟩
  have hit (u : State) (hu : SamePattern s u) : LevelFixed s l.1
      (modDuty u q fun d => d.fix (beatNow u) l.1 l.2 (slotEnabled (patternSlot u) l.1)).duty[q] := by
    rw [modDuty_same, hu.beatNow, hu.patternSlot]
    exact fix_levelFixed ..
  refine foldl_sets (p := fun p => p = q) (P := fun u => SamePattern s u → LevelFixed s l.1 u.duty[q]) (fun u p hp hu => ?hit)
    (fun u p ih hu => ?keep) g t ⟨q, h, rfl⟩ ?_
  case hit => subst hp; exact hit u hu
  case keep =>
    by_cases hp : q = p
    · subst hp; exact hit u hu
    · rw [modDuty_other u _ hp]
      exact ih hu
  exact List.foldlRecOn (motive := SamePattern s) g _ ht fun u hu p _ => hu

theorem fixDuty_only (s : State) (g : List SecIx) : fixDuty s g = { s with duty := (fixDuty s g).duty, power := (fixDuty s g).power } :=
  (fixDuty_ramped s g).only

/-- Ramps that have ended are cleared before the level is fixed (R371). -/
def endRamps (s : State) (g : List SecIx) : State := g.foldl (fun s p => modDuty s p fun d =>
  if rampEnded s d then { d with rampFrom := none, rested := false, quietFrom := s.time.cycle } else d) s

theorem endRamps_only (s : State) (g : List SecIx) : OnlyDuty s (endRamps s g) :=
  List.foldlRecOn g _ (OnlyDuty.refl s) fun u hu p _ => hu.trans (modDuty_only u p _)

theorem execDutyBeat_eq {s : State} {p : SecIx} (hb : s.time.cycle % 32 = 0) (hd : s.duty[p].beat ≠ s.time.cycle / 32)
    (hs : s.power.shutdown = false) (hw : windowDue s = false) :
    execDutyBeat p s = .next (fixDuty (endRamps s (girthSegment s p)) (girthSegment s p)) := by
  have ho : dutyOutstanding s p = true := by simp [dutyOutstanding, atBeat, hs, hb, beatNow, -Fin.getElem_fin, hd]
  unfold execDutyBeat
  rw [ho, hw]
  rfl

theorem dutyBeat_spec (s : State) (p : SecIx) : let t := fixDuty (endRamps s (girthSegment s p)) (girthSegment s p)
    t.duty[p].beat = s.time.cycle / 32 ∧
      t.duty[p].enabled = decide (patternSlot s * t.duty[p].dEff / 16 < (patternSlot s + 1) * t.duty[p].dEff / 16) ∧
      t.duty[p].dEff ≤ 16 ∧ (∀ q ∈ girthSegment s p, t.duty[q].dEff = t.duty[p].dEff ∧ t.duty[q].beat = s.time.cycle / 32) ∧
      t = { s with duty := t.duty, power := t.power } := by
  have hr := endRamps_only s (girthSegment s p)
  have hp : SamePattern s (endRamps s (girthSegment s p)) := by rw [SamePattern, hr]; exact ⟨rfl, rfl, rfl⟩
  have hf (q : SecIx) (hq : q ∈ girthSegment s p) := fixDuty_fixed (endRamps s (girthSegment s p)) hq
  simp only [LevelFixed, hp.beatNow, hp.patternSlot] at hf
  obtain ⟨hl, hbeat, hen⟩ := hf p (mem_girthSegment s p)
  refine ⟨hbeat, by rw [hen, hl, slotEnabled_pattern], by rw [hl]; exact dutyLevel_le _, fun q hq => ?_, ?_⟩
  · exact ⟨(hf q hq).1.trans hl.symm, (hf q hq).2.1⟩
  · exact Eq.trans (fixDuty_only ..) (by rw [hr])

/-! ### Rest (R371) -/

theorem execSegmentRest_eq {s : State} {p : SecIx}
    (h : ∀ q ∈ girthSegment s p, s.duty[q].rampFrom = none ∧ s.duty[q].rested = false ∧ s.duty[q].quietFrom + ccOf s 5000 ≤ s.time.cycle) :
    execSegmentRest p s = .next ((girthSegment s p).foldl (fun s p => modDuty s p fun d => { d with rested := true }) s) := by
  have hd : restDue s p = true := List.all_eq_true.mpr fun q hq => by
    obtain ⟨h1, h2, h3⟩ := h q hq
    simp [-Fin.getElem_fin, h1, h2, h3]
  rw [execSegmentRest, if_pos hd]

theorem rested_spec (s : State) (g : List SecIx) : let t := g.foldl (fun s p => modDuty s p fun d => { d with rested := true }) s
    (∀ q ∈ g, t.duty[q].rested = true) ∧ OnlyDuty s t := by
  refine ⟨fun q hq => ?_, List.foldlRecOn g _ (OnlyDuty.refl s) fun u hu p _ => hu.trans (modDuty_only u p _)⟩
  refine foldl_sets (p := fun p => p = q) (P := fun u : State => u.duty[q].rested = true) (fun u p hp => ?hit) (fun u p ih => ?keep) g s
    ⟨q, hq, rfl⟩
  case hit => subst hp; rw [modDuty_same]
  case keep =>
    by_cases hp : q = p
    · subst hp; rw [modDuty_same]
    · rw [modDuty_other u _ hp]
      exact ih

/-! ### The end of a block (R114, R164) -/

/-- The state a block that is over leaves. -/
def blockEnded (c : CoreIx) (b : Block) (s : State) : State :=
  signalOwn (modCore { s with freeCtr := s.freeCtr + 1 } c fun x =>
    { (x.modCtx b.ctx fun y =>
        { y with sctr := b.sctr, vflags := y.vflags ||| b.flags
                 vflagsAt := if b.flags = 0 then y.vflagsAt else (s.time.cycle + 1, b.flags) }) with
      blk := none, faultsDue := x.faultsDue ++ (blockFaults s c b).map fun f => (b.ctx, f.1, f.2, b.pc) }) c b.ctr 1 1 7 b.ctx b.pc

theorem execBlockComplete_eq {s : State} {c : CoreIx} {b : Block} {n : Nat} (hb : blockNow s c = some (b, n))
    (ho : blockOver s c b n = true) : execBlockComplete c s = .next (blockEnded c b s) := by
  unfold execBlockComplete
  rw [hb]
  dsimp only
  rw [if_pos ho]
  rfl

theorem blockEnded_spec (s : State) (c : CoreIx) (b : Block) : let t := blockEnded c b s
    blockOf t c = none ∧ (ctx t c b.ctx).sctr = b.sctr ∧ (ctx t c b.ctx).vflags = (ctx s c b.ctx).vflags ||| b.flags ∧
      (∃ i, t.incs = s.incs ++ [i] ∧ i.core = c ∧ i.ctr = b.ctr ∧ i.n = 1 ∧ i.due = s.time.cycle + 1) ∧
      t = { s with cores := t.cores, incs := t.incs, freeCtr := t.freeCtr } ∧ ∀ d, d ≠ c → t.cores[d] = s.cores[d] := by
  refine ⟨?_, ?_, ?_, ⟨_, rfl, rfl, rfl, rfl, rfl⟩, rfl, fun d hd => ?_⟩
  all_goals
    unfold blockEnded
    simp only [blockOf, ctx, signalOwn, pushInc, modCore_core]
  · exact congrArg Ctx.sctr (Core.modCtx_same _ _)
  · exact congrArg Ctx.vflags (Core.modCtx_same _ _)
  · exact modCore_other _ c _ hd

end Sys2Proof.Machine

open Sys2Proof Sys2Proof.Machine Sys2Proof.Claims

/-- Settles O15: the end of a block, the level of a beat, and the rest of a segment. -/
theorem blockEndAndDuty : Obligations.BlockEndAndDuty := by
  unfold Obligations.BlockEndAndDuty
  exact ⟨fun c b n s hb ho => ⟨_, execBlockComplete_eq hb ho, blockEnded_spec s c b⟩,
    fun p s hb hd hs hw => ⟨_, execDutyBeat_eq hb hd hs hw, dutyBeat_spec s p⟩,
    fun p s h => ⟨_, execSegmentRest_eq h, rested_spec s (girthSegment s p)⟩⟩
end

section
/-! PROOF. LD and ST, and the background reads of a scratchpad bank (R107, R108, R172). -/

namespace Sys2Proof.Machine
open Claims

/-! ### Tables and numbers -/

/-- A value other than the default reads as it was written, whatever the table. -/
theorem tget_tset_of_ne {α : Type} [DecidableEq α] {d : α} (t : Tbl α) (k : Nat) {v : α} (hv : v ≠ d) : tget d (tset d t k v) k = v := by
  induction t with
  | nil => simp [tset, tget, hv]
  | cons p r ih =>
    simp only [tset, hv, if_false]
    by_cases hlt : k < p.1
    · simp [hlt, tget]
    · by_cases he : k = p.1
      · simp [he, tget]
      · simp only [hlt, he, if_false, tget, Ne.symm he]
        exact ih

theorem length_natLe (n v : Nat) : (natLe n v).length = n := by
  induction n generalizing v with
  | zero => rfl
  | succ n ih => simp [natLe, ih]

theorem leNat_natLe (n v : Nat) : leNat (natLe n v) = v % 256 ^ n := by
  induction n generalizing v with
  | zero => simp [natLe, leNat, Nat.mod_one]
  | succ n ih =>
    rw [natLe, leNat, ih, BitVec.toNat_ofNat, show 256 ^ (n + 1) = 256 * 256 ^ n from Nat.pow_succ', Nat.mod_mul]

/-! ### Bank reads (R172) -/

/-- A read of core `c`'s scratchpad: its bytes, queued stores and everything outside the counts, corrections, poison marks and bank
uses are as they were. -/
structure SpRead (c : CoreIx) (s t : State) : Prop where
  only : t = { s with cores := t.cores, recorder := t.recorder, freeCtr := t.freeCtr } := by rfl
  core : t.cores[c] = { s.cores[c] with sp := { s.cores[c].sp with
    uses := t.cores[c].sp.uses, corrCount := t.cores[c].sp.corrCount, corrections := t.cores[c].sp.corrections
    uncorrCount := t.cores[c].sp.uncorrCount, poison := t.cores[c].sp.poison } } := by rfl
  others : ∀ d : CoreIx, d ≠ c → t.cores[d] = s.cores[d] := by exact fun _ _ => rfl

/-- A read that finds no uncorrectable error. -/
structure SpClean (c : CoreIx) (s t : State) : Prop extends SpRead c s t where
  poison : t.cores[c].sp.poison = s.cores[c].sp.poison := by rfl
  recorder : t.recorder = s.recorder := by rfl
  freeCtr : t.freeCtr = s.freeCtr := by rfl

section Reads
variable {c : CoreIx} {s t u : State}

theorem SpRead.trans (a : SpRead c s t) (b : SpRead c t u) : SpRead c s u where
  only := Eq.trans b.only (by rw [a.only])
  core := Eq.trans b.core (by rw [a.core])
  others d h := (b.others d h).trans (a.others d h)

theorem SpClean.trans (a : SpClean c s t) (b : SpClean c t u) : SpClean c s u where
  toSpRead := a.toSpRead.trans b.toSpRead
  poison := b.poison.trans a.poison
  recorder := b.recorder.trans a.recorder
  freeCtr := b.freeCtr.trans a.freeCtr

theorem SpRead.mem (h : SpRead c s t) : t.cores[c].sp.mem = s.cores[c].sp.mem := by rw [h.core]

theorem SpRead.ctx (h : SpRead c s t) (d : CoreIx) (j : CtxIx) : ctx t d j = ctx s d j := by
  unfold Claims.ctx
  by_cases hd : d = c
  · subst hd; rw [h.core]
  · rw [h.others d hd]

theorem SpRead.time (h : SpRead c s t) : t.time = s.time := by rw [h.only]
theorem SpRead.dram (h : SpRead c s t) : t.dram = s.dram := by rw [h.only]

theorem SpClean.poisoned (h : SpClean c s t) (a n : Nat) : spPoisoned t.cores[c] a n = spPoisoned s.cores[c] a n := by
  rw [spPoisoned, h.poison, spPoisoned]

/-- An update of the scratchpad that keeps the bytes, the stores and the rest. -/
theorem modSp_read (s : State) (c : CoreIx) {f : Scratchpad → Scratchpad}
    (hf : ∀ p, f p = { p with uses := (f p).uses, corrCount := (f p).corrCount, corrections := (f p).corrections
                              uncorrCount := (f p).uncorrCount, poison := (f p).poison }) :
    SpRead c s (modCore s c fun x => x.modSp f) where
  core := by
    rw [modCore_core]
    exact congrArg (fun p => { s.cores[c] with sp := p }) (hf s.cores[c].sp)
  others d h := modCore_other s c _ h

theorem modSp_clean (s : State) (c : CoreIx) {f : Scratchpad → Scratchpad}
    (hf : ∀ p, f p = { p with uses := (f p).uses, corrCount := (f p).corrCount, corrections := (f p).corrections }) :
    SpClean c s (modCore s c fun x => x.modSp f) where
  toSpRead := modSp_read s c fun p => by rw [hf p]
  poison := by
    have h := congrArg Scratchpad.poison (hf s.cores[c].sp)
    rw [modCore_core]
    exact h

theorem takeBanks_clean (s : State) (c : CoreIx) (a n : Nat) : SpClean c s (takeBanks s c a n) := modSp_clean s c fun _ => rfl

theorem foundCorrected_clean (s : State) (c : CoreIx) (a : Nat) : SpClean c s (foundCorrected c a s) := modSp_clean s c fun _ => rfl

theorem foundUncorrectable_read (s : State) (c : CoreIx) (agent a : Nat) : SpRead c s (foundUncorrectable c agent a s) :=
  (modSp_read s c (f := fun p => { p with uncorrCount := satInc p.uncorrCount, poison := tset false p.poison (a / 64) true })
    fun _ => rfl).trans {}

theorem backgroundEcc_clean (s : State) (c : CoreIx) (a : Nat) {e : Ecc} (he : e ≠ .uncorrectable) :
    SpClean c s (backgroundEcc c a e s) := by
  cases e with
  | clean => exact {}
  | corrected => exact foundCorrected_clean s c a
  | uncorrectable => exact absurd rfl he

theorem backgroundEcc_read (s : State) (c : CoreIx) (a : Nat) (e : Ecc) : SpRead c s (backgroundEcc c a e s) := by
  cases e with
  | clean => exact {}
  | corrected => exact (foundCorrected_clean s c a).toSpRead
  | uncorrectable =>
    have h : SpRead c s { s with freeCtr := s.freeCtr + 1 } := {}
    exact h.trans (foundUncorrectable_read ..)

/-- A word of the range with an uncorrectable error poisons its granule. -/
theorem backgroundEcc_poisons (s : State) (c : CoreIx) (a n : Nat) (hn : 0 < n) :
    spPoisoned (backgroundEcc c a .uncorrectable s).cores[c] a n = true := by
  have hg : a / 64 ∈ granules a n := List.mem_map.mpr ⟨0, List.mem_range.mpr (by omega), by simp⟩
  refine List.any_eq_true.mpr ⟨a / 64, hg, ?_⟩
  have hc : (backgroundEcc c a .uncorrectable s).cores[c].sp.poison = tset false s.cores[c].sp.poison (a / 64) true := by
    rw [backgroundEcc, foundUncorrectable, record_cores, modCore_core]
    rfl
  rw [hc]
  exact tget_tset_of_ne _ _ (by decide)

/-- Finds without an uncorrectable error. -/
theorem backgroundFinds_clean (s : State) (c : CoreIx) (a n : Nat) {found : Finds} (hf : ∀ q ∈ found, q.2 ≠ .uncorrectable) :
    SpClean c s (backgroundFinds c a n found s) :=
  List.foldlRecOn found _ {} fun u hu q hq => by
    split
    · exact hu.trans (backgroundEcc_clean u c q.1 (hf q hq))
    · exact hu

end Reads

/-! ### LD and ST (R107, R108) -/

section Access
variable {s : State} {c : CoreIx} {k : CtxIx} {ad : AReg} {imm : W16} {f : Nat → State → State}

theorem lsAddr_eq_accessAt : lsAddr s c k ad imm = accessAt s c k ad imm := rfl

theorem checkedAccess_good (h : accessGood s c k ad imm) :
    checkedAccess c k ad imm s f = f (accessAt s c k ad imm).toNat s := by
  obtain ⟨halign, hpos, hheld⟩ := h
  rw [checkedAccess, lsAddr_eq_accessAt]
  simp [halign, hheld, Int.not_lt.mpr hpos]

/-- A bad address faults: ALIGN or ADDRESS. -/
theorem checkedAccess_bad (h : ¬ accessGood s c k ad imm) : checkedAccess c k ad imm s f =
    withFreeInfo s fun i u => retireFault c k (if accessAt s c k ad imm % 8 = 0 then 0x03 else 0x02) i u := by
  rw [checkedAccess, lsAddr_eq_accessAt]
  by_cases halign : accessAt s c k ad imm % 8 = 0
  · have hb : (decide (accessAt s c k ad imm < 0) || !spHeld s c (accessAt s c k ad imm).toNat 8) = true := by
      by_contra hc
      rw [Bool.not_eq_true, Bool.or_eq_false_iff, decide_eq_false_iff_not, Bool.not_eq_false'] at hc
      exact h ⟨halign, Int.not_lt.mp hc.1, hc.2⟩
    rw [if_neg (not_not.mpr halign), if_pos hb, if_pos halign]
  · rw [if_pos halign, if_neg halign]

theorem checkedAccess_bad_spec (h : ¬ accessGood s c k ad imm) (hf : (ctx s c k).faulted = false) :
    FaultFrame s (checkedAccess c k ad imm s f) ∧
      Latched s (checkedAccess c k ad imm s f) c k (if accessAt s c k ad imm % 8 = 0 then 0x03 else 0x02) (ctx s c k).pc := by
  rw [checkedAccess_bad h]
  exact retireFault_freeInfo_spec hf

/-- An ST joins the store queue. -/
def withStore (s : State) (c : CoreIx) (a : Nat) (bs : List Byte) : State :=
  { s with cores := s.cores.set c { s.cores[c] with sp := { s.cores[c].sp with
      stores := s.cores[c].sp.stores ++ [{ addr := a, bytes := bs, poison := false, agent := 8, issued := s.time.cycle, part := 0 }] } } }

theorem withStore_issued (a : Nat) (bs : List Byte) : Issued (withStore s c a bs) (retire c k (withStore s c a bs)) c k
    { ctx s c k with pc := (ctx s c k).pc + 1 } := by
  have h := retire_passed (withStore s c a bs) c k
  have hc : ctx (withStore s c a bs) c k = ctx s c k := by simp [ctx, withStore]
  rwa [passed, hc] at h

/-- The machine once the bank of a waiting LD has been read. -/
def ldRead (c : CoreIx) (k : CtxIx) (found : Ecc) (l : LdPend) (s : State) : State :=
  backgroundEcc c l.addr found (takeBanks (modCtx s c k fun y => { y with lds := y.lds.erase l }) c l.addr 8)

theorem execLdBankRead_eq {l : LdPend} (found : Ecc) (h : ldDue s c k = some l) : execLdBankRead c k found s = .next
    (if spPoisoned (ldRead c k found l s).cores[c] l.addr 8 then
      withFreeInfo (modCtx (ldRead c k found l s) c k fun y => { y with ready := y.ready.set l.rd (ldRead c k found l s).time.cycle })
        fun i s => faultCtx c k 0x04 i l.pc s
    else modCtx (ldRead c k found l s) c k fun y => y.sset l.rd
      (BitVec.ofNat 64 (leNat (readBytes (ldRead c k found l s).cores[c].sp.mem l.addr 8))) ((ldRead c k found l s).time.cycle + 6)) := by
  unfold execLdBankRead
  rw [h]
  dsimp only
  split
  next hp => rw [if_pos (show spPoisoned (ldRead c k found l s).cores[c] l.addr 8 = true from hp)]; rfl
  next hp => rw [if_neg (show ¬ spPoisoned (ldRead c k found l s).cores[c] l.addr 8 = true from hp)]; rfl

variable (s c k)

/-- What the bank read of an LD leaves before its result or fault. -/
structure LdRead (l : LdPend) (t : State) : Prop where
  ctx : ctx t c k = { ctx s c k with lds := (ctx s c k).lds.erase l }
  mem : t.cores[c].sp.mem = s.cores[c].sp.mem
  dram : t.dram = s.dram
  time : t.time = s.time

theorem ldRead_spec (found : Ecc) (l : LdPend) : LdRead s c k l (ldRead c k found l s) := by
  have hr : SpRead c (modCtx s c k fun y => { y with lds := y.lds.erase l }) (ldRead c k found l s) :=
    (takeBanks_clean _ c l.addr 8).toSpRead.trans (backgroundEcc_read ..)
  refine ⟨(hr.ctx c k).trans (modCtx_ctx ..), hr.mem.trans ?_, hr.dram, hr.time⟩
  rw [modCtx, modCore_core]
  rfl

/-- The granules of an LD are poisoned after its read where they were before, or where the read finds an uncorrectable error. -/
theorem ldRead_poisoned (found : Ecc) (l : LdPend) : spPoisoned (ldRead c k found l s).cores[c] l.addr 8 =
    (decide (found = .uncorrectable) || spPoisoned s.cores[c] l.addr 8) := by
  by_cases hu : found = .uncorrectable
  · subst hu
    rw [ldRead, backgroundEcc_poisons _ _ _ _ (by decide)]
    rfl
  · have hc : SpClean c (modCtx s c k fun y => { y with lds := y.lds.erase l }) (ldRead c k found l s) :=
      (takeBanks_clean _ c l.addr 8).trans (backgroundEcc_clean _ _ _ hu)
    rw [hc.poisoned, modCtx, modCore_core, decide_eq_false hu]
    rfl

variable {s c k}

/-- What a scalar write leaves in a context: the register alone. -/
theorem sset_spec (y : Ctx) (r : SReg) (v : W64) (n : Nat) : (y.sset r v n).sget r = (if r.val = 0 then 0 else v) ∧
    (r.val ≠ 0 → (y.sset r v n).ready[r] = n) ∧ (y.sset r v n).faulted = y.faulted ∧
      ∀ q : SReg, q ≠ r → (y.sset r v n).s[q] = y.s[q] := by
  by_cases h0 : r.val = 0
  · refine ⟨by simp [Ctx.sget, h0], fun h => absurd h0 h, ?_, fun _ _ => ?_⟩ <;> rw [sset_zero _ _ _ h0]
  · refine ⟨by rw [sget_sset_same _ _ _ h0, if_neg h0], fun _ => by simp [Ctx.sset, h0], by simp [Ctx.sset, h0], fun q hq => ?_⟩
    have hv : r.val ≠ q.val := fun e => hq (Fin.ext e.symm)
    simp [Ctx.sset, h0, hv]

/-- A result of an LD. -/
theorem ldResult_spec {u : State} {l : LdPend} (hu : LdRead s c k l u) (hf : (ctx s c k).faulted = false) (v : W64) :
    let t := modCtx u c k fun y => y.sset l.rd v (u.time.cycle + 6)
    (ctx t c k).sget l.rd = (if l.rd.val = 0 then 0 else v) ∧
      (l.rd.val ≠ 0 → (ctx t c k).ready[l.rd] = s.time.cycle + 6) ∧
      (ctx t c k).faulted = false ∧ (∀ r : SReg, r ≠ l.rd → (ctx t c k).s[r] = (ctx s c k).s[r]) := by
  obtain ⟨hg, hr, hfa, hs⟩ := sset_spec { ctx s c k with lds := (ctx s c k).lds.erase l } l.rd v (s.time.cycle + 6)
  intro t
  have ht : ctx t c k = _ := ctx_modCtx u c k _
  rw [hu.ctx, hu.time] at ht
  rw [ht]
  exact ⟨hg, hr, hfa.trans hf, hs⟩

/-- A fault with a free information word, of a context that held none: what is latched, and what stays. -/
theorem freeFault_spec (s : State) (cause : Byte) (pc : BitVec 13) (hf : (ctx s c k).faulted = false) :
    let t := withFreeInfo s fun i s => faultCtx c k cause i pc s
    Faults c k s t ∧ Latched s t c k cause pc :=
  ⟨(freeCtr_faults _).trans faultCtx_faults, (faultCtx_latched (s := { s with freeCtr := s.freeCtr + 1 }) hf).1⟩

/-- An LD from a poisoned granule faults at its own PC. -/
theorem ldPoison_spec {u : State} {l : LdPend} (hu : LdRead s c k l u) (hf : (ctx s c k).faulted = false) :
    let t := withFreeInfo (modCtx u c k fun y => { y with ready := y.ready.set l.rd u.time.cycle }) fun i s => faultCtx c k 0x04 i l.pc s
    t.cores[c].sp.mem = s.cores[c].sp.mem ∧ t.dram = s.dram ∧ (ctx t c k).faulted = true ∧ (ctx t c k).cause = 0x04 ∧
      (ctx t c k).faultPc = l.pc ∧ ∀ r : SReg, r.val < 30 → (ctx t c k).s[r] = (ctx s c k).s[r] := by
  have hm : Faults c k u (modCtx u c k fun y => { y with ready := y.ready.set l.rd u.time.cycle }) := modCtx_faults {}
  have hfu : (ctx (modCtx u c k fun y => { y with ready := y.ready.set l.rd u.time.cycle }) c k).faulted = false := by
    rw [ctx_modCtx, hu.ctx]
    exact hf
  generalize modCtx u c k (fun y => { y with ready := y.ready.set l.rd u.time.cycle }) = v at *
  obtain ⟨hF, hfa, hca, hpc, -⟩ := freeFault_spec v 0x04 l.pc hfu
  have hall := hm.trans hF
  have hregs := ((hall.cores c).regs k).s
  have hsp := (hall.cores c).only
  have hs : ∀ r : SReg, (ctx u c k).s[r] = (ctx s c k).s[r] := fun r => by rw [hu.ctx]
  exact ⟨by rw [hsp]; exact hu.mem, hall.dram.trans hu.dram, hfa, hca, hpc, fun r hr => (hregs r hr).trans (hs r)⟩

end Access
end Sys2Proof.Machine

open Sys2Proof Sys2Proof.Machine Sys2Proof.Claims

/-- Settles O5: accesses by the cases of `checkedAccess`, the bank read by what `ldRead` leaves. -/
theorem loadsAndStores : Obligations.LoadsAndStores := by
  unfold Obligations.LoadsAndStores
  refine ⟨fun c k rd ad imm s h hg => ?ld, fun c k rs ad imm s h hg => ?st, fun load c k r ad imm s h hf hb => ?bad,
    fun c k found l s hd hf => ?read⟩
  case ld =>
    change ∃ t, execLd c k rd ad imm s = .next t ∧ _
    refine issue_answers rfl h ?_
    rw [checkedAccess_good hg]
    exact retire_issued ..
  case st =>
    change ∃ t bs, execSt c k rs ad imm s = .next t ∧ _
    refine ⟨_, natLe 8 (reads s c k rs).toNat, issue_ok s c k h, length_natLe _ _, ?_, ?_⟩
    · rw [leNat_natLe]
      exact Nat.mod_eq_of_lt (reads s c k rs).isLt
    · rw [checkedAccess_good hg]
      exact withStore_issued ..
  case bad =>
    cases load with
    | true =>
      change ∃ t, execLd c k r ad imm s = .next t ∧ _
      exact issue_answers rfl h (checkedAccess_bad_spec hb hf)
    | false =>
      change ∃ t, execSt c k r ad imm s = .next t ∧ _
      exact issue_answers rfl h (checkedAccess_bad_spec hb hf)
  case read =>
    have hu := ldRead_spec s c k found l
    refine ⟨_, execLdBankRead_eq found hd, ?_⟩
    rw [ldRead_poisoned]
    by_cases hp : found = .uncorrectable ∨ spPoisoned s.cores[c] l.addr 8 = true
    · obtain ⟨hm, hdr, hrest⟩ := ldPoison_spec hu hf
      rw [if_pos (by simpa using hp)]
      exact ⟨hm, hdr, fun h1 h2 => (hp.elim h1 fun h => Bool.false_ne_true (h2.symm.trans h)).elim, fun _ => hrest⟩
    · obtain ⟨hne, hnp⟩ := not_or.mp hp
      rw [if_neg (by simpa using hp), hu.mem]
      refine ⟨?_, hu.dram, fun _ _ => ldResult_spec hu hf _, fun h => absurd h hp⟩
      rw [← hu.mem, modCtx, modCore_core]
      rfl
end

section
/-! PROOF. The descriptor read of a stalled context, and WOPEN and WCLOSE (R107, R171, R178, R183). -/

namespace Sys2Proof.Machine
open Claims

/-! ### What an issued instruction leaves of its core -/

section Issue
variable {s t : State} {c : CoreIx} {k : CtxIx} {y : Ctx}

theorem issued_ctx (h : Issued s t c k y) : ctx t c k = y := by
  rw [h]
  simp [Claims.ctx]

theorem issued_core (h : Issued s t c k y) : t.cores[c] = { s.cores[c] with
    ctx := s.cores[c].ctx.set k y
    lastIssue := some (s.time.cycle, k)
    yielded := none } := by
  rw [h]
  simp

theorem issued_only (h : Issued s t c k y) : t = { s with cores := t.cores } := by
  unfold Issued at h
  rw [h]

theorem issued_others (h : Issued s t c k y) (d : CoreIx) (hd : d ≠ c) : t.cores[d] = s.cores[d] := by
  have hv : c.val ≠ d.val := fun e => hd (Fin.ext e.symm)
  rw [h]
  simp [hv]

/-- Only core `c` differs, where every other core is as it was. -/
theorem onlyCore_of (ho : t = { s with cores := t.cores }) (hd : ∀ d : CoreIx, d ≠ c → t.cores[d] = s.cores[d]) : OnlyCore s t c := by
  have hc : t.cores = s.cores.set c t.cores[c] := by
    ext i hi
    by_cases h : c.val = i
    · subst h; simp
    · have := hd ⟨i, hi⟩ fun e => h (congrArg Fin.val e).symm
      simpa [h] using this
  unfold OnlyCore
  rw [← hc]
  exact ho

end Issue

/-! ### The descriptor read (R171) -/

/-- The machine once the descriptor of a stalled context has been read. -/
def descRead (c : CoreIx) (k : CtxIx) (a n : Nat) (found : Finds) (s : State) : State :=
  modCtx (backgroundFinds c a n found (takeBanks s c a n)) c k fun y => { y with stall := .none }

/-- What the read of a descriptor leaves: the stall is over, and only bank uses and corrections have come. -/
structure DescRead (c : CoreIx) (k : CtxIx) (s u : State) : Prop where
  only : u = { s with cores := u.cores }
  core : u.cores[c] = { s.cores[c] with ctx := u.cores[c].ctx, sp := { s.cores[c].sp with
    uses := u.cores[c].sp.uses, corrCount := u.cores[c].sp.corrCount, corrections := u.cores[c].sp.corrections
    uncorrCount := u.cores[c].sp.uncorrCount } }
  ctx : ctx u c k = { ctx s c k with stall := .none }
  others : ∀ d : CoreIx, d ≠ c → u.cores[d] = s.cores[d]

section Desc
variable {s u t : State} {c : CoreIx} {k : CtxIx}

theorem descRead_spec (s : State) (c : CoreIx) (k : CtxIx) (a n : Nat) {found : Finds} (hf : ∀ q ∈ found, q.2 ≠ .uncorrectable) :
    DescRead c k s (descRead c k a n found s) := by
  have h : SpClean c s (backgroundFinds c a n found (takeBanks s c a n)) :=
    (takeBanks_clean s c a n).trans (backgroundFinds_clean _ c a n hf)
  unfold descRead
  generalize backgroundFinds c a n found (takeBanks s c a n) = v at *
  have hcore := modCore_core v c fun x => x.modCtx k fun y => { y with stall := .none }
  refine ⟨?only, ?core, by rw [ctx_modCtx, h.ctx], fun d hd => (modCore_other v c _ hd).trans (h.others d hd)⟩
  case only =>
    have ho := h.only
    rw [h.recorder, h.freeCtr] at ho
    exact Eq.trans (congrArg (fun w : State => modCtx w c k fun y => { y with stall := .none }) ho) rfl
  case core =>
    have hc := h.core
    rw [h.poison] at hc
    unfold modCtx
    rw [hcore]
    exact congrArg (fun x : Core => { x with ctx := (v.cores[c].modCtx k fun y => { y with stall := .none }).ctx }) hc

theorem DescRead.taskOn (h : DescRead c k s u) : taskOn u c = taskOn s c := by
  unfold Machine.taskOn
  rw [h.only, h.core]

theorem DescRead.spHeld (h : DescRead c k s u) (a n : Nat) : spHeld u c a n = spHeld s c a n := by
  unfold Machine.spHeld
  rw [h.taskOn, h.core]

theorem DescRead.spPoisoned (h : DescRead c k s u) (a n : Nat) : spPoisoned u.cores[c] a n = spPoisoned s.cores[c] a n := by
  unfold Machine.spPoisoned
  rw [h.core]

theorem DescRead.mem (h : DescRead c k s u) : u.cores[c].sp.mem = s.cores[c].sp.mem := by rw [h.core]

theorem DescRead.time (h : DescRead c k s u) : u.time = s.time := by rw [h.only]

/-- A context fault once a descriptor has been read: it is latched at the instruction's PC. -/
theorem DescRead.latched (h : DescRead c k s u) (hf : (Claims.ctx s c k).faulted = false) (cause : Byte) (inf : W16) (pc : BitVec 13) :
    Latched s (faultCtx c k cause inf pc u) c k cause pc ∧ (Claims.ctx (faultCtx c k cause inf pc u) c k).info = inf := by
  have hl := faultCtx_latched (s := u) (c := c) (k := k) (cause := cause) (inf := inf) (pc := pc) (by rw [h.ctx]; exact hf)
  have hr : u.recorder = s.recorder := by rw [h.only]
  unfold Latched at hl ⊢
  rw [h.ctx, hr] at hl
  exact hl

/-- The context goes on behind its stalled instruction. -/
theorem DescRead.resumed (h : DescRead c k s u) :
    Claims.ctx (modCtx u c k fun y => { y with pc := y.pc + 1 }) c k = { Claims.ctx s c k with
      stall := .none
      pc := (Claims.ctx s c k).pc + 1 } := by
  rw [ctx_modCtx, h.ctx]

end Desc

/-! ### WOPEN (R178) -/

section Windows
variable {s u t : State} {c : CoreIx} {k : CtxIx} {w : Fin 8}

theorem winHeld_eq_windowNamed (s : State) (c : CoreIx) (w : Fin 8) : winHeld s c w = windowNamed s c w := by
  unfold winHeld taskOn windowNamed
  cases s.cores[c].slot <;> rfl

theorem winInfo_up (reason : Nat) (w : Fin 8) : winInfo reason w .up = BitVec.ofNat 16 (reason + 16 * w.val) := rfl

/-- The effect of WOPEN once it issues. -/
def openStall (c : CoreIx) (k : CtxIx) (w : Fin 8) (a : Nat) (s : State) : State :=
  if !winHeld s c w then wopenFault c k 0xA w s
  else if (windowOf s c w).st != .closed then wopenFault c k 9 w s
  else if a % 32 != 0 || !spHeld s c a 32 then wopenFault c k 0xA w s
  else noteIssue c k (modCtx s c k fun y => { y with stall := .wopen w a y.pc, stallAt := s.time.cycle })

theorem execWopen_eq (ad : AReg) : execWopen c k w ad s = issue c k (encI 0x28 w.val ad.val 0) 0x03000000 [] s fun s =>
    openStall c k w (ctx s c k).ad[ad].toNat s := rfl

theorem openStall_issued {a : Nat} (hn : windowNamed s c w = true) (hc : (windowOf s c w).st = .closed) (ha : a % 32 = 0)
    (hh : spHeld s c a 32 = true) : Issued s (openStall c k w a s) c k
      { ctx s c k with
        stall := .wopen w a (ctx s c k).pc
        stallAt := s.time.cycle } := by
  have he : openStall c k w a s = noteIssue c k (modCtx s c k fun y => { y with stall := .wopen w a y.pc, stallAt := s.time.cycle }) := by
    simp [openStall, winHeld_eq_windowNamed, hn, hc, ha, hh]
  rw [he]
  exact noteIssue_issued ..

/-- A WOPEN that cannot open: REOPEN where the window is not CLOSED, else DESCRIPTOR. -/
theorem openStall_fault {a : Nat} (h : windowNamed s c w = false ∨ (windowOf s c w).st ≠ .closed ∨ a % 32 ≠ 0 ∨ spHeld s c a 32 = false) :
    openStall c k w a s = wopenFault c k (if windowNamed s c w = true ∧ (windowOf s c w).st ≠ .closed then 9 else 10) w s := by
  unfold openStall
  rw [winHeld_eq_windowNamed]
  cases hn : windowNamed s c w with
  | false => rfl
  | true =>
    by_cases hc : (windowOf s c w).st = .closed
    · have hb : (a % 32 != 0 || !spHeld s c a 32) = true := by simpa [hn, hc, ← Bool.not_eq_true, imp_iff_not_or] using h
      simp [hc, hb]
    · simp [hc]

theorem wopenFault_spec (reason : Nat) (hf : (ctx s c k).faulted = false) :
    FaultFrame s (wopenFault c k reason w s) ∧ Latched s (wopenFault c k reason w s) c k 0x0C (ctx s c k).pc ∧
      (ctx (wopenFault c k reason w s) c k).info = BitVec.ofNat 16 (reason + 16 * w.val) := retireFault_spec hf

/-- The window a good descriptor opens, from the next cycle. -/
def openedWindow (k : CtxIx) (pc : BitVec 13) (raw : List Byte) (now : Nat) (v : Window) : Window :=
  { v with st := .open_, base := field raw 0 2, len := field raw 2 2, writer := BitVec.ofNat 2 (field raw 4 1),
           epoch := BitVec.ofNat 8 (field raw 5 1), ctr := BitVec.ofNat 8 (field raw 6 1),
           doneCtr := BitVec.ofNat 8 (field raw 7 1), sigN := BitVec.ofNat 16 (field raw 8 2), opener := k, pc := pc,
           openAt := now + 1, closingAt := 0, noticeAt := 0, markers := [], closeAt := none }

/-- What a WOPEN does with the descriptor it has read. -/
def openRead (c : CoreIx) (k : CtxIx) (w : Fin 8) (a : Nat) (pc : BitVec 13) (u : State) : State :=
  if (windowOf u c w).st != .closed then faultCtx c k 0x0C (winInfo 9 w .up) pc u
  else if spPoisoned u.cores[c] a 32 || !winDescOk u c (readBytes u.cores[c].sp.mem a 32) then faultCtx c k 0x0C (winInfo 0xA w .up) pc u
  else modCore (modCtx u c k fun y => { y with pc := y.pc + 1 }) c fun x =>
    x.modWindow w (openedWindow k pc (readBytes u.cores[c].sp.mem a 32) u.time.cycle)

theorem modCtx_mem (u : State) (f : Ctx → Ctx) : (modCtx u c k f).cores[c].sp.mem = u.cores[c].sp.mem := by
  rw [modCtx, modCore_core]
  rfl

theorem execWopenDescriptorRead_eq {a : Nat} {pc : BitVec 13} {r : Nat × Nat} (found : Finds)
    (hs : (ctx s c k).stall = .wopen w a pc) (hd : descDue s c k = some r) :
    execWopenDescriptorRead c k found s = .next (openRead c k w a pc (descRead c k a 32 found s)) := by
  unfold ctx at hs
  unfold execWopenDescriptorRead openRead
  rw [hs]
  dsimp only
  rw [hd, Option.isNone_some, if_neg Bool.false_ne_true]
  have hm : (descRead c k a 32 found s).cores[c].sp.mem = (backgroundFinds c a 32 found (takeBanks s c a 32)).cores[c].sp.mem :=
    modCtx_mem ..
  rw [hm]
  split
  next h => rw [if_pos (show ((windowOf (descRead c k a 32 found s) c w).st != .closed) = true from h)]; rfl
  next h =>
    rw [if_neg (show ¬ ((windowOf (descRead c k a 32 found s) c w).st != .closed) = true from h)]
    split
    next h => rw [if_pos]; · rfl
              · exact h
    next h => rw [if_neg]; · rfl
              · exact h

theorem DescRead.window (h : DescRead c k s u) (v : Fin 8) : windowOf u c v = windowOf s c v := by
  unfold windowOf
  rw [h.core]

theorem DescRead.winDescOk (h : DescRead c k s u) (raw : List Byte) : winDescOk u c raw = winDescOk s c raw := by
  unfold Machine.winDescOk
  rw [h.taskOn]
  simp only [h.spHeld]

theorem windowOf_modWindow (u : State) (f : Window → Window) (v : Fin 8) :
    windowOf (modCore u c fun x => x.modWindow w f) c v = if v = w then f (windowOf u c w) else windowOf u c v := by
  unfold windowOf
  rw [modCore_core]
  by_cases h : v = w
  · subst h; simp [Core.modWindow]
  · have hv : w.val ≠ v.val := fun e => h (Fin.ext e.symm)
    simp [Core.modWindow, h, hv]

/-- A good descriptor opens its window. -/
theorem openRead_opens {a : Nat} {pc : BitVec 13} (h : DescRead c k s u) (hp : spPoisoned s.cores[c] a 32 = false)
    (hok : winDescOk s c (readBytes s.cores[c].sp.mem a 32) = true) (hc : (windowOf s c w).st = .closed) :
    openRead c k w a pc u = modCore (modCtx u c k fun y => { y with pc := y.pc + 1 }) c fun x =>
      x.modWindow w (openedWindow k pc (readBytes s.cores[c].sp.mem a 32) s.time.cycle) := by
  rw [openRead, h.window, hc, h.spPoisoned, hp, h.mem, h.winDescOk, hok, h.time]
  rfl

theorem opened_spec {pc : BitVec 13} {raw : List Byte} (h : DescRead c k s u) :
    let t := modCore (modCtx u c k fun y => { y with pc := y.pc + 1 }) c fun x => x.modWindow w (openedWindow k pc raw s.time.cycle)
    OnlyCore s t c ∧ (windowOf t c w).st = .open_ ∧ (windowOf t c w).base = field raw 0 2 ∧
      (windowOf t c w).len = field raw 2 2 ∧ (windowOf t c w).opener = k ∧
      (windowOf t c w).openAt = s.time.cycle + 1 ∧ ctx t c k = { ctx s c k with stall := .none, pc := (ctx s c k).pc + 1 } ∧
      (∀ v, v ≠ w → windowOf t c v = windowOf s c v) ∧ t.cores[c].sp.mem = s.cores[c].sp.mem := by
  have hv (v : Fin 8) : windowOf (modCtx u c k fun y => { y with pc := y.pc + 1 }) c v = windowOf s c v := by
    rw [← h.window]
    unfold windowOf modCtx
    rw [modCore_core]
    rfl
  have ho : OnlyCore s (modCore (modCtx u c k fun y => { y with pc := y.pc + 1 }) c fun x =>
      x.modWindow w (openedWindow k pc raw s.time.cycle)) c :=
    onlyCore_of ((OnlyCores.trans h.only (modCore_only u c _)).trans (modCore_only _ c _)) fun d hd =>
      (modCore_other _ c _ hd).trans ((modCore_other u c _ hd).trans (h.others d hd))
  refine ⟨ho, ?_, ?_, ?_, ?_, ?_, ?_, fun v hne => ?_, ?_⟩
  iterate 5 rw [windowOf_modWindow, if_pos rfl]; rfl
  · exact (modCore_keepsCtx _ (f := fun x => x.modWindow w (openedWindow k pc raw s.time.cycle)) (fun _ => rfl) c k).trans h.resumed
  · rw [windowOf_modWindow, if_neg hne, hv]
  · rw [modCore_core]
    exact (modCtx_mem u _).trans h.mem

/-- Another descriptor faults: REOPEN or DESCRIPTOR. -/
theorem openRead_fault {a : Nat} {pc : BitVec 13} (h : DescRead c k s u)
    (hb : (windowOf s c w).st ≠ .closed ∨ spPoisoned s.cores[c] a 32 = true ∨ winDescOk s c (readBytes s.cores[c].sp.mem a 32) = false) :
    openRead c k w a pc u = faultCtx c k 0x0C (winInfo (if (windowOf s c w).st ≠ .closed then 9 else 10) w .up) pc u := by
  rw [openRead, h.window, h.spPoisoned, h.mem, h.winDescOk]
  by_cases hc : (windowOf s c w).st = .closed
  · have hx : (spPoisoned s.cores[c] a 32 || !winDescOk s c (readBytes s.cores[c].sp.mem a 32)) = true := by
      rw [Bool.or_eq_true, Bool.not_eq_true']
      exact hb.resolve_left (not_not.mpr hc)
    rw [hx, hc]
    rfl
  · rw [if_pos (bne_iff_ne.mpr hc), if_pos hc]

theorem faultCtx_windows (cause : Byte) (inf : W16) (pc : BitVec 13) (u : State) (v : Fin 8) :
    windowOf (faultCtx c k cause inf pc u) c v = windowOf u c v := by
  have h : Faults c k u (faultCtx c k cause inf pc u) := faultCtx_faults
  unfold windowOf
  rw [(h.cores c).only]

/-! ### WCLOSE (R183) -/

theorem closeWindow_closed (h : (windowOf s c w).st ≠ .open_) : closeWindow c w s = s := by
  unfold windowOf at h
  rw [closeWindow, if_pos (bne_iff_ne.mpr h)]

/-- The window whose close has begun, with the writers it must hear from. -/
def closingWindow (now : Nat) (sides : List Side) (v : Window) : Window :=
  { v with st := .closing, closingAt := now + 1, noticeAt := now + 3, markers := sides,
           closeAt := if sides.isEmpty then some (now + 11) else none }

/-- The notice of a close goes to a writer. -/
def sendNotice (c : CoreIx) (w : Fin 8) (epoch : Byte) (s : State) (d : Side) : State :=
  modCore s (coreAt c d) fun x => { x with notices := x.notices ++ [{ due := s.time.cycle + 3, owner := opposite d, win := w, epoch := epoch }] }

theorem closeWindow_eq (h : (windowOf s c w).st = .open_) : closeWindow c w s =
    (closeSides s c (windowOf s c w)).foldl (sendNotice c w (windowOf s c w).epoch)
      (modCore s c fun x => x.modWindow w (closingWindow s.time.cycle (closeSides s c (windowOf s c w)))) := by
  have hn : ¬ (windowOf s c w).st != .open_ := by rw [h]; decide
  unfold windowOf at hn
  rw [closeWindow, if_neg hn]
  rfl

/-- Only the cores differ, and core `c` has the windows and contexts of `s`. -/
structure Noticed (c : CoreIx) (s t : State) : Prop where
  only : OnlyCores s t
  windows : ∀ v, windowOf t c v = windowOf s c v
  ctx : ∀ k, ctx t c k = ctx s c k

theorem sendNotice_noticed (s : State) (c : CoreIx) (w : Fin 8) (epoch : Byte) (d : Side) : Noticed c s (sendNotice c w epoch s d) where
  only := modCore_only ..
  windows v := by
    unfold windowOf sendNotice
    by_cases hd : c = coreAt c d
    · rw [← hd, modCore_core]
    · rw [modCore_other _ _ _ hd]
  ctx k := modCore_keepsCtx s (f := fun x => { x with notices := x.notices ++ [_] }) (fun _ => rfl) c k

theorem sendNotices_noticed (s : State) (c : CoreIx) (w : Fin 8) (epoch : Byte) (L : List Side) :
    Noticed c s (L.foldl (sendNotice c w epoch) s) :=
  List.foldlRecOn L _ ⟨rfl, fun _ => rfl, fun _ => rfl⟩ fun u hu d _ =>
    have hd := sendNotice_noticed u c w epoch d
    ⟨hu.only.trans hd.only, fun v => (hd.windows v).trans (hu.windows v), fun k => (hd.ctx k).trans (hu.ctx k)⟩

/-- The close of an OPEN window: only notices come besides. -/
theorem closeWindow_spec (h : (windowOf s c w).st = .open_) : let t := closeWindow c w s
    OnlyCores s t ∧ (∀ v, windowOf t c v = if v = w then closingWindow s.time.cycle (closeSides s c (windowOf s c w)) (windowOf s c w)
      else windowOf s c v) ∧ ∀ k, ctx t c k = ctx s c k := by
  rw [closeWindow_eq h]
  have hn := sendNotices_noticed (modCore s c fun x => x.modWindow w (closingWindow s.time.cycle (closeSides s c (windowOf s c w)))) c w
    (windowOf s c w).epoch (closeSides s c (windowOf s c w))
  exact ⟨(modCore_only ..).trans hn.only, fun v => (hn.windows v).trans (windowOf_modWindow ..), fun k => (hn.ctx k).trans
    (modCore_keepsCtx s (f := fun x => x.modWindow w (closingWindow _ _)) (fun _ => rfl) c k)⟩

/-- A retirement keeps the windows. -/
theorem issued_window {y : Ctx} (h : Issued s t c k y) (v : Fin 8) : windowOf t c v = windowOf s c v := by
  unfold windowOf
  rw [issued_core h]

/-- The effect of WCLOSE once it issues. -/
def closeBegun (c : CoreIx) (w : Fin 8) (s : State) : State :=
  if winHeld s c w && decide ((windowOf s c w).openAt ≤ s.time.cycle) then closeWindow c w s else s

theorem execWclose_eq : execWclose c k w s = issue c k (encI 0x29 w.val 0 0) 0x031FFFFF [] s fun s => retire c k (closeBegun c w s) := rfl

theorem closeBegun_spec (hn : windowNamed s c w = true) (ho : (windowOf s c w).st = .open_) (ht : (windowOf s c w).openAt ≤ s.time.cycle) :
    let t := retire c k (closeBegun c w s)
    (windowOf t c w).st = .closing ∧ (windowOf t c w).noticeAt = s.time.cycle + 3 ∧
      (windowOf t c w).markers = closeSides s c (windowOf s c w) ∧ ctx t c k = passed s c k ∧
      (∀ v, v ≠ w → windowOf t c v = windowOf s c v) ∧ t = { s with cores := t.cores } := by
  have he : closeBegun c w s = closeWindow c w s := by simp [closeBegun, winHeld_eq_windowNamed, hn, ht]
  rw [he]
  obtain ⟨honly, hw, hc⟩ := closeWindow_spec ho
  have hi := retire_passed (closeWindow c w s) c k
  have hww := issued_window hi w
  rw [hw w, if_pos rfl] at hww
  refine ⟨by rw [hww]; rfl, by rw [hww]; rfl, by rw [hww]; rfl, (issued_ctx hi).trans (by rw [passed, hc, passed]), fun v hv => ?_,
    honly.trans (issued_only hi)⟩
  rw [issued_window hi v, hw v, if_neg hv]

theorem closeBegun_passed (h : windowNamed s c w = false ∨ (windowOf s c w).st ≠ .open_ ∨ s.time.cycle < (windowOf s c w).openAt) :
    closeBegun c w s = s := by
  unfold closeBegun
  rw [winHeld_eq_windowNamed]
  rcases h with h | h | h
  · simp [h]
  · rw [closeWindow_closed h, ite_self]
  · simp [Nat.not_le.mpr h]

end Windows
end Sys2Proof.Machine

open Sys2Proof Sys2Proof.Machine Sys2Proof.Claims

/-- Settles O18: WOPEN at issue and at its descriptor, WCLOSE by what `closeWindow` leaves. -/
theorem windowInstructions : Obligations.WindowInstructions := by
  unfold Obligations.WindowInstructions
  refine ⟨fun c k w ad s h hn hc ha hh => ?stall, fun c k w a pc found s hs hd hf hp hok hc => ?opens, fun c k w s h hn ho ht => ?closes,
    fun c k w s h hx => ?passes, fun c k w ad s h hf hx => ?fault, fun c k w a pc found s hs hd hq hf hx => ?descFault⟩
  case stall =>
    change ∃ t, execWopen c k w ad s = .next t ∧ _
    exact issue_answers (execWopen_eq ad) h (openStall_issued hn hc ha hh)
  case opens =>
    have hr := descRead_spec s c k a 32 hf
    refine ⟨_, execWopenDescriptorRead_eq found hs hd, ?_⟩
    rw [openRead_opens hr hp hok hc]
    exact opened_spec hr
  case closes =>
    change ∃ t, execWclose c k w s = .next t ∧ _
    exact issue_answers execWclose_eq h (closeBegun_spec hn ho ht)
  case passes =>
    change ∃ t, execWclose c k w s = .next t ∧ _
    refine issue_answers execWclose_eq h ?_
    rw [closeBegun_passed hx]
    exact retire_passed s c k
  case fault =>
    change ∃ t, execWopen c k w ad s = .next t ∧ _
    refine issue_answers (execWopen_eq ad) h ?_
    rw [openStall_fault hx]
    exact wopenFault_spec _ hf
  case descFault =>
    have hr := descRead_spec s c k a 32 hq
    refine ⟨_, execWopenDescriptorRead_eq found hs hd, ?_⟩
    rw [openRead_fault hr hx]
    obtain ⟨hl, hi⟩ := hr.latched hf 0x0C (winInfo (if (windowOf s c w).st ≠ .closed then 9 else 10) w .up) pc
    have hdram : (faultCtx c k 0x0C (winInfo (if (windowOf s c w).st ≠ .closed then 9 else 10) w .up) pc (descRead c k a 32 found s)).dram
        = s.dram := (faultCtx_faults (c := c) (k := k)).dram.trans (by rw [hr.only])
    exact ⟨hl, hdram, hi, fun v => (faultCtx_windows ..).trans (hr.window v)⟩
end

section
/-! PROOF. The stream instructions and the configuration of a slot (R107, R188 to R194). -/

namespace Sys2Proof.Machine
open Claims

section Streams
variable {s u t : State} {c : CoreIx} {k : CtxIx} {i : Fin 32}

/-! ### Slots and their faults (R190) -/

theorem slotHeld_eq_slotNamed (s : State) (c : CoreIx) (i : Fin 32) : slotHeld s c i = slotNamed s c i := by
  unfold slotHeld taskOn slotNamed
  cases s.cores[c].slot <;> rfl

theorem streamFault_spec (reason : Nat) (hf : (ctx s c k).faulted = false) : StreamFault s (streamFault c k reason i s) c k i reason :=
  retireFault_spec hf

theorem onSlot_eq (f : Stream → State → State) : onSlot c k i s f =
    if !slotNamed s c i then streamFault c k 2 i s
    else if (streamOf s c i).st == .unconfigured then streamFault c k 1 i s else f (streamOf s c i) s := by
  rw [← slotHeld_eq_slotNamed]
  rfl

theorem onSlot_named {f : Stream → State → State} (hn : slotNamed s c i = true) (hs : (streamOf s c i).st ≠ .unconfigured) :
    onSlot c k i s f = f (streamOf s c i) s := by
  rw [onSlot_eq, hn, beq_eq_false_iff_ne.mpr hs]
  rfl

theorem onSlot_fault {f : Stream → State → State} (h : slotNamed s c i = false ∨ (streamOf s c i).st = .unconfigured) :
    onSlot c k i s f = streamFault c k (if slotNamed s c i = true then 1 else 2) i s := by
  rw [onSlot_eq]
  cases hn : slotNamed s c i with
  | false => rfl
  | true =>
    rw [h.resolve_left (by rw [hn]; decide)]
    rfl

/-! ### SWAIT (R192) -/

/-- The effect of SWAIT on a configured slot. -/
def awaitHalf (c : CoreIx) (k : CtxIx) (i : Fin 32) (ctr : Byte) (s : State) : State :=
  if swaitGone s c i then streamFault c k 9 i s
  else if (counterOf s c ctr).queue.isEmpty && (counterOf s c ctr).value != 0 then retire c k (consume c ctr 1 s)
  else waitOn c k .stream (some (BitVec.ofNat 8 i.val, 1)) (joinQueue c k ctr 1 s)

theorem execSwait_eq : execSwait c k i s = issue c k (encI 0x25 i.val 0 0) 0x001FFFFF [] s fun s =>
    onSlot c k i s fun x s => awaitHalf c k i (x.halfCtr x.cur) s := rfl

theorem awaitHalf_issued {ctr : Byte} (hg : swaitGone s c i = false) :
    if (counterOf s c ctr).queue = [] ∧ (counterOf s c ctr).value ≠ 0
    then Issued (withCounter s c ctr { counterOf s c ctr with value := (counterOf s c ctr).value - 1 }) (awaitHalf c k i ctr s) c k
      (passed s c k)
    else Issued (withCounter s c ctr { counterOf s c ctr with queue := (counterOf s c ctr).queue ++ [{ ctx := k, n := 1 }] })
      (awaitHalf c k i ctr s) c k
      { ctx s c k with
        st := .waiting
        kind := .stream
        waitObj := BitVec.ofNat 8 i.val
        waitN := 1 } := by
  unfold awaitHalf
  rw [hg, if_neg Bool.false_ne_true]
  split
  next hq =>
    rw [if_pos (by simpa [hq.1] using hq.2)]
    have hv : (1 : W16).toNat ≤ (counterOf s c ctr).value.toNat := by
      have h0 : (counterOf s c ctr).value.toNat ≠ 0 := fun h => hq.2 (BitVec.eq_of_toNat_eq h)
      exact Nat.one_le_iff_ne_zero.mpr h0
    exact consume_issued hv
  next hq =>
    rw [if_neg (by simpa using hq)]
    exact joinQueue_issued 1 .stream _

theorem awaitHalf_gone {ctr : Byte} (hg : swaitGone s c i = true) : awaitHalf c k i ctr s = streamFault c k 9 i s := by
  rw [awaitHalf, hg, if_pos rfl]

/-! ### SWAP (R193) -/

/-- A half is handed over by `f`, and the slot switches. -/
def switchHalf (c : CoreIx) (k : CtxIx) (i : Fin 32) (f : Stream → Stream) (s : State) : State :=
  retire c k (modCore s c fun y => y.modStream i fun t => { f t with cur := !t.cur })

theorem streamOf_modStream (u : State) (f : Stream → Stream) (j : Fin 32) :
    streamOf (modCore u c fun x => x.modStream i f) c j = if j = i then f (streamOf u c i) else streamOf u c j := by
  unfold streamOf
  rw [modCore_core]
  by_cases h : j = i
  · subst h; simp [Core.modStream]
  · have hv : i.val ≠ j.val := fun e => h (Fin.ext e.symm)
    simp [Core.modStream, h, hv]

theorem issued_stream {y : Ctx} (h : Issued s t c k y) (j : Fin 32) : streamOf t c j = streamOf s c j := by
  unfold streamOf
  rw [issued_core h]

theorem switchHalf_spec (f : Stream → Stream) : let t := switchHalf c k i f s
    OnlyCore s t c ∧ ctx t c k = passed s c k ∧ streamOf t c i = { f (streamOf s c i) with cur := !(streamOf s c i).cur } ∧
      ∀ j, j ≠ i → streamOf t c j = streamOf s c j := by
  have hi := retire_passed (modCore s c fun y => y.modStream i fun t => { f t with cur := !t.cur }) c k
  refine ⟨onlyCore_of ((modCore_only s c _).trans (issued_only hi)) fun d hd => (issued_others hi d hd).trans (modCore_other s c _ hd),
    ?_, ?_, fun j hj => ?_⟩
  · refine (issued_ctx hi).trans ?_
    rw [passed, modCore_keepsCtx s (f := fun y => y.modStream i fun t => { f t with cur := !t.cur }) (fun _ => rfl), passed]
  · exact (issued_stream hi i).trans ((streamOf_modStream ..).trans (if_pos rfl))
  · exact (issued_stream hi j).trans ((streamOf_modStream ..).trans (if_neg hj))

/-- The effect of SWAP on a configured slot. -/
def swapHalf (c : CoreIx) (k : CtxIx) (i : Fin 32) (x : Stream) (s : State) : State :=
  if x.st == .closing then retire c k s
  else if x.d.kind = 1 then
    if (if x.cur then x.pendB else x.pendA) || decide (x.d.fills ≤ x.holdFill x.cur) then streamFault c k 9 i s
    else if s.cores[c].fillDone i (x.holdFill x.cur) then switchHalf c k i (fun t => t.release (x.holdFill x.cur) (ftNow s)) s
    else switchHalf c k i (fun t => if t.cur then { t with pendB := true } else { t with pendA := true }) s
  else if x.d.total ≤ x.relG then streamFault c k 9 i s
  else switchHalf c k i (fun t => { t with rel := tset 0 t.rel t.nrel (ftNow s + 1), lastRel := ftNow s, nrel := t.nrel + 1 }) s

theorem execSwap_eq : execSwap c k i s = issue c k (encI 0x26 i.val 0 0) 0x001FFFFF [] s fun s =>
    onSlot c k i s fun x s => swapHalf c k i x s := rfl

theorem swapHalf_closing (h : (streamOf s c i).st = .closing) : swapHalf c k i (streamOf s c i) s = retire c k s := by
  rw [swapHalf, h]
  rfl

/-- A half of an ACTIVE slot is released, or its release becomes pending, and the slot switches. -/
theorem swapHalf_spec (ha : (streamOf s c i).st = .active) (hs : swapSpent s c i = false) : let t := swapHalf c k i (streamOf s c i) s
    OnlyCore s t c ∧ ctx t c k = passed s c k ∧ (streamOf t c i).cur = !(streamOf s c i).cur ∧
      (if (streamOf s c i).d.kind = 1 then
         if s.cores[c].fillDone i ((streamOf s c i).holdFill (streamOf s c i).cur) = true
         then tget 0 (streamOf t c i).rel ((streamOf s c i).holdFill (streamOf s c i).cur) = ftNow s + 1
         else (if (streamOf s c i).cur then (streamOf t c i).pendB else (streamOf t c i).pendA) = true
       else (streamOf t c i).nrel = (streamOf s c i).nrel + 1) ∧
      ∀ j, j ≠ i → streamOf t c j = streamOf s c j := by
  have hc : ((streamOf s c i).st == .closing) = false := by rw [ha]; decide
  unfold swapSpent at hs
  unfold swapHalf
  rw [hc, if_neg Bool.false_ne_true]
  by_cases hk : (streamOf s c i).d.kind = 1
  · simp only [hk, if_true] at hs ⊢
    rw [hs, if_neg Bool.false_ne_true]
    split
    next hd =>
      obtain ⟨ho, hx, hi, hj⟩ := switchHalf_spec (s := s) (c := c) (k := k) (i := i)
        fun t => t.release ((streamOf s c i).holdFill (streamOf s c i).cur) (ftNow s)
      refine ⟨ho, hx, by rw [hi], ?_, hj⟩
      rw [hi]
      exact tget_tset_of_ne _ _ (Nat.succ_ne_zero _)
    next hd =>
      obtain ⟨ho, hx, hi, hj⟩ := switchHalf_spec (s := s) (c := c) (k := k) (i := i)
        fun t => if t.cur then { t with pendB := true } else { t with pendA := true }
      refine ⟨ho, hx, by rw [hi], ?_, hj⟩
      rw [hi]
      cases (streamOf s c i).cur <;> rfl
  · simp only [hk, if_false] at hs ⊢
    rw [if_neg (of_decide_eq_false hs)]
    obtain ⟨ho, hx, hi, hj⟩ := switchHalf_spec (s := s) (c := c) (k := k) (i := i)
      fun t => { t with rel := tset 0 t.rel t.nrel (ftNow s + 1), lastRel := ftNow s, nrel := t.nrel + 1 }
    exact ⟨ho, hx, by rw [hi], by rw [hi], hj⟩

theorem swapHalf_spent (ha : (streamOf s c i).st = .active) (hs : swapSpent s c i = true) :
    swapHalf c k i (streamOf s c i) s = streamFault c k 9 i s := by
  have hc : ((streamOf s c i).st == .closing) = false := by rw [ha]; decide
  unfold swapSpent at hs
  unfold swapHalf
  rw [hc, if_neg Bool.false_ne_true]
  by_cases hk : (streamOf s c i).d.kind = 1
  · simp only [hk, if_true] at hs ⊢
    rw [hs, if_pos rfl]
  · simp only [hk, if_false] at hs ⊢
    rw [if_pos (of_decide_eq_true hs)]

/-! ### SCLOSE (R194) -/

/-- The effect of SCLOSE on a configured slot. -/
def closeSlot (c : CoreIx) (k : CtxIx) (i : Fin 32) (x : Stream) (s : State) : State :=
  if x.st == .closing then retire c k s
  else retire c k (modCore s c fun y => y.modStream i fun t => { t with st := .closing, closeAt := some (s.time.cycle + 2) })

theorem execSclose_eq : execSclose c k i s = issue c k (encI 0x27 i.val 0 0) 0x001FFFFF [] s fun s =>
    onSlot c k i s fun x s => closeSlot c k i x s := rfl

theorem closeSlot_closing (h : (streamOf s c i).st = .closing) : closeSlot c k i (streamOf s c i) s = retire c k s := by
  rw [closeSlot, h]
  rfl

theorem closeSlot_issued (ha : (streamOf s c i).st = .active) :
    Issued (withStream s c i { streamOf s c i with st := .closing, closeAt := some (s.time.cycle + 2) })
      (closeSlot c k i (streamOf s c i) s) c k (passed s c k) := by
  have he : closeSlot c k i (streamOf s c i) s =
      retire c k (withStream s c i { streamOf s c i with st := .closing, closeAt := some (s.time.cycle + 2) }) := by
    rw [closeSlot, ha]
    rfl
  have hx : ctx (withStream s c i { streamOf s c i with st := .closing, closeAt := some (s.time.cycle + 2) }) c k = ctx s c k := by
    simp [ctx, withStream]
  have h := retire_passed (withStream s c i { streamOf s c i with st := .closing, closeAt := some (s.time.cycle + 2) }) c k
  rw [passed, hx] at h
  rw [he]
  exact h

/-! ### SCFG (R188, R190) -/

/-- The effect of SCFG once it issues. -/
def configStall (c : CoreIx) (k : CtxIx) (i : Fin 32) (a : Nat) (s : State) : State :=
  if !slotHeld s c i then streamFault c k 2 i s
  else if (streamOf s c i).st != .unconfigured then streamFault c k 3 i s
  else if a % 16 != 0 || !spHeld s c a 48 then streamFault c k 4 i s
  else noteIssue c k (modCtx s c k fun y => { y with stall := .scfg i a y.pc, stallAt := s.time.cycle })

theorem execScfg_eq (ad : AReg) : execScfg c k i ad s = issue c k (encI 0x24 i.val ad.val 0) 0 [] s fun s =>
    configStall c k i (ctx s c k).ad[ad].toNat s := rfl

theorem configStall_issued {a : Nat} (hn : slotNamed s c i = true) (hs : (streamOf s c i).st = .unconfigured) (ha : a % 16 = 0)
    (hh : spHeld s c a 48 = true) : Issued s (configStall c k i a s) c k
      { ctx s c k with
        stall := .scfg i a (ctx s c k).pc
        stallAt := s.time.cycle } := by
  have he : configStall c k i a s = noteIssue c k (modCtx s c k fun y => { y with stall := .scfg i a y.pc, stallAt := s.time.cycle }) := by
    simp [configStall, slotHeld_eq_slotNamed, hn, hs, ha, hh]
  rw [he]
  exact noteIssue_issued ..

theorem configStall_fault {a : Nat}
    (h : slotNamed s c i = false ∨ (streamOf s c i).st ≠ .unconfigured ∨ a % 16 ≠ 0 ∨ spHeld s c a 48 = false) :
    configStall c k i a s = streamFault c k (if slotNamed s c i = false then 2 else if (streamOf s c i).st ≠ .unconfigured then 3 else 4) i s := by
  unfold configStall
  rw [slotHeld_eq_slotNamed]
  cases hn : slotNamed s c i with
  | false => rfl
  | true =>
    by_cases hc : (streamOf s c i).st = .unconfigured
    · have hb : (a % 16 != 0 || !spHeld s c a 48) = true := by simpa [hn, hc, ← Bool.not_eq_true, imp_iff_not_or] using h
      simp [hc, hb]
    · simp [hc]

/-! ### The descriptor of an SCFG (R188, R190, R191) -/

/-- Why the descriptor read for slot `i` at `a` configures nothing: the slot is configured meanwhile, or the reason of R190; 0 for a
good one. -/
def configReason (s : State) (c : CoreIx) (i : Fin 32) (a : Nat) : Nat :=
  if (streamOf s c i).st != .unconfigured then 3
  else scfgReason s c (parseSDesc (readBytes s.cores[c].sp.mem a 48)) (readBytes s.cores[c].sp.mem a 48) (spPoisoned s.cores[c] a 48)

/-- The slot a good descriptor configures. -/
def configuredStream (k : CtxIx) (pc : BitVec 13) (d : SDesc) (s : State) (t : Stream) : Stream :=
  { Stream.reset with st := .active, d := d, ctx := k, pc := pc, tCfg := ftNow s, since := s.time.cycle + 1
                      missed := t.missed, missCount := t.missCount, lateCount := t.lateCount, errCount := t.errCount }

/-- The machine with slot `i` configured and its context going on. -/
def configured (c : CoreIx) (k : CtxIx) (i : Fin 32) (pc : BitVec 13) (d : SDesc) (u : State) : State :=
  modCore (modCtx u c k fun y => { y with pc := y.pc + 1 }) c fun x => x.modStream i (configuredStream k pc d u)

/-- The halves of a WRITE or WINDOW stream are signalled as free. -/
def freeHalves (c : CoreIx) (k : CtxIx) (pc : BitVec 13) (d : SDesc) (u : State) : State :=
  if d.kind = 1 then u else signalOwn (signalOwn u c d.ctrA 1 1 5 k pc) c d.ctrB 1 1 5 k pc

theorem execScfgDescriptorRead_good {a : Nat} {pc : BitVec 13} {r : Nat × Nat} (found : Finds)
    (hs : (ctx s c k).stall = .scfg i a pc) (hd : descDue s c k = some r)
    (hz : configReason (descRead c k a 48 found s) c i a = 0) :
    execScfgDescriptorRead c k found s = .next
      (freeHalves c k pc (parseSDesc (readBytes (descRead c k a 48 found s).cores[c].sp.mem a 48))
        (configured c k i pc (parseSDesc (readBytes (descRead c k a 48 found s).cores[c].sp.mem a 48)) (descRead c k a 48 found s))) := by
  have hm : (descRead c k a 48 found s).cores[c].sp.mem = (backgroundFinds c a 48 found (takeBanks s c a 48)).cores[c].sp.mem :=
    modCtx_mem ..
  unfold configReason at hz
  unfold ctx at hs
  unfold execScfgDescriptorRead
  rw [hs]
  dsimp only
  rw [hd, Option.isNone_some, if_neg Bool.false_ne_true, hm]
  rw [hm] at hz
  split
  next =>
    unfold freeHalves
    split <;> rfl
  next h => exact absurd hz h

theorem execScfgDescriptorRead_bad {a : Nat} {pc : BitVec 13} {r : Nat × Nat} (found : Finds)
    (hs : (ctx s c k).stall = .scfg i a pc) (hd : descDue s c k = some r)
    (hz : configReason (descRead c k a 48 found s) c i a ≠ 0) :
    execScfgDescriptorRead c k found s = .next
      (faultCtx c k 0x0D (streamInfo (configReason (descRead c k a 48 found s) c i a) i) pc (descRead c k a 48 found s)) := by
  have hm : (descRead c k a 48 found s).cores[c].sp.mem = (backgroundFinds c a 48 found (takeBanks s c a 48)).cores[c].sp.mem :=
    modCtx_mem ..
  unfold configReason at hz ⊢
  unfold ctx at hs
  unfold execScfgDescriptorRead
  rw [hs]
  dsimp only
  rw [hd, Option.isNone_some, if_neg Bool.false_ne_true, hm]
  rw [hm] at hz
  split
  next h => exact absurd h hz
  next => rfl

theorem DescRead.stream (h : DescRead c k s u) (j : Fin 32) : streamOf u c j = streamOf s c j := by
  unfold streamOf
  rw [h.core]

theorem DescRead.configReason (h : DescRead c k s u) (i : Fin 32) (a : Nat) : configReason u c i a = configReason s c i a := by
  unfold Machine.configReason scfgReason
  rw [h.stream, h.mem, h.spPoisoned, h.taskOn]
  simp only [h.spHeld]

/-- What the configuration of a slot leaves, before its halves are signalled. -/
theorem configured_spec {pc : BitVec 13} (h : DescRead c k s u) (d : SDesc) : let t := configured c k i pc d u
    CoreFrame s t c ∧ (streamOf t c i).st = .active ∧ (streamOf t c i).d = d ∧
      (streamOf t c i).ctx = k ∧ (streamOf t c i).pc = pc ∧ (streamOf t c i).cur = false ∧
      ctx t c k = { ctx s c k with stall := .none, pc := (ctx s c k).pc + 1 } ∧
      (∀ j, j ≠ i → streamOf t c j = streamOf s c j) ∧ t.incs = s.incs ∧ t.time = s.time := by
  have hv (j : Fin 32) : streamOf (modCtx u c k fun y => { y with pc := y.pc + 1 }) c j = streamOf s c j := by
    rw [← h.stream]
    unfold streamOf modCtx
    rw [modCore_core]
    rfl
  have ho : OnlyCores s (configured c k i pc d u) := (OnlyCores.trans h.only (modCore_only u c _)).trans (modCore_only _ c _)
  have hi : streamOf (configured c k i pc d u) c i = configuredStream k pc d u (streamOf s c i) := by
    rw [configured, streamOf_modStream, if_pos rfl, hv]
  refine ⟨⟨fun e he => (modCore_other _ c _ he).trans ((modCore_other u c _ he).trans (h.others e he)), by rw [ho], by rw [ho]⟩,
    by rw [hi]; rfl, by rw [hi]; rfl, by rw [hi]; rfl, by rw [hi]; rfl, by rw [hi]; rfl, ?_, fun j hj => ?_, by rw [ho], by rw [ho]⟩
  · exact (modCore_keepsCtx _ (f := fun x => x.modStream i (configuredStream k pc d u)) (fun _ => rfl) c k).trans h.resumed
  · rw [configured, streamOf_modStream, if_neg hj, hv]

/-- The signals of the free halves change nothing but the increments on their way. -/
theorem freeHalves_only (pc : BitVec 13) (d : SDesc) (u : State) : freeHalves c k pc d u = { u with incs := (freeHalves c k pc d u).incs } := by
  unfold freeHalves
  split <;> rfl

/-- Both halves of a WRITE or WINDOW stream are signalled 1 cc later; of a READ stream none. -/
theorem freeHalves_incs (pc : BitVec 13) (d : SDesc) (u : State) : (d.kind = 1 → (freeHalves c k pc d u).incs = u.incs) ∧
    (d.kind ≠ 1 → ∃ x y, (freeHalves c k pc d u).incs = u.incs ++ [x, y] ∧
      x.core = c ∧ x.ctr = d.ctrA ∧ x.n = 1 ∧ x.due = u.time.cycle + 1 ∧
      y.core = c ∧ y.ctr = d.ctrB ∧ y.n = 1 ∧ y.due = u.time.cycle + 1) := by
  refine ⟨fun h => by rw [freeHalves, if_pos h], fun h => ?_⟩
  rw [freeHalves, if_neg h]
  refine ⟨_, _, List.append_assoc _ _ _, ?_⟩
  exact ⟨rfl, rfl, rfl, rfl, rfl, rfl, rfl, rfl⟩

theorem scfgDescriptorRead_configures {a : Nat} {pc : BitVec 13} {found : Finds} (hs : (ctx s c k).stall = .scfg i a pc)
    (hd : descDue s c k = some (a, 48)) (hf : ∀ q ∈ found, q.2 ≠ .uncorrectable) (hz : configReason s c i a = 0) :
    let d := parseSDesc (readBytes s.cores[c].sp.mem a 48)
    ∃ t, execScfgDescriptorRead c k found s = .next t ∧ CoreFrame s t c ∧
      (streamOf t c i).st = .active ∧ (streamOf t c i).d = d ∧
      (streamOf t c i).ctx = k ∧ (streamOf t c i).pc = pc ∧ (streamOf t c i).cur = false ∧
      ctx t c k = { ctx s c k with stall := .none, pc := (ctx s c k).pc + 1 } ∧
      (∀ j, j ≠ i → streamOf t c j = streamOf s c j) ∧
      (d.kind = 1 → t.incs = s.incs) ∧
      (d.kind ≠ 1 → ∃ x y, t.incs = s.incs ++ [x, y] ∧
        x.core = c ∧ x.ctr = d.ctrA ∧ x.n = 1 ∧ x.due = s.time.cycle + 1 ∧
        y.core = c ∧ y.ctr = d.ctrB ∧ y.n = 1 ∧ y.due = s.time.cycle + 1) := by
  intro d
  have hr := descRead_spec s c k a 48 hf
  have he := execScfgDescriptorRead_good found hs hd ((hr.configReason i a).trans hz)
  rw [hr.mem] at he
  obtain ⟨hframe, hst, hdesc, hctx, hpc, hcur, hx, hj, hincs, htime⟩ := configured_spec (i := i) (pc := pc) hr d
  have hsig := freeHalves_incs (c := c) (k := k) pc d (configured c k i pc d (descRead c k a 48 found s))
  rw [hincs, htime] at hsig
  have ho := freeHalves_only (c := c) (k := k) pc d (configured c k i pc d (descRead c k a 48 found s))
  refine ⟨_, he, ?_⟩
  change CoreFrame s (freeHalves c k pc d _) c ∧ _
  generalize freeHalves c k pc d (configured c k i pc d (descRead c k a 48 found s)) = t at *
  generalize configured c k i pc d (descRead c k a 48 found s) = v at *
  obtain ⟨hcores, hdram, htasks⟩ := hframe
  have hcs : t.cores = v.cores := by rw [ho]
  unfold CoreFrame streamOf ctx at *
  rw [hcs]
  exact ⟨⟨hcores, by rw [ho]; exact hdram, by rw [ho]; exact htasks⟩, hst, hdesc, hctx, hpc, hcur, hx, hj, hsig.1, hsig.2⟩

theorem faultCtx_streams (cause : Byte) (inf : W16) (pc : BitVec 13) (u : State) (j : Fin 32) :
    streamOf (faultCtx c k cause inf pc u) c j = streamOf u c j := by
  have h : Faults c k u (faultCtx c k cause inf pc u) := faultCtx_faults
  unfold streamOf
  rw [(h.cores c).only]

theorem configReason_eq_zero {a : Nat} (hs : (streamOf s c i).st = .unconfigured)
    (hz : scfgReason s c (parseSDesc (readBytes s.cores[c].sp.mem a 48)) (readBytes s.cores[c].sp.mem a 48)
      (spPoisoned s.cores[c] a 48) = 0) : configReason s c i a = 0 := by
  rw [configReason, hs, hz]
  rfl

theorem configReason_eq (s : State) (c : CoreIx) (i : Fin 32) (a : Nat) : configReason s c i a =
    if (streamOf s c i).st ≠ .unconfigured then 3
    else scfgReason s c (parseSDesc (readBytes s.cores[c].sp.mem a 48)) (readBytes s.cores[c].sp.mem a 48) (spPoisoned s.cores[c] a 48) := by
  unfold configReason
  by_cases h : (streamOf s c i).st = .unconfigured
  · rw [h]; rfl
  · rw [if_pos h, if_pos (bne_iff_ne.mpr h)]

end Streams
end Sys2Proof.Machine

open Sys2Proof Sys2Proof.Machine Sys2Proof.Claims

/-- Settles O16: the instructions by the branches of their effects, the descriptor by `configReason`. -/
theorem streamInstructions : Obligations.StreamInstructions := by
  unfold Obligations.StreamInstructions
  refine ⟨fun c k i ad s h hn hs ha hh => ?scfg, fun c k i s h hn hs hg => ?swait, fun c k i s h hn ha hs => ?swap,
    fun c k i s h hn ha => ?sclose, fun swap c k i s h hn hc => ?closing, ?slotFault, fun c k i ad s h hf hx => ?scfgFault,
    fun c k i s h hn hs hg hf => ?swaitGone, fun c k i s h hn ha hs hf => ?swapSpent,
    fun c k i a pc found s hs hd hq hu hz => ?configures, fun c k i a pc found s hs hd hq hf hx => ?descFault⟩
  case scfg =>
    change ∃ t, execScfg c k i ad s = .next t ∧ _
    exact issue_answers (execScfg_eq ad) h (configStall_issued hn hs ha hh)
  case swait =>
    change ∃ t, execSwait c k i s = .next t ∧ _
    refine ⟨_, execSwait_eq.trans (issue_ok s c k h), ?_⟩
    rw [onSlot_named hn hs]
    exact awaitHalf_issued hg
  case swap =>
    change ∃ t, execSwap c k i s = .next t ∧ _
    refine issue_answers execSwap_eq h ?_
    rw [onSlot_named hn (by rw [ha]; decide)]
    exact swapHalf_spec ha hs
  case sclose =>
    change ∃ t, execSclose c k i s = .next t ∧ _
    refine issue_answers execSclose_eq h ?_
    rw [onSlot_named hn (by rw [ha]; decide)]
    exact closeSlot_issued ha
  case closing =>
    cases swap with
    | true =>
      change ∃ t, execSwap c k i s = .next t ∧ _
      refine issue_answers execSwap_eq h ?_
      rw [onSlot_named hn (by rw [hc]; decide), swapHalf_closing hc]
      exact retire_passed s c k
    | false =>
      change ∃ t, execSclose c k i s = .next t ∧ _
      refine issue_answers execSclose_eq h ?_
      rw [onSlot_named hn (by rw [hc]; decide), closeSlot_closing hc]
      exact retire_passed s c k
  case slotFault =>
    simp only [List.forall_mem_cons]
    refine ⟨?swait, ?swap, ?sclose, by simp⟩ <;> intro c k i s h hf hx
    case swait =>
      change ∃ t, execSwait c k i s = .next t ∧ _
      refine issue_answers execSwait_eq h ?_
      rw [onSlot_fault hx]
      exact streamFault_spec _ hf
    case swap =>
      change ∃ t, execSwap c k i s = .next t ∧ _
      refine issue_answers execSwap_eq h ?_
      rw [onSlot_fault hx]
      exact streamFault_spec _ hf
    case sclose =>
      change ∃ t, execSclose c k i s = .next t ∧ _
      refine issue_answers execSclose_eq h ?_
      rw [onSlot_fault hx]
      exact streamFault_spec _ hf
  case scfgFault =>
    change ∃ t, execScfg c k i ad s = .next t ∧ _
    refine issue_answers (execScfg_eq ad) h ?_
    rw [configStall_fault hx]
    exact streamFault_spec _ hf
  case swaitGone =>
    change ∃ t, execSwait c k i s = .next t ∧ _
    refine issue_answers execSwait_eq h ?_
    rw [onSlot_named hn hs, awaitHalf_gone hg]
    exact streamFault_spec _ hf
  case swapSpent =>
    change ∃ t, execSwap c k i s = .next t ∧ _
    refine issue_answers execSwap_eq h ?_
    rw [onSlot_named hn (by rw [ha]; decide), swapHalf_spent ha hs]
    exact streamFault_spec _ hf
  case configures => exact scfgDescriptorRead_configures hs hd hq (configReason_eq_zero hu hz)
  case descFault =>
    have hr := descRead_spec s c k a 48 hq
    have hz : configReason s c i a ≠ 0 := by
      rw [configReason_eq]
      split
      · decide
      next hc => exact hx.resolve_left hc
    refine ⟨_, execScfgDescriptorRead_bad found hs hd (by rw [hr.configReason]; exact hz), ?_⟩
    rw [hr.configReason, ← configReason_eq]
    obtain ⟨hl, hi⟩ := hr.latched hf 0x0D (streamInfo (configReason s c i a) i) pc
    have hdram : (faultCtx c k 0x0D (streamInfo (configReason s c i a) i) pc (descRead c k a 48 found s)).dram = s.dram :=
      (faultCtx_faults (c := c) (k := k)).dram.trans (by rw [hr.only])
    exact ⟨hl, hdram, hi, fun j => (faultCtx_streams ..).trans (hr.stream j)⟩
end


section
/-! PROOF. Requests of a run: what sending them leaves alone besides what the hub's frame says. The statements on submissions and on the
saving of a preempted task use it. -/

namespace Sys2Proof.Machine
open Claims

/-! ### Requests of a run of task slot `o`, or of none -/

/-- What the sending of requests leaves alone: cores, queues, the submission in hand, every task but the one that asks, and the
requests already on the bulk network. -/
structure Sent (o : Option SlotIx) (s t : State) : Prop where
  cores : t.cores = s.cores := by rfl
  queues : t.queues = s.queues := by rfl
  submit : t.submit = s.submit := by rfl
  others : ∀ j : SlotIx, o ≠ some j → t.tasks[j] = s.tasks[j] := by exact fun _ _ => rfl
  fabric : ∀ r ∈ s.fabric, r ∈ t.fabric := by exact fun _ h => h

section Sending
variable {o : Option SlotIx}

theorem Sent.refl (s : State) : Sent o s s := {}

theorem Sent.trans {s t u : State} (a : Sent o s t) (b : Sent o t u) : Sent o s u where
  cores := b.cores.trans a.cores
  queues := b.queues.trans a.queues
  submit := b.submit.trans a.submit
  others j h := (b.others j h).trans (a.others j h)
  fabric r h := b.fabric r (a.fabric r h)

theorem Sent.ite {s t u : State} {p : Prop} [Decidable p] (a : Sent o s t) (b : Sent o s u) : Sent o s (if p then t else u) := by
  split <;> assumption

theorem Sent.foldl {α : Type} {f : State → α → State} (h : ∀ s a, Sent o s (f s a)) (l : List α) (s : State) :
    Sent o s (l.foldl f s) :=
  List.foldlRecOn l f (Sent.refl s) fun u hu a _ => hu.trans (h u a)

theorem Sent.tasks {s t : State} (h : Sent none s t) : t.tasks = s.tasks :=
  Vector.ext fun i hi => h.others ⟨i, hi⟩ (by simp)

theorem modTask_sent (t : SlotIx) (f : Task → Task) (s : State) : Sent (some t) s (modTask s t f) where
  others j h := modTask_other s f fun e => h (e ▸ rfl)

theorem sendFrame_sent (p : Fin 8) (k : Packet) (f : Option (Fin 8)) (s : State) : Sent o s (sendFrame p k f s) := .ite {} {}

theorem sendPacket_sent {k : Packet} {s t : State} (h : sendPacket k s = some t) : Sent o s t := by
  unfold sendPacket at h
  split at h
  · cases h
  · cases h; exact sendFrame_sent _ k none s

theorem failReq_sent (r : MemReq) (s : State) : Sent o s (failReq r s) := by
  unfold failReq
  split <;> exact {}

theorem slowDrain_sent (n : Nat) (s : State) : Sent o s (slowDrain n s) := by
  induction n generalizing s with
  | zero => exact .refl s
  | succ n ih =>
    unfold slowDrain
    split
    next => exact .refl s
    next m _ => exact .trans (t := slowEmit m _) {} (ih _)

theorem slowGo_sent (r : MemReq) (s : State) : Sent o s (slowGo r s) := .trans {} (slowDrain_sent _ _)

theorem slowSend_sent (r : MemReq) (s : State) : Sent o s (slowSend r s) := by
  unfold slowSend
  dsimp only
  refine .ite (failReq_sent r s) (.ite (.ite (failReq_sent r s) ?_) (.ite (failReq_sent r s) (slowGo_sent r s)))
  split
  next => exact slowGo_sent r s
  next =>
    refine .ite (failReq_sent r s) ?_
    split
    · exact failReq_sent r s
    · exact .trans {} (slowGo_sent r _)

theorem remotePacket_sent (r : MemReq) (w : Bool) (data : List Byte) (poison : Bool) (s : State) :
    Sent o s (remotePacket r w data poison s) := by
  unfold remotePacket
  dsimp only
  split
  next => exact failReq_sent r s
  next t h => exact (sendPacket_sent h).trans {}

theorem remoteSend_sent (r : MemReq) (s : State) : Sent o s (remoteSend r s) :=
  .ite (failReq_sent r s) (.ite (remotePacket_sent ..) (remotePacket_sent ..))

theorem enterMesh_sent (r : MemReq) (s : State) : Sent o s (enterMesh r s) where
  fabric _ h := List.mem_append_left _ h

theorem stashAlloc_sent {t : SlotIx} {sid pg : Nat} {s u : State} {a : Nat} (h : stashAlloc t sid pg s = some (a, u)) :
    Sent (some t) s u := by
  unfold stashAlloc at h
  dsimp only at h
  split at h
  · cases h; exact modTask_sent t _ s
  · split at h
    · split at h
      · cases h
        exact .trans (.ite (.refl s) {}) (modTask_sent t _ _)
      · cases h
    · cases h

/-- An engine's request changes no task but the one it is made for. -/
theorem sendReq_sent {r : MemReq} {key : Nat} (ha : r.agent = .engine key o) (s : State) : Sent o s (sendReq r s) := by
  have go (a : Nat) (s : State) : Sent o s (match spaceOf a with
      | some .slow => slowSend { r with addr := a } s
      | some .remote => remoteSend { r with addr := a } s
      | none | some .stash => failReq { r with addr := a } s
      | some .direct | some .param | some .table => enterMesh { r with addr := a } s) := by
    split
    · exact slowSend_sent _ s
    · exact remoteSend_sent _ s
    · exact failReq_sent _ s
    · exact failReq_sent _ s
    all_goals exact enterMesh_sent _ s
  unfold sendReq
  split
  · exact failReq_sent r s
  · exact slowSend_sent r s
  · exact remoteSend_sent r s
  · dsimp only
    split
    · exact failReq_sent r s
    next t ht =>
      have ho : o = some t := by rw [ha] at ht; exact ht
      subst ho
      split
      · exact go _ s
      · refine .ite (failReq_sent r s) ?_
        split
        next h => exact (stashAlloc_sent h).trans (go _ _)
        next => exact modTask_sent t _ s
  · exact enterMesh_sent r s

/-- A request for stacked memory is on the bulk network at once. -/
theorem sendReq_direct {r : MemReq} (h : r.addr < directEnd) (s : State) :
    ∃ x ∈ (sendReq r s).fabric, x.agent = r.agent ∧ x.write = r.write := by
  have hs : spaceOf r.addr = some .direct := if_pos h
  have he : sendReq r s = enterMesh r s := by rw [sendReq, hs]
  rw [he]
  exact ⟨_, List.mem_append_right _ (List.mem_singleton_self _), rfl, rfl⟩

/-! ### Runs -/

section Runs
variable (key : Nat) (k : Rank)

/-- A run's request is made of it, after its bookkeeping. -/
theorem runSend_request (w : Bool) (a n : Nat) (data : List Byte) (poison : Bool) (s : State) :
    ∃ r c ac id rs, runSend key o k w a n data poison s = sendReq r { s with freeCtr := c, act := ac, nextId := id, runs := rs } ∧
      r.agent = .engine key o ∧ r.addr = a ∧ r.write = w := by
  unfold runSend
  dsimp only
  split <;> split <;> exact ⟨_, _, _, _, _, rfl, rfl, rfl, rfl⟩

theorem runSend_sent (w : Bool) (a n : Nat) (data : List Byte) (poison : Bool) (s : State) :
    Sent o s (runSend key o k w a n data poison s) := by
  obtain ⟨r, c, ac, id, rs, e, ha, -, -⟩ := runSend_request (o := o) key k w a n data poison s
  rw [e]
  exact .trans {} (sendReq_sent ha _)

theorem runSend_frame (w : Bool) (a n : Nat) (data : List Byte) (poison : Bool) (s : State) :
    HubFrame s (runSend key o k w a n data poison s) := by
  obtain ⟨r, c, ac, id, rs, e, -, -, -⟩ := runSend_request (o := o) key k w a n data poison s
  rw [e]
  exact .trans {} (sendReq_frame r _)

theorem runSend_direct {a : Nat} (h : a < directEnd) (w : Bool) (n : Nat) (data : List Byte) (poison : Bool) (s : State) :
    ∃ r ∈ (runSend key o k w a n data poison s).fabric, r.agent = .engine key o ∧ r.write = w := by
  obtain ⟨r, c, ac, id, rs, e, ha, hd, hw⟩ := runSend_request (o := o) key k w a n data poison s
  rw [e]
  obtain ⟨x, hx, xa, xw⟩ := sendReq_direct (r := r) (hd ▸ h) { s with freeCtr := c, act := ac, nextId := id, runs := rs }
  exact ⟨x, hx, xa.trans ha, xw.trans hw⟩

end Runs

/-- The reads of a run that are made once more leave. -/
def sendAgain (u : EngRun) (k : Rank) (l : List (Nat × Nat)) (s : State) : State :=
  l.foldl (fun s q => runSend u.key u.t k false q.1 q.2 [] false s) s

/-- One write of a run leaves. -/
def sendWrite (u : EngRun) (k : Rank) (s : State) (x : Nat × List Byte × Bool) : State :=
  (unitParts 256 x.1 x.2.1.length).foldl (fun s q =>
    runSend u.key u.t k true q.1 q.2 ((x.2.1.drop (q.1 - x.1)).take q.2) x.2.2 s) s

theorem sendAgain_sent (u : EngRun) (k : Rank) (l : List (Nat × Nat)) (s : State) : Sent u.t s (sendAgain u k l s) :=
  .foldl (fun s (q : Nat × Nat) => runSend_sent u.key k false q.1 q.2 [] false s) l s

theorem sendAgain_frame (u : EngRun) (k : Rank) (l : List (Nat × Nat)) (s : State) : HubFrame s (sendAgain u k l s) :=
  .foldl (fun s (q : Nat × Nat) => runSend_frame (o := u.t) u.key k false q.1 q.2 [] false s) l s

theorem sendWrite_sent (u : EngRun) (k : Rank) (s : State) (x : Nat × List Byte × Bool) : Sent u.t s (sendWrite u k s x) :=
  .foldl (fun s (q : Nat × Nat) => runSend_sent u.key k true q.1 q.2 _ x.2.2 s) _ s

theorem sendWrite_frame (u : EngRun) (k : Rank) (s : State) (x : Nat × List Byte × Bool) : HubFrame s (sendWrite u k s x) :=
  .foldl (fun s (q : Nat × Nat) => runSend_frame (o := u.t) u.key k true q.1 q.2 _ x.2.2 s) _ s

/-- Work that comes to pass: its run has begun to wait for its writes, and its requests leave. -/
theorem runCommit_sends (u : EngRun) (k : Rank) (wrote : List (Nat × List Byte × Bool)) (w : State) :
    ∃ v rs, v = putRun { u with got := [], ids := [], done := true } { w with probe := none } ∧
      runCommit u k wrote w = { wrote.foldl (sendWrite u k) (sendAgain u k (Probe.repeats w.probe) v) with runs := rs } :=
  ⟨_, _, rfl, rfl⟩

theorem runCommit_sent (u : EngRun) (k : Rank) (wrote : List (Nat × List Byte × Bool)) (w : State) : Sent u.t w (runCommit u k wrote w) := by
  obtain ⟨v, rs, hv, e⟩ := runCommit_sends u k wrote w
  have hw : Sent u.t w v := by rw [hv]; exact {}
  have h := (hw.trans (sendAgain_sent u k (Probe.repeats w.probe) v)).trans (.foldl (sendWrite_sent u k) wrote _)
  rw [e]
  exact h.trans {}

theorem runCommit_frame (u : EngRun) (k : Rank) (wrote : List (Nat × List Byte × Bool)) (w : State) :
    HubFrame w (runCommit u k wrote w) := by
  obtain ⟨v, rs, hv, e⟩ := runCommit_sends u k wrote w
  have hw : HubFrame w v := by rw [hv]; exact {}
  have h := (hw.trans (sendAgain_frame u k (Probe.repeats w.probe) v)).trans (.foldl (sendWrite_frame u k) wrote _)
  rw [e]
  exact h.trans {}

/-- One read that work lacks leaves, where there is room for it. -/
def fetchOne (u : EngRun) (k : Rank) (p : Probe) (s : State) (q : Nat × Nat) : State :=
  let row := (p.rows.find? fun x => x.1 == q).map (·.2)
  if runRoom s u.key q.1 q.2 row then
    let t := runSend u.key u.t k false q.1 q.2 [] false s
    match row with
    | some r => { t with runs := t.runs.map fun v => if v.key = u.key then { v with rows := v.rows ++ [(s.nextId, r)] } else v }
    | none => t
  else s

theorem runFetch_eq (u : EngRun) (k : Rank) (p : Probe) (s : State) :
    runFetch u k p s = p.want.foldl (fetchOne u k p) (putRun { u with rows := [] } s) := rfl

theorem fetchOne_sent (u : EngRun) (k : Rank) (p : Probe) (s : State) (q : Nat × Nat) : Sent u.t s (fetchOne u k p s q) := by
  unfold fetchOne
  dsimp only
  refine .ite ((runSend_sent u.key k false q.1 q.2 [] false s).trans ?_) (.refl s)
  split <;> exact {}

theorem fetchOne_frame (u : EngRun) (k : Rank) (p : Probe) (s : State) (q : Nat × Nat) : HubFrame s (fetchOne u k p s q) := by
  unfold fetchOne
  dsimp only
  refine .ite ((runSend_frame (o := u.t) u.key k false q.1 q.2 [] false s).trans ?_) (.refl s)
  split <;> exact {}

theorem runFetch_sent (u : EngRun) (k : Rank) (p : Probe) (s : State) : Sent u.t s (runFetch u k p s) :=
  .trans {} (.foldl (fetchOne_sent u k p) _ _)

theorem runFetch_frame (u : EngRun) (k : Rank) (p : Probe) (s : State) : HubFrame s (runFetch u k p s) :=
  .trans {} (.foldl (fetchOne_frame u k p) _ _)

/-- A read of stacked memory that is no row of a table always has room. -/
theorem fetchOne_direct {u : EngRun} {p : Probe} (hr : p.rows = []) {q : Nat × Nat} (h : q.1 < directEnd) (k : Rank) (s : State) :
    ∃ r ∈ (fetchOne u k p s q).fabric, r.agent = .engine u.key u.t ∧ r.write = false := by
  have hs : spaceOf q.1 = some .direct := if_pos h
  have ha (o : Option SlotIx) : resolved s o q.1 = q.1 := by
    unfold resolved
    rw [hs]
  have hroom : runRoom s u.key q.1 q.2 none = true := by
    unfold runRoom portHasRoom
    rw [ha, hs]
    cases s.runs.find? fun v => v.key == u.key <;> rfl
  have he : fetchOne u k p s q = runSend u.key u.t k false q.1 q.2 [] false s := by
    unfold fetchOne
    rw [hr]
    exact if_pos hroom
  rw [he]
  exact runSend_direct u.key k h ..

/-- The reads that work lacks in stacked memory leave. -/
theorem runFetch_direct {u : EngRun} {p : Probe} (hr : p.rows = []) (h : ∃ q ∈ p.want, q.1 < directEnd) (k : Rank) (s : State) :
    ∃ r ∈ (runFetch u k p s).fabric, r.agent = .engine u.key u.t ∧ r.write = false := by
  rw [runFetch_eq]
  exact foldl_sets (P := fun t : State => ∃ r ∈ t.fabric, r.agent = .engine u.key u.t ∧ r.write = false)
    (fun t q hq => fetchOne_direct hr hq k t) (fun t q ⟨r, hr, h⟩ => ⟨r, (fetchOne_sent u k p t q).fabric r hr, h⟩) _ _ h

end Sending

end Sys2Proof.Machine
end


section
/-! PROOF. Submissions: a queue's turn, an entry that is passed over or refused, the reading of an image and its judgment (R121, R310 to
R313). -/

namespace Sys2Proof.Machine
open Claims

section Submissions
variable {s : State} {q q' : Fin 8} {e e' : BitVec 512}

/-! ### What the command does in its cases (R310 to R312) -/

theorem exec_submissionFetch_other (hf : fetches s) (hn : nextQueue s ≠ some q) : exec (.submissionFetch q e) s = .next s := by
  obtain ⟨hq, hw, hp, hs⟩ := hf
  change execSubmissionFetch q e s = _
  unfold execSubmissionFetch
  rw [if_neg (by rw [hw, hp]; decide), hs]
  dsimp only
  rw [if_pos (by simp [hn])]

theorem exec_submissionFetch_turn (hf : fetches s) (hn : nextQueue s = some q) : exec (.submissionFetch q e) s =
    if (parseSubmission e).opc = 0 then .next (fetched s q)
    else if !(parseSubmission e).wellFormed then .next (refuseTask q (parseSubmission e) 0x05 (fetched s q))
    else submitGo (q, e) { fetched s q with submit := some (q, e) } := by
  obtain ⟨hq, hw, hp, hs⟩ := hf
  change execSubmissionFetch q e s = _
  unfold execSubmissionFetch
  rw [if_neg (by rw [hw, hp]; decide), hs]
  dsimp only
  rw [if_neg (by simp [hn, hq])]
  rfl

/-- While a submission is in hand it is gone on with. -/
theorem exec_submissionFetch_inHand (hw : s.sec.fw = .ready) (hp : s.power.shutdown = false) (hs : s.submit = some (q, e)) :
    exec (.submissionFetch q' e') s = engineRun submitKey none Rank.open_ true (submitWork q (parseSubmission e)) s := by
  change execSubmissionFetch q' e' s = _
  unfold execSubmissionFetch
  rw [if_neg (by rw [hw, hp]; decide), hs]
  rfl

/-! ### Refusal (R121, R313) -/

/-- What a refused submission leaves alone: all but the recorder, the hub's messages, the attachment and the queues. -/
def Refused (s t : State) : Prop := t = { s with recorder := t.recorder, out := t.out, cxl := t.cxl, queues := t.queues }

theorem Reported.refused {s u t : State} (h : Reported u t) (hu : Refused s u) : Refused s t := by
  have hr : t.recorder = u.recorder := by rw [h]
  exact Eq.trans h (by rw [hr, hu])

theorem refuseTask_spec (q : Fin 8) (x : Submission) (r : Byte) (s : State) :
    Refused s (refuseTask q x r s) ∧ Noted (refuseTask q x r s) (BitVec.ofNat 16 r.toNat) error 0xFF := by
  unfold refuseTask
  dsimp only
  generalize hu : (if r = 0x04 then record s 0xA102 error 0 x.image 0 0 else s) = u
  have hs : Refused s u := by subst hu; split <;> exact rfl
  have hr : Refused s (record u r.toNat error 0xFF x.image 0 0) := Eq.trans (b := { u with recorder := _ }) rfl (by rw [hs]; rfl)
  have h (c : Completion) := complete_reported q c (record u r.toNat error 0xFF x.image 0 0)
  exact ⟨(h _).refused hr, noted_mono (h _).frame.events (record_noted u ..)⟩

/-! ### An entry that is not well formed -/

theorem submissionFetch_malformed (hf : fetches s) (hn : nextQueue s = some q) (ho : (parseSubmission e).opc ≠ 0)
    (hw : (parseSubmission e).wellFormed = false) :
    ∃ t, exec (.submissionFetch q e) s = .next t ∧ t.tasks = s.tasks ∧ t.cores = s.cores ∧ t.dram = s.dram ∧
      ∃ v ∈ t.recorder.arriving, v.unit = 0xFF ∧ v.sev = 2 ∧ v.code = 5 := by
  obtain ⟨hr, v, hv, hc, hsev, hu⟩ := refuseTask_spec q (parseSubmission e) 0x05 (fetched s q)
  refine ⟨_, (exec_submissionFetch_turn hf hn).trans ?_, ?_, ?_, ?_, v, hv, hu, hsev, hc⟩
  · rw [if_neg ho, if_pos (by simp [hw])]
  all_goals rw [hr]; rfl

/-! ### The image is read (R311) -/

/-- The first unit of a range begins with it. -/
theorem unitParts_head {u a n : Nat} (hn : n ≠ 0) : ∃ m, (a, m) ∈ unitParts u a n := by
  have h : max a (a / u * u) = a := max_eq_left (Nat.div_mul_le_self a u)
  refine ⟨min (a + n) ((a / u + 1) * u) - a, ?_⟩
  rw [unitParts, if_neg hn]
  refine List.mem_map.mpr ⟨0, List.mem_range.mpr (Nat.succ_pos _), ?_⟩
  simp only [Nat.add_zero, h]

/-- A first read of work that has read nothing brings no bytes and lacks the range's first unit. -/
theorem devRead_fresh {p : Probe} (hp : s.probe = some p) (hg : p.got = []) (hw : p.want = []) (hr : p.row = none) {a n : Nat} (hn : n ≠ 0) :
    (devRead a n s).1 = [] ∧ ∃ w, (devRead a n s).2.2 = { s with probe := some { p with want := w } } ∧ ∃ x ∈ w, x.1 = a := by
  obtain ⟨m, hm⟩ := unitParts_head (u := 64) (a := a) hn
  obtain ⟨m', hm'⟩ := unitParts_head (u := 256) (a := a) hn
  have hnone (x : Nat × Nat) : gotPiece p.got x = none := by rw [hg]; rfl
  unfold devRead
  rw [hp]
  dsimp only
  refine ⟨?_, _, by rw [hr], (a, m'), ?_, rfl⟩
  · refine if_pos (List.any_eq_true.mpr ⟨_, List.mem_map.mpr ⟨_, hm, rfl⟩, ?_⟩)
    simp [hnone]
  · rw [hw]
    simp only [List.nil_append, List.contains_nil, Bool.not_false, List.filter_true, List.mem_filter, List.any_eq_true]
    refine ⟨hm', _, List.mem_map.mpr ⟨_, hm, rfl⟩, ?_⟩
    simp [hnone]

/-- Before its image's header has come a submission's work lacks it, and nothing else. -/
theorem submitWork_unread {x : Submission} {p : Probe} (hp : s.probe = some p) (hg : p.got = []) (hw : p.want = []) (hr : p.row = none) :
    ∃ w, (submitWork q x s).probe = some { p with want := w } ∧ ∃ y ∈ w, y.1 = x.image := by
  obtain ⟨hb, w, hd, hy⟩ := devRead_fresh hp hg hw hr (a := x.image) (n := 256) (by decide)
  refine ⟨w, ?_, hy⟩
  have hc (t : State) : firstChecks t x (parseHeader []) [] = 0x01 := if_pos (by decide)
  unfold submitWork
  dsimp only
  rw [hb, hd]
  simp only [List.isEmpty_nil, if_true, hc]
  rw [if_neg (by decide), (refuseTask_spec _ _ _ _).1]

/-- The state with the fetched entry of queue `q` in hand. -/
def inHand (s : State) (q : Fin 8) (e : BitVec 512) : State := { fetched s q with submit := some (q, e) }

theorem submissionFetch_reads (hf : fetches s) (hn : nextQueue s = some q) (hx : (parseSubmission e).wellFormed = true)
    (hr : running s submitKey = false) :
    ∃ t, exec (.submissionFetch q e) s = .next t ∧ t.submit = some (q, e) ∧ t.queues = (fetched s q).queues ∧
      t.tasks = s.tasks ∧ t.cores = s.cores ∧ t.dram = s.dram ∧ ∃ r ∈ t.fabric, r.agent = .engine submitKey none ∧ r.write = false := by
  have ho : (parseSubmission e).opc ≠ 0 := by
    intro h
    rw [Submission.wellFormed, h] at hx
    simp at hx
  have ha : (parseSubmission e).image < directEnd := by
    simp only [Submission.wellFormed, Bool.and_eq_true, decide_eq_true_eq] at hx
    omega
  have hrun : runOf (inHand s q e) submitKey none = { key := submitKey, t := none, got := [], ids := [], done := false } :=
    runOf_idle hr
  obtain ⟨w, hw, y, hy, hya⟩ := submitWork_unread (q := q) (x := parseSubmission e)
    (s := probing (runOf (inHand s q e) submitKey none) (inHand s q e)) rfl (by rw [hrun]) rfl rfl
  have he : exec (.submissionFetch q e) s = engineRun submitKey none Rank.open_ true (submitWork q (parseSubmission e)) (inHand s q e) := by
    rw [exec_submissionFetch_turn hf hn, if_neg ho, if_neg (by simp [hx])]
    rfl
  have hg := he.trans (engineRunIf_fetch (k := Rank.open_) (ready := fun _ => true) (by rw [hrun]) (by rw [hrun]) hw
    (List.ne_nil_of_mem hy))
  refine ⟨_, hg, ?_⟩
  rw [hrun]
  have hsent := runFetch_sent { key := submitKey, t := none, got := [], ids := [], done := false } Rank.open_
    { key := submitKey, got := [], want := w, wrote := [] } (inHand s q e)
  have hframe := runFetch_frame { key := submitKey, t := none, got := [], ids := [], done := false } Rank.open_
    { key := submitKey, got := [], want := w, wrote := [] } (inHand s q e)
  exact ⟨hsent.submit, hsent.queues, hsent.tasks, hsent.cores, hframe.dram, runFetch_direct rfl ⟨y, hy, hya ▸ ha⟩ Rank.open_ _⟩

/-! ### The image has been read (R121) -/

/-- What the judging of a submission sees: its header, and its sections and signed part once the header has come. -/
def imageSeen (x : Submission) (s : State) : State :=
  let r := devRead x.image 256 s
  if r.1.isEmpty then r.2.2 else seeSigned x.image (parseHeader r.1) (seeImage x.image (parseHeader r.1) r.2.2)

theorem seeImage_spec (a : Nat) (h : Header) (s : State) : OnlyProbe s (seeImage a h s) ∧ (ReadsOnly s → ReadsOnly (seeImage a h s)) := by
  unfold seeImage
  split
  · refine List.foldlRecOn (motive := fun t => OnlyProbe s t ∧ (ReadsOnly s → ReadsOnly t)) _ _ ⟨rfl, id⟩ fun t ht x _ => ?_
    exact ⟨ht.1.trans (see_only _ _ t), fun hs => see_readsOnly _ _ (ht.2 hs)⟩
  · exact ⟨rfl, id⟩

theorem seeSigned_spec (a : Nat) (h : Header) (s : State) : OnlyProbe s (seeSigned a h s) ∧ (ReadsOnly s → ReadsOnly (seeSigned a h s)) := by
  unfold seeSigned
  split
  · exact ⟨rfl, id⟩
  · exact ⟨see_only _ _ s, see_readsOnly _ _⟩

theorem imageSeen_spec (x : Submission) (s : State) : OnlyProbe s (imageSeen x s) ∧ (ReadsOnly s → ReadsOnly (imageSeen x s)) := by
  have hd : OnlyProbe s (devRead x.image 256 s).2.2 := see_only x.image 256 s
  have hr : ReadsOnly s → ReadsOnly (devRead x.image 256 s).2.2 := see_readsOnly x.image 256
  unfold imageSeen
  dsimp only
  split
  · exact ⟨hd, hr⟩
  · obtain ⟨hi, hri⟩ := seeImage_spec x.image (parseHeader (devRead x.image 256 s).1) (devRead x.image 256 s).2.2
    obtain ⟨hg, hrg⟩ := seeSigned_spec x.image (parseHeader (devRead x.image 256 s).1)
      (seeImage x.image (parseHeader (devRead x.image 256 s).1) (devRead x.image 256 s).2.2)
    exact ⟨(hd.trans hi).trans hg, fun h => hrg (hri (hr h))⟩

theorem submission_eq (s : State) (e : BitVec 512) :
    submission s e = { imageSeen (parseSubmission e) (probing (runOf s submitKey none) s) with submit := none } := rfl

/-- The judging only reads; the submission is no longer in hand. -/
theorem submission_keeps (s : State) (e : BitVec 512) : (submission s e).tasks = s.tasks ∧ (submission s e).cores = s.cores ∧
    (submission s e).dram = s.dram ∧ (submission s e).submit = none ∧ ReadsOnly (submission s e) := by
  obtain ⟨ho, hr⟩ := imageSeen_spec (parseSubmission e) (probing (runOf s submitKey none) s)
  rw [submission_eq]
  refine ⟨?_, ?_, ?_, rfl, hr (probing_readsOnly _ s)⟩
  all_goals rw [ho]; rfl

theorem submitWork_eq (s : State) (q : Fin 8) (e : BitVec 512) :
    submitWork q (parseSubmission e) (probing (runOf s submitKey none) s) =
      if judged s e = 0 then
        acceptTask q (parseSubmission e) (parseHeader (readBy s submitKey none (parseSubmission e).image 256)) (submission s e)
      else refuseTask q (parseSubmission e) (judged s e) (submission s e) := rfl

/-! ### Acceptance (R121) -/

/-- Where every check passes a slot is free. -/
theorem firstChecks_slot {x : Submission} {h : Header} {raw : List Byte} (hc : firstChecks s x h raw = 0) :
    s.tasks.toList.all Task.resident = false := by
  by_contra hall
  rw [Bool.not_eq_false] at hall
  unfold firstChecks at hc
  simp only [hall, reduceIte] at hc
  split_ifs at hc <;> exact absurd hc (by decide)

/-- The slots that no task occupies. -/
def freeSlots (s : State) : List SlotIx := (List.finRange 16).filter fun t => !s.tasks[t].resident

theorem freeSlots_ne_nil (hs : s.tasks.toList.all Task.resident = false) : freeSlots s ≠ [] := by
  obtain ⟨x, hx, hr⟩ := List.all_eq_false.mp hs
  obtain ⟨n, hn, rfl⟩ := Vector.mem_iff_getElem.mp (Vector.mem_toList_iff.mp hx)
  exact List.ne_nil_of_mem (a := ⟨n, hn⟩) (List.mem_filter.mpr ⟨List.mem_finRange _, by simpa using hr⟩)

/-- A free choice among the free slots is one of them. -/
theorem freeSlots_getD (hs : s.tasks.toList.all Task.resident = false) (n : Nat) :
    s.tasks[(freeSlots s).getD (n % atLeast1 (freeSlots s).length) 0].resident = false := by
  have hl : 0 < (freeSlots s).length := List.length_pos_iff.mpr (freeSlots_ne_nil hs)
  have hn : n % atLeast1 (freeSlots s).length < (freeSlots s).length := by
    rw [atLeast1, if_neg (by omega)]
    exact Nat.mod_lt _ hl
  have hm : (freeSlots s).getD (n % atLeast1 (freeSlots s).length) 0 ∈ freeSlots s := by
    rw [List.getD_eq_getElem _ _ hn]
    exact List.getElem_mem hn
  exact (Bool.not_eq_true' _).mp (List.mem_filter.mp hm).2

/-- What an accepted submission changes: the free slot that its task takes, the free choices, and the saddlebag. -/
theorem acceptTask_spec (q : Fin 8) (x : Submission) (h : Header) (hs : s.tasks.toList.all Task.resident = false) :
    ∃ (i : SlotIx) (T : Task) (c : Nat) (m : Mirror), s.tasks[i].resident = false ∧ T.st = .loading ∧ T.hdr = h ∧ T.queue = some q ∧
      acceptTask q x h s = { s with freeCtr := c, tasks := s.tasks.set i T, mir := m } := by
  have hi := freeSlots_getD hs (Config.free 16 s.freeCtr).toNat
  unfold acceptTask
  dsimp only
  split
  · exact ⟨_, _, _, _, hi, rfl, rfl, rfl, rfl⟩
  · exact ⟨_, _, _, _, hi, rfl, rfl, rfl, rfl⟩

theorem submissionFetch_accepted (hw : s.sec.fw = .ready) (hp : s.power.shutdown = false) (hs : s.submit = some (q, e))
    (hc : Complete submitKey none (submitWork q (parseSubmission e)) s) (hj : judged s e = 0) :
    ∃ t i, exec (.submissionFetch q' e') s = .next t ∧ s.tasks[i].resident = false ∧ t.tasks[i].st = .loading ∧
      t.tasks[i].hdr = parseHeader (readBy s submitKey none (parseSubmission e).image 256) ∧ t.tasks[i].queue = some q ∧
      OtherTasks s t i ∧ t.cores = s.cores ∧ t.dram = s.dram ∧ t.submit = none := by
  obtain ⟨htasks, hcores, hdram, hsubmit, hr⟩ := submission_keeps s e
  obtain ⟨i, T, c, m, hfree, hst, hhdr, hq, hacc⟩ := acceptTask_spec q (parseSubmission e)
    (parseHeader (readBy s submitKey none (parseSubmission e).image 256)) (firstChecks_slot hj)
  have hwork := ((submitWork_eq s q e).trans (if_pos hj)).trans hacc
  obtain ⟨rs, he⟩ := exec_of_complete (exec_submissionFetch_inHand (q' := q') (e' := e') hw hp hs) hc (by rw [hwork]; exact hr)
  rw [hwork] at he
  rw [htasks] at hfree
  have hi : (s.tasks.set i T)[i] = T := by simp
  have ho (j : SlotIx) (h : j ≠ i) : (s.tasks.set i T)[j] = s.tasks[j] := by
    have hv : i.val ≠ j.val := fun e => h (Fin.ext e.symm)
    simp [hv]
  refine ⟨_, i, he, hfree, ?_, ?_, ?_, fun j hj => ?_, hcores, hdram, hsubmit⟩
  all_goals dsimp only; rw [htasks]
  · rw [hi, hst]
  · rw [hi, hhdr]
  · rw [hi, hq]
  · exact ho j hj

theorem submissionFetch_refused (hw : s.sec.fw = .ready) (hp : s.power.shutdown = false) (hs : s.submit = some (q, e))
    (hc : Complete submitKey none (submitWork q (parseSubmission e)) s) (hj : judged s e ≠ 0) :
    ∃ t, exec (.submissionFetch q' e') s = .next t ∧ t.tasks = s.tasks ∧ t.cores = s.cores ∧ t.dram = s.dram ∧
      t.submit = none ∧ ∃ v ∈ t.recorder.arriving, v.unit = 0xFF ∧ v.sev = 2 ∧ v.code.toNat = (judged s e).toNat := by
  obtain ⟨htasks, hcores, hdram, hsubmit, hr⟩ := submission_keeps s e
  obtain ⟨hf, v, hv, hcode, hsev, hunit⟩ := refuseTask_spec q (parseSubmission e) (judged s e) (submission s e)
  have hwork := (submitWork_eq s q e).trans (if_neg hj)
  obtain ⟨rs, he⟩ := exec_of_complete (exec_submissionFetch_inHand (q' := q') (e' := e') hw hp hs) hc
    (by rw [hwork, hf]; exact hr)
  rw [hwork] at he
  generalize refuseTask q _ _ _ = w at he hf hv
  have hcode : v.code.toNat = (judged s e).toNat := by
    rw [hcode, BitVec.toNat_ofNat, Nat.mod_eq_of_lt (by omega)]
  refine ⟨_, he, ?_, ?_, ?_, ?_, v, hv, hunit, hsev, hcode⟩
  · exact Eq.trans (by rw [hf]) htasks
  · exact Eq.trans (by rw [hf]) hcores
  · exact Eq.trans (by rw [hf]) hdram
  · exact Eq.trans (by rw [hf]) hsubmit

end Submissions

/-- Settles O33: a clause for each case of the command, a queue out of turn, a NOP, an entry that is not well formed, the reading of an
image, and an image that has been judged. -/
theorem submissionFetched : Obligations.SubmissionFetched :=
  ⟨fun _ _ _ => exec_submissionFetch_other,
   fun _ _ _ hf hn ho => (exec_submissionFetch_turn hf hn).trans (if_pos ho),
   fun _ _ _ => submissionFetch_malformed, fun _ _ _ => submissionFetch_reads,
   fun _ _ _ _ _ hw hp hs => ⟨carries_of_engineRun (exec_submissionFetch_inHand hw hp hs),
    fun hc => ⟨submissionFetch_accepted hw hp hs hc, submissionFetch_refused hw hp hs hc⟩⟩⟩

end Sys2Proof.Machine
end


section
/-! PROOF. Tasks that are held, saved and given back their quantum (R124, R125), and the lead and the end of a reservation (R127). -/

namespace Sys2Proof.Machine
open Claims

section Holding
variable {i : SlotIx} {s : State}

/-! ### Holding a task (R124) -/

/-- A task that is held. -/
def Task.held (x : Task) : Task := { x with st := .preempting, hold := true, saved := [] }

/-- A context of a held task: one that is READY waits. -/
def Ctx.held (x : Ctx) : Ctx := if x.st = .ready then { x with st := .waiting, kind := .hold } else x

theorem holdTask_eq (i : SlotIx) (s : State) : holdTask i s =
    mapTaskCores (modTask s i Task.held) i fun c => { c with ctx := c.ctx.map Ctx.held } := rfl

/-- A hold changes the task and its cores. -/
theorem holdTask_only (i : SlotIx) (s : State) : holdTask i s = { s with tasks := (holdTask i s).tasks, cores := (holdTask i s).cores } := rfl

theorem holdTask_same (i : SlotIx) (s : State) : (holdTask i s).tasks[i] = s.tasks[i].held := modTask_same s i Task.held

theorem holdTask_other {j : SlotIx} (h : j ≠ i) (s : State) : (holdTask i s).tasks[j] = s.tasks[j] := modTask_other s Task.held h

theorem holdTask_ctx (c : CoreIx) (k : CtxIx) : ctx (holdTask i s) c k = if s.cores[c].slot = some i then (ctx s c k).held else ctx s c k := by
  unfold ctx
  rw [holdTask_eq, mapTaskCores_core, modTask_cores]
  split
  · simp
  · rfl

/-! ### The end of a quantum (R124) -/

theorem exec_quantumExpiry (hst : s.tasks[i].st = .running) (hh : s.tasks[i].halting = none) (hf : s.tasks[i].hdr.flag 4 = true)
    (hp : s.tasks[i].pinned = false) (hq : s.tasks[i].quantumEnd ≤ ftNow s) : exec (.quantumExpiry i) s =
      if othersWait s i || testsFirst s i then .next (holdTask i s)
      else .next (modTask s i fun x => { x with quantumEnd := frameUp (ftNow s) + 640 * s.sec.quantum }) := by
  have h : quantumOver s.tasks[i] (ftNow s) = true := by
    rw [quantumOver, hst, hh, hf, hp, decide_eq_true hq]
    rfl
  change execQuantumExpiry i s = _
  unfold execQuantumExpiry
  exact if_pos h

theorem quantumExpiry_spec (hst : s.tasks[i].st = .running) (hh : s.tasks[i].halting = none) (hf : s.tasks[i].hdr.flag 4 = true)
    (hp : s.tasks[i].pinned = false) (hq : s.tasks[i].quantumEnd ≤ ftNow s) :
    ∃ t, exec (.quantumExpiry i) s = .next t ∧ OtherTasks s t i ∧ t = { s with tasks := t.tasks, cores := t.cores } ∧
      (if (othersWait s i || testsFirst s i) = true then
        t.tasks[i] = { s.tasks[i] with st := .preempting, hold := true, saved := [] } ∧
        (∀ c k, s.cores[c].slot = some i → (ctx s c k).st = .ready →
          ctx t c k = { ctx s c k with st := .waiting, kind := .hold }) ∧
        ∀ c k, ¬(s.cores[c].slot = some i ∧ (ctx s c k).st = .ready) → ctx t c k = ctx s c k
       else t.cores = s.cores ∧ t.tasks[i] = { s.tasks[i] with quantumEnd := frameUp (ftNow s) + 640 * s.sec.quantum }) := by
  rw [exec_quantumExpiry hst hh hf hp hq]
  split
  · refine ⟨_, rfl, fun j hj => holdTask_other hj s, holdTask_only i s, holdTask_same i s, fun c k hc hk => ?_, fun c k h => ?_⟩
    · rw [holdTask_ctx, if_pos hc, Ctx.held, if_pos hk]
    · rw [holdTask_ctx]
      split
      next hc => exact if_neg fun hk => h ⟨hc, hk⟩
      next => rfl
  · exact ⟨_, rfl, fun j hj => modTask_other s _ hj, rfl, rfl, modTask_same s i _⟩

/-! ### Saving (R124, R125) -/

/-- The record of a core as a preemption saves it. -/
def Core.saved (c : CoreIx) (x : Core) : SaveRec :=
  { core := c, ctx := x.ctx, counters := x.counters, streams := x.streams.map Stream.atSave,
    windows := x.windows, barred := x.barred, array := x.array, pend := x.pend }

/-- The work in evaluation lacks no read. -/
def LacksNone (s : State) : Prop := ∃ p, s.probe = some p ∧ p.want = []

theorem writeSave_spec (t : SlotIx) (a : Nat) (r : SaveRec) (s : State) :
    OnlyProbe s (writeSave t a r s) ∧ (LacksNone s → LacksNone (writeSave t a r s)) :=
  List.foldlRecOn (motive := fun u => OnlyProbe s u ∧ (LacksNone s → LacksNone u)) (r.parts t (ftNow s) a)
    (fun s q => devWrite q.1 q.2 false s) ⟨rfl, id⟩ fun u hu q _ => ⟨hu.1.trans rfl, fun h => by
      obtain ⟨p, hp, hw⟩ := hu.2 h
      exact ⟨{ p with wrote := p.wrote ++ [(q.1, q.2, false)] }, by rw [devWrite, hp]; rfl, hw⟩⟩

/-- The save of one core: its record joins the task's, and the core is given up. -/
structure CoreSaved (t : SlotIx) (q : CoreIx × Nat) (s u : State) : Prop where
  saved : u.tasks[t].saved = s.tasks[t].saved ++ [s.cores[q.1].saved q.1]
  others : OtherTasks s u t
  slot : u.cores[q.1].slot = none
  cores : ∀ c, c ≠ q.1 → u.cores[c] = s.cores[c]
  lacks : LacksNone s → LacksNone u

theorem saveCore_spec (t : SlotIx) (q : CoreIx × Nat) (s : State) : CoreSaved t q s (saveCore t q s) := by
  obtain ⟨ho, hl⟩ := writeSave_spec t (s.tasks[t].saveBase.toNat + saveSize * q.2) (s.cores[q.1].saved q.1) s
  unfold saveCore
  dsimp only
  change CoreSaved t q s (modCore (modTask (writeSave t _ (s.cores[q.1].saved q.1) s) t fun y => { y with saved := y.saved ++ [s.cores[q.1].saved q.1] }) q.1 _)
  generalize writeSave t _ _ s = v at ho hl ⊢
  have ht : v.tasks = s.tasks := by rw [ho]
  have hc : v.cores = s.cores := by rw [ho]
  refine ⟨?_, fun j hj => ?_, ?_, fun c h => ?_, hl⟩
  · rw [modCore_tasks, modTask_same, ht]
  · rw [modCore_tasks, modTask_other v _ hj, ht]
  · rw [modCore_core]
  · rw [modCore_other _ _ _ h, modTask_cores, hc]

/-- The save of a task's cores, each with its place. -/
def saveCores (t : SlotIx) (l : List (CoreIx × Nat)) (s : State) : State := l.foldl (fun s q => saveCore t q s) s

theorem saveCores_saved (t : SlotIx) : ∀ (l : List (CoreIx × Nat)) (s : State),
    (saveCores t l s).tasks[t].saved.map (·.core) = s.tasks[t].saved.map (·.core) ++ l.map (·.1)
  | [], s => by simp [saveCores]
  | q :: l, s => by
    have h := saveCores_saved t l (saveCore t q s)
    rw [(saveCore_spec t q s).saved] at h
    refine Eq.trans h ?_
    simp [Core.saved]

theorem saveCores_keeps (t : SlotIx) (l : List (CoreIx × Nat)) (s : State) :
    OtherTasks s (saveCores t l s) t ∧ (LacksNone s → LacksNone (saveCores t l s)) :=
  List.foldlRecOn (motive := fun u => OtherTasks s u t ∧ (LacksNone s → LacksNone u)) l (fun s q => saveCore t q s)
    ⟨fun _ _ => rfl, id⟩ fun u hu q _ =>
      have h := saveCore_spec t q u
      ⟨fun j hj => (h.others j hj).trans (hu.1 j hj), fun hs => h.lacks (hu.2 hs)⟩

theorem saveCores_slot {t : SlotIx} {l : List (CoreIx × Nat)} {c : CoreIx} (hc : c ∈ l.map (·.1)) (s : State) :
    (saveCores t l s).cores[c].slot = none := by
  obtain ⟨q, hq, e⟩ := List.mem_map.mp hc
  refine foldl_sets (P := fun u : State => u.cores[c].slot = none) (p := fun q : CoreIx × Nat => q.1 = c)
    (fun u q hq => by subst hq; exact (saveCore_spec t q u).slot) (fun u q hu => ?_) l s ⟨q, hq, e⟩
  have h := saveCore_spec t q u
  by_cases hq : q.1 = c
  · subst hq; exact h.slot
  · rw [h.cores c (Ne.symm hq)]; exact hu

theorem preemptSave_saves (hst : s.tasks[i].st = .preempting) (hs : s.tasks[i].saved = []) (hr : running s (taskKey i 2) = false)
    (hq : heldQuiet s s.tasks[i] = true) : ∃ t, exec (.preemptSave i) s = .next t ∧ OtherTasks s t i ∧
      t.tasks[i].saved.map (·.core) = s.tasks[i].cores ∧ ∀ c ∈ s.tasks[i].cores, t.cores[c].slot = none := by
  have hmap : (s.tasks[i].cores.zip (List.range s.tasks[i].cores.length)).map (·.1) = s.tasks[i].cores := List.map_fst_zip (by simp)
  have he : exec (.preemptSave i) s = engineRun (taskKey i 2) (some i) Rank.open_ true
      (saveCores i (s.tasks[i].cores.zip (List.range s.tasks[i].cores.length))) s := by
    change execPreemptSave i s = _
    unfold execPreemptSave
    dsimp only
    rw [if_neg (by rw [hst]; decide), if_pos (by rw [hs]; rfl), if_pos hq]
    rfl
  have hrun := runOf_idle (o := some i) hr
  obtain ⟨ho, hl⟩ := saveCores_keeps i (s.tasks[i].cores.zip (List.range s.tasks[i].cores.length)) (probing (runOf s (taskKey i 2) (some i)) s)
  have hsaved := saveCores_saved i (s.tasks[i].cores.zip (List.range s.tasks[i].cores.length)) (probing (runOf s (taskKey i 2) (some i)) s)
  have hslot (c : CoreIx) (hc : c ∈ s.tasks[i].cores) := saveCores_slot (t := i) (hmap.symm ▸ hc)
    (probing (runOf s (taskKey i 2) (some i)) s)
  obtain ⟨p, hp, hw⟩ := hl ⟨_, rfl, rfl⟩
  have hnext := he.trans (engineRunIf_commit (k := Rank.open_) (by rw [hrun]) (by rw [hrun]) hp hw rfl)
  generalize saveCores i _ _ = w at ho hsaved hslot hnext
  have hsent := runCommit_sent (runOf s (taskKey i 2) (some i)) Rank.open_ p.wrote w
  obtain ⟨x, y, htask⟩ := (runCommit_frame (runOf s (taskKey i 2) (some i)) Rank.open_ p.wrote w).tasks i
  refine ⟨_, hnext, fun j hj => ?_, ?_, fun c hc => ?_⟩
  · refine (hsent.others j ?_).trans (ho j hj)
    rw [hrun]
    simpa using Ne.symm hj
  · rw [htask]
    refine hsaved.trans ?_
    rw [hmap]
    change s.tasks[i].saved.map _ ++ _ = _
    rw [hs]
    rfl
  · rw [hsent.cores]
    exact hslot c hc

/-- What PREEMPT_SAVE does once the records have been made. -/
theorem exec_preemptSave_saved (hst : s.tasks[i].st = .preempting) (hs : s.tasks[i].saved ≠ []) : exec (.preemptSave i) s =
    if running s (taskKey i 2) then .next s
    else s.tasks[i].halting.elim (.next (modTask s i fun x => { x with st := .preempted, hold := false }))
      fun r => .next (haltedTask i r s) := by
  change execPreemptSave i s = _
  unfold execPreemptSave
  dsimp only
  rw [if_neg (by rw [hst]; decide), if_neg (by simpa using hs)]
  cases s.tasks[i].halting <;> rfl

theorem preemptSave_saved (hst : s.tasks[i].st = .preempting) (hs : s.tasks[i].saved ≠ []) :
    (running s (taskKey i 2) = true → exec (.preemptSave i) s = .next s) ∧
    (running s (taskKey i 2) = false → s.tasks[i].halting = none →
      ∃ t, exec (.preemptSave i) s = .next t ∧ t = { s with tasks := t.tasks } ∧ OtherTasks s t i ∧
        t.tasks[i] = { s.tasks[i] with st := .preempted, hold := false }) ∧
    (∀ r, running s (taskKey i 2) = false → s.tasks[i].halting = some r → s.tasks[i].autoRelease = false →
      ∃ t, exec (.preemptSave i) s = .next t ∧ t.tasks[i].st = .faulted ∧ t.tasks[i].reason = r) := by
  have he := exec_preemptSave_saved hst hs
  refine ⟨fun hr => he.trans (if_pos hr), fun hr hh => ?_, fun r hr hh ha => ?_⟩
  all_goals rw [he, if_neg (by rw [hr]; decide), hh]
  · exact ⟨_, rfl, rfl, fun j hj => modTask_other s _ hj, modTask_same s i _⟩
  · obtain ⟨c, x, hf⟩ := faultTask_same i r false s
    have hd : haltedTask i r s = faultTask i r false s := if_neg (by rw [ha]; decide)
    exact ⟨_, rfl, by rw [hd, hf], by rw [hd, hf]⟩

/-! ### The lead and the end of a reservation (R127) -/

/-- The lead of reservation `v` holds the task in slot `j`. -/
def LeadHolds (v : Resv) (j : SlotIx) (x : Task) : Prop :=
  j ≠ v.task ∧ x.st = .running ∧ x.halting = none ∧ x.hdr.flag 4 = true ∧ x.pinned = false ∧ x.sectors &&& v.sectors ≠ 0

/-- One task at the lead of a reservation. -/
def leadTask (v : Resv) (s : State) (j : SlotIx) : State :=
  let x := s.tasks[j]
  if j != v.task && x.st == .running && x.halting.isNone && x.hdr.flag 4 && !x.pinned && (x.sectors &&& v.sectors) != 0 then
    holdTask j s
  else s

theorem leadTask_of_holds {v : Resv} {j : SlotIx} (h : LeadHolds v j s.tasks[j]) : leadTask v s j = holdTask j s := by
  obtain ⟨hj, hst, hh, hf, hp, hs⟩ := h
  exact if_pos (by rw [bne_iff_ne.mpr hj, hst, hh, hf, hp, bne_iff_ne.mpr hs]; rfl)

theorem leadTask_of_not {v : Resv} {j : SlotIx} (h : ¬LeadHolds v j s.tasks[j]) : leadTask v s j = s := by
  refine if_neg fun hc => h ?_
  simp only [Bool.and_eq_true, bne_iff_ne, beq_iff_eq, Option.isNone_iff_eq_none, Bool.not_eq_true'] at hc
  obtain ⟨⟨⟨⟨⟨hj, hst⟩, hh⟩, hf⟩, hp⟩, hs⟩ := hc
  exact ⟨hj, hst, hh, hf, hp, hs⟩

theorem leadTask_only (v : Resv) (s : State) (j : SlotIx) :
    leadTask v s j = { s with tasks := (leadTask v s j).tasks, cores := (leadTask v s j).cores } := by
  unfold leadTask
  dsimp only
  split
  · exact holdTask_only j s
  · rfl

theorem leadTask_other (v : Resv) {j a : SlotIx} (h : j ≠ a) (s : State) : (leadTask v s a).tasks[j] = s.tasks[j] := by
  unfold leadTask
  dsimp only
  split
  · exact holdTask_other h s
  · rfl

open Classical in
theorem leadTask_same (v : Resv) (j : SlotIx) (s : State) :
    (leadTask v s j).tasks[j] = if LeadHolds v j s.tasks[j] then s.tasks[j].held else s.tasks[j] := by
  split
  next h => rw [leadTask_of_holds h, holdTask_same]
  next h => rw [leadTask_of_not h]

/-- The state once the lead has held the tasks in its way. -/
def leadTasks (v : Resv) (s : State) : State := (List.finRange 16).foldl (leadTask v) s

theorem leadTasks_only (v : Resv) (s : State) :
    leadTasks v s = { s with tasks := (leadTasks v s).tasks, cores := (leadTasks v s).cores } :=
  List.foldlRecOn (motive := fun u : State => u = { s with tasks := u.tasks, cores := u.cores }) _ (leadTask v) rfl fun u hu j _ =>
    Eq.trans (leadTask_only v u j) (by rw [hu])

open Classical in
theorem leadTasks_tasks (v : Resv) (j : SlotIx) (s : State) :
    (leadTasks v s).tasks[j] = if LeadHolds v j s.tasks[j] then s.tasks[j].held else s.tasks[j] := by
  refine foldl_finRange_hits (before := fun u : State => u.tasks[j] = s.tasks[j])
    (after := fun u : State => u.tasks[j] = if LeadHolds v j s.tasks[j] then s.tasks[j].held else s.tasks[j]) j
    (fun u a ha hu => (leadTask_other v (Ne.symm ha) u).trans hu) (fun u hu => ?_)
    (fun u a ha hu => (leadTask_other v (Ne.symm ha) u).trans hu) rfl
  rw [leadTask_same, hu]

theorem reservationLead_spec {r : Fin 16} {v : Resv} (hr : s.resv[r] = some v) (hl : v.leadDone = false) (ha : v.active = false)
    (hd : leadFt s v ≤ ftNow s) :
    ∃ t, exec (.reservationLead r) s = .next t ∧ t.resv = s.resv.set r (some { v with leadDone := true }) ∧ t.dram = s.dram ∧
      ∀ j, t.tasks[j] = (if j ≠ v.task ∧ s.tasks[j].st = .running ∧ s.tasks[j].halting = none ∧ s.tasks[j].hdr.flag 4 = true ∧
                            s.tasks[j].pinned = false ∧ s.tasks[j].sectors &&& v.sectors ≠ 0 then
                           { s.tasks[j] with st := .preempting, hold := true, saved := [] }
                         else s.tasks[j]) := by
  have hdue : leadDue s v = true := by rw [leadDue, hl, ha, decide_eq_true hd]; rfl
  have he : exec (.reservationLead r) s =
      .next { leadTasks v s with resv := (leadTasks v s).resv.set r (some { v with leadDone := true }) } := by
    change execReservationLead r s = _
    unfold execReservationLead
    rw [hr]
    exact if_neg (by rw [hdue]; decide)
  refine ⟨_, he, ?_, ?_, fun j => ?_⟩
  · dsimp only
    rw [leadTasks_only]
  · dsimp only
    rw [leadTasks_only]
  · refine (leadTasks_tasks v j s).trans ?_
    unfold LeadHolds
    split <;> rfl

theorem reservationEnd_spec {r : Fin 16} {v : Resv} (hr : s.resv[r] = some v) (hf : atFrame s = true) (hv : v.stop.toNat ≤ ftNow s) :
    ∃ t, exec (.reservationEnd r) s = .next t ∧ t.tasks[v.task].pinned = false ∧ OtherTasks s t v.task ∧
      t.resv = s.resv.set r none ∧ t = { s with tasks := t.tasks, resv := t.resv } := by
  have ho : resvOver s v = true := by rw [resvOver, hf, decide_eq_true hv]; rfl
  have he : exec (.reservationEnd r) s = .next { modTask s v.task (fun x => { x with pinned := false, quantumEnd := ftNow s }) with
      resv := s.resv.set r none } := by
    change execReservationEnd r s = _
    unfold execReservationEnd
    rw [hr]
    exact if_pos ho
  refine ⟨_, he, ?_, fun j hj => ?_, rfl, rfl⟩
  all_goals dsimp only
  · rw [modTask_same]
  · rw [modTask_other s _ hj]

end Holding

end Sys2Proof.Machine
end


section
/-! PROOF. Tasks that are restored from their save records (R124, R125, R219, R289), and the start of a reservation (R127); with these the
statement on task scheduling. -/

namespace Sys2Proof.Machine
open Claims

/-! ### Counters at a restore (R212, R219) -/

/-- What signals that reach core counters leave alone: of the machine all but what they and the faults they bring change, and of a core
its task, windows and array. -/
structure Counted (s u : State) : Prop where
  only : u = { s with cores := u.cores, tasks := u.tasks, recorder := u.recorder, freeCtr := u.freeCtr, incs := u.incs,
                      reports := u.reports, time := u.time, gctr := u.gctr, gregs := u.gregs } := by rfl
  cores : ∀ d : CoreIx, u.cores[d].slot = s.cores[d].slot ∧ u.cores[d].windows = s.cores[d].windows ∧
    u.cores[d].array = s.cores[d].array := by exact fun _ => ⟨rfl, rfl, rfl⟩

theorem Counted.refl (s : State) : Counted s s := {}

theorem Counted.trans {s t u : State} (a : Counted s t) (b : Counted t u) : Counted s u where
  only := Eq.trans b.only (by rw [a.only])
  cores d :=
    let ⟨hs, hw, ha⟩ := a.cores d
    let ⟨hs', hw', ha'⟩ := b.cores d
    ⟨hs'.trans hs, hw'.trans hw, ha'.trans ha⟩

theorem Counted.ite {s t u : State} {p : Prop} [Decidable p] (a : Counted s t) (b : Counted s u) : Counted s (if p then t else u) := by
  split <;> assumption

theorem Counted.foldl {α : Type} {f : State → α → State} (h : ∀ s a, Counted s (f s a)) (l : List α) (s : State) :
    Counted s (l.foldl f s) :=
  List.foldlRecOn l f (Counted.refl s) fun u hu a _ => hu.trans (h u a)

theorem Faults.counted {c : CoreIx} {k : CtxIx} {s t : State} (h : Faults c k s t) : Counted s t where
  only := by rw [h.only]
  cores d := by rw [(h.cores d).only]; exact ⟨rfl, rfl, rfl⟩

/-- An update of a core that keeps its task, windows and array. -/
theorem Counted.modCore {s v : State} (h : Counted s v) {c : CoreIx} {f : Core → Core}
    (hf : ∀ x, (f x).slot = x.slot ∧ (f x).windows = x.windows ∧ (f x).array = x.array := by exact fun _ => ⟨rfl, rfl, rfl⟩) :
    Counted s (modCore v c f) :=
  h.trans {
    cores := fun d => by
      by_cases e : d = c
      · subst e; rw [modCore_core]; exact hf _
      · rw [modCore_other v c f e]; exact ⟨rfl, rfl, rfl⟩ }

/-- A list of updates, each of which keeps that. -/
theorem Counted.each {α : Type} {f : State → α → State} {s v : State} (h : Counted s v) {l : List α} (hf : ∀ s a, Counted s (f s a)) :
    Counted s (l.foldl f v) := h.trans (.foldl hf l v)

theorem serveCounter_counted (c : CoreIx) (n : Byte) (s : State) : Counted s (serveCounter c n s) :=
  .each (.modCore (.refl s)) fun u _ => .modCore (.refl u)

theorem reportOverflow_counted (i : CtrInc) (s : State) : Counted s (reportOverflow i s) := by
  unfold reportOverflow
  dsimp only
  exact .ite (.modCore (.refl s)) (.ite {} faultCtx_faults.counted)

/-- What reaches the counter is taken out of what is under way. -/
theorem takeIncs_counted (s : State) (l : List CtrInc) : Counted s { s with incs := l } := {}

theorem record_counted (s : State) (code : Nat) (sev : BitVec 2) (unit a0 a1 a2 : Nat) : Counted s (record s code sev unit a0 a1 a2) := {}

theorem applyCounter_counted (c : CoreIx) (n : Byte) (s : State) : Counted s (applyCounter c n s) := by
  unfold applyCounter
  dsimp only
  refine .ite (.refl s) ?_
  generalize hv : List.foldl _ (Sys2Proof.Machine.modCore _ c _) _ = v
  have h : Counted s v := by
    subst hv
    refine .each (.modCore (takeIncs_counted s _)) fun u i => ?_
    exact .ite (.modCore (.refl u)) (.refl u)
  refine .ite ?_ (.each ?_ fun u i => reportOverflow_counted i u)
  · refine .trans ?_ (serveCounter_counted c n _)
    exact .modCore h
  · refine .trans (.trans ?_ (record_counted _ ..)) (serveCounter_counted c n _)
    exact .modCore h

theorem applyReleases_counted (t : SlotIx) (s : State) : Counted s (applyReleases t s) := by
  unfold applyReleases
  exact .foldl (fun u (i : CtrInc) => applyCounter_counted i.core i.ctr u) _ s

theorem gregs_counted (s : State) (g : GRegs) : Counted s { s with gregs := g } := {}

theorem pushInc_counted (s : State) (i : CtrInc) : Counted s (pushInc s i) := {}

theorem gset_counted (g : Fin 4096) (x : GCounter) (s : State) : Counted s (gset g x s) := {}

theorem releaseCores_counted (r : Release) (t : SlotIx) (s : State) : Counted s (releaseCores r t s) :=
  .each (gregs_counted s _) fun u _ => .ite (pushInc_counted u _) (.refl u)

theorem lateAction_counted (u a b : Nat) (s : State) : Counted s (lateAction s u a b) := {}

theorem keptReleases_counted (t : SlotIx) (s : State) : Counted s (keptReleases t s) := by
  refine .foldl (fun s g => ?_) _ s
  dsimp only
  refine .ite (.foldl (fun s r => ?_) _ s) (.refl s)
  have h : Counted s (releaseCores r t (gset g ((gget s g).without r) s)) :=
    (gset_counted g _ s).trans (releaseCores_counted r t _)
  split
  · exact h
  · exact h.trans (lateAction_counted ..)

/-- A task with no barrier release under way finds none at its restore. -/
theorem keptReleases_none {t : SlotIx} {s : State} (h : NoReleases s t) : keptReleases t s = s := by
  refine List.foldlRecOn (motive := fun u : State => u = s) _ _ rfl fun u hu g _ => ?_
  subst hu
  dsimp only
  split
  next hg =>
    have hr : (gget u g).releases = [] := h.2 g hg
    rw [hr]
    rfl
  next => rfl

theorem applyReleases_none {t : SlotIx} {s : State} (h : NoReleases s t) : applyReleases t s = s := by
  have hf : (s.incs.filter fun i => i.source == 7 && decide (i.due ≤ s.time.cycle) && s.cores[i.core].slot == some t) = [] := by
    rw [List.filter_eq_nil_iff]
    intro i hi
    have hs : (i.source == 7) = false := beq_false_of_ne (h.1 i hi)
    rw [hs]
    simp
  rw [applyReleases, hf]
  rfl

end Sys2Proof.Machine
end


section
/-! PROOF. The restore of a preempted task (R124, R125, R289) and the start of a reservation (R127). -/

namespace Sys2Proof.Machine
open Claims

/-! ### What a restore reads (R289) -/

/-- What the work in evaluation has read and written. -/
def knows (s : State) : Option (List (Nat × List Byte × Bool) × List (Nat × List Byte × Bool)) :=
  s.probe.map fun p => (p.got, p.wrote)

/-- Work that has read and written alike sees alike. -/
theorem devRead_congr {s v : State} (h : knows v = knows s) (a n : Nat) :
    (devRead a n v).1 = (devRead a n s).1 ∧ (devRead a n v).2.1 = (devRead a n s).2.1 := by
  unfold knows at h
  unfold devRead
  cases hs : s.probe with
  | none =>
    rw [hs, Option.map_none, Option.map_eq_none_iff] at h
    rw [h]
    exact ⟨rfl, rfl⟩
  | some p =>
    rw [hs, Option.map_some, Option.map_eq_some_iff] at h
    obtain ⟨p', hv, hk⟩ := h
    obtain ⟨hg, hw⟩ := Prod.mk.inj hk
    rw [hv]
    dsimp only
    rw [hg, hw]
    exact ⟨rfl, rfl⟩

/-- A further read: nothing but what is still lacked differs. -/
structure ReadMore (s v : State) : Prop where
  only : OnlyProbe s v
  knows : knows v = knows s
  reads : ReadsOnly s → ReadsOnly v

theorem ReadMore.refl (s : State) : ReadMore s s := ⟨rfl, rfl, id⟩

theorem ReadMore.trans {s t u : State} (a : ReadMore s t) (b : ReadMore t u) : ReadMore s u :=
  ⟨a.only.trans b.only, b.knows.trans a.knows, fun h => b.reads (a.reads h)⟩

theorem ReadMore.ite {s t u : State} {p : Prop} [Decidable p] (a : ReadMore s t) (b : ReadMore s u) : ReadMore s (if p then t else u) := by
  split <;> assumption

theorem see_more (a n : Nat) (s : State) : ReadMore s (see a n s) := by
  refine ⟨see_only a n s, ?_, see_readsOnly a n⟩
  unfold see devRead knows
  split
  · rfl
  next p hp => rw [hp]; rfl

theorem seeSave_more (a : Nat) (r : SaveRec) (s : State) : ReadMore s (seeSave a r s) := by
  have hs (u : State) : ReadMore s u → ReadMore s (if r.array.stA = .empty then u else see (a + 0x2000) 16384 u) :=
    fun h => .ite h (h.trans (see_more _ _ u))
  unfold seeSave
  dsimp only
  have h := hs _ (see_more a saveHead s)
  exact .ite h (h.trans (see_more _ _ _))

/-- The reads of the restore of a task. -/
def seeRecords (rs : List (SaveRec × Nat)) (s : State) : State := rs.foldl (fun s q => seeSave q.2 q.1 s) s

theorem seeRecords_more (rs : List (SaveRec × Nat)) (s : State) : ReadMore s (seeRecords rs s) :=
  List.foldlRecOn (motive := ReadMore s) rs _ (.refl s) fun u hu q _ => hu.trans (seeSave_more q.2 q.1 u)

theorem savePoisoned_congr {s v : State} (h : knows v = knows s) (a : Nat) (r : SaveRec) : savePoisoned v a r = savePoisoned s a r := by
  unfold savePoisoned seenPoison
  rw [(devRead_congr h a saveHead).2, (devRead_congr h (a + 0x2000) 16384).2, (devRead_congr h (a + 0x6000) 16384).2]

theorem readBack_congr {s v : State} (h : knows v = knows s) (a : Nat) (r : SaveRec) : r.readBack v a = r.readBack s a := by
  unfold SaveRec.readBack seen
  rw [(devRead_congr h a saveHead).1, (devRead_congr h (a + 0x2000) 16384).1, (devRead_congr h (a + 0x6000) 16384).1]

/-! ### The cores of a restored task (R124, R125) -/

/-- Core `r.core` is the task's and holds what its record `r` holds. -/
def RestoredFrom (t : SlotIx) (r : SaveRec) (s : State) : Prop :=
  s.cores[r.core].slot = some t ∧ s.cores[r.core].windows = r.windows ∧ s.cores[r.core].array.a = r.array.a ∧
    s.cores[r.core].array.b = r.array.b

/-- One core as its record left it. -/
def restoreCore (T : Task) (t : SlotIx) (ft : Nat) (s : State) (r : SaveRec) : State :=
  modCore s r.core fun x => x.restored T t ft (match r.pend with
    | some l => beatAt s l.ft.toNat
    | none => 0) r

section Restore
variable {T : Task} {t : SlotIx} {ft : Nat}

theorem restoreCore_only (s : State) (r : SaveRec) : OnlyCores s (restoreCore T t ft s r) := modCore_only s r.core _

theorem restoreCore_holds (s : State) (r : SaveRec) : RestoredFrom t r (restoreCore T t ft s r) := by
  unfold RestoredFrom restoreCore
  rw [modCore_core]
  exact ⟨rfl, rfl, rfl, rfl⟩

theorem restoreCore_other {s : State} {r r' : SaveRec} (h : r.core ≠ r'.core) (hs : RestoredFrom t r s) :
    RestoredFrom t r (restoreCore T t ft s r') := by
  unfold RestoredFrom restoreCore
  rw [modCore_other _ _ _ h]
  exact hs

/-- Records of different cores each leave their core as it was saved. -/
theorem restoreCores_holds {r : SaveRec} : ∀ (l : List SaveRec) (s : State), (l.map (·.core)).Nodup → r ∈ l →
    RestoredFrom t r (l.foldl (restoreCore T t ft) s)
  | [], _, _, hr => absurd hr List.not_mem_nil
  | b :: l, s, hn, hr => by
    obtain ⟨hb, hl⟩ := List.nodup_cons.mp hn
    rcases List.mem_cons.mp hr with rfl | hm
    · refine List.foldlRecOn l _ (restoreCore_holds s r) fun u hu a ha => restoreCore_other (fun e => hb ?_) hu
      exact List.mem_map.mpr ⟨a, ha, e.symm⟩
    · exact restoreCores_holds l _ hl hm

theorem restoreCores_only (l : List SaveRec) (s : State) : OnlyCores s (l.foldl (restoreCore T t ft) s) :=
  .foldl (fun s r => restoreCore_only s r) l s

end Restore

theorem RestoredFrom.counted {t : SlotIx} {r : SaveRec} {s u : State} (h : RestoredFrom t r s) (hc : Counted s u) :
    RestoredFrom t r u := by
  obtain ⟨hs, hw, ha⟩ := hc.cores r.core
  unfold RestoredFrom
  rw [hs, hw, ha]
  exact h

/-! ### The restore of a task -/

section Resume
variable {t : SlotIx} {s : State}

theorem resumeTask_poisoned (h : (records s t).all (fun q => !savePoisoned s q.2 q.1) = false) :
    resumeTask t s = faultTask t 0x84 false (seeRecords (records s t) s) := by
  have hk := (seeRecords_more (records s t) s).knows
  have hp : ((records s t).any fun q => savePoisoned (seeRecords (records s t) s) q.2 q.1) = true := by
    rw [funext fun q : SaveRec × Nat => savePoisoned_congr hk q.2 q.1]
    rw [List.all_eq_not_any_not] at h
    simpa using h
  exact if_pos hp

theorem resumeTask_clean (h : (records s t).all (fun q => !savePoisoned s q.2 q.1) = true) : ∃ ft q,
    resumeTask t s = modTask (applyReleases t (keptReleases t (((records s t).map fun q => q.1.readBack s q.2).foldl
      (restoreCore s.tasks[t] t ft) (loadImages t (seeRecords (records s t) s))))) t
        fun x => { x with st := .running, saved := [], quantumEnd := q } := by
  have hk := (seeRecords_more (records s t) s).knows
  have hp : ¬((records s t).any fun q => savePoisoned (seeRecords (records s t) s) q.2 q.1) = true := by
    rw [funext fun q : SaveRec × Nat => savePoisoned_congr hk q.2 q.1]
    rw [List.all_eq_not_any_not] at h
    simpa using h
  rw [funext fun q : SaveRec × Nat => (readBack_congr hk q.2 q.1).symm]
  exact ⟨_, _, if_neg hp⟩

/-- What a restore leaves of a task whose records are good: it is RUNNING, on cores as they were saved. -/
structure Resumed (t : SlotIx) (s u : State) : Prop where
  st : u.tasks[t].st = .running
  saved : u.tasks[t].saved = []
  others : NoReleases s t → OthersButImages s u t
  resv : u.resv = s.resv
  restored : (s.tasks[t].saved.map (·.core)).Nodup → ∀ q ∈ records s t, RestoredFrom t (q.1.readBack s q.2) u
  reads : ReadsOnly s → ReadsOnly u

/-- Each record reads back as one of the same core. -/
theorem records_cores (s : State) (t : SlotIx) :
    ((records s t).map fun q => q.1.readBack s q.2).map (·.core) = s.tasks[t].saved.map (·.core) := by
  have h : (records s t).map Prod.fst = s.tasks[t].saved := List.map_fst_zip (by simp)
  calc ((records s t).map fun q => q.1.readBack s q.2).map (·.core)
      = ((records s t).map Prod.fst).map (·.core) := by rw [List.map_map, List.map_map]; rfl
    _ = s.tasks[t].saved.map (·.core) := by rw [h]

theorem resumeTask_spec (h : (records s t).all (fun q => !savePoisoned s q.2 q.1) = true) : Resumed t s (resumeTask t s) := by
  obtain ⟨ft, q, e⟩ := resumeTask_clean h
  have hsee := seeRecords_more (records s t) s
  have hload := loadImages_spec t (seeRecords (records s t) s)
  rw [e]
  generalize seeRecords (records s t) s = v at hsee hload ⊢
  generalize loadImages t v = w at hload ⊢
  have honly := restoreCores_only (T := s.tasks[t]) (t := t) (ft := ft) ((records s t).map fun q => q.1.readBack s q.2) w
  have hcores (r : SaveRec) := restoreCores_holds (r := r) (T := s.tasks[t]) (t := t) (ft := ft)
    ((records s t).map fun q => q.1.readBack s q.2) w
  generalize List.foldl _ w _ = x at honly hcores ⊢
  have hkept := keptReleases_counted t x
  have happ := applyReleases_counted t (keptReleases t x)
  have hc := hkept.trans happ
  have hprobe : (applyReleases t (keptReleases t x)).probe = w.probe := by rw [hc.only, honly]
  have hresv : (applyReleases t (keptReleases t x)).resv = s.resv := by rw [hc.only, honly, hload.only, hsee.only]
  refine ⟨?_, ?_, fun hn j hj => ?_, hresv, fun hd q hq => ?_, fun hr p hp => ?_⟩
  · rw [modTask_same]
  · rw [modTask_same]
  · have hx : NoReleases x t := by
      have hi : x.incs = s.incs := by rw [honly, hload.only, hsee.only]
      have hg : x.gctr = s.gctr := by rw [honly, hload.only, hsee.only]
      unfold NoReleases globalOf
      rw [hi, hg]
      exact hn
    rw [modTask_other _ _ hj, keptReleases_none hx, applyReleases_none hx, honly.tasks]
    have ho := hload.others j hj
    rw [hsee.only] at ho
    exact ho
  · rw [← records_cores] at hd
    have h := (hcores _ hd (List.mem_map_of_mem hq)).counted hc
    exact h
  · exact hload.reads (hsee.reads hr) p (hprobe.symm.trans hp)

end Resume

section Scheduling
variable {i : SlotIx} {s : State}

theorem exec_taskResume (hst : s.tasks[i].st = .preempted) (hh : s.tasks[i].halting = none) (hq : s.quiesce = none)
    (ha : awaitsResv s i = false) (hp : pinnedOut s i = false) : exec (.taskResume i) s =
      engineRun (taskKey i 3) (some i) Rank.open_ (placeFree s i && atFrame s) (resumeTask i) s := by
  have hm : mayResume s i = true := by rw [mayResume, hq]
  change execTaskResume i s = _
  unfold execTaskResume
  dsimp only
  rw [if_pos (by rw [hst, hh, hm, ha, hp]; decide)]

/-- A task whose save records are poisoned is FAULTED, also once the requests of its fault have left. -/
theorem runCommit_faulted {u : EngRun} {k : Rank} {wrote : List (Nat × List Byte × Bool)} {r : Byte} {quiet : Bool} (i : SlotIx) (v : State) :
    (runCommit u k wrote (faultTask i r quiet v)).tasks[i].st = .faulted ∧
    (runCommit u k wrote (faultTask i r quiet v)).tasks[i].reason = r := by
  obtain ⟨c, x, hf⟩ := faultTask_same i r quiet v
  obtain ⟨c', x', ht⟩ := (runCommit_frame u k wrote (faultTask i r quiet v)).tasks i
  rw [ht, hf]
  exact ⟨rfl, rfl⟩

theorem taskResume_resumes (hst : s.tasks[i].st = .preempted) (hh : s.tasks[i].halting = none) (hq : s.quiesce = none)
    (ha : awaitsResv s i = false) (hp : pinnedOut s i = false) (hc : Complete (taskKey i 3) (some i) (resumeTask i) s)
    (hf : atFrame s = true) (hpl : placeFree s i = true) (hn : (s.tasks[i].saved.map (·.core)).Nodup) :
    ∃ t, exec (.taskResume i) s = .next t ∧
      (if (records s i).all fun q => !savePoisoned (restoring s i) q.2 q.1 then
        t.tasks[i].st = .running ∧ t.tasks[i].saved = [] ∧ (NoReleases s i → OthersButImages s t i) ∧
        ∀ q ∈ records s i, t.cores[q.1.core].slot = some i ∧
          t.cores[q.1.core].windows = (q.1.readBack (restoring s i) q.2).windows ∧
          t.cores[q.1.core].array.a = (q.1.readBack (restoring s i) q.2).array.a ∧
          t.cores[q.1.core].array.b = (q.1.readBack (restoring s i) q.2).array.b
       else t.tasks[i].st = .faulted ∧ t.tasks[i].reason = 0x84) := by
  have he := exec_taskResume hst hh hq ha hp
  rw [hpl, hf] at he
  cases hg : (records s i).all fun q => !savePoisoned (restoring s i) q.2 q.1 with
  | true =>
    have h := resumeTask_spec (t := i) (s := restoring s i) hg
    obtain ⟨rs, he⟩ := exec_of_complete he hc (h.reads (probing_readsOnly _ s))
    change exec _ _ = .next { resumeTask i (restoring s i) with probe := none, runs := rs } at he
    generalize resumeTask i (restoring s i) = u at he h
    exact ⟨_, he, h.st, h.saved, h.others, h.restored hn⟩
  | false =>
    obtain ⟨hd, hi, p, hw, hl⟩ := hc
    have he := he.trans (engineRunIf_commit hd hi hw hl rfl)
    change exec _ _ = .next (runCommit _ _ _ (resumeTask i (restoring s i))) at he
    rw [resumeTask_poisoned hg] at he
    exact ⟨_, he, runCommit_faulted i _⟩

/-! ### The start of a reservation (R36, R127) -/

/-- What the reserved task of reservation `v` does as it starts. -/
def beginReserved (v : Resv) (s : State) : State :=
  if s.tasks[v.task].st == .ready then launchTask v.task s else if s.tasks[v.task].st == .preempted then resumeTask v.task s else s

/-- The state with the start's lateness counted. -/
def lateStart (v : Resv) (s : State) : State := if v.start.toNat < ftNow s then lateAction s 0 v.start.toNat (ftNow s) else s

theorem startReserved_eq (r : Fin 16) (v : Resv) (s : State) : ∃ u, u = beginReserved v (lateStart v s) ∧
    startReserved r v s = { modTask u v.task (fun x => { x with pinned := true }) with
      resv := u.resv.set r (some { v with active := true, leadDone := true }) } := ⟨_, rfl, rfl⟩

/-- Only lateness and the recorder differ. -/
theorem lateStart_keeps (v : Resv) (s : State) : (lateStart v s).tasks = s.tasks ∧ (lateStart v s).resv = s.resv ∧
    (lateStart v s).incs = s.incs ∧ (lateStart v s).gctr = s.gctr ∧ (lateStart v s).probe = s.probe := by
  unfold lateStart
  split <;> exact ⟨rfl, rfl, rfl, rfl, rfl⟩

/-- What the start of a reserved task leaves. -/
structure Begun (t : SlotIx) (s u : State) : Prop where
  st : u.tasks[t].st = .running
  others : NoReleases s t → OthersButImages s u t
  resv : u.resv = s.resv
  reads : ReadsOnly s → ReadsOnly u

theorem launchTask_resv (t : SlotIx) (s : State) : (launchTask t s).resv = s.resv := by
  have hi := loadImages_spec t s
  obtain ⟨ho, -, -⟩ := launchCores_spec t s.tasks[t] (loadImages t s)
  obtain ⟨g, l, q, e⟩ := launchTask_eq t s
  rw [e]
  change (launchCores t s.tasks[t] (loadImages t s)).resv = _
  rw [ho, hi.only]

theorem beginReserved_spec {v : Resv} {s : State}
    (hst : s.tasks[v.task].st = .running ∨ s.tasks[v.task].st = .ready ∨ s.tasks[v.task].st = .preempted)
    (hg : s.tasks[v.task].st = .preempted → (records s v.task).all (fun q => !savePoisoned s q.2 q.1) = true) :
    Begun v.task s (beginReserved v s) := by
  unfold beginReserved
  rcases hst with h | h | h
  · rw [if_neg (by rw [h]; decide), if_neg (by rw [h]; decide)]
    exact ⟨h, fun _ _ _ => rfl, rfl, id⟩
  · have hl := launchTask_spec v.task s
    rw [if_pos (by rw [h]; decide)]
    exact ⟨hl.st, fun _ => hl.others, launchTask_resv v.task s, hl.reads⟩
  · have hr := resumeTask_spec (hg h)
    rw [if_neg (by rw [h]; decide), if_pos (by rw [h]; decide)]
    exact ⟨hr.st, hr.others, hr.resv, hr.reads⟩

theorem exec_reservationStart {r : Fin 16} {v : Resv} (hr : s.resv[r] = some v) (ha : v.active = false)
    (hh : s.tasks[v.task].halting = none)
    (hst : s.tasks[v.task].st = .running ∨ s.tasks[v.task].st = .ready ∨ s.tasks[v.task].st = .preempted) :
    exec (.reservationStart r) s =
      engineRun (startKey s v) (some v.task) Rank.open_ (startNow s v) (startReserved r v) s := by
  change execReservationStart r s = _
  unfold execReservationStart
  rw [hr]
  dsimp only
  rw [if_neg]
  rw [ha, hh]
  rcases hst with h | h | h <;> rw [h] <;> decide

theorem reservationStart_starts {r : Fin 16} {v : Resv} (hr : s.resv[r] = some v) (ha : v.active = false)
    (hh : s.tasks[v.task].halting = none)
    (hst : s.tasks[v.task].st = .running ∨ s.tasks[v.task].st = .ready ∨ s.tasks[v.task].st = .preempted)
    (hc : Complete (startKey s v) (some v.task) (startReserved r v) s) (hf : atFrame s = true) (hb : v.start.toNat ≤ ftNow s)
    (he : ftNow s < v.stop.toNat) (hq : s.quiesce = none) (hp : s.tasks[v.task].st = .running ∨ placeFree s v.task = true)
    (hg : s.tasks[v.task].st = .preempted → (records s v.task).all (fun q => !savePoisoned (restoring s v.task) q.2 q.1) = true) :
    ∃ t, exec (.reservationStart r) s = .next t ∧ t.tasks[v.task].st = .running ∧ t.tasks[v.task].pinned = true ∧
      (NoReleases s v.task → OthersButImages s t v.task) ∧
      t.resv = s.resv.set r (some { v with active := true, leadDone := true }) := by
  have hnow : startNow s v = true := by
    rw [startNow, hq, hf, decide_eq_true hb, decide_eq_true he]
    have ho : (s.tasks[v.task].st == .running || placeFree s v.task) = true := by
      rcases hp with h | h
      · rw [h]; rfl
      · rw [h, Bool.or_true]
    rw [ho]
    rfl
  have hx := exec_reservationStart hr ha hh hst
  rw [hnow] at hx
  obtain ⟨u, hu, hwork⟩ := startReserved_eq r v (probing (runOf s (startKey s v) (some v.task)) s)
  obtain ⟨htasks, hresv, hincs, hgctr, hprobe⟩ := lateStart_keeps v (probing (runOf s (startKey s v) (some v.task)) s)
  generalize lateStart v _ = w at htasks hresv hincs hgctr hprobe hu
  have hbegun : Begun v.task w (beginReserved v w) := by
    refine beginReserved_spec (by rw [htasks]; exact hst) fun h => ?_
    have h : s.tasks[v.task].st = .preempted := by rw [htasks] at h; exact h
    have hk : knows w = knows (restoring s v.task) := by
      unfold knows
      rw [hprobe, startKey, h]
      rfl
    have hrec : records w v.task = records s v.task := by unfold records; rw [htasks]; rfl
    rw [hrec, funext fun q : SaveRec × Nat => congrArg not (savePoisoned_congr hk q.2 q.1)]
    exact hg h
  rw [← hu] at hbegun
  have hreads : ReadsOnly u := hbegun.reads fun p h => probing_readsOnly _ s p (hprobe.symm.trans h)
  obtain ⟨rs, hx⟩ := exec_of_complete hx hc (by rw [hwork]; exact hreads)
  rw [hwork] at hx
  refine ⟨_, hx, ?_, ?_, fun hn j hj => ?_, ?_⟩
  all_goals dsimp only
  · rw [modTask_same]; exact hbegun.st
  · rw [modTask_same]
  · have ho := hbegun.others (by unfold NoReleases globalOf; rw [hincs, hgctr]; exact hn) j hj
    rw [htasks] at ho
    rw [modTask_other u _ hj]
    exact ho
  · rw [hbegun.resv, hresv]
    rfl

end Scheduling

/-- Settles O35: a clause for each step of the sharing of segments, the end of a quantum, the save and its end, the restore, and the
lead, start and end of a reservation. -/
theorem taskScheduling : Obligations.TaskScheduling :=
  ⟨⟨fun _ _ => quantumExpiry_spec,
   fun _ _ hst hs hr hb hg hm hsig hc => preemptSave_saves hst hs hr (by rw [heldQuiet, hb, hg, hm, hsig, hc]; rfl),
   fun _ _ => preemptSave_saved,
   fun _ _ hst hh hq ha hp => ⟨carries_of_engineRun (exec_taskResume hst hh hq ha hp), taskResume_resumes hst hh hq ha hp⟩⟩,
   fun _ _ _ => reservationLead_spec,
   fun _ _ _ hr ha hh hst => ⟨carries_of_engineRun (exec_reservationStart hr ha hh hst), reservationStart_starts hr ha hh hst⟩,
   fun _ _ _ => reservationEnd_spec⟩

end Sys2Proof.Machine
end

section
/-! PROOF. What a command for a slot of the bundle does where the bundle holds it (R131, R134): it has issued, and its effect is on the
core's block. -/

namespace Sys2Proof.Machine
open Claims

section Slots
variable {s : State} {c : CoreIx} {b : Block} {n : Nat} {bu : BitVec 128}

/-! ### The running block -/

theorem blk_of_blockNow (h : blockNow s c = some (b, n)) : s.cores[c].blk = some b := by
  unfold blockNow at h
  cases hb : s.cores[c].blk with
  | none => rw [hb] at h; cases h
  | some x =>
    rw [hb] at h
    dsimp only at h
    split at h
    · cases h; rfl
    · cases h

theorem blk_of_bundleNow (h : bundleNow s c = some (b, n, bu)) : s.cores[c].blk = some b := by
  unfold bundleNow at h
  cases hb : blockNow s c with
  | none => rw [hb] at h; cases h
  | some x =>
    obtain ⟨x, m⟩ := x
    rw [hb] at h
    dsimp only at h
    split at h
    · cases h; exact blk_of_blockNow hb
    · cases h

/-- An update of a running block. -/
theorem modBlk_of_blk (f : Block → Block) (h : s.cores[c].blk = some b) : (modCore s c fun x => x.modBlk f) = withBlock s c (f b) := by
  rw [modCore, Core.modBlk, h]
  rfl

/-- An update of a block that was updated before. -/
theorem modBlk_withBlock (s : State) (c : CoreIx) (b : Block) (f : Block → Block) :
    (modCore (withBlock s c b) c fun x => x.modBlk f) = withBlock s c (f b) := by
  simp [modCore, withBlock, Core.modBlk]

theorem withBlock_core (s : State) (c : CoreIx) (b : Block) : (withBlock s c b).cores[c] = { s.cores[c] with blk := some b } := by
  simp [withBlock]

theorem withBlock_other (s : State) {c d : CoreIx} (b : Block) (h : d ≠ c) : (withBlock s c b).cores[d] = s.cores[d] :=
  modCore_other s c (fun x => { x with blk := some b }) h

theorem withBlock_taskOn (s : State) (c : CoreIx) (b : Block) : taskOn (withBlock s c b) c = taskOn s c := by
  rw [taskOn, withBlock_core, taskOn]
  rfl

theorem withBlock_ctrHeld (s : State) (c : CoreIx) (b : Block) (k : Nat) : ctrHeld (withBlock s c b) c k = ctrHeld s c k := by
  rw [ctrHeld, withBlock_taskOn, ctrHeld]

theorem withBlock_spHeld (s : State) (c : CoreIx) (b : Block) (a k : Nat) : spHeld (withBlock s c b) c a k = spHeld s c a k := by
  rw [spHeld, withBlock_taskOn, withBlock_core, spHeld]

/-! ### Issue -/

theorem mnop_issues (h : mSlot s c 0 b n) : execMnop c s = .next (withBlock s c { b with mUsed := some n }) := by
  obtain ⟨bu, hb, hw, hu⟩ := h
  unfold execMnop
  rw [hb]
  simp only [hw, bne_iff_ne.mpr hu, decide_true, Bool.and_self, if_true, modBlk_of_blk _ (blk_of_bundleNow hb)]

theorem mma_issues {sh : Shape} {m : MFields} (h : mSlot s c (encM (shapeOp sh) m) b n) : mma c sh m s = .next (issueMma c sh m b n s) := by
  obtain ⟨bu, hb, hw, hu⟩ := h
  unfold mma
  rw [hb]
  simp only [hw, bne_iff_ne.mpr hu, decide_true, Bool.and_self, if_true]

theorem issueT_issues {w : BitVec 40} (f : Block → Nat → State → State) (h : tSlot s c w b n) :
    issueT c w s f = .next (f b n (withBlock s c { b with tUsed := some n })) := by
  obtain ⟨bu, hb, hw, hu⟩ := h
  unfold issueT
  rw [hb]
  simp only [hw, bne_iff_ne.mpr hu, decide_true, Bool.and_self, if_true, modBlk_of_blk _ (blk_of_bundleNow hb)]

theorem issueV_issues {w : BitVec 40} {srcs : List (Fin 32)} (f : Block → Nat → State → State) (h : vSlot s c w srcs b n) :
    issueV c w srcs s f = .next (f b n (withBlock s c { b with vUsed := some n })) := by
  obtain ⟨bu, hb, hw, hu, hd⟩ := h
  have hr : (drnSettled b n || !srcs.contains 31) = true := by
    rcases hd with hd | hd
    · rw [hd, Bool.true_or]
    · rw [List.contains_eq_mem, decide_eq_false hd, Bool.not_false, Bool.or_true]
  unfold issueV
  rw [hb]
  simp only [hw, bne_iff_ne.mpr hu, hr, decide_true, Bool.and_self, if_true, modBlk_of_blk _ (blk_of_bundleNow hb)]

/-- Updates of the block's registers that a T slot queues. -/
theorem pushUpdT_withBlock (s : State) (c : CoreIx) (b : Block) (us : List RegUpd) :
    pushUpdT c us (withBlock s c b) = withBlock s c { b with updT := b.updT ++ us } := modBlk_withBlock ..

end Slots

end Sys2Proof.Machine
end

section
/-! PROOF. The instructions of the T slot: the feeder job of GINJ, the signal of TSIG, the register updates and LOOP (R135, R145, R147,
R151, R152). -/

namespace Sys2Proof.Machine
open Claims

section Transfer
variable {s : State} {c : CoreIx} {b : Block} {n : Nat}

/-- An event and an update of a core commute. -/
theorem record_modCore (s : State) (c : CoreIx) (f : Core → Core) (code : Nat) (sev : BitVec 2) (u a0 a1 a2 : Nat) :
    modCore (record s code sev u a0 a1 a2) c f = record (modCore s c f) code sev u a0 a1 a2 := rfl

theorem pushUpdT_record (s : State) (c : CoreIx) (us : List RegUpd) (code : Nat) (sev : BitVec 2) (u a0 a1 a2 : Nat) :
    pushUpdT c us (record s code sev u a0 a1 a2) = record (pushUpdT c us s) code sev u a0 a1 a2 := rfl

/-! ### GINJ (R145, R147) -/

/-- The updates that a GINJ queues: AU of both bases, then XU of the tag register. -/
def ginjUpdates (b : Block) (g : GinjFields) : List RegUpd :=
  let fmt := trFormat b.tr[g.tr]
  let sb := if ginjBad g.fp32 fmt then 0 else feedScaleBytes g.trans g.fp32 fmt (nfOf g.nf)
  (if g.au then
      [RegUpd.baAdd g.ba (feedBytes g.trans g.fp32 fmt (nfOf g.nf))] ++ (if sb = 0 then [] else [RegUpd.baAdd (regNext g.ba) sb])
    else []) ++ xuUpd g.xu [g.tr] (nfOf g.nf / feedF g.fp32 fmt)

/-- The block once a GINJ has issued. -/
def ginjBlock (b : Block) (n : Nat) (g : GinjFields) : Block :=
  { b with tUsed := some n, feeds := b.feeds ++ [mkFeed b n g], updT := b.updT ++ ginjUpdates b g }

theorem execGinj_eq {g : GinjFields} (h : tSlot s c (encGinj g) b n) : execGinj c g s = .next
    (if ginjBad g.fp32 (trFormat b.tr[g.tr]) then record (withBlock s c (ginjBlock b n g)) 0x2310 error c.val n 0 0
    else withBlock s c (ginjBlock b n g)) := by
  rw [execGinj, issueT_issues _ h]
  change Host.Outcome.next (pushUpdT c (ginjUpdates b g) (modCore _ c fun x => x.modBlk _)) = _
  by_cases hb : ginjBad g.fp32 (trFormat b.tr[g.tr]) = true
  · rw [if_pos hb, if_pos hb, record_modCore, modBlk_withBlock, pushUpdT_record, pushUpdT_withBlock]
    rfl
  · rw [if_neg hb, if_neg hb, modBlk_withBlock, pushUpdT_withBlock]
    rfl

theorem ginjBad_iff (fp32 : Bool) (fmt : Nat) : ginjBad fp32 fmt = true ↔ isReserved fmt = true ∨ (fp32 = true ∧ fmt ≤ 1) := by
  simp [ginjBad]

theorem withBlock_arrayFrame (s : State) (c : CoreIx) (b : Block) : ArrayFrame s (withBlock s c b) c :=
  ⟨rfl, fun _ hd => withBlock_other s b hd, by rw [withBlock_core], by rw [withBlock_core]⟩

theorem record_arrayFrame {t : State} (h : ArrayFrame s t c) (code : Nat) (sev : BitVec 2) (u a0 a1 a2 : Nat) :
    ArrayFrame s (record t code sev u a0 a1 a2) c := by
  obtain ⟨ho, hd, hc, hp⟩ := h
  exact ⟨by rw [ho]; rfl, hd, hc, hp⟩

/-- What a GINJ leaves: the block alone, and an event for a poisoned path. -/
theorem ginjLeft_spec (s : State) (c : CoreIx) (b : Block) (n : Nat) (g : GinjFields) :
    let t := if ginjBad g.fp32 (trFormat b.tr[g.tr]) then record (withBlock s c (ginjBlock b n g)) 0x2310 error c.val n 0 0
      else withBlock s c (ginjBlock b n g)
    ArrayFrame s t c ∧ t.cores[c].blk = some (ginjBlock b n g) ∧
      (if isReserved (trFormat b.tr[g.tr]) = true ∨ (g.fp32 = true ∧ trFormat b.tr[g.tr] ≤ 1)
       then ∃ x, t.recorder.arriving = s.recorder.arriving ++ [x] ∧ x.code = 0x2310 ∧ x.unit = BitVec.ofNat 8 c.val
       else t.recorder = s.recorder) := by
  have hw := withBlock_arrayFrame s c (ginjBlock b n g)
  have hk : (withBlock s c (ginjBlock b n g)).cores[c].blk = some (ginjBlock b n g) := by rw [withBlock_core]
  by_cases hb : ginjBad g.fp32 (trFormat b.tr[g.tr]) = true
  · simp only [if_pos hb, if_pos ((ginjBad_iff ..).mp hb)]
    exact ⟨record_arrayFrame hw .., hk, _, rfl, rfl, rfl⟩
  · simp only [if_neg hb, if_neg (mt (ginjBad_iff ..).mpr hb)]
    exact ⟨hw, hk, rfl⟩

theorem ginjUpdates_none {g : GinjFields} (ha : g.au = false) (hx : g.xu = 0) : ginjUpdates b g = [] := by
  simp [ginjUpdates, xuUpd, ha, hx]

theorem ginjUpdates_au {g : GinjFields} (ha : g.au = true) :
    RegUpd.baAdd g.ba (feedBytes g.trans g.fp32 (trFormat b.tr[g.tr]) (nfOf g.nf)) ∈ ginjUpdates b g := by
  simp [ginjUpdates, ha]

theorem ginjUpdates_kblock {g : GinjFields} (hx : g.xu = 1) :
    RegUpd.kblock g.tr (nfOf g.nf / feedF g.fp32 (trFormat b.tr[g.tr])) ∈ ginjUpdates b g :=
  List.mem_append_right _ (by simp [xuUpd, hx])

theorem ginjUpdates_nextTile {g : GinjFields} (hx : g.xu = 2) : RegUpd.nextTile g.tr ∈ ginjUpdates b g :=
  List.mem_append_right _ (by simp [xuUpd, hx])

/-! ### TSIG (R151) -/

/-- The core that a TSIG signals. -/
def tsigCore (c : CoreIx) : TsigTarget → CoreIx
  | .own => c
  | .up => upCore c
  | .down => downCore c

/-- A closed buckle lies between the core and the one that the TSIG signals. -/
def tsigClosed (s : State) (c : CoreIx) : TsigTarget → Bool
  | .own => false
  | .up => buckleBelow s (upCore c)
  | .down => buckleBelow s c

/-- The signal of a TSIG. -/
def tsigInc (s : State) (c : CoreIx) (b : Block) (tg : TsigTarget) (ctr : Byte) (k : W16) : CtrInc :=
  { core := tsigCore c tg, ctr := ctr, n := k.toNat, due := s.time.cycle + (if tg = .own then 1 else 3)
    source := (match tg with
      | .own => 1
      | .up => 3
      | .down => 2)
    tsig := true, fcore := c, fctx := b.ctx, fpc := b.pc }

theorem tsigClosed_iff (tg : TsigTarget) :
    tsigClosed s c tg = true ↔ (tg = .up ∧ buckleBelow s (upCore c) = true) ∨ (tg = .down ∧ buckleBelow s c = true) := by
  cases tg <;> simp [tsigClosed]

theorem tsigClosed_open {tg : TsigTarget} (hu : tg = .up → buckleBelow s (upCore c) = false)
    (hd : tg = .down → buckleBelow s c = false) : tsigClosed s c tg = false := by
  cases tg with
  | own => rfl
  | up => exact hu rfl
  | down => exact hd rfl

/-- A core of the running task, as TSIG looks it up. -/
theorem inTask_eq (s : State) (c d : CoreIx) : (match taskOn s c with
    | some (_, T) => T.hasCore d
    | none => false) = inTask s c d := by
  unfold taskOn inTask
  cases s.cores[c].slot <;> rfl

theorem execTsig_eq {tg : TsigTarget} {ctr : Byte} {k : W16}
    (h : tSlot s c (encT 4 (targetN tg * 2 ^ 33 + ctr.toNat * 2 ^ 25 + k.toNat * 2 ^ 9)) b n) : execTsig c tg ctr k s = .next
      (if !counterNamed s c ctr.toNat then
        withBlock s c { b with tUsed := some n, tsigFaults := b.tsigFaults ++ [(0x0A, ctrInfo ctr 1 0)] }
      else if !inTask s c (tsigCore c tg) || tsigClosed s c tg then
        withBlock s c { b with tUsed := some n
                               tsigFaults := b.tsigFaults ++ [(0x0B, routeInfo ctr (BitVec.ofNat 8 (tsigCore c tg).val))] }
      else if k = 0 then withBlock s c { b with tUsed := some n }
      else pushInc (withBlock s c { b with tUsed := some n }) (tsigInc s c b tg ctr k)) := by
  rw [execTsig, issueT_issues _ h]
  rw [← ctrHeld_eq_counterNamed, ← inTask_eq]
  cases tg <;>
    simp only [withBlock_ctrHeld, withBlock_taskOn, tsigFail, modBlk_withBlock] <;> rfl

/-! ### LOOP (R135) -/

theorem execLoop_eq {len : BitVec 12} {count : W16} (h : tSlot s c (encT 8 (len.toNat * 2 ^ 23 + count.toNat * 2 ^ 7)) b n) :
    execLoop c len count s = .next (withBlock s c { b with
      tUsed := some n
      loops := { first := b.bundle + 1, last := b.bundle + len, left := if count = 0 then 65536 else count.toNat } :: b.loops }) := by
  rw [execLoop, issueT_issues _ h, modBlk_withBlock]

end Transfer
end Sys2Proof.Machine

open Sys2Proof Sys2Proof.Machine Sys2Proof.Claims

/-- Settles O24: GINJ, TSIG with and without a fault, the register updates, and LOOP. -/
theorem transferSlot : Obligations.TransferSlot := by
  unfold Obligations.TransferSlot
  refine ⟨fun c g b n s h => ?ginj, fun c d tg ctr k b n s h hd hc hi hu hw hk => ?signal, fun c d tg ctr k b n s h hd => ?faults,
    fun c tr f imm b n s h => ⟨_, (issueT_issues _ h).trans (congrArg _ (pushUpdT_withBlock ..)), rfl⟩,
    fun c tr f imm b n s h => ⟨_, (issueT_issues _ h).trans (congrArg _ (pushUpdT_withBlock ..)), rfl⟩,
    fun c ba imm b n s h => ⟨_, _, (issueT_issues _ h).trans (congrArg _ (pushUpdT_withBlock ..)), rfl, ?addend⟩,
    fun c len count b n s h => ⟨_, execLoop_eq h, rfl⟩⟩
  case ginj =>
    obtain ⟨hf, hk, hr⟩ := ginjLeft_spec s c b n g
    exact ⟨_, _, mkFeed b n g, execGinj_eq h, hf, hk, rfl, rfl, rfl, rfl, rfl, rfl, rfl, rfl, rfl, rfl, rfl,
      fun ha hx => by rw [ginjBlock, ginjUpdates_none ha hx, List.append_nil],
      fun ha => List.mem_append_right _ (ginjUpdates_au ha), fun hx => List.mem_append_right _ (ginjUpdates_kblock hx),
      fun hx => List.mem_append_right _ (ginjUpdates_nextTile hx), hr⟩
  case signal =>
    have ht : tsigClosed s c tg = false := tsigClosed_open hu hw
    obtain rfl : d = tsigCore c tg := hd
    refine ⟨_, tsigInc s c b tg ctr k, execTsig_eq h, ?_, rfl, rfl, rfl, rfl, rfl⟩
    rw [if_neg (by simp [hc]), if_neg (by simp [hi, ht]), if_neg hk]
    rfl
  case faults =>
    obtain rfl : d = tsigCore c tg := hd
    refine ⟨fun hc => ⟨_, ctrInfo ctr 1 0, execTsig_eq h, ?range⟩,
      fun hc hr => ⟨_, routeInfo ctr (BitVec.ofNat 8 (tsigCore c tg).val), execTsig_eq h, ?route⟩,
      fun hc hi hu hw hk => ⟨_, execTsig_eq h, ?zero⟩⟩
    case range => simp only [hc, Bool.not_false, if_true]
    case route =>
      have hx : (!inTask s c (tsigCore c tg) || tsigClosed s c tg) = true := by
        rw [Bool.or_eq_true, Bool.not_eq_true', tsigClosed_iff]
        exact hr
      rw [if_neg (by simp [hc]), if_pos hx]
    case zero =>
      have ht : tsigClosed s c tg = false := tsigClosed_open hu hw
      simp [hc, hi, ht, hk]
  case addend => omega
end

section
/-! PROOF. The M slot (R131, R138 to R143, R80): the checks of an MMA, the marks of its faults, and the block that it joins. -/

namespace Sys2Proof.Machine
open Claims

/-! ### Marks of a fault (R76, R80, R141) -/

/-- A core whose accumulators and MMAs have been marked by faults: only marks have been set. -/
structure Marked (x y : Core) : Prop where
  core : y = { x with array := y.array, blk := y.blk }
  array : y.array = { x.array with poisonA := y.array.poisonA, poisonB := y.array.poisonB }
  poisonA : x.array.poisonA = true → y.array.poisonA = true
  poisonB : x.array.poisonB = true → y.array.poisonB = true
  blk : ∃ f : Mma → Bool, ∃ g : List Drain → List Drain,
    y.blk = x.blk.map fun b => { b with drains := g b.drains, mmas := b.mmas.map fun q => { q with pois := f q } }

/-- The poison mark of an accumulator. -/
def ArrayState.poisonOf (a : ArrayState) (accB : Bool) : Bool := if accB then a.poisonB else a.poisonA

section Marks
variable {x y z : Core}

theorem Marked.refl (x : Core) : Marked x x where
  core := rfl
  array := rfl
  poisonA := id
  poisonB := id
  blk := ⟨Mma.pois, id, by cases x.blk <;> simp⟩

theorem Marked.trans (a : Marked x y) (b : Marked y z) : Marked x z where
  core := Eq.trans b.core (by rw [a.core])
  array := Eq.trans b.array (by rw [a.array])
  poisonA h := b.poisonA (a.poisonA h)
  poisonB h := b.poisonB (a.poisonB h)
  blk := by
    obtain ⟨f, g, hy⟩ := a.blk
    obtain ⟨f', g', hz⟩ := b.blk
    refine ⟨fun q => f' { q with pois := f q }, fun l => g' (g l), ?_⟩
    rw [hz, hy]
    cases x.blk <;> simp

theorem Marked.poisonOf (h : Marked x y) {accB : Bool} (hp : x.array.poisonOf accB = true) : y.array.poisonOf accB = true := by
  cases accB
  · exact h.poisonA hp
  · exact h.poisonB hp

theorem markFault_marked (x : Core) (accB : Bool) (t : Nat) : Marked x (x.markFault accB t) where
  core := rfl
  array := by cases accB <;> rfl
  poisonA h := by cases accB <;> simp [Core.markFault, Core.markAcc, ArrayState.mark, h]
  poisonB h := by cases accB <;> simp [Core.markFault, Core.markAcc, ArrayState.mark, h]
  blk := by
    refine ⟨fun q => q.pois || (decide (q.f.acc = accB) && !q.f.keep && decide (t < q.entry)), fun l => l.map (·.mark accB), ?_⟩
    cases hb : x.blk with
    | none => simp [Core.markFault, Core.markAcc, hb]
    | some b =>
      simp only [Core.markFault, Core.markAcc, hb, Option.map_some, Option.some.injEq]
      congr 1
      refine List.map_congr_left fun q _ => ?_
      split
      next h => simp only [h, Bool.or_true]
      next h => simp only [Bool.not_eq_true] at h; rw [h, Bool.or_false]

theorem markFault_poisonOf (x : Core) (accB : Bool) (t : Nat) : (x.markFault accB t).array.poisonOf accB = true := by cases accB <;> rfl

/-- A mark under a condition. -/
def Core.markIf (x : Core) (p : Bool) (accB : Bool) (t : Nat) : Core := if p then x.markFault accB t else x

theorem markIf_marked (x : Core) (p accB : Bool) (t : Nat) : Marked x (x.markIf p accB t) := by
  cases p
  · exact .refl x
  · exact markFault_marked x accB t

end Marks

/-! ### The stages of an issue (R140) -/

section Stages
variable (c : CoreIx) (sh : Shape) (m : MFields) (b : Block) (n : Nat) (s : State)

/-- The reasons of R80 that the MMA meets. -/
def mmaChecks : List Nat := mmaReasons s.cores[c] b (mkMma b n sh m) b.mmas.getLast?

/-- The MMA issues with a fault or a reserved format. -/
def mmaBad : Bool := !(mmaChecks c sh m b n s).isEmpty || isReserved (mkMma b n sh m).fmt

/-- The MMA ends the reads of a predecessor that has not read its last local line (R141). -/
def mmaCuts : Bool := match b.mmas.getLast? with
  | some q => q.cut.isNone && decide (n < q.issued + q.f.lg.toNat)
  | none => false

/-- The MMA as it joins the block. -/
def mmaJoined : Mma := { mkMma b n sh m with pois := mmaBad c sh m b n s, dpois := (mmaChecks c sh m b n s).contains 6 }

/-- The fault of its checks is noted. -/
def mmaFaulted : State := match mmaChecks c sh m b n s with
  | [] => s
  | r :: _ => arrayFail c n r m.acc s

/-- The event of a reserved format is recorded. -/
def mmaRecorded : State :=
  if isReserved (mkMma b n sh m).fmt then record (mmaFaulted c sh m b n s) 0x2310 error c.val n 0 0 else mmaFaulted c sh m b n s

/-- The accumulators that the issue marks: the MMA's own, the other one, and that of a cut predecessor. -/
def mmaMarks (x : Core) : Core :=
  let y := (x.markIf (mmaBad c sh m b n s) m.acc n).markIf
    ((mmaChecks c sh m b n s).contains 1 || (mmaChecks c sh m b n s).contains 2) (!m.acc) n
  match b.mmas.getLast? with
  | some q => y.markIf (mmaCuts b n) q.f.acc n
  | none => y

/-- The MMAs of the block, the last of them cut. -/
def mmaCutLast (l : List Mma) : List Mma := match l.getLast? with
  | some q => if mmaCuts b n then l.dropLast ++ [{ q with cut := some n, pois := true }] else l
  | none => l

/-- The ENDing MMAs that later checks look at. -/
def mmaEnds (l : List (Bool × Nat × Nat × Shape)) : List (Bool × Nat × Nat × Shape) :=
  if m.ends then l.filter (fun q => n ≤ q.2.1 + q.2.2.1 + 4 + skew q.2.2.2) ++ [(m.acc, (mkMma b n sh m).entry, m.lg.toNat, sh)] else l

/-- The MMA joins the block. -/
def mmaJoin (x : Core) : Core :=
  { x with
    array := { x.array with tileK := (if m.keep then x.array.tileK else 0) + m.lg.toNat / fmtF (mkMma b n sh m).fmt }
    blk := x.blk.map fun y => { y with
      mUsed := some n
      mmas := mmaCutLast b n y.mmas ++ [mmaJoined c sh m b n s]
      updM := y.updM ++ mmaUpdates (mmaJoined c sh m b n s)
      ends := mmaEnds sh m b n y.ends } }

theorem issueMma_eq : issueMma c sh m b n s =
    modCore (mmaRecorded c sh m b n s) c fun x => mmaJoin c sh m b n s (mmaMarks c sh m b n s x) := rfl

end Stages

/-! ### The checks -/

section Checks
variable {c : CoreIx} {sh : Shape} {m : MFields} {b : Block} {n : Nat} {s : State} {q : Mma}

theorem mmaCuts_iff (hq : b.mmas.getLast? = some q) : mmaCuts b n = true ↔ q.cut = none ∧ n < q.issued + q.f.lg.toNat := by
  rw [mmaCuts, hq]
  simp

/-- A predecessor that is cut is met as FENCE, as GAP or as KEEP_MISMATCH, as the new MMA starts a tile, chains or keeps (R80, R141). -/
theorem mmaChecks_of_cuts (h : mmaCuts b n = true) : mmaChecks c sh m b n s ≠ [] := by
  cases hq : b.mmas.getLast? with
  | none => rw [mmaCuts, hq] at h; cases h
  | some q =>
    rw [mmaCuts, hq] at h
    have hi : (mkMma b n sh m).issued = n := rfl
    have hf : (mkMma b n sh m).f = m := rfl
    rw [mmaChecks, hq, mmaReasons]
    dsimp only at h ⊢
    rw [hi, hf]
    simp only [h, Bool.true_or, Bool.and_true]
    cases m.keep <;> cases m.chain <;> simp

theorem mmaBad_iff : mmaBad c sh m b n s = true ↔ mmaChecks c sh m b n s ≠ [] ∨ isReserved (mkMma b n sh m).fmt = true := by
  simp [mmaBad]

theorem mmaMarks_marked (x : Core) : Marked x (mmaMarks c sh m b n s x) := by
  have h := (markIf_marked x (mmaBad c sh m b n s) m.acc n).trans (markIf_marked _
    ((mmaChecks c sh m b n s).contains 1 || (mmaChecks c sh m b n s).contains 2) (!m.acc) n)
  unfold mmaMarks
  split
  · exact h.trans (markIf_marked ..)
  · exact h

/-- Without a failed check and with a format that is not reserved nothing is marked. -/
theorem mmaMarks_none (hc : mmaChecks c sh m b n s = []) (hr : isReserved (mkMma b n sh m).fmt = false) (x : Core) :
    mmaMarks c sh m b n s x = x := by
  have hb : mmaBad c sh m b n s = false := by rw [mmaBad, hc, hr]; rfl
  have hk : mmaCuts b n = false := Bool.not_eq_true _ ▸ fun h => mmaChecks_of_cuts h hc
  unfold mmaMarks
  rw [hb, hk, hc]
  split <;> rfl

/-- A bad MMA's own accumulator is marked. -/
theorem mmaMarks_own (h : mmaBad c sh m b n s = true) (x : Core) : (mmaMarks c sh m b n s x).array.poisonOf m.acc = true := by
  have h1 := (markIf_marked (x.markIf true m.acc n) ((mmaChecks c sh m b n s).contains 1 || (mmaChecks c sh m b n s).contains 2)
    (!m.acc) n).poisonOf (markFault_poisonOf x m.acc n)
  unfold mmaMarks
  rw [h]
  split
  · exact (markIf_marked ..).poisonOf h1
  · exact h1

/-- The accumulator of a cut predecessor is marked. -/
theorem mmaMarks_cut (hq : b.mmas.getLast? = some q) (h : mmaCuts b n = true) (x : Core) :
    (mmaMarks c sh m b n s x).array.poisonOf q.f.acc = true := by
  unfold mmaMarks
  rw [hq, h]
  exact markFault_poisonOf ..

theorem length_mmaCutLast (l : List Mma) : (mmaCutLast b n l).length = l.length := by
  unfold mmaCutLast
  split
  next q hq =>
    have hl : l ≠ [] := by rintro rfl; cases hq
    have hp := List.length_pos_of_ne_nil hl
    split
    · rw [List.length_append, List.length_dropLast, List.length_singleton]
      omega
    · rfl
  · rfl

theorem mmaCutLast_cut (h : mmaCuts b n = true) {l : List Mma} (hq : l.getLast? = some q) :
    { q with cut := some n, pois := true } ∈ mmaCutLast b n l := by
  rw [mmaCutLast, hq, h]
  exact List.mem_append_right _ (List.mem_singleton.mpr rfl)

end Checks

/-! ### The note of a fault (R80) -/

/-- What the note of an array fault leaves: of core `c` the array's fault registers and its block's fault. -/
structure FaultNoted (c : CoreIx) (b : Block) (s u : State) (w : Option W16) : Prop where
  frame : ArrayFrame s u c
  blk : u.cores[c].blk = some { b with arrayFault := w }
  array : u.cores[c].array = { s.cores[c].array with
    fault := u.cores[c].array.fault, faultAt := u.cores[c].array.faultAt, reason := u.cores[c].array.reason
    faultAcc := u.cores[c].array.faultAcc, faultCycle := u.cores[c].array.faultCycle, faultCount := u.cores[c].array.faultCount }

/-- The first array fault of a block: latched, where no latch stands, with its event (R80, R9). -/
structure FaultFirst (c : CoreIx) (n reason : Nat) (accB : Bool) (s u : State) : Prop where
  fault : u.cores[c].array.fault = true
  latch : s.cores[c].array.fault = false → u.cores[c].array.reason = BitVec.ofNat 4 reason ∧ u.cores[c].array.faultAcc = accB ∧
    u.cores[c].array.faultCycle = BitVec.ofNat 32 n
  event : ∃ x xs, u.recorder.arriving = s.recorder.arriving ++ x :: xs ∧ x.code = BitVec.ofNat 16 (0x2300 + reason) ∧
    x.unit = BitVec.ofNat 8 c.val

section Notes
variable {c : CoreIx} {b : Block} {n reason : Nat} {accB : Bool} {s u : State} {w : Option W16}

/-- An update of one core's array and block. -/
theorem modCore_arrayFrame (s : State) (c : CoreIx) {f : Core → Core} (hf : ∀ x, (f x).ctx = x.ctx ∧ (f x).sp = x.sp) :
    ArrayFrame s (modCore s c f) c :=
  ⟨rfl, fun _ hd => modCore_other s c f hd, by rw [modCore_core]; exact (hf _).1, by rw [modCore_core]; exact (hf _).2⟩

theorem arrayFrame_trans {t : State} (a : ArrayFrame s t c) (h : ArrayFrame t u c) : ArrayFrame s u c := by
  obtain ⟨ho, hd, hc, hp⟩ := a
  obtain ⟨ho', hd', hc', hp'⟩ := h
  exact ⟨Eq.trans ho' (by rw [ho]), fun d h => (hd' d h).trans (hd d h), hc'.trans hc, hp'.trans hp⟩

theorem faultNoted_refl (hb : s.cores[c].blk = some b) : FaultNoted c b s s b.arrayFault :=
  ⟨⟨rfl, fun _ _ => rfl, rfl, rfl⟩, hb, rfl⟩

theorem FaultNoted.record (h : FaultNoted c b s u w) (code : Nat) (sev : BitVec 2) (i a0 a1 a2 : Nat) :
    FaultNoted c b s (record u code sev i a0 a1 a2) w := ⟨record_arrayFrame h.frame .., h.blk, h.array⟩

theorem FaultFirst.record (h : FaultFirst c n reason accB s u) (code : Nat) (sev : BitVec 2) (i a0 a1 a2 : Nat) :
    FaultFirst c n reason accB s (record u code sev i a0 a1 a2) := by
  obtain ⟨hf, hl, x, xs, ha, hx⟩ := h
  exact ⟨hf, hl, x, xs ++ [_], by rw [Machine.record, ha, List.append_assoc]; rfl, hx⟩

/-- A later fault of a block only counts. -/
theorem arrayFail_later (hb : s.cores[c].blk = some b) (hf : b.arrayFault ≠ none) :
    FaultNoted c b s (arrayFail c n reason accB s) b.arrayFault := by
  obtain ⟨w, hw⟩ := Option.ne_none_iff_exists'.mp hf
  have h : arrayFail c n reason accB s =
      modCore s c fun x => { x with array := { x.array with faultCount := satInc x.array.faultCount } } := by
    unfold arrayFail
    dsimp only
    rw [hb]
    dsimp only
    rw [hw]
  rw [h]
  exact ⟨modCore_arrayFrame s c fun _ => ⟨rfl, rfl⟩, by rw [modCore_core]; exact hb, by rw [modCore_core]⟩

theorem arrayFail_first (hb : s.cores[c].blk = some b) (hf : b.arrayFault = none) :
    FaultNoted c b s (arrayFail c n reason accB s) (some (BitVec.ofNat 16 (reason + 16 * b2n accB))) ∧
      FaultFirst c n reason accB s (arrayFail c n reason accB s) := by
  have h : arrayFail c n reason accB s = modCore (record s (0x2300 + reason) error c.val n 0 0) c fun x => { x with
      blk := some { b with arrayFault := some (BitVec.ofNat 16 (reason + 16 * b2n accB)) }
      array := if x.array.fault then { x.array with faultCount := satInc x.array.faultCount, faultAt := s.time.cycle + 1 }
        else { x.array with fault := true, faultAt := s.time.cycle + 1, reason := BitVec.ofNat 4 reason
                            faultAcc := accB, faultCycle := BitVec.ofNat 32 n } } := by
    unfold arrayFail
    dsimp only
    rw [hb]
    dsimp only
    rw [hf]
    rfl
  rw [h]
  have hrec : ArrayFrame s (record s (0x2300 + reason) error c.val n 0 0) c := record_arrayFrame ⟨rfl, fun _ _ => rfl, rfl, rfl⟩ ..
  refine ⟨⟨arrayFrame_trans hrec (modCore_arrayFrame _ c fun _ => ⟨rfl, rfl⟩), by rw [modCore_core], ?_⟩, ?_, ?_, _, [], rfl, rfl, rfl⟩
  all_goals rw [modCore_core, record_cores]
  · split <;> rfl
  · split
    next hs => exact hs
    next => rfl
  · intro hs
    rw [if_neg (by rw [hs]; exact Bool.false_ne_true)]
    exact ⟨rfl, rfl, rfl⟩

end Notes

/-! ### The issue -/

section Issues
variable {c : CoreIx} {sh : Shape} {m : MFields} {b : Block} {n : Nat} {s : State}

/-- What the checks have noted. -/
theorem mmaFaulted_spec (hb : s.cores[c].blk = some b) : ∃ w, FaultNoted c b s (mmaFaulted c sh m b n s) w ∧
    (mmaChecks c sh m b n s = [] → w = b.arrayFault ∧ mmaFaulted c sh m b n s = s) ∧
    ∀ r rs, mmaChecks c sh m b n s = r :: rs →
      (b.arrayFault = none → w = some (BitVec.ofNat 16 (r + 16 * b2n m.acc)) ∧ FaultFirst c n r m.acc s (mmaFaulted c sh m b n s)) ∧
      (b.arrayFault ≠ none → w = b.arrayFault) := by
  unfold mmaFaulted
  cases hc : mmaChecks c sh m b n s with
  | nil => exact ⟨_, faultNoted_refl hb, fun _ => ⟨rfl, rfl⟩, fun _ _ h => nomatch h⟩
  | cons r rs =>
    by_cases hf : b.arrayFault = none
    · obtain ⟨hn, h1⟩ := arrayFail_first (n := n) (reason := r) (accB := m.acc) hb hf
      exact ⟨_, hn, (nomatch ·), fun _ _ h => by cases h; exact ⟨fun _ => ⟨rfl, h1⟩, fun h => absurd hf h⟩⟩
    · exact ⟨_, arrayFail_later hb hf, (nomatch ·), fun _ _ _ => ⟨fun h => absurd h hf, fun _ => rfl⟩⟩

/-- The state that the marks and the MMA join: with a failed check its fault is noted. -/
theorem mmaRecorded_spec (hb : s.cores[c].blk = some b) : ∃ w, FaultNoted c b s (mmaRecorded c sh m b n s) w ∧
    (mmaChecks c sh m b n s = [] → w = b.arrayFault ∧ (isReserved (mkMma b n sh m).fmt = false → mmaRecorded c sh m b n s = s)) ∧
    ∀ r rs, mmaChecks c sh m b n s = r :: rs →
      (b.arrayFault = none → w = some (BitVec.ofNat 16 (r + 16 * b2n m.acc)) ∧ FaultFirst c n r m.acc s (mmaRecorded c sh m b n s)) ∧
      (b.arrayFault ≠ none → w = b.arrayFault) := by
  obtain ⟨w, hn, hnil, hcons⟩ := mmaFaulted_spec (sh := sh) (m := m) (n := n) hb
  unfold mmaRecorded
  by_cases hr : isReserved (mkMma b n sh m).fmt = true
  · simp only [if_pos hr]
    exact ⟨w, hn.record .., fun hc => ⟨(hnil hc).1, fun h => absurd hr (by simp [h])⟩,
      fun r rs hc => ⟨fun hf => ⟨((hcons r rs hc).1 hf).1, ((hcons r rs hc).1 hf).2.record ..⟩, (hcons r rs hc).2⟩⟩
  · simp only [if_neg hr]
    exact ⟨w, hn, fun hc => ⟨(hnil hc).1, fun _ => (hnil hc).2⟩, hcons⟩

/-- The block that the MMA has joined. -/
structure MmaJoins (c : CoreIx) (sh : Shape) (m : MFields) (b : Block) (n : Nat) (s : State) (w : Option W16) (b' : Block) : Prop where
  used : b'.mUsed = some n
  last : b'.mmas.getLast? = some (mmaJoined c sh m b n s)
  length : b'.mmas.length = b.mmas.length + 1
  upd : b'.updM = b.updM ++ mmaUpdates (mmaJoined c sh m b n s)
  fault : b'.arrayFault = w
  cut : ∀ q, b.mmas.getLast? = some q → mmaCuts b n = true → ∃ p ∈ b'.mmas, p.issued = q.issued ∧ p.cut = some n

theorem mmaJoin_spec {x y : Core} {w : Option W16} (hx : x.blk = some { b with arrayFault := w }) (hm : Marked x y) :
    ∃ b', (mmaJoin c sh m b n s y).blk = some b' ∧ MmaJoins c sh m b n s w b' := by
  obtain ⟨f, g, hy⟩ := hm.blk
  rw [hx, Option.map_some] at hy
  refine ⟨_, by rw [mmaJoin, hy, Option.map_some], rfl, List.getLast?_concat .., ?_, rfl, rfl, fun q hq hk => ?_⟩
  · rw [List.length_append, length_mmaCutLast, List.length_map]
    rfl
  · have hl : (b.mmas.map fun q => { q with pois := f q }).getLast? = some { q with pois := f q } := by
      rw [List.getLast?_map, hq]
      rfl
    exact ⟨_, List.mem_append_left _ (mmaCutLast_cut hk hl), rfl, rfl⟩

theorem issueMma_core (c : CoreIx) (sh : Shape) (m : MFields) (b : Block) (n : Nat) (s : State) :
    (issueMma c sh m b n s).cores[c] = mmaJoin c sh m b n s (mmaMarks c sh m b n s (mmaRecorded c sh m b n s).cores[c]) := by
  rw [issueMma_eq, modCore_core]

theorem issueMma_recorder (c : CoreIx) (sh : Shape) (m : MFields) (b : Block) (n : Nat) (s : State) :
    (issueMma c sh m b n s).recorder = (mmaRecorded c sh m b n s).recorder := rfl

theorem issueMma_frame {w : Option W16} (h : FaultNoted c b s (mmaRecorded c sh m b n s) w) : ArrayFrame s (issueMma c sh m b n s) c := by
  refine arrayFrame_trans h.frame ?_
  rw [issueMma_eq]
  refine modCore_arrayFrame _ c fun x => ?_
  have hx := (mmaMarks_marked (c := c) (sh := sh) (m := m) (b := b) (n := n) (s := s) x).core
  rw [mmaJoin, hx]
  exact ⟨rfl, rfl⟩

theorem mmaJoin_poisonOf (x : Core) (accB : Bool) : (mmaJoin c sh m b n s x).array.poisonOf accB = x.array.poisonOf accB := by
  cases accB <;> rfl

end Issues

/-- The five commands of an MMA are one, with their shape's opcode (R138). -/
theorem mmaRows_exec : ∀ e ∈ mmaRows, e.2.1 = shapeOp e.2.2 ∧ ∀ c m s, exec (e.1 c m) s = mma c e.2.2 m s := by
  simp only [mmaRows, List.forall_mem_cons, List.not_mem_nil, false_imp_iff, implies_true, and_true]
  exact ⟨⟨rfl, fun _ _ _ => rfl⟩, ⟨rfl, fun _ _ _ => rfl⟩, ⟨rfl, fun _ _ _ => rfl⟩, ⟨rfl, fun _ _ _ => rfl⟩,
    rfl, fun _ _ _ => rfl⟩

theorem blk_of_mSlot {w : BitVec 44} {s : State} {c : CoreIx} {b : Block} {n : Nat} (h : mSlot s c w b n) : s.cores[c].blk = some b := by
  obtain ⟨bu, hb, -, -⟩ := h
  exact blk_of_bundleNow hb

end Sys2Proof.Machine

open Sys2Proof Sys2Proof.Machine Sys2Proof.Claims

/-- Settles O22: the empty slots, and an MMA that joins the block, with and without a fault. -/
theorem matrixSlot : Obligations.MatrixSlot := by
  unfold Obligations.MatrixSlot
  refine ⟨fun c b n s => ⟨fun h => ⟨_, mnop_issues h, rfl⟩, fun h => ⟨_, issueT_issues (fun _ _ s => s) h, rfl⟩,
      fun h => ⟨_, issueV_issues (fun _ _ s => s) h, rfl⟩⟩,
    fun e he c m b n s h => ?_⟩
  obtain ⟨hop, hex⟩ := mmaRows_exec e he
  obtain ⟨row, op, sh⟩ := e
  obtain rfl : op = shapeOp sh := hop
  have hb := blk_of_mSlot h
  obtain ⟨w, hn, hnil, hcons⟩ := mmaRecorded_spec (sh := sh) (m := m) (n := n) hb
  have hm : Marked _ (mmaMarks c sh m b n s (mmaRecorded c sh m b n s).cores[c]) := mmaMarks_marked _
  obtain ⟨b', hb', hj⟩ := mmaJoin_spec (c := c) (sh := sh) (m := m) (n := n) (s := s) hn.blk hm
  have hcore := issueMma_core c sh m b n s
  have hmark {accB : Bool} (hp : (mmaMarks c sh m b n s (mmaRecorded c sh m b n s).cores[c]).array.poisonOf accB = true) :
      (issueMma c sh m b n s).cores[c].array.poisonOf accB = true := by rw [hcore, mmaJoin_poisonOf, hp]
  refine ⟨_, b', mmaJoined c sh m b n s, (hex c m s).trans (mma_issues h), issueMma_frame hn, hcore ▸ hb', hj.used, hj.last, hj.length,
    rfl, rfl, rfl, rfl, rfl, rfl, rfl, rfl, mmaBad_iff, hj.upd, ?valuesA, ?valuesB, fun hc hr => ⟨?event, ?own, ?array⟩,
    fun hp => hmark (mmaMarks_own hp _), fun r rs hc => ⟨fun hf => ?first, fun hf => ?later⟩, fun q hq hc hl => ⟨?cut, ?marked⟩⟩
  case valuesA => rw [hcore, mmaJoin, hm.array, hn.array]
  case valuesB => rw [hcore, mmaJoin, hm.array, hn.array]
  case event => rw [issueMma_recorder, (hnil hc).2 hr]
  case own => rw [hj.fault, (hnil hc).1]
  case array => rw [hcore, mmaJoin, mmaMarks_none hc hr, (hnil hc).2 hr]
  case first =>
    obtain ⟨hw, hf1⟩ := (hcons r rs hc).1 hf
    have ha : (issueMma c sh m b n s).cores[c].array = _ := congrArg Core.array hcore
    rw [mmaJoin, hm.array] at ha
    rw [ha, hj.fault]
    exact ⟨hf1.fault, hw, hf1.latch, hf1.event⟩
  case later => rw [hj.fault, (hcons r rs hc).2 hf]
  case cut => exact hj.cut q hq ((mmaCuts_iff hq).mpr ⟨hc, hl⟩)
  case marked => exact hmark (mmaMarks_cut hq ((mmaCuts_iff hq).mpr ⟨hc, hl⟩) _)
end

section
/-! PROOF. The lanes of vector registers (R153): what a lane of packed codes is, which flags a list of lanes raises, and the lane-wise
operations on one, two and three registers (R155, R156). -/

namespace Sys2Proof.Machine
open Claims

/-! ### Lanes of a number -/

section Lanes

/-- A field does not see the bits cut off above it. -/
theorem ofNat_field {a w k : Nat} (h : a + w ≤ k) (x : Nat) : (BitVec.ofNat k x).toNat / 2 ^ a % 2 ^ w = x / 2 ^ a % 2 ^ w := by
  rw [BitVec.toNat_ofNat, ← pow_mul_pow_sub 2 (show a ≤ k by omega), Nat.mod_mul_right_div_self]
  exact Nat.mod_mod_of_dvd _ (pow_dvd_pow 2 (by omega))

theorem laneAt_ofNat {w i : Nat} (h : w * i + w ≤ 2048) (x : Nat) : laneAt w i (BitVec.ofNat 2048 x) = x / 2 ^ (w * i) % 2 ^ w :=
  ofNat_field h x

/-- Codes of `w` bits packed from bit 0. -/
def packed (w : Nat) (vs : List Nat) : Nat := vs.foldr (fun v a => v % 2 ^ w + a * 2 ^ w) 0

theorem packLanes_eq (w : Nat) (vs : List Nat) : packLanes w vs = BitVec.ofNat 2048 (packed w vs) := rfl

theorem packed_lane (w i : Nat) (vs : List Nat) : packed w vs / 2 ^ (w * i) % 2 ^ w = vs.getD i 0 % 2 ^ w := by
  induction vs generalizing i with
  | nil => simp [packed]
  | cons v vs ih =>
    have hp : 0 < 2 ^ w := Nat.two_pow_pos w
    have hc : packed w (v :: vs) = v % 2 ^ w + packed w vs * 2 ^ w := rfl
    cases i with
    | zero => rw [hc, Nat.mul_zero, pow_zero, Nat.div_one, Nat.add_mul_mod_self_right, Nat.mod_mod]; rfl
    | succ i =>
      rw [hc, Nat.mul_succ, Nat.add_comm (w * i) w, pow_add, ← Nat.div_div_eq_div_mul, Nat.add_mul_div_right _ _ hp,
        Nat.div_eq_of_lt (Nat.mod_lt _ hp), Nat.zero_add, ih]
      rfl

theorem packed_lt (w : Nat) (vs : List Nat) : packed w vs < 2 ^ (w * vs.length) := by
  induction vs with
  | nil => simp [packed]
  | cons v vs ih =>
    have hp : 0 < 2 ^ w := Nat.two_pow_pos w
    have hv := Nat.mod_lt v hp
    have hc : packed w (v :: vs) = v % 2 ^ w + packed w vs * 2 ^ w := rfl
    rw [hc, List.length_cons, Nat.mul_succ, pow_add]
    calc v % 2 ^ w + packed w vs * 2 ^ w < (packed w vs + 1) * 2 ^ w := by rw [Nat.add_mul, Nat.one_mul]; omega
      _ ≤ 2 ^ (w * vs.length) * 2 ^ w := Nat.mul_le_mul_right _ ih

theorem laneAt_packLanes {w i : Nat} (h : w * i + w ≤ 2048) (vs : List Nat) : laneAt w i (packLanes w vs) = vs.getD i 0 % 2 ^ w := by
  rw [packLanes_eq, laneAt_ofNat h, packed_lane]

theorem laneAt_or (w i : Nat) (x y : Line) : laneAt w i (x ||| y) = laneAt w i x ||| laneAt w i y := by
  rw [laneAt, BitVec.toNat_or, Nat.or_div_two_pow, Nat.or_mod_two_pow]
  rfl

theorem laneAt_lt (w i : Nat) (x : Line) : laneAt w i x < 2 ^ w := Nat.mod_lt _ (Nat.two_pow_pos w)

/-! ### The lanes of a register -/

theorem lanesOf_eq (w n : Nat) (x : Line) : lanesOf w n x = (List.range n).map fun i => laneAt w i x := rfl

theorem modeLanes_eq (bf : Bool) (x : VReg) : modeLanes bf x = (List.range (laneCount bf)).map fun i => srcLane bf i x := by
  cases bf <;> rfl

theorem laneWidth_fits {bf : Bool} {i : Nat} (h : i < laneCount bf) : laneWidth bf * i + laneWidth bf ≤ 2048 := by
  cases bf
  · simp only [laneCount, laneWidth, Bool.false_eq_true, if_false] at h ⊢; omega
  · simp only [laneCount, laneWidth, if_true] at h ⊢; omega

theorem getD_map_range {α : Type} (g : Nat → α) {n i : Nat} (h : i < n) (d : α) : ((List.range n).map g).getD i d = g i := by
  simp [List.getD, h]

/-- A flag of a list of lanes is raised when a lane raises it. -/
theorem foldl_flags {α : Type} (g : α → VF) (l : List α) (a : VF) (j : Nat) :
    (l.foldl (fun a r => a ||| g r) a).getLsbD j = true ↔ a.getLsbD j = true ∨ ∃ r ∈ l, (g r).getLsbD j = true := by
  induction l generalizing a with
  | nil => simp
  | cons x l ih => rw [List.foldl_cons, ih, BitVec.getLsbD_or, Bool.or_eq_true, List.exists_mem_cons_iff, or_assoc]

/-- Lanes without flags raise none. -/
theorem foldl_noFlags {α : Type} (g : α → VF) (l : List α) (h : ∀ r ∈ l, g r = 0) : l.foldl (fun a r => a ||| g r) 0 = 0 := by
  refine List.foldlRecOn (motive := (· = 0)) l _ rfl fun a ha r hr => ?_
  rw [ha, h r hr]
  rfl

/-- The lanes' results, packed with their flags. -/
theorem packMode_lanewise (bf : Bool) (g : Nat → Nat × VF) (p : BitVec 4) :
    let r := packMode bf ((List.range (laneCount bf)).map g)
    Lanewise bf g { bits := r.1, poison := p } r.2 := by
  refine ⟨fun i hi => ?_, fun j _ => ?_⟩
  · have hw : (if bf then 16 else 32) = laneWidth bf := rfl
    rw [packMode, hw, laneAt_packLanes (laneWidth_fits hi), List.map_map, getD_map_range _ hi]
    rfl
  · rw [packMode, foldl_flags]
    simp

end Lanes

/-! ### Lane-wise operations -/

section Operations
variable (bf : Bool)

theorem lane1_eq (f : Nat → Nat × VF) (a : VReg) : lane1 bf f a =
    (let r := packMode bf ((List.range (laneCount bf)).map fun i => f (srcLane bf i a))
     ({ bits := r.1, poison := a.poison }, r.2)) := by
  rw [lane1, modeLanes_eq, List.map_map]
  rfl

theorem lane2_eq (f : Nat → Nat → Nat × VF) (a b : VReg) : lane2 bf f a b =
    (let r := packMode bf ((List.range (laneCount bf)).map fun i => f (srcLane bf i a) (srcLane bf i b))
     ({ bits := r.1, poison := quarterPoison [a, b] }, r.2)) := by
  rw [lane2, modeLanes_eq, modeLanes_eq, List.zip_map', List.map_map]
  rfl

theorem lane3_eq (f : Nat → Nat → Nat → Nat × VF) (a b d : VReg) : lane3 bf f a b d =
    (let r := packMode bf ((List.range (laneCount bf)).map fun i => f (srcLane bf i a) (srcLane bf i b) (srcLane bf i d))
     ({ bits := r.1, poison := quarterPoison [a, b, d] }, r.2)) := by
  rw [lane3, modeLanes_eq, modeLanes_eq, modeLanes_eq, List.zip_map', List.zip_map', List.map_map]
  rfl

theorem quarterPoison_two (a b : VReg) : quarterPoison [a, b] = a.poison ||| b.poison := by
  simp [quarterPoison]

theorem quarterPoison_three (a b d : VReg) : quarterPoison [a, b, d] = a.poison ||| b.poison ||| d.poison := by
  simp [quarterPoison]

end Operations

/-! ### Results on their way (R156) -/

section Results
variable {s : State} {c : CoreIx} {b : Block} {n : Nat} {bf : Bool} {op aux lat : Nat} {vd va vb vc : Fin 32}

theorem vput_withBlock (s : State) (c : CoreIx) (b : Block) (n : Nat) (vd : Fin 32) (lat : Nat) (r : VReg × VF) :
    vput c n vd lat r (withBlock s c b) = withBlock s c { b with
      vres := b.vres ++ [{ vd := vd, due := n + lat - 1, issued := n, val := r.1, flags := r.2 }] } := modBlk_withBlock ..

/-- An instruction of one source has a result on its way. -/
theorem v1_result {g : VReg → VReg × VF} (h : vSlot s c (encV op vd.val va.val 0 0 bf aux) [va] b n) :
    ∃ t, v1 c op vd va bf aux lat g s = .next t ∧ VResult s t c b n vd lat (g (b.vsrc n va)).1 (g (b.vsrc n va)).2 :=
  ⟨_, (issueV_issues _ h).trans (congrArg _ (vput_withBlock ..)), rfl⟩

theorem v2_result {g : VReg → VReg → VReg × VF} (h : vSlot s c (encV op vd.val va.val vb.val 0 bf aux) [va, vb] b n) :
    ∃ t, v2 c op vd va vb bf aux lat g s = .next t ∧
      VResult s t c b n vd lat (g (b.vsrc n va) (b.vsrc n vb)).1 (g (b.vsrc n va) (b.vsrc n vb)).2 :=
  ⟨_, (issueV_issues _ h).trans (congrArg _ (vput_withBlock ..)), rfl⟩

theorem v3_result {g : VReg → VReg → VReg → VReg × VF} (h : vSlot s c (encV op vd.val va.val vb.val vc.val bf 0) [va, vb, vc] b n) :
    ∃ t, v3 c op vd va vb vc bf lat g s = .next t ∧
      VResult s t c b n vd lat (g (b.vsrc n va) (b.vsrc n vb) (b.vsrc n vc)).1 (g (b.vsrc n va) (b.vsrc n vb) (b.vsrc n vc)).2 :=
  ⟨_, (issueV_issues _ h).trans (congrArg _ (vput_withBlock ..)), rfl⟩

theorem v1_lanes {f : Nat → Nat × VF} (h : vSlot s c (encV op vd.val va.val 0 0 bf aux) [va] b n) :
    ∃ t r fl, v1 c op vd va bf aux lat (lane1 bf f) s = .next t ∧ VResult s t c b n vd lat r fl ∧
      Lanewise bf (fun i => f (srcLane bf i (b.vsrc n va))) r fl ∧ r.poison = (b.vsrc n va).poison := by
  obtain ⟨t, ht, hr⟩ := v1_result (lat := lat) (g := lane1 bf f) h
  rw [lane1_eq] at hr
  exact ⟨t, _, _, ht, hr, packMode_lanewise .., rfl⟩

theorem v2_lanes {f : Nat → Nat → Nat × VF} (h : vSlot s c (encV op vd.val va.val vb.val 0 bf aux) [va, vb] b n) :
    ∃ t r fl, v2 c op vd va vb bf aux lat (lane2 bf f) s = .next t ∧ VResult s t c b n vd lat r fl ∧
      Lanewise bf (fun i => f (srcLane bf i (b.vsrc n va)) (srcLane bf i (b.vsrc n vb))) r fl ∧
      r.poison = (b.vsrc n va).poison ||| (b.vsrc n vb).poison := by
  obtain ⟨t, ht, hr⟩ := v2_result (lat := lat) (g := lane2 bf f) h
  rw [lane2_eq] at hr
  exact ⟨t, _, _, ht, hr, packMode_lanewise .., quarterPoison_two ..⟩

theorem v3_lanes {f : Nat → Nat → Nat → Nat × VF} (h : vSlot s c (encV op vd.val va.val vb.val vc.val bf 0) [va, vb, vc] b n) :
    ∃ t r fl, v3 c op vd va vb vc bf lat (lane3 bf f) s = .next t ∧ VResult s t c b n vd lat r fl ∧
      Lanewise bf (fun i => f (srcLane bf i (b.vsrc n va)) (srcLane bf i (b.vsrc n vb)) (srcLane bf i (b.vsrc n vc))) r fl ∧
      r.poison = (b.vsrc n va).poison ||| (b.vsrc n vb).poison ||| (b.vsrc n vc).poison := by
  obtain ⟨t, ht, hr⟩ := v3_result (lat := lat) (g := lane3 bf f) h
  rw [lane3_eq] at hr
  exact ⟨t, _, _, ht, hr, packMode_lanewise .., quarterPoison_three ..⟩

end Results

end Sys2Proof.Machine
end

section
/-! PROOF. Two- and three-source vector operations lane by lane (R153 to R156). -/

namespace Sys2Proof.Machine
open Claims

/-! ### Codes of a lane -/

section Codes
variable {bf : Bool}

theorem laneFmt_signAt (bf : Bool) : (laneFmt bf).signAt = laneWidth bf - 1 := by cases bf <;> rfl

theorem laneWidth_pos (bf : Bool) : laneWidth bf = laneWidth bf - 1 + 1 := by cases bf <;> rfl

theorem laneFmt_qnan_lt (bf : Bool) : (laneFmt bf).qnan < 2 ^ laneWidth bf := by cases bf <;> decide

theorem srcLane_lt (bf : Bool) (i : Nat) (x : VReg) : srcLane bf i x < 2 ^ laneWidth bf := laneAt_lt ..

/-- The sign turned over: half the range more, or less (R155). -/
theorem flipSign {k x : Nat} (h : x < 2 ^ (k + 1)) : (x + 2 ^ k) % 2 ^ (k + 1) = if x < 2 ^ k then x + 2 ^ k else x - 2 ^ k := by
  have hk : 2 ^ (k + 1) = 2 ^ k + 2 ^ k := by rw [pow_succ, Nat.mul_two]
  split
  next hx => exact Nat.mod_eq_of_lt (by omega)
  next hx => rw [Nat.mod_eq_sub_mod (by omega), Nat.mod_eq_of_lt (by omega)]; omega

/-- A code with its sign cleared (R155). -/
theorem clearedSign (bf : Bool) (x : Nat) : x % 2 ^ (laneFmt bf).signAt % 2 ^ laneWidth bf = x % 2 ^ (laneWidth bf - 1) := by
  rw [laneFmt_signAt]
  exact Nat.mod_eq_of_lt (lt_of_lt_of_le (Nat.mod_lt _ (Nat.two_pow_pos _)) (Nat.pow_le_pow_right (by decide) (Nat.sub_le _ 1)))

/-- A code with its sign turned over (R155). -/
theorem flippedSign {x : Nat} (hx : x < 2 ^ laneWidth bf) :
    (x + 2 ^ (laneFmt bf).signAt) % 2 ^ ((laneFmt bf).signAt + 1) % 2 ^ laneWidth bf =
      if x < 2 ^ (laneWidth bf - 1) then x + 2 ^ (laneWidth bf - 1) else x - 2 ^ (laneWidth bf - 1) := by
  rw [laneWidth_pos] at hx
  rw [laneFmt_signAt, ← laneWidth_pos, Nat.mod_mod, laneWidth_pos]
  exact flipSign hx

/-- A lane of VABS or VNEG: a NaN gives QNAN with its flag, another code `g` (R155). -/
theorem laneSign_eq (bf : Bool) (g : Nat → Nat) (x : Nat) : laneSign bf g x =
    if ((laneFmt bf).decode x).isNan = true then ((laneFmt bf).qnan, nanFlag [(laneFmt bf).decode x]) else (g x, 0) := rfl

/-- A lane of VCMP is all zeros or all ones. -/
theorem laneCmp_all (bf : Bool) (rel x y : Nat) :
    (laneCmp bf rel x y).1 % 2 ^ laneWidth bf = 0 ∨ (laneCmp bf rel x y).1 % 2 ^ laneWidth bf = 2 ^ laneWidth bf - 1 := by
  have hones : (2 ^ ((laneFmt bf).signAt + 1) - 1) % 2 ^ laneWidth bf = 2 ^ laneWidth bf - 1 := by
    rw [laneFmt_signAt, ← laneWidth_pos]
    exact Nat.mod_eq_of_lt (Nat.sub_lt (Nat.two_pow_pos _) Nat.one_pos)
  have hif (p : Bool) : (if p then 2 ^ ((laneFmt bf).signAt + 1) - 1 else 0) % 2 ^ laneWidth bf = 0 ∨
      (if p then 2 ^ ((laneFmt bf).signAt + 1) - 1 else 0) % 2 ^ laneWidth bf = 2 ^ laneWidth bf - 1 := by
    cases p
    · exact .inl (Nat.zero_mod _)
    · exact .inr hones
  unfold laneCmp
  dsimp only
  split
  · exact .inl (Nat.zero_mod _)
  · exact hif _

/-- Flags that no lane raises are none. -/
theorem lanewise_noFlags {g : Nat → Nat × VF} {r : VReg} {f : VF} (h : Lanewise bf g r f) (hg : ∀ i, (g i).2 = 0) : f = 0 := by
  refine BitVec.eq_of_getLsbD_eq fun j hj => ?_
  rw [Bool.eq_iff_iff, h.2 j hj]
  simp [hg]

end Codes

/-! ### The instructions -/

section Instructions
variable {s : State} {c : CoreIx} {b : Block} {n : Nat} {bf : Bool} {vd va vb vc : Fin 32}

/-- VABS and VNEG: `g` on every code that is no NaN. -/
theorem v1_sign {op : Nat} {g e : Nat → Nat} (hg : ∀ x, x < 2 ^ laneWidth bf → g x % 2 ^ laneWidth bf = e x)
    (h : vSlot s c (encV op vd.val va.val 0 0 bf 0) [va] b n) :
    ∃ t r f, v1 c op vd va bf 0 1 (lane1 bf (laneSign bf g)) s = .next t ∧ VResult s t c b n vd 1 r f ∧
      r.poison = (b.vsrc n va).poison ∧
      (∀ i, i < laneCount bf → laneAt (laneWidth bf) i r.bits =
        if ((laneFmt bf).decode (srcLane bf i (b.vsrc n va))).isNan = true then (laneFmt bf).qnan
        else e (srcLane bf i (b.vsrc n va))) ∧
      ∀ j : Nat, j < 4 → (f.getLsbD j = true ↔ ∃ i, i < laneCount bf ∧
        ((laneFmt bf).decode (srcLane bf i (b.vsrc n va))).isNan = true ∧
        (nanFlag [(laneFmt bf).decode (srcLane bf i (b.vsrc n va))]).getLsbD j = true) := by
  obtain ⟨t, r, f, ht, hr, ⟨hbits, hflags⟩, hp⟩ := v1_lanes (lat := 1) (f := laneSign bf g) h
  refine ⟨t, r, f, ht, hr, hp, fun i hi => ?_, fun j hj => (hflags j hj).trans (exists_congr fun i => and_congr_right fun _ => ?_)⟩
  · rw [hbits i hi]
    dsimp only
    rw [laneSign_eq]
    split
    · exact Nat.mod_eq_of_lt (laneFmt_qnan_lt bf)
    · exact hg _ (srcLane_lt ..)
  · dsimp only
    rw [laneSign_eq]
    split
    next hn => simp [hn]
    next hn => simp [hn]

theorem execVcmp_spec {rel : BitVec 2} (hrel : rel ≠ 3) (h : vSlot s c (encV 0x0A vd.val va.val vb.val 0 bf rel.toNat) [va, vb] b n) :
    ∃ t r f, execVcmp c vd va vb bf rel s = .next t ∧ VResult s t c b n vd 2 r f ∧
      r.poison = (b.vsrc n va).poison ||| (b.vsrc n vb).poison ∧
      Lanewise bf (fun i => laneCmp bf rel.toNat (srcLane bf i (b.vsrc n va)) (srcLane bf i (b.vsrc n vb))) r f ∧
      ∀ i, i < laneCount bf → laneAt (laneWidth bf) i r.bits = 0 ∨ laneAt (laneWidth bf) i r.bits = 2 ^ laneWidth bf - 1 := by
  obtain ⟨t, r, f, ht, hr, hl, hp⟩ := v2_lanes (lat := 2) (f := laneCmp bf rel.toNat) h
  exact ⟨t, r, f, (if_neg hrel).trans ht, hr, hp, hl, fun i hi => hl.1 i hi ▸ laneCmp_all ..⟩

theorem execVsel_spec (h : vSlot s c (encV 0x0B vd.val va.val vb.val vc.val bf 0) [va, vb, vc] b n) :
    ∃ t r, execVsel c vd va vb vc bf s = .next t ∧ VResult s t c b n vd 2 r 0 ∧
      (∀ i, i < laneCount bf → laneAt (laneWidth bf) i r.bits =
        if srcLane bf i (b.vsrc n vc) = 0 then srcLane bf i (b.vsrc n vb) else srcLane bf i (b.vsrc n va)) ∧
      r.poison = (b.vsrc n va).poison ||| (b.vsrc n vb).poison ||| (b.vsrc n vc).poison := by
  obtain ⟨t, r, f, ht, hr, hl, hp⟩ := v3_lanes (lat := 2) (f := fun x y z => (if z != 0 then x else y, 0)) h
  obtain rfl : f = 0 := lanewise_noFlags hl fun _ => rfl
  refine ⟨t, r, ht, hr, fun i hi => ?_, hp⟩
  rw [hl.1 i hi]
  by_cases hz : srcLane bf i (b.vsrc n vc) = 0
  · simp only [hz, bne_self_eq_false, Bool.false_eq_true, if_false, if_true]
    exact Nat.mod_eq_of_lt (srcLane_lt ..)
  · simp only [bne_iff_ne.mpr hz, if_true, if_neg hz]
    exact Nat.mod_eq_of_lt (srcLane_lt ..)

end Instructions

end Sys2Proof.Machine

open Sys2Proof Sys2Proof.Machine Sys2Proof.Claims

/-- Settles O26: two sources, VFMA, one source, VCMP and VSEL. -/
theorem vectorLanes : Obligations.VectorLanes := by
  unfold Obligations.VectorLanes
  refine ⟨?two, fun c vd va vb vc bf b n s h => v3_lanes h, ?one, fun c vd va vb bf rel b n s hrel h => execVcmp_spec hrel h,
    fun c vd va vb vc bf b n s h => execVsel_spec h⟩
  case two =>
    simp only [vRows2, List.forall_mem_cons, List.not_mem_nil, false_imp_iff, implies_true, and_true]
    exact ⟨fun c vd va vb bf b n s h => v2_lanes h, fun c vd va vb bf b n s h => v2_lanes h, fun c vd va vb bf b n s h => v2_lanes h,
      fun c vd va vb bf b n s h => v2_lanes h, fun c vd va vb bf b n s h => v2_lanes h⟩
  case one =>
    simp only [vRows1, List.forall_mem_cons, List.not_mem_nil, false_imp_iff, implies_true, and_true]
    exact ⟨fun c vd va bf b n s h => v1_sign (fun x _ => clearedSign bf x) h,
      fun c vd va bf b n s h => v1_sign (fun _ hx => flippedSign hx) h⟩
end

section
/-! PROOF. Moves, bitwise and special operations (R153, R155, R165, R166), and conversions and the reduction of vectors (R90, R95, R97,
R157 to R160). -/

namespace Sys2Proof.Machine
open Claims

/-! ### Lanes of equal, of joined and of shifted codes -/

section Packing

theorem laneAt_broadcast {i : Nat} (h : i < 64) (v : Nat) : laneAt 32 i (packLanes 32 (List.replicate 64 v)) = v % 2 ^ 32 := by
  rw [laneAt_packLanes (by omega), List.getD_replicate v h]

/-- Beyond the packed codes a register is zero. -/
theorem laneAt_packLanes_beyond {w v i : Nat} {vs : List Nat} (hl : w * vs.length ≤ v * i) (hf : v * i + v ≤ 2048) :
    laneAt v i (packLanes w vs) = 0 := by
  have hlt := lt_of_lt_of_le (packed_lt w vs) (Nat.pow_le_pow_right Nat.two_pos hl)
  rw [packLanes_eq, laneAt_ofNat hf, Nat.div_eq_of_lt hlt, Nat.zero_mod]

/-- Below a shifted number a register is zero. -/
theorem laneAt_shifted_below {w i e : Nat} (h : w * i + w ≤ e) (he : e ≤ 2048) (x : Nat) : laneAt w i (BitVec.ofNat 2048 (x * 2 ^ e)) = 0 := by
  obtain ⟨d, rfl⟩ := Nat.exists_eq_add_of_le h
  have hx : x * 2 ^ (w * i + w + d) = x * 2 ^ d * 2 ^ w * 2 ^ (w * i) := by ring
  rw [laneAt_ofNat (by omega), hx, Nat.mul_div_cancel _ (Nat.two_pow_pos _), Nat.mul_mod_left]

/-- The lanes of a shifted number. -/
theorem laneAt_shifted {w i j : Nat} (h : w * (j + i) + w ≤ 2048) (x : Nat) :
    laneAt w (j + i) (BitVec.ofNat 2048 (x * 2 ^ (w * j))) = x / 2 ^ (w * i) % 2 ^ w := by
  rw [laneAt_ofNat h, Nat.mul_add, pow_add, ← Nat.div_div_eq_div_mul, Nat.mul_div_cancel _ (Nat.two_pow_pos _)]

theorem lanesOf_zip_range (w n : Nat) (x : Line) : (lanesOf w n x).zip (List.range n) = (List.range n).map fun i => (laneAt w i x, i) := by
  rw [lanesOf_eq]
  simpa using List.zip_map' (f := fun i => laneAt w i x) (g := id) (l := List.range n)

theorem elemBits_le (fmt : Nat) : elemBits fmt ≤ 16 := by
  unfold elemBits
  split_ifs <;> decide

theorem elemBits_mx {fmt : Nat} (h : isMx fmt = true) : elemBits fmt ≤ 8 := by
  simp only [isMx, Bool.and_eq_true, decide_eq_true_eq] at h
  unfold elemBits
  split_ifs <;> omega

theorem elemLane_fits (fmt : Nat) {i : Nat} (h : i < 64) : elemBits fmt * i + elemBits fmt ≤ 2048 := by
  have := Nat.mul_le_mul (elemBits_le fmt) (Nat.succ_le_of_lt h)
  rw [Nat.mul_succ] at this
  omega

end Packing

/-! ### Moves and bitwise operations (R155) -/

section Moves
variable {s : State} {c : CoreIx} {b : Block} {n : Nat} {vd va vb : Fin 32}

/-- The encoding of a V slot tells its mode. -/
theorem encV_mode {op d x y z aux : Nat} {bf bf' : Bool} (h : encV op d x y z bf aux = encV op d x y z bf' aux) : bf = bf' := by
  have hn := congrArg BitVec.toNat h
  simp only [encV, BitVec.toNat_ofNat] at hn
  cases bf <;> cases bf' <;> simp only [b2n, if_true, Bool.false_eq_true, if_false] at hn ⊢ <;> omega

theorem execVmov_result {bf : Bool} (h : vSlot s c (encV 0x09 vd.val va.val 0 0 bf 0) [va] b n) :
    ∃ t, execVmov c vd va s = .next t ∧ VResult s t c b n vd 1 (b.vsrc n va) 0 := by
  obtain ⟨bu, hb, hw, -⟩ := id h
  have hbf : (slotV bu == encV 0x09 vd.val va.val 0 0 true 0) = bf := by
    rw [hw]
    cases bf
    · exact beq_eq_false_iff_ne.mpr fun he => nomatch encV_mode he
    · exact beq_self_eq_true _
  unfold execVmov
  rw [hb]
  dsimp only
  rw [hbf]
  exact v1_result (g := fun a => (a, 0)) h

/-- A bitwise operation, bit by bit. -/
theorem bitwise_result {op : Nat} {g : Line → Line → Line} {o : Bool → Bool → Bool}
    (hg : ∀ x y i, (g x y).getLsbD i = o (x.getLsbD i) (y.getLsbD i))
    (h : vSlot s c (encV op vd.val va.val vb.val 0 false 0) [va, vb] b n) :
    ∃ t r, bitwise c op vd va vb g s = .next t ∧ VResult s t c b n vd 2 r 0 ∧
      (∀ i, i < 2048 → r.bits.getLsbD i = o ((b.vsrc n va).bits.getLsbD i) ((b.vsrc n vb).bits.getLsbD i)) ∧
      r.poison = (b.vsrc n va).poison ||| (b.vsrc n vb).poison := by
  obtain ⟨t, ht, hr⟩ := v2_result (lat := 2)
    (g := fun a b : VReg => (({ bits := g a.bits b.bits, poison := quarterPoison [a, b] } : VReg), (0 : VF))) h
  exact ⟨t, _, ht, hr, fun i _ => hg .., quarterPoison_two ..⟩

theorem execVbs_result {tr : Fin 8} (h : vSlot s c (encV 0x1B vd.val 0 0 0 false tr.val) [] b n) :
    ∃ t r, execVbs c vd tr s = .next t ∧ VResult s t c b n vd 1 r 0 ∧ r.poison = 0 ∧
      ∀ i, i < 64 → laneAt 32 i r.bits = (b.tr[tr]).toNat % 2 ^ 32 :=
  ⟨_, { bits := packLanes 32 (List.replicate 64 (b.tr[tr].toNat % 2 ^ 32)), poison := 0 },
    (issueV_issues _ h).trans (congrArg _ (vput_withBlock ..)), rfl, rfl, fun i hi => by rw [laneAt_broadcast hi, Nat.mod_mod]⟩

/-! ### Special functions (R94, R165, R166) -/

theorem sfuLat_eq {i : SlotIx} (hi : s.cores[c].slot = some i) : sfuLat s c = if s.tasks[i].hdr.profile = 0x31 then 10 else 12 := by
  rw [sfuLat, taskOn, hi]

theorem sfu_result {op : Nat} {i : SlotIx} (h : vSlot s c (encV op vd.val va.val 0 0 false 0) [va] b n) (hi : s.cores[c].slot = some i) :
    ∃ t r f, sfu c op vd va s = .next t ∧ VResult s t c b n vd (if s.tasks[i].hdr.profile = 0x31 then 10 else 12) r f ∧
      Lanewise false (fun j => special op (srcLane false j (b.vsrc n va))) r f ∧ r.poison = (b.vsrc n va).poison := by
  rw [← sfuLat_eq hi]
  exact v1_lanes h

end Moves

/-! ### Quantised blocks (R90) -/

section Quantised

theorem length_quantiseMx (fmt : Nat) (xs : List Nat) (mode : Nat → RMode) : (quantiseMx fmt xs mode).2.1.length = xs.length := by
  unfold quantiseMx
  dsimp only
  split_ifs <;> simp

theorem quantiseMx_scale_lt (fmt : Nat) (xs : List Nat) (mode : Nat → RMode) : (quantiseMx fmt xs mode).1 < 256 := by
  unfold quantiseMx
  dsimp only
  split_ifs
  · exact (by decide : 255 < 256)
  · exact (by decide : 0 < 256)
  · dsimp only; omega

end Quantised

/-! ### Conversions (R95, R97, R157 to R160) -/

section Conversions
variable {s : State} {c : CoreIx} {b : Block} {n : Nat} {vd va : Fin 32}

/-- Each lane of a conversion without block scales is converted by itself. -/
theorem cvt_elem {fmt i : Nat} (hf : isMx fmt = false) (hi : i < 64) (sat : Bool) (mode : Nat → RMode) (a : VReg) :
    laneAt (elemBits fmt) i (cvt fmt sat mode a).1.bits =
      (convertElem fmt (mode i) sat (laneAt 32 i a.bits)).1 % 2 ^ elemBits fmt := by
  simp only [cvt, hf, Bool.false_eq_true, if_false]
  rw [laneAt_packLanes (elemLane_fits fmt hi), lanesOf_zip_range, List.map_map, List.map_map, getD_map_range _ hi]
  rfl

/-- The 32 lanes of a block. -/
def blockLanes (h : Nat) (a : VReg) : List Nat := (List.range 32).map fun j => laneAt 32 (32 * h + j) a.bits

/-- A block of a conversion to an MX format. -/
def blockOf32 (fmt : Nat) (mode : Nat → RMode) (h : Nat) (a : VReg) : Nat × List Nat × Nat :=
  quantiseMx fmt (blockLanes h a) fun l => mode (l + 32 * h)

theorem lanesOf_take (a : VReg) : (lanesOf 32 64 a.bits).take 32 = blockLanes 0 a := by
  rw [lanesOf_eq, ← List.map_take, List.take_range]
  simp only [blockLanes, Nat.mul_zero, Nat.zero_add]
  rfl

theorem lanesOf_drop (a : VReg) : (lanesOf 32 64 a.bits).drop 32 = blockLanes 1 a := by
  rw [lanesOf_eq, show 64 = 32 + 32 from rfl, List.range_add, List.map_append, List.drop_left' (by simp), List.map_map]
  rfl

/-- The packed codes and the scales of a conversion to an MX format. -/
theorem cvt_mx_bits {fmt : Nat} (hf : isMx fmt = true) (sat : Bool) (mode : Nat → RMode) (a : VReg) :
    (cvt fmt sat mode a).1.bits = packLanes (elemBits fmt) ((blockOf32 fmt mode 0 a).2.1 ++ (blockOf32 fmt mode 1 a).2.1) |||
      BitVec.ofNat 2048 (((blockOf32 fmt mode 0 a).1 + 256 * (blockOf32 fmt mode 1 a).1) * 2 ^ (8 * 192)) := by
  simp only [cvt, hf, if_true, cvtMxBlock, lanesOf_take, lanesOf_drop]
  rfl

theorem length_blockOf32 (fmt : Nat) (mode : Nat → RMode) (h : Nat) (a : VReg) : (blockOf32 fmt mode h a).2.1.length = 32 := by
  rw [blockOf32, length_quantiseMx, blockLanes, List.length_map, List.length_range]

theorem cvt_mx_scale {fmt h : Nat} (hf : isMx fmt = true) (hh : h < 2) (sat : Bool) (mode : Nat → RMode) (a : VReg) :
    laneAt 8 (192 + h) (cvt fmt sat mode a).1.bits = (blockOf32 fmt mode h a).1 := by
  have hw := elemBits_mx hf
  have h0 : (blockOf32 fmt mode 0 a).1 < 256 := quantiseMx_scale_lt ..
  have h1 : (blockOf32 fmt mode 1 a).1 < 256 := quantiseMx_scale_lt ..
  rw [cvt_mx_bits hf, laneAt_or, laneAt_packLanes_beyond (by simp only [List.length_append, length_blockOf32]; omega) (by omega),
    laneAt_shifted (by omega), Nat.zero_or]
  obtain rfl | rfl : h = 0 ∨ h = 1 := by omega
  · rw [Nat.mul_zero, pow_zero, Nat.div_one]; omega
  · rw [Nat.mul_one]; omega

theorem cvt_mx_elem {fmt h i : Nat} (hf : isMx fmt = true) (hh : h < 2) (hi : i < 32) (sat : Bool) (mode : Nat → RMode) (a : VReg) :
    laneAt (elemBits fmt) (32 * h + i) (cvt fmt sat mode a).1.bits = (blockOf32 fmt mode h a).2.1.getD i 0 % 2 ^ elemBits fmt := by
  have hw := Nat.mul_le_mul (elemBits_mx hf) (show 32 * h + i + 1 ≤ 64 by omega)
  rw [Nat.mul_succ] at hw
  rw [cvt_mx_bits hf, laneAt_or, laneAt_shifted_below (by omega) (by omega), Nat.or_zero, laneAt_packLanes (by omega)]
  obtain rfl | rfl : h = 0 ∨ h = 1 := by omega
  · rw [Nat.mul_zero, Nat.zero_add, List.getD_append _ _ _ _ (by rw [length_blockOf32]; exact hi)]
  · rw [Nat.mul_one, List.getD_append_right _ _ _ _ (by rw [length_blockOf32]; omega), length_blockOf32, Nat.add_sub_cancel_left]

/-- The rounding of a VCVT: nearest-even, or with the random bits of its lane (R97, R160). -/
def cvtMode (b : Block) (sr : Bool) (l : Nat) : RMode := if sr then .sr (srBits b.seed b.sctr l) else .rne

theorem execVcvt_eq {fmt : BitVec 4} {sr sat : Bool} (hf : fmt.toNat < 10)
    (h : vSlot s c (encV 0x18 vd.val va.val 0 0 false (fmt.toNat + 16 * b2n sr + 32 * b2n sat)) [va] b n) :
    execVcvt c vd va fmt sr sat s = .next (withBlock s c { b with
      vUsed := some n
      sctr := if sr then b.sctr + 1 else b.sctr
      vres := b.vres ++ [{ vd := vd, due := n + 6 - 1, issued := n, val := (cvt fmt.toNat sat (cvtMode b sr) (b.vsrc n va)).1
                           flags := (cvt fmt.toNat sat (cvtMode b sr) (b.vsrc n va)).2 }] }) := by
  have hr : isReserved fmt.toNat = false := decide_eq_false (by omega)
  rw [execVcvt, hr, if_neg Bool.false_ne_true, issueV_issues _ h]
  cases sr
  · exact congrArg _ (vput_withBlock ..)
  · exact congrArg _ ((congrArg (fun t => modCore t c _) (vput_withBlock ..)).trans (modBlk_withBlock ..))

theorem cvt_poison (fmt : Nat) (sat : Bool) (mode : Nat → RMode) (a : VReg) : (cvt fmt sat mode a).1.poison = wholePoison a := by
  unfold cvt
  dsimp only
  split <;> rfl

/-- A lane of VEXT: its element, with the scale of its block for an MX format. -/
def extAt (fmt : Nat) (a : VReg) (i : Nat) : Nat × VF :=
  extLane fmt (laneAt (elemBits fmt) i a.bits) (if isMx fmt then laneAt 8 (192 + i / 32) a.bits else 127)

theorem ext_eq (fmt : Nat) (a : VReg) : ext fmt a =
    (let r := packMode false ((List.range 64).map (extAt fmt a))
     ({ bits := r.1, poison := wholePoison a }, r.2)) := by
  rw [ext, lanesOf_zip_range, List.map_map]
  rfl

theorem ext_lanewise (fmt : Nat) (a : VReg) : Lanewise false (extAt fmt a) (ext fmt a).1 (ext fmt a).2 := by
  rw [ext_eq]
  exact packMode_lanewise ..

theorem execVext_result {fmt : BitVec 4} (hf : fmt.toNat < 10) (h : vSlot s c (encV 0x19 vd.val va.val 0 0 false fmt.toNat) [va] b n) :
    ∃ t r f, execVext c vd va fmt s = .next t ∧ VResult s t c b n vd 4 r f ∧ (r.poison = if (b.vsrc n va).poison = 0 then 0 else 15) ∧
      ∀ i, i < 64 → laneAt 32 i r.bits = (extLane fmt.toNat (laneAt (elemBits fmt.toNat) i (b.vsrc n va).bits)
        (if isMx fmt.toNat then laneAt 8 (192 + i / 32) (b.vsrc n va).bits else 127)).1 % 2 ^ 32 := by
  have hr : isReserved fmt.toNat = false := decide_eq_false (by omega)
  obtain ⟨t, ht, hv⟩ := v1_result (lat := 4) (g := ext fmt.toNat) h
  exact ⟨t, _, _, (if_neg (by rw [hr]; exact Bool.false_ne_true)).trans ht, hv, by rw [ext_eq]; rfl, (ext_lanewise ..).1⟩

theorem execVred_result (h : vSlot s c (encV 0x1A vd.val va.val 0 0 false 0) [va] b n) :
    ∃ t r f, execVred c vd va s = .next t ∧ VResult s t c b n vd 12 r f ∧ (r.poison = if (b.vsrc n va).poison = 0 then 0 else 15) ∧
      ∀ i, i < 64 → laneAt 32 i r.bits =
        (vredLevels 6 ((List.range 64).map fun j => laneAt 32 j (b.vsrc n va).bits) 0).1 % 2 ^ 32 := by
  obtain ⟨t, ht, hv⟩ := v1_result (lat := 12) (g := vred) h
  exact ⟨t, _, _, ht, hv, rfl, fun i hi => laneAt_broadcast hi _⟩

end Conversions

end Sys2Proof.Machine

open Sys2Proof Sys2Proof.Machine Sys2Proof.Claims

/-- Settles O27: moves, bitwise operations and VBS, the special functions, VCVT, VEXT and VRED. -/
theorem vectorMovesAndConversions : Obligations.VectorMovesAndConversions := by
  unfold Obligations.VectorMovesAndConversions
  refine ⟨⟨fun c vd va bf b n s h => execVmov_result h, ?bitwise, fun c vd tr b n s h => execVbs_result h⟩, ?special,
    fun c vd va fmt sr sat b n s hf h => ⟨_, _, _, execVcvt_eq hf h, rfl, cvt_poison .., fun hm i hi => cvt_elem hm hi .., fun hm k hk => ?mx⟩,
    fun c vd va fmt b n s hf h => execVext_result hf h, fun c vd va b n s h => ?red⟩
  case bitwise =>
    simp only [bitRows, List.forall_mem_cons, List.not_mem_nil, false_imp_iff, implies_true, and_true]
    exact ⟨fun c vd va vb b n s h => bitwise_result (fun _ _ _ => BitVec.getLsbD_and) h,
      fun c vd va vb b n s h => bitwise_result (fun _ _ _ => BitVec.getLsbD_or) h,
      fun c vd va vb b n s h => bitwise_result (fun _ _ _ => BitVec.getLsbD_xor) h⟩
  case special =>
    simp only [sfuRows, List.forall_mem_cons, List.not_mem_nil, false_imp_iff, implies_true, and_true]
    refine ⟨?_, ?_, ?_, ?_, ?_, ?_, ?_⟩ <;> exact fun c vd va b n i s h hi => sfu_result h hi
  case mx => exact ⟨cvt_mx_scale hm hk .., fun i hi => cvt_mx_elem hm hk hi ..⟩
  case red =>
    obtain ⟨t, r, f, ht, hv, hp, hl⟩ := execVred_result h
    exact ⟨t, r, f, ht, hv, hp, hl, fun i j hi hj => (hl i hi).trans (hl j hj).symm⟩
end

section
/-! PROOF. Memory accesses of the V slot and the results that are written (R153, R156, R159, R161, R162). -/

namespace Sys2Proof.Machine
open Claims

/-! ### Bytes of a register -/

section Bytes

theorem leNat_append (l r : List Byte) : leNat (l ++ r) = leNat l + 256 ^ l.length * leNat r := by
  induction l with
  | nil => simp [leNat]
  | cons x l ih => rw [List.cons_append, leNat, leNat, ih, List.length_cons, pow_succ]; ring

theorem leNat_lt (l : List Byte) : leNat l < 2 ^ (8 * l.length) := by
  induction l with
  | nil => simp [leNat]
  | cons x l ih =>
    have hx := x.isLt
    rw [leNat, List.length_cons, Nat.mul_succ, pow_add]
    omega

/-- Pieces of `k` bytes put together are packed fields. -/
theorem leNat_flatMap {α : Type} (f : α → List Byte) {k : Nat} {l : List α} (h : ∀ x ∈ l, (f x).length = k) :
    leNat (l.flatMap f) = packed (8 * k) (l.map fun x => leNat (f x)) := by
  have hk : (256 : Nat) ^ k = 2 ^ (8 * k) := by rw [pow_mul]; rfl
  induction l with
  | nil => rfl
  | cons x l ih =>
    have hx := h x List.mem_cons_self
    have hlt := leNat_lt (f x)
    rw [hx] at hlt
    have hc : packed (8 * k) ((x :: l).map fun x => leNat (f x)) =
      leNat (f x) % 2 ^ (8 * k) + packed (8 * k) (l.map fun x => leNat (f x)) * 2 ^ (8 * k) := rfl
    rw [List.flatMap_cons, leNat_append, ih fun y hy => h y (List.mem_cons_of_mem _ hy), hx, hk, hc, Nat.mod_eq_of_lt hlt, Nat.mul_comm]

end Bytes

/-! ### A read of a block (R161, R162, R172) -/

/-- What a read of core `c`'s block leaves: the scratchpad's bytes, the other cores, and the block `b'`. -/
structure BlockRead (c : CoreIx) (s t : State) (b' : Block) : Prop where
  only : t = { s with cores := t.cores, recorder := t.recorder, freeCtr := t.freeCtr }
  others : ∀ d : CoreIx, d ≠ c → t.cores[d] = s.cores[d]
  mem : t.cores[c].sp.mem = s.cores[c].sp.mem
  blk : t.cores[c].blk = some b'

section Reading
variable {c : CoreIx} {s t u : State} {b b' : Block}

theorem withBlock_read (s : State) (c : CoreIx) (b : Block) : BlockRead c s (withBlock s c b) b where
  only := rfl
  others _ h := withBlock_other s b h
  mem := by rw [withBlock_core]
  blk := by rw [withBlock_core]

theorem BlockRead.read (h : BlockRead c s t b') (r : SpRead c t u) : BlockRead c s u b' where
  only := Eq.trans r.only (by rw [h.only])
  others d hd := (r.others d hd).trans (h.others d hd)
  mem := r.mem.trans h.mem
  blk := by rw [r.core]; exact h.blk

theorem BlockRead.modBlk (h : BlockRead c s t b') (f : Block → Block) : BlockRead c s (modCore t c fun x => x.modBlk f) (f b') where
  only := by rw [modCore, h.only]
  others d hd := (modCore_other t c _ hd).trans (h.others d hd)
  mem := by rw [modCore_core]; exact h.mem
  blk := by rw [modCore_core, Core.modBlk, h.blk]; rfl

theorem BlockRead.freeCtr (h : BlockRead c s t b') (k : Nat) : BlockRead c s { t with freeCtr := k } b' where
  only := by rw [h.only]
  others := h.others
  mem := h.mem
  blk := h.blk

theorem BlockRead.addrError (h : BlockRead c s t b') (agent : Nat) :
    ∃ w, BlockRead c s (addrError c agent t) { b' with addrFault := some w } :=
  ⟨_, (h.freeCtr _).modBlk _⟩

theorem applyEcc_read (s : State) (c : CoreIx) (agent a : Nat) (e : Ecc) : SpRead c s (applyEcc c agent a e s) := by
  cases e with
  | clean => exact {}
  | corrected => exact (foundCorrected_clean s c a).toSpRead
  | uncorrectable => exact foundUncorrectable_read s c agent a

theorem applyFinds_read (s : State) (c : CoreIx) (agent : Nat) (ok : Nat → Bool) (found : Finds) :
    SpRead c s (applyFinds c agent ok found s) :=
  List.foldlRecOn found _ {} fun u hu q _ => by
    split
    · exact hu.trans (applyEcc_read ..)
    · exact hu

theorem withBlock_granRead (s : State) (c : CoreIx) (b : Block) (us : List BankUse) (agent issued part a : Nat) :
    granRead (withBlock s c b) c us agent issued part a = granRead s c us agent issued part a := by
  rw [granRead, granDone, withBlock_spHeld, withBlock_core, granRead, granDone]

theorem length_granRead (s : State) (c : CoreIx) (us : List BankUse) (agent issued part a : Nat) :
    (granRead s c us agent issued part a).1.length = 64 := by
  unfold granRead
  split <;> simp [readBytes]

end Reading

/-! ### VLD (R159, R161, R162) -/

section Load
variable (c : CoreIx) (n a : Nat) (found : Finds) (u : State)

/-- The bank uses of the cycle beside which a VLD reads. -/
def vldUses : List BankUse := blockUses u c ++ (useOf 5 n 0 (a, 256)).filter fun x => spHeld u c x.addr 64

/-- What the checks of its words find is noted. -/
def vldFound : State :=
  applyFinds c 5 (fun g => decide (a / 64 ≤ g) && decide (g < a / 64 + 4) && granDone u c (vldUses c n a u) 5 n 0 (64 * g)) found u

/-- Its four granules. -/
def vldGrans (us : List BankUse) (u : State) : List (List Byte × Bool × Bool) :=
  (List.range 4).map fun i => granRead u c us 5 n 0 (a + 64 * i)

/-- Granules put together, each with its poison. -/
def granVReg (gs : List (List Byte × Bool × Bool)) : VReg :=
  { bits := BitVec.ofNat 2048 (leNat (gs.flatMap (·.1)))
    poison := BitVec.ofNat 4 ((gs.zip [1, 2, 4, 8]).foldl (fun n g => n + b2n g.1.2.1 * g.2) 0) }

/-- A VLD that has issued in `u`. -/
def vldLoaded (vd : Fin 32) (us : List RegUpd) : State :=
  let gs := vldGrans c n a (vldUses c n a u) (vldFound c n a found u)
  let t := if gs.any (·.2.2) then addrError c 5 (vldFound c n a found u) else vldFound c n a found u
  let t := modCore t c fun x => x.modSp fun p => { p with uses := p.uses ++ useOf 5 n 0 (a, 256) }
  pushUpdV c us (vput c n vd 6 (granVReg gs, 0) t)

end Load

section Loads
variable {c : CoreIx} {n : Nat} {b : Block} {s : State} {vd : Fin 32} {ba : Fin 16} {au : Bool} {off : BitVec 14}

/-- No update leaves the state as it was. -/
theorem pushUpdV_nil (c : CoreIx) (s : State) : pushUpdV c [] s = s := by
  have hid : (fun b : Block => { b with updV := b.updV ++ [] }) = id := funext fun b => by rw [List.append_nil]; rfl
  rw [pushUpdV, hid, modCore, Core.modBlk, Option.map_id]
  exact congrArg (fun v => { s with cores := v }) (Vector.set_getElem_self _)

theorem pushUpdV_withBlock (s : State) (c : CoreIx) (b : Block) (us : List RegUpd) :
    pushUpdV c us (withBlock s c b) = withBlock s c { b with updV := b.updV ++ us } := modBlk_withBlock ..

theorem execVld_eq (found : Finds) (h : vSlot s c (encVmem 0x1C vd.val ba au off) [] b n) : execVld c vd ba au off found s =
    .next (vldLoaded c n (vAddr b.ba[ba] off) found (withBlock s c { b with vUsed := some n }) vd (if au then [.baAdd ba 256] else [])) := by
  rw [execVld, issueV_issues _ h]
  cases au
  · exact congrArg _ (pushUpdV_nil ..).symm
  · rfl

/-- What a VLD leaves: its result on the way, and ADDRESS noted where a granule's address fails. -/
theorem vldLoaded_read (c : CoreIx) (n a : Nat) (found : Finds) (b : Block) (s : State) (vd : Fin 32) (us : List RegUpd) :
    let u := withBlock s c { b with vUsed := some n }
    let gs := vldGrans c n a (vldUses c n a u) (vldFound c n a found u)
    ∃ w, (gs.any (·.2.2) = true → w.isSome = true) ∧ BlockRead c s (vldLoaded c n a found u vd us) { b with
      vUsed := some n
      addrFault := w
      vres := b.vres ++ [{ vd := vd, due := n + 6 - 1, issued := n, val := granVReg gs, flags := 0 }]
      updV := b.updV ++ us } := by
  intro u gs
  have hf : BlockRead c s (vldFound c n a found u) { b with vUsed := some n } := (withBlock_read s c _).read (applyFinds_read ..)
  have hw : ∃ w, (gs.any (·.2.2) = true → w.isSome = true) ∧ BlockRead c s
      (if gs.any (·.2.2) then addrError c 5 (vldFound c n a found u) else vldFound c n a found u)
      { b with vUsed := some n, addrFault := w } := by
    split
    next => obtain ⟨w, hw⟩ := hf.addrError 5; exact ⟨some w, fun _ => rfl, hw⟩
    next hg => exact ⟨b.addrFault, fun h => absurd h hg, hf⟩
  obtain ⟨w, hsome, hw⟩ := hw
  exact ⟨w, hsome, ((hw.read (modSp_read _ c fun _ => rfl)).modBlk _).modBlk _⟩

/-- The granules that a VLD without finds reads are those of the state that it issues in. -/
theorem vldGrans_issued (c : CoreIx) (n : Nat) (b : Block) (s : State) (base : BitVec 22) (off : BitVec 14) :
    let u := withBlock s c { b with vUsed := some n }
    vldGrans c n (vAddr base off) (vldUses c n (vAddr base off) u) (vldFound c n (vAddr base off) [] u) =
      (List.range 4).map (vldGran s c b n base off) := by
  intro u
  refine List.map_congr_left fun i _ => ?_
  have hu : vldFound c n (vAddr base off) [] u = u := rfl
  rw [hu, withBlock_granRead, vldUses]
  simp only [u, withBlock_spHeld]
  rfl

theorem granVReg_lane {g : Nat → List Byte × Bool × Bool} (hg : ∀ i, (g i).1.length = 64) {i : Nat} (hi : i < 4) :
    laneAt 512 i (granVReg ((List.range 4).map g)).bits = leNat (g i).1 := by
  have hl : leNat (((List.range 4).map g).flatMap (·.1)) = packed 512 (((List.range 4).map g).map fun x => leNat x.1) :=
    leNat_flatMap (fun x : List Byte × Bool × Bool => x.1) (k := 64) (List.forall_mem_map.mpr fun j _ => hg j)
  have hlt := leNat_lt (g i).1
  rw [hg i, show 8 * 64 = 512 from rfl] at hlt
  rw [granVReg, hl, laneAt_ofNat (by omega), packed_lane, List.map_map, getD_map_range _ hi]
  exact Nat.mod_eq_of_lt hlt

theorem granVReg_poison (g : Nat → List Byte × Bool × Bool) {i : Nat} (hi : i < 4) :
    (granVReg ((List.range 4).map g)).poison.getLsbD i = (g i).2.1 := by
  have hd : ∀ p q r t : Bool, ∀ i < 4, (BitVec.ofNat 4 (0 + b2n p * 1 + b2n q * 2 + b2n r * 4 + b2n t * 8)).getLsbD i = [p, q, r, t].getD i false := by
    decide
  have he := hd (g 0).2.1 (g 1).2.1 (g 2).2.1 (g 3).2.1 i hi
  exact he.trans (getD_map_range (fun i => (g i).2.1) hi false)

theorem execVst_eq {vs : Fin 32} (h : vSlot s c (encVmem 0x1D vs.val ba au off) [vs] b n) : execVst c vs ba au off s =
    .next (withBlock s c { b with
      vUsed := some n
      updV := b.updV ++ (if au then [.baAdd ba 256] else [])
      writes := b.writes ++ [{ due := n + 1, agent := 6, issued := n, part := 0, addr := vAddr b.ba[ba] off,
                               line := (b.vsrc n vs).bits, len := 256, poison := (b.vsrc n vs).poison }] }) := by
  rw [execVst, issueV_issues _ h]
  dsimp only
  rw [modBlk_withBlock, pushUpdV_withBlock]
  cases au
  · simp
  · rfl

end Loads

/-! ### Results (R153, R156) -/

section Written
variable {b : Block} {l : List VRes}

theorem putRes_v (b : Block) (r : VRes) {i : Nat} (hi : i < 31) : (b.putRes r).v[i] = if r.vd.val = i then r.val else b.v[i] := by
  unfold Block.putRes
  dsimp only
  split
  next h => exact Vector.getElem_set h hi
  next h => rw [if_neg (by omega)]

theorem putRes_vres (b : Block) (r : VRes) : (b.putRes r).vres = b.vres := by
  unfold Block.putRes
  dsimp only
  split <;> rfl

theorem putRes_flags (b : Block) (r : VRes) : (b.putRes r).flags = b.flags ||| r.flags := by
  unfold Block.putRes
  dsimp only
  split <;> rfl

theorem foldl_putRes_vres (l : List VRes) (b : Block) : (l.foldl Block.putRes b).vres = b.vres :=
  List.foldlRecOn (motive := fun x : Block => x.vres = b.vres) l _ rfl fun x hx r _ => (putRes_vres x r).trans hx

theorem foldl_putRes_flags (l : List VRes) (b : Block) : (l.foldl Block.putRes b).flags = l.foldl (fun a r => a ||| r.flags) b.flags := by
  induction l generalizing b with
  | nil => rfl
  | cons r l ih => rw [List.foldl_cons, ih, putRes_flags, List.foldl_cons]

/-- A register holds the last of the results for it. -/
theorem foldl_putRes_v (l : List VRes) (b : Block) {i : Nat} (hi : i < 31) : (l.foldl Block.putRes b).v[i] =
    (((l.filter fun r => r.vd.val == i).getLast?).map (·.val)).getD b.v[i] := by
  induction l generalizing b with
  | nil => rfl
  | cons r l ih =>
    rw [List.foldl_cons, ih, putRes_v b r hi, List.filter_cons]
    by_cases hr : r.vd.val = i
    · rw [if_pos hr, if_pos (beq_iff_eq.mpr hr), List.getLast?_cons]
      cases (l.filter fun r => r.vd.val == i).getLast? <;> rfl
    · rw [if_neg hr, if_neg (mt beq_iff_eq.mp hr)]

/-- The block once the results due by block cycle `n` are written. -/
def resultsWritten (b : Block) (n : Nat) : Block :=
  (b.vres.filter fun r => decide (r.due ≤ n)).foldl Block.putRes
    { b with vres := b.vres.filter fun r => !decide (r.due ≤ n), lastEvent := n }

theorem execVectorResultWrite_eq {s : State} {c : CoreIx} {n : Nat} (hb : blockNow s c = some (b, n))
    (hd : (b.vres.filter fun r => decide (r.due ≤ n)) ≠ []) (hv : vSlotDone s c = true) :
    execVectorResultWrite c s = .next (withBlock s c (resultsWritten b n)) := by
  unfold execVectorResultWrite
  rw [hb]
  dsimp only
  rw [hv, List.isEmpty_eq_false_iff.mpr hd, if_neg (by decide), modBlk_of_blk _ (blk_of_blockNow hb)]
  rfl

theorem resultsWritten_vres (b : Block) (n : Nat) : (resultsWritten b n).vres = b.vres.filter fun r => !decide (r.due ≤ n) :=
  foldl_putRes_vres ..

theorem resultsWritten_flags (b : Block) (n j : Nat) : (resultsWritten b n).flags.getLsbD j = true ↔
    b.flags.getLsbD j = true ∨ ∃ r ∈ b.vres, r.due ≤ n ∧ r.flags.getLsbD j = true := by
  rw [resultsWritten, foldl_putRes_flags, foldl_flags]
  simp [and_assoc]

theorem resultsWritten_v (b : Block) (n : Nat) {i : Nat} (hi : i < 31) : (resultsWritten b n).v[i] =
    (((b.vres.filter fun r => decide (r.due ≤ n) && r.vd.val == i).getLast?).map (·.val)).getD b.v[i] := by
  rw [resultsWritten, foldl_putRes_v _ _ hi, List.filter_filter]
  simp only [Bool.and_comm]

end Written

end Sys2Proof.Machine

open Sys2Proof Sys2Proof.Machine Sys2Proof.Claims

/-- Settles O28: VLD, VST and the writing of results. -/
theorem vectorMemory : Obligations.VectorMemory := by
  unfold Obligations.VectorMemory
  refine ⟨fun c vd ba au off found b n s h => ?load, fun c vs ba au off b n s h => ⟨_, execVst_eq h, rfl⟩,
    fun c b n s hb hd hv => ⟨_, _, execVectorResultWrite_eq hb hd hv, rfl, resultsWritten_vres b n,
      fun j _ => resultsWritten_flags b n j, fun i hi => resultsWritten_v b n hi⟩⟩
  case load =>
    obtain ⟨w, hw, hr⟩ := vldLoaded_read c n (vAddr b.ba[ba] off) found b s vd (if au then [.baAdd ba 256] else [])
    refine ⟨_, _, _, execVld_eq found h, hr.blk, rfl, rfl, rfl, hr.mem, hr.only, hr.others, fun hf i hi => ?_⟩
    subst hf
    rw [vldGrans_issued] at hw ⊢
    have hlen : ∀ i, (vldGran s c b n b.ba[ba] off i).1.length = 64 := fun i => length_granRead ..
    exact ⟨granVReg_lane hlen hi, granVReg_poison _ hi, fun he => hw (List.any_eq_true.mpr
      ⟨_, List.mem_map.mpr ⟨i, List.mem_range.mpr hi, rfl⟩, he⟩)⟩
end

section
/-! PROOF. What the owner and the writers of a window do (R179 to R184, R186), and the scratchpad's write-backs and clears (R172,
R174). -/

namespace Sys2Proof.Machine
open Claims

/-! ### Updates of one core -/

section Cores
variable {s t : State} {c : CoreIx}

theorem modCore_onlyCore (s : State) (c : CoreIx) (f : Core → Core) : OnlyCore s (modCore s c f) c :=
  onlyCore_of rfl fun _ h => modCore_other s c f h

/-- What an update of one core keeps of a core, it keeps of every core. -/
theorem modCore_keeps {α : Type} (p : Core → α) {f : Core → Core} {d : CoreIx} (hf : ∀ x, p (f x) = p x := by exact fun _ => rfl) :
    p (modCore s c f).cores[d] = p s.cores[d] := by
  by_cases h : d = c
  · subst h; rw [modCore_core, hf]
  · rw [modCore_other s c f h]

theorem OnlyCores.coreFrame (ho : OnlyCores s t) (hd : ∀ d, d ≠ c → t.cores[d] = s.cores[d]) : CoreFrame s t c :=
  ⟨hd, by rw [ho], by rw [ho]⟩

/-- An increment on its way leaves the cores as they are. -/
theorem coreFrame_signalOwn {n : Byte} {amt d : Nat} {src : BitVec 3} {k : CtxIx} {pc : BitVec 13} (h : CoreFrame s t c) :
    CoreFrame s (signalOwn t c n amt d src k pc) c := h

theorem signalOwn_incs (t : State) (c : CoreIx) (n : Byte) (amt d : Nat) (src : BitVec 3) (k : CtxIx) (pc : BitVec 13) :
    ∃ x, (signalOwn t c n amt d src k pc).incs = t.incs ++ [x] ∧ x.core = c ∧ x.ctr = n ∧ x.n = amt ∧ x.due = t.time.cycle + d :=
  ⟨_, rfl, rfl, rfl, rfl, rfl⟩

/-- A fault after an update that keeps contexts and recorder is latched (R116). -/
theorem faultCtx_modCore_latched {f : Core → Core} {k : CtxIx} {cause : Byte} {inf : W16} {pc : BitVec 13}
    (h : (ctx s c k).faulted = false) (hf : ∀ x, (f x).ctx = x.ctx := by exact fun _ => rfl) :
    Latched s (faultCtx c k cause inf pc (modCore s c f)) c k cause pc ∧
      (ctx (faultCtx c k cause inf pc (modCore s c f)) c k).info = inf := by
  have hx : ctx (modCore s c f) c k = ctx s c k := modCore_keepsCtx s hf c k
  have hl := faultCtx_latched (s := modCore s c f) (cause := cause) (inf := inf) (pc := pc) (by rw [hx]; exact h)
  unfold Latched at hl ⊢
  rwa [hx] at hl

theorem faultCtx_returns {k : CtxIx} {cause : Byte} {inf : W16} {pc : BitVec 13} (s : State) (d : CoreIx) :
    (faultCtx c k cause inf pc s).cores[d].returns = s.cores[d].returns := by
  have h : Faults c k s (faultCtx c k cause inf pc s) := faultCtx_faults
  rw [(h.cores d).only]

end Cores

/-! ### The writes of a side (R179) -/

section Writes
variable {s : State} {c : CoreIx} {d : Side} {w : WinWrite}

theorem winWrites_setWinWrites (x : Core) (d : Side) (ws : List WinWrite) : (x.setWinWrites d ws).winWrites d = ws := by cases d <;> rfl

theorem setWinWrites_windows (x : Core) (d : Side) (ws : List WinWrite) : (x.setWinWrites d ws).windows = x.windows := by cases d <;> rfl

theorem setWinWrites_sp (x : Core) (d : Side) (ws : List WinWrite) : (x.setWinWrites d ws).sp = x.sp := by cases d <;> rfl

theorem setWinWrites_returns (x : Core) (d : Side) (ws : List WinWrite) : (x.setWinWrites d ws).returns = x.returns := by cases d <;> rfl

/-- Write `q` in the place of write `w` of a side. -/
def replaceWrite (c : CoreIx) (d : Side) (w q : WinWrite) (s : State) : State :=
  modCore s c fun x => x.setWinWrites d ((x.winWrites d).map fun v => if v = w then q else v)

theorem replaceWrite_writes (q : WinWrite) :
    (replaceWrite c d w q s).cores[c].winWrites d = (s.cores[c].winWrites d).map fun v => if v = w then q else v := by
  rw [replaceWrite, modCore_core, winWrites_setWinWrites]

end Writes

/-! ### The judgement of a write (R179, R186) -/

section Judgement
variable {s : State} {c : CoreIx} {d : Side} {w : WinWrite}

/-- A write that window `v` accepts, with what it takes from the window. -/
def acceptedWrite (v : Window) (w : WinWrite) : WinWrite :=
  { w with judged := some true, base := v.base, ctr := v.ctr, sigN := v.sigN, opener := v.opener, opc := v.pc }

/-- A write that is rejected: its granules are discarded. -/
def rejectedWrite (w : WinWrite) : WinWrite :=
  { w with judged := some false, past := w.past + w.grans.length, grans := [] }

/-- The return of a rejection to the writer's core. -/
def returnWrite (c : CoreIx) (d : Side) (w : WinWrite) (reason : Nat) (s : State) : State :=
  modCore s (coreAt c d) fun x =>
    { x with returns := x.returns ++ [{ ctx := w.ctx, pc := w.pc, info := winInfo reason w.win d, due := s.time.cycle }] }

/-- The owner's core after a rejection: the window's count, and the latch where it is clear. -/
def Core.rejected (x : Core) (d : Side) (w : WinWrite) (reason now : Nat) : Core :=
  { x.modWindow w.win fun v => { v with rejects := satInc v.rejects } with
    winRegs := if x.winRegs.fault then { x.winRegs with faultAt := now + 1 } else
      { fault := true, faultAt := now + 1, reason := BitVec.ofNat 4 reason, num := BitVec.ofNat 3 w.win.val, side := d == .down,
        offset := BitVec.ofInt 16 w.offset } }

theorem Core.rejected_fault (x : Core) (reason now : Nat) : (x.rejected d w reason now).winRegs.fault = true := by
  unfold Core.rejected
  dsimp only
  split
  next h => exact h
  next => rfl

theorem Core.rejected_rejects (x : Core) (reason now : Nat) :
    (x.rejected d w reason now).windows[w.win].rejects = satInc x.windows[w.win].rejects := by
  simp [Core.rejected, Core.modWindow]

theorem winReject_eq (reason : Nat) (s : State) : winReject c d w reason s =
    modCore (record s (0x1100 + reason) error c.val 0 w.win.val (BitVec.ofInt 32 w.offset).toNat) c
      fun x => x.rejected d w reason s.time.cycle := rfl

theorem execWindowWriteArrival_accepted (hj : judgeNow s c d = some w) (hz : winJudge s c d w = 0) :
    execWindowWriteArrival c d s = .next (replaceWrite c d w (acceptedWrite (windowOf s c w.win) w) s) := by
  rw [execWindowWriteArrival, hj]
  dsimp only
  rw [if_pos hz]
  rfl

theorem execWindowWriteArrival_rejected (hj : judgeNow s c d = some w) (hz : winJudge s c d w ≠ 0) :
    execWindowWriteArrival c d s = .next (returnWrite c d w (winJudge s c d w)
      (winReject c d w (winJudge s c d w) (replaceWrite c d w (rejectedWrite w) s))) := by
  rw [execWindowWriteArrival, hj]
  dsimp only
  rw [if_neg hz]
  rfl

/-- A rejection at the owner keeps of every core what neither its writes nor its count and latch of rejections are part of. -/
theorem rejection_keeps {α : Type} (p : Core → α) (q : WinWrite) (reason : Nat) (s : State)
    (hw : ∀ x ws, p (x.setWinWrites d ws) = p x) (hr : ∀ x now, p (x.rejected d w reason now) = p x) (e : CoreIx) :
    p (winReject c d w reason (replaceWrite c d w q s)).cores[e] = p s.cores[e] := by
  rw [winReject_eq, modCore_keeps p fun x => hr x _, record_cores, replaceWrite, modCore_keeps p fun x => hw x _]

/-- A rejection: counted and latched at the owner, returned to the writer; no byte is written. -/
theorem rejection_spec (q : WinWrite) (reason : Nat) (s : State) :
    let t := returnWrite c d w reason (winReject c d w reason (replaceWrite c d w q s))
    (windowOf t c w.win).rejects = satInc (windowOf s c w.win).rejects ∧ t.cores[c].sp = s.cores[c].sp ∧
      t.cores[c].winRegs.fault = true ∧
      ∃ r, t.cores[coreAt c d].returns = s.cores[coreAt c d].returns ++ [r] ∧ r.ctx = w.ctx ∧ r.pc = w.pc := by
  refine ⟨?rejects, ?sp, ?fault, ?returns⟩
  case rejects =>
    refine (congrArg (fun v : Vector Window 8 => v[w.win].rejects) (modCore_keeps Core.windows)).trans ?_
    rw [winReject_eq, modCore_core, Core.rejected_rejects, record_cores, replaceWrite, modCore_core, setWinWrites_windows]
    rfl
  case sp =>
    exact (modCore_keeps Core.sp).trans
      (rejection_keeps Core.sp q reason s (fun x ws => setWinWrites_sp x d ws) (fun _ _ => rfl) c)
  case fault =>
    refine (congrArg WinRegs.fault (modCore_keeps Core.winRegs)).trans ?_
    rw [winReject_eq, modCore_core, Core.rejected_fault]
  case returns =>
    rw [returnWrite, modCore_core, rejection_keeps Core.returns q reason s (fun x ws => setWinWrites_returns x d ws) fun _ _ => rfl]
    exact ⟨_, rfl, rfl, rfl⟩

end Judgement

/-! ### The placing of a granule (R180, R181) -/

section Placing
variable {s : State} {c : CoreIx} {d : Side} {w : WinWrite}

theorem bgWrite_staged (a : Nat) (bs : List Byte) (poison : Bool) (s : State) :
    (bgWrite c a bs poison s).cores[c].sp.staged = s.cores[c].sp.staged ++
      [{ addr := a, bytes := bs, poison := poison, agent := 8, issued := s.time.cycle, part := 0 }] := by
  rw [bgWrite, modCore_core]
  change (takeBanks s c a bs.length).cores[c].sp.staged ++ _ = _
  rw [(takeBanks_clean s c a bs.length).core]

theorem bgWrite_onlyCores (a : Nat) (bs : List Byte) (poison : Bool) (s : State) : OnlyCores s (bgWrite c a bs poison s) :=
  (modCore_only ..).trans (modCore_only ..)

theorem bgWrite_other (a : Nat) (bs : List Byte) (poison : Bool) (s : State) {e : CoreIx} (h : e ≠ c) :
    (bgWrite c a bs poison s).cores[e] = s.cores[e] :=
  (modCore_other _ c _ h).trans (modCore_other s c _ h)

theorem bgWrite_windows (a : Nat) (bs : List Byte) (poison : Bool) (s : State) :
    (bgWrite c a bs poison s).cores[c].windows = s.cores[c].windows :=
  (modCore_keeps Core.windows).trans (modCore_keeps Core.windows)

/-- The owner's core once the first granule of write `w` has been placed: the last one ends the write and counts it. -/
def Core.pastGranule (x : Core) (d : Side) (w : WinWrite) : Core :=
  let done : Bool := w.past + 1 == w.count
  let y := x.setWinWrites d ((x.winWrites d).filterMap fun q =>
    if q = w then (if done then none else some { q with past := q.past + 1, grans := q.grans.drop 1 }) else some q)
  if done then y.modWindow w.win fun v => { v with writes := satInc v.writes } else y

theorem Core.pastGranule_sp (x : Core) : (x.pastGranule d w).sp = x.sp := by
  unfold Core.pastGranule
  dsimp only
  split
  · exact setWinWrites_sp ..
  · exact setWinWrites_sp ..

theorem Core.pastGranule_writes (x : Core) : (x.pastGranule d w).windows[w.win].writes =
    if w.past + 1 = w.count then satInc x.windows[w.win].writes else x.windows[w.win].writes := by
  by_cases h : w.past + 1 = w.count
  · simp [Core.pastGranule, h, Core.modWindow, setWinWrites_windows]
  · simp [Core.pastGranule, h, setWinWrites_windows]

/-- The machine once a granule of write `w` has been placed, before a signal. -/
def granulePlaced (c : CoreIx) (d : Side) (w : WinWrite) (g : WinGran) (n : Nat) (s : State) : State :=
  modCore (bgWrite c (64 * n) (natLe 64 g.data.toNat) g.poison s) c fun x => x.pastGranule d w

theorem execWindowGranuleWrite_eq {g : WinGran} {n : Nat} (h : winNext s c d = some (w, g, n)) : execWindowGranuleWrite c d s = .next
    (if w.past + 1 = w.count then signalOwn (granulePlaced c d w g n s) c w.ctr w.sigN.toNat 1 6 w.opener w.opc
     else granulePlaced c d w g n s) := by
  rw [execWindowGranuleWrite, h]
  dsimp only
  by_cases hd : w.past + 1 = w.count
  · rw [if_pos hd, if_pos (beq_iff_eq.mpr hd)]
    rfl
  · rw [if_neg hd, if_neg (mt beq_iff_eq.mp hd)]
    rfl

/-- The bytes of a word of `8 n` bits are its number. -/
theorem leNat_natLe_toNat {n : Nat} (x : BitVec (8 * n)) : leNat (natLe n x.toNat) = x.toNat := by
  rw [leNat_natLe, show 256 = 2 ^ 8 from rfl, ← pow_mul, Nat.mod_eq_of_lt x.isLt]

theorem granulePlaced_frame (g : WinGran) (n : Nat) : CoreFrame s (granulePlaced c d w g n s) c :=
  ((bgWrite_onlyCores ..).trans (modCore_only ..)).coreFrame fun _ he => (modCore_other _ c _ he).trans (bgWrite_other _ _ _ _ he)

theorem granulePlaced_staged (g : WinGran) (n : Nat) : ∃ u, (granulePlaced c d w g n s).cores[c].sp.staged = s.cores[c].sp.staged ++ [u] ∧
    u.addr = 64 * n ∧ leNat u.bytes = g.data.toNat ∧ u.poison = g.poison := by
  rw [granulePlaced, modCore_core, Core.pastGranule_sp, bgWrite_staged]
  exact ⟨_, rfl, rfl, leNat_natLe_toNat (n := 64) g.data, rfl⟩

theorem granulePlaced_writes (g : WinGran) (n : Nat) : (windowOf (granulePlaced c d w g n s) c w.win).writes =
    if w.past + 1 = w.count then satInc (windowOf s c w.win).writes else (windowOf s c w.win).writes := by
  unfold windowOf
  rw [granulePlaced, modCore_core, Core.pastGranule_writes, bgWrite_windows]

end Placing

/-! ### Notices, markers and the close (R183, R184) -/

section Close
variable {s : State} {c : CoreIx} {d : Side} {w : Fin 8}

theorem execWindowFaultReturn_eq {r : WinReturn} {rs : List WinReturn} (h : s.cores[c].returns = r :: rs) : execWindowFaultReturn c s =
    .next (faultCtx c r.ctx 0x0C r.info r.pc (modCore s c fun x => { x with returns := rs })) := by
  rw [execWindowFaultReturn, h]

/-- The writer's core once it has learned of a close. -/
def Core.noticed (x : Core) (n : CloseNotice) (now : Nat) : Core :=
  { x with notices := x.notices.erase n, barred := x.barred ++ [(n.owner, n.win, n.epoch)],
           markersDue := x.markersDue ++ [(n.owner, n.win, now + 1)] }

theorem execCloseNoticeArrival_eq {n : CloseNotice} (h : noticeNow s c = some n) :
    execCloseNoticeArrival c s = .next (modCore s c fun x => x.noticed n s.time.cycle) := by
  rw [execCloseNoticeArrival, h]
  rfl

/-- A window whose owner has got the marker of the writer on side `d`. -/
def Window.marked (v : Window) (d : Side) (now : Nat) : Window :=
  { v with markers := v.markers.erase d,
           closeAt := if v.st = .closing && (v.markers.erase d).isEmpty then some (now + 7) else v.closeAt }

theorem Window.marked_closeAt {v : Window} {now : Nat} (hc : v.st = .closing) (hm : (v.marked d now).markers = []) :
    (v.marked d now).closeAt = some (now + 7) := by
  have he : v.markers.erase d = [] := hm
  simp [Window.marked, hc, he]

/-- The machine once a drain marker has left. -/
def markerSent (c : CoreIx) (d : Side) (m : Side × Fin 8 × Nat) (s : State) : State :=
  modCore (modCore s c fun x => { x with markersDue := x.markersDue.erase m }) (coreAt c d) fun x =>
    x.modWindow m.2.1 fun v => v.marked (opposite d) s.time.cycle

theorem execDrainMarkerSend_eq {m : Side × Fin 8 × Nat} (h : markerNow s c d = some m) :
    execDrainMarkerSend c d s = .next (markerSent c d m s) := by
  rw [execDrainMarkerSend, h]
  rfl

theorem markerSent_markersDue (m : Side × Fin 8 × Nat) :
    (markerSent c d m s).cores[c].markersDue = s.cores[c].markersDue.erase m := by
  refine (modCore_keeps Core.markersDue).trans ?_
  rw [modCore_core]

theorem markerSent_window (m : Side × Fin 8 × Nat) : windowOf (markerSent c d m s) (coreAt c d) m.2.1 =
    (windowOf s (coreAt c d) m.2.1).marked (opposite d) s.time.cycle := by
  rw [markerSent, windowOf_modWindow, if_pos rfl]
  exact congrArg (fun v : Vector Window 8 => v[m.2.1].marked (opposite d) s.time.cycle)
    (modCore_keeps Core.windows)

/-- The machine once window `w` is CLOSED, before DONE_CTR's signal. -/
def windowShut (c : CoreIx) (w : Fin 8) (s : State) : State :=
  modCore s c fun x => x.modWindow w fun v => { v with st := .closed, len := 0, closeAt := none }

theorem execWindowClosed_eq {a : Nat} (ha : (windowOf s c w).closeAt = some a) (hd : a ≤ s.time.cycle)
    (hc : (windowOf s c w).st = .closing) : execWindowClosed c w s =
      .next (signalOwn (windowShut c w s) c (windowOf s c w).doneCtr 1 0 6 (windowOf s c w).opener (windowOf s c w).pc) := by
  have hn : closedNow s c w = true := by
    unfold windowOf at ha hc
    rw [closedNow, ha]
    dsimp only
    rw [hc, decide_eq_true hd]
    rfl
  unfold execWindowClosed
  dsimp only
  rw [if_pos hn]
  rfl

theorem windowShut_window (v : Fin 8) : windowOf (windowShut c w s) c v =
    if v = w then { windowOf s c w with st := .closed, len := 0, closeAt := none } else windowOf s c v := windowOf_modWindow ..

theorem windowShut_frame : CoreFrame s (windowShut c w s) c :=
  (modCore_only ..).coreFrame fun _ he => modCore_other s c _ he

end Close

/-! ### Write-backs and clears (R172, R174) -/

section Upkeep
variable {s t : State} {c : CoreIx}

theorem SpClean.onlyCore (h : SpClean c s t) : OnlyCore s t c := by
  have ho := h.only
  rw [h.recorder, h.freeCtr] at ho
  exact onlyCore_of ho h.others

/-- The machine once the correction at address `a` has been written back. -/
def writtenBack (c : CoreIx) (a : Nat) (s : State) : State :=
  modCore (takeBanks s c a 8) c fun x => x.modSp fun p => { p with corrections := p.corrections.erase a }

theorem execSpCorrectionWriteback_eq {a : Nat} (h : correctionNow s c = some a) :
    execSpCorrectionWriteback c s = .next (writtenBack c a s) := by
  rw [execSpCorrectionWriteback, h]
  rfl

theorem writtenBack_clean (s : State) (c : CoreIx) (a : Nat) : SpClean c s (writtenBack c a s) :=
  (takeBanks_clean s c a 8).trans (modSp_clean _ c fun _ => rfl)

theorem writtenBack_corrections (s : State) (c : CoreIx) (a : Nat) :
    (writtenBack c a s).cores[c].sp.corrections = s.cores[c].sp.corrections.erase a := by
  rw [writtenBack, takeBanks, modCore_modCore, modCore_core]
  rfl

theorem bit_setBit_false {n : Nat} (x : BitVec n) (i j : Nat) : bit (setBit x i false) j = (bit x j && decide (i ≠ j)) := by
  have hx : n ≤ j → x.getLsbD j = false := BitVec.getLsbD_of_ge x j
  by_cases h : j < n
  · simp only [bit, setBit, Bool.false_eq_true, if_false, BitVec.getLsbD_and, BitVec.getLsbD_not, BitVec.getLsbD_ofNat,
      Nat.testBit_two_pow, h, decide_true, Bool.true_and, decide_not]
  · simp [bit, setBit, hx (Nat.not_lt.mp h)]

/-- The machine once segment `g` is accessible. -/
def segmentCleared (c : CoreIx) (g : Fin 6) (s : State) : State :=
  modCore s c fun x => x.modSp fun p => { p with clearing := setBit p.clearing g.val false }

theorem execSegmentClearDone_eq {g : Fin 6} (hg : s.cores[c].sp.clearing.getLsbD g.val = true)
    (ha : s.cores[c].sp.clearAt[g] ≤ s.time.cycle) : execSegmentClearDone c g s = .next (segmentCleared c g s) := by
  have h : clearOver s c g = true := by simp only [clearOver, bit, hg, ha, decide_true, Bool.and_self]
  rw [execSegmentClearDone, if_pos h]
  rfl

theorem segmentCleared_sp (g : Fin 6) :
    (segmentCleared c g s).cores[c].sp = { s.cores[c].sp with clearing := setBit s.cores[c].sp.clearing g.val false } := by
  rw [segmentCleared, modCore_core]
  rfl

theorem segmentCleared_clearing (g : Fin 6) (j : Nat) : (segmentCleared c g s).cores[c].sp.clearing.getLsbD j =
    (s.cores[c].sp.clearing.getLsbD j && decide (g.val ≠ j)) := by
  rw [segmentCleared_sp]
  exact bit_setBit_false ..

end Upkeep
end Sys2Proof.Machine

open Sys2Proof Sys2Proof.Machine Sys2Proof.Claims

/-- Settles O19: the two judgements of a write, its granules, and the steps of a close. -/
theorem windowEvents : Obligations.WindowEvents := by
  unfold Obligations.WindowEvents
  refine ⟨fun c d w s hj hz => ⟨_, execWindowWriteArrival_accepted hj hz, modCore_onlyCore .., replaceWrite_writes _⟩,
    fun c d w s hj hz => ⟨_, execWindowWriteArrival_rejected hj hz, rejection_spec ..⟩, fun c d w g n s h _ => ?granule,
    fun c r rs s h hf => ?returned, fun c n s h => ⟨_, execCloseNoticeArrival_eq h, rfl⟩, fun c d m s h => ?marker,
    fun c w a s ha hd hc => ?closed⟩
  case granule =>
    obtain ⟨u, hu, haddr, hbytes, hpoison⟩ := granulePlaced_staged (s := s) (c := c) (d := d) (w := w) g n
    have hframe := granulePlaced_frame (s := s) (c := c) (d := d) (w := w) g n
    have hw := granulePlaced_writes (s := s) (c := c) (d := d) (w := w) g n
    refine ⟨_, u, execWindowGranuleWrite_eq h, ?_⟩
    by_cases hl : w.past + 1 = w.count
    · rw [if_pos hl] at hw
      rw [if_pos hl, if_pos hl]
      exact ⟨coreFrame_signalOwn hframe, hu, haddr, hbytes, hpoison, hw, signalOwn_incs ..⟩
    · rw [if_neg hl] at hw
      rw [if_neg hl, if_neg hl]
      exact ⟨hframe, hu, haddr, hbytes, hpoison, rfl, hw⟩
  case returned =>
    refine ⟨_, execWindowFaultReturn_eq h, ?_, faultCtx_modCore_latched hf⟩
    rw [faultCtx_returns, modCore_core]
  case marker =>
    refine ⟨_, execDrainMarkerSend_eq h, markerSent_markersDue m, ?_⟩
    rw [markerSent_window]
    exact ⟨rfl, Window.marked_closeAt⟩
  case closed =>
    obtain ⟨x, hincs, hcore, hctr, hn, hdue⟩ := signalOwn_incs (windowShut c w s) c (windowOf s c w).doneCtr 1 0 6
      (windowOf s c w).opener (windowOf s c w).pc
    have hst : windowOf (windowShut c w s) c w = { windowOf s c w with st := .closed, len := 0, closeAt := none } :=
      (windowShut_window w).trans (if_pos rfl)
    exact ⟨_, x, execWindowClosed_eq ha hd hc, coreFrame_signalOwn windowShut_frame, congrArg Window.st hst, hincs, hcore, hctr, hn, hdue,
      fun v hv => (windowShut_window v).trans (if_neg hv)⟩

/-- Settles O20: a write-back is a clean use of its bank, the end of a clear a bit of SP_CLEARING. -/
theorem scratchpadUpkeep : Obligations.ScratchpadUpkeep := by
  unfold Obligations.ScratchpadUpkeep
  refine ⟨fun c a s h => ⟨_, execSpCorrectionWriteback_eq h, (writtenBack_clean s c a).onlyCore, writtenBack_corrections s c a,
    (writtenBack_clean s c a).mem⟩, fun c g s hg ha => ⟨_, execSegmentClearDone_eq hg ha, modCore_onlyCore .., ?ended, ?kept, ?bytes⟩⟩
  case ended => rw [segmentCleared_clearing]; simp
  case kept =>
    intro h hne
    have hv : g.val ≠ h.val := fun e => hne (Fin.ext e.symm)
    rw [segmentCleared_clearing, decide_eq_true hv, Bool.and_true]
  case bytes => rw [segmentCleared_sp]
end

section
/-! PROOF. What a stack port does with a request (R199, R201, R202, R287, R288, R307): it is taken, snooped for, queued or combined,
served and answered. -/

namespace Sys2Proof.Machine
open Claims

/-! ### Updates of one port -/

section Ports
variable {s t u : State} {p : SecIx}

theorem modPort_other (f : Port → Port) {q : SecIx} (h : q ≠ p) : (modPort s p f).ports[q] = s.ports[q] := by
  have hv : p.val ≠ q.val := fun e => h (Fin.ext e.symm)
  simp [modPort, hv]

/-- Updates of one port one after another are one update of it. -/
theorem foldl_modPort {α : Type} (g : Port → α → Port) (l : List α) (s : State) :
    l.foldl (fun s a => modPort s p fun x => g x a) s = modPort s p fun x => l.foldl g x := by
  induction l generalizing s with
  | nil => simp [modPort]
  | cons a l ih => rw [List.foldl_cons, ih]; simp [modPort]

/-! ### Combining entries that close (R201, R202) -/

/-- No open combining entry stands for granule `g`. -/
def Port.NoneOpen (x : Port) (g : Nat) : Prop := ∀ e ∈ x.entries, e.open_ = true → e.gran ≠ g

theorem Port.openEntry_eq_none {x : Port} {g : Nat} : x.openEntry g = none ↔ x.NoneOpen g := by
  simp [Port.openEntry, Port.NoneOpen]

/-- An entry left when granule `g` closes and is open is one of those before, and not of `g`. -/
theorem Port.mem_closeGranule {x : Port} {g : Nat} {e : Combine} (h : e ∈ (x.closeGranule g).entries) (ho : e.open_ = true) :
    e ∈ x.entries ∧ e.gran ≠ g := by
  obtain ⟨f, hf, rfl⟩ := List.mem_map.mp (List.mem_filter.mp h).1
  by_cases hg : f.gran = g
  · rw [if_pos (beq_iff_eq.mpr hg)] at ho
    exact absurd ho Bool.false_ne_true
  · rw [if_neg (mt beq_iff_eq.mp hg)]
    exact ⟨hf, hg⟩

theorem Port.closeGranule_closes (x : Port) (g : Nat) : (x.closeGranule g).NoneOpen g := fun _ he ho =>
  (Port.mem_closeGranule he ho).2

theorem Port.NoneOpen.closeGranule {x : Port} {g : Nat} (h : x.NoneOpen g) (k : Nat) : (x.closeGranule k).NoneOpen g := fun e he ho =>
  h e (Port.mem_closeGranule he ho).1 ho

/-- The entries of other granules stay as they are. -/
theorem Port.closeGranule_keeps {x : Port} {g : Nat} {e : Combine} (h : e ∈ x.entries) (hg : e.gran ≠ g) :
    e ∈ (x.closeGranule g).entries :=
  List.mem_filter.mpr ⟨List.mem_map.mpr ⟨e, h, if_neg (mt beq_iff_eq.mp hg)⟩, by simp [hg]⟩

/-- A port with the granules of `l` closed. -/
def Port.closeAll (x : Port) (l : List Combine) : Port := l.foldl (fun x e => x.closeGranule e.gran) x

/-- A port with its entries closed whose time is over at port cycle `now`. -/
def Port.closeOver (x : Port) (now : Nat) : Port := x.closeAll (x.entries.filter fun e => e.over now)

theorem closeOld_eq (p : SecIx) (s : State) : closeOld p s = modPort s p fun x => x.closeOver (pcNow s p) :=
  foldl_modPort (fun x (e : Combine) => x.closeGranule e.gran) _ s

theorem Port.closeAll_only (x : Port) (l : List Combine) : x.closeAll l = { x with entries := (x.closeAll l).entries } :=
  List.foldlRecOn (motive := fun y : Port => y = { x with entries := y.entries }) l _ rfl fun y hy e _ => by
    exact congrArg (fun z : Port => z.closeGranule e.gran) hy

theorem Port.closeOver_only (x : Port) (now : Nat) : x.closeOver now = { x with entries := (x.closeOver now).entries } :=
  x.closeAll_only _

theorem Port.NoneOpen.closeAll {x : Port} {g : Nat} (h : x.NoneOpen g) (l : List Combine) : (x.closeAll l).NoneOpen g :=
  List.foldlRecOn (motive := fun y : Port => y.NoneOpen g) l _ h fun _ hy e _ => hy.closeGranule e.gran

theorem Port.NoneOpen.closeOver {x : Port} {g : Nat} (h : x.NoneOpen g) (now : Nat) : (x.closeOver now).NoneOpen g := h.closeAll _

theorem Port.closeAll_closes {l : List Combine} {e : Combine} (he : e ∈ l) (x : Port) : (x.closeAll l).NoneOpen e.gran := by
  induction l generalizing x with
  | nil => exact absurd he List.not_mem_nil
  | cons f l ih =>
    rcases List.mem_cons.mp he with rfl | hl
    · exact (x.closeGranule_closes e.gran).closeAll l
    · exact ih hl _

theorem Port.closeAll_keeps {x : Port} {l : List Combine} {e : Combine} (he : e ∈ x.entries) (hl : ∀ f ∈ l, f.gran ≠ e.gran) :
    e ∈ (x.closeAll l).entries :=
  List.foldlRecOn (motive := fun y : Port => e ∈ y.entries) l _ he fun _ hy f hf => Port.closeGranule_keeps hy (Ne.symm (hl f hf))

theorem closeOld_port (p : SecIx) (s : State) : portOf (closeOld p s) p = (portOf s p).closeOver (pcNow s p) := by
  unfold portOf
  rw [closeOld_eq, modPort_same]

theorem closeOld_fabric (p : SecIx) (s : State) : (closeOld p s).fabric = s.fabric := by rw [closeOld_eq, modPort_fabric]

theorem closeOld_dram (p : SecIx) (s : State) : (closeOld p s).dram = s.dram := by rw [closeOld_eq, modPort_dram]

/-- R201: of the entries of a port those close whose time is over. -/
theorem combineEntryClose_spec (p : SecIx) (s : State) : let t := closeOld p s
    t = { s with ports := t.ports } ∧ (∀ q, q ≠ p → portOf t q = portOf s q) ∧
      (∀ e ∈ (portOf s p).entries, e.over (pcNow s p) = true → (portOf t p).openEntry e.gran = none) ∧
      ∀ e ∈ (portOf s p).entries, (∀ f ∈ (portOf s p).entries, f.over (pcNow s p) = true → f.gran ≠ e.gran) →
        e ∈ (portOf t p).entries := by
  dsimp only
  rw [closeOld_port, closeOld_eq]
  refine ⟨rfl, fun q hq => modPort_other _ hq, fun e he ho => ?closes, fun e he hk => ?keeps⟩
  case closes => exact Port.openEntry_eq_none.mpr (Port.closeAll_closes (List.mem_filter.mpr ⟨he, ho⟩) _)
  case keeps =>
    refine Port.closeAll_keeps he fun f hf => ?_
    obtain ⟨hm, ho⟩ := List.mem_filter.mp hf
    exact hk f hm ho

/-! ### A request is taken (R199, R307) -/

theorem trackLine_reported (l : Nat) (s : State) : Reported s (trackLine l s) := by
  unfold trackLine
  split
  · exact rfl
  · split
    · split <;> exact rfl
    · exact rfl

/-- The lines that the host reads from its window enter the snoop filter (R307). -/
def noteLines (r : MemReq) (s : State) : State :=
  if r.agent == .host && !r.write && inWindow s (directOf r.addr) then
    (granules (directOf r.addr) r.len).foldl (fun s l => trackLine l s) s
  else s

theorem noteLines_reported (r : MemReq) (s : State) : Reported s (noteLines r s) := by
  unfold noteLines
  split
  · exact List.foldlRecOn (motive := fun u => Reported s u) _ _ rfl fun u hu l _ => hu.trans (trackLine_reported l u)
  · exact rfl

/-- A request that reaches a running port and waits for no snoop is a write or a read that has arrived. -/
theorem execStackPortRequest_arrives {r : MemReq} (hn : portNext s p = some r) (hp : portRuns s p = true) (hl : snoopsFor s r = []) :
    ∃ u, Reported { s with fabric := s.fabric.erase r } u ∧
      execStackPortRequest p s = .next (if r.write then writeArrives p r u else readArrives p r u) := by
  have hp' : portRuns { s with fabric := s.fabric.erase r } p = true := hp
  have hl' : snoopsFor { s with fabric := s.fabric.erase r } r = [] := hl
  refine ⟨_, noteLines_reported r { s with fabric := s.fabric.erase r }, ?_⟩
  unfold execStackPortRequest
  rw [hn]
  dsimp only
  rw [hp', hl']
  rfl

/-- A snoop for line `l` leaves, for which request `r` waits. -/
def snoopFor (r : MemReq) (s : State) (l : Nat) : State :=
  sendSnoop l r.write { s with cxl := { s.cxl with snoops := s.cxl.snoops ++ [(l, r.write, r)] } }

theorem execStackPortRequest_snoops {r : MemReq} (hn : portNext s p = some r) (hp : portRuns s p = true) (hl : snoopsFor s r ≠ []) :
    execStackPortRequest p s = .next ((snoopsFor s r).foldl (snoopFor r) { s with fabric := s.fabric.erase r }) := by
  have hp' : portRuns { s with fabric := s.fabric.erase r } p = true := hp
  have he : (snoopsFor { s with fabric := s.fabric.erase r } r).isEmpty = false := List.isEmpty_eq_false_iff.mpr hl
  unfold execStackPortRequest
  rw [hn]
  dsimp only
  rw [hp', he]
  rfl

theorem foldl_snoopFor (r : MemReq) (ls : List Nat) (s : State) : Reported s (ls.foldl (snoopFor r) s) ∧
    (ls.foldl (snoopFor r) s).cxl.snoops = s.cxl.snoops ++ ls.map fun l => (l, r.write, r) := by
  induction ls generalizing s with
  | nil => exact ⟨rfl, (List.append_nil _).symm⟩
  | cons l ls ih =>
    obtain ⟨ho, hs⟩ := ih (snoopFor r s l)
    refine ⟨Reported.trans (t := snoopFor r s l) rfl ho, hs.trans ?_⟩
    exact List.append_assoc ..

theorem Reported.pcNow (h : Reported s t) (p : SecIx) : pcNow t p = pcNow s p := by rw [h]; rfl

/-- A write that arrives joins the queue of its port. -/
theorem writeArrives_spec (r : MemReq) (s : State) : let t := writeArrives p r s
    t.fabric = s.fabric ∧ t.dram = s.dram ∧
      ∃ q, (portOf t p).queue = (portOf s p).queue ++ [q] ∧ q.req = r ∧ q.passed = 0 := by
  refine ⟨rfl, rfl, { req := r, passed := 0, came := nsNow s }, ?_, rfl, rfl⟩
  unfold portOf
  rw [writeArrives, modPort_same]
  rfl

/-- A port whose queue and entries read `r` has joined at port cycle `pc` and time `ns`: it opens an entry, or is performed alone where
the table is full (R201). -/
def Port.withRead (r : MemReq) (pc ns : Nat) (x : Port) : Port :=
  let full := decide (128 ≤ (x.entries.filter fun e => !e.alone).length)
  { x with
    combineFull := if full then satInc x.combineFull else x.combineFull
    queue := x.queue ++ [{ req := r, passed := 0, came := ns }]
    entries := x.entries ++ [{ id := r.id, gran := r.granule, members := [r], alone := full, open_ := !full, opened := pc, hot := r.rt
                               deadline := r.deadline, served := false, returned := false, data := [], poison := [] }] }

/-- A port whose entry `e` read `r` has joined. -/
def Port.withMember (r : MemReq) (e : Combine) (x : Port) : Port :=
  ({ x with combined := satInc x.combined } : Port).modEntry e.id fun e =>
    { e with members := e.members ++ [r], hot := e.hot || r.rt, deadline := earlier e.deadline r.deadline }

theorem readArrives_none {r : MemReq} (h : (portOf (closeOld p s) p).openEntry r.granule = none) : readArrives p r s =
    modPort (closeOld p s) p (Port.withRead r (pcNow (closeOld p s) p) (nsNow (closeOld p s))) := by
  unfold portOf at h
  unfold readArrives
  dsimp only
  rw [h]
  rfl

theorem readArrives_some {r : MemReq} {e : Combine} (h : (portOf (closeOld p s) p).openEntry r.granule = some e)
    (hr : e.returned = false) : readArrives p r s = modPort (closeOld p s) p (Port.withMember r e) := by
  unfold portOf at h
  unfold readArrives
  dsimp only
  rw [h]
  dsimp only
  rw [hr, if_neg Bool.false_ne_true]
  simp [modPort, Port.withMember]

/-- A read whose granule has no open entry joins the queue of its port. -/
theorem readArrives_queued {r : MemReq} (h : (portOf s p).openEntry r.granule = none) : let t := readArrives p r s
    t.fabric = s.fabric ∧ t.dram = s.dram ∧
      ∃ q, (portOf t p).queue = (portOf s p).queue ++ [q] ∧ q.req = r ∧ q.passed = 0 := by
  have hn : (portOf (closeOld p s) p).openEntry r.granule = none := by
    rw [closeOld_port]
    exact Port.openEntry_eq_none.mpr ((Port.openEntry_eq_none.mp h).closeOver _)
  have hq : (portOf (closeOld p s) p).queue = (portOf s p).queue := by rw [closeOld_port, Port.closeOver_only]
  rw [readArrives_none hn, ← hq]
  refine ⟨closeOld_fabric p s, closeOld_dram p s, { req := r, passed := 0, came := nsNow (closeOld p s) }, ?_, rfl, rfl⟩
  exact congrArg Port.queue (modPort_same (closeOld p s) p _)

/-- A read whose granule's entry has not returned yet joins it, and counts as combined. -/
theorem readArrives_joins {r : MemReq} {e : Combine} (h : (portOf (closeOld p s) p).openEntry r.granule = some e)
    (hr : e.returned = false) : let t := readArrives p r s
    t.fabric = s.fabric ∧ (portOf t p).queue = (portOf s p).queue ∧ (portOf t p).combined = satInc (portOf s p).combined ∧
      (∃ e' ∈ (portOf t p).entries, e'.id = e.id ∧ e'.members = e.members ++ [r]) ∧ t.dram = s.dram := by
  have he : e ∈ (portOf (closeOld p s) p).entries := List.mem_of_find?_eq_some h
  have ho := (closeOld_port p s).trans (Port.closeOver_only ..)
  have hq : (portOf (closeOld p s) p).queue = (portOf s p).queue := by rw [ho]
  have hc : (portOf (closeOld p s) p).combined = (portOf s p).combined := by rw [ho]
  have hp : portOf (modPort (closeOld p s) p (Port.withMember r e)) p = Port.withMember r e (portOf (closeOld p s) p) :=
    modPort_same (closeOld p s) p _
  dsimp only
  rw [readArrives_some h hr, hp, ← hq, ← hc]
  exact ⟨closeOld_fabric p s, rfl, rfl, ⟨_, List.mem_map.mpr ⟨e, he, if_pos (beq_self_eq_true _)⟩, rfl, rfl⟩, closeOld_dram p s⟩

/-! ### A request is served (R199, R287, R288) -/

/-- What the check of words of stacked memory leaves: poison, the ports' counts and the recorder may differ. -/
structure WordsChecked (s t : State) : Prop where
  only : t = { s with ports := t.ports, dramPoison := t.dramPoison, recorder := t.recorder } := by rfl
  ports : ∀ q : SecIx, (portOf t q).queue = (portOf s q).queue ∧ (portOf t q).entries = (portOf s q).entries := by
    exact fun _ => ⟨rfl, rfl⟩

theorem WordsChecked.refl (s : State) : WordsChecked s s := {}

theorem WordsChecked.trans (a : WordsChecked s t) (b : WordsChecked t u) : WordsChecked s u where
  only := Eq.trans b.only (by rw [a.only])
  ports q := ⟨(b.ports q).1.trans (a.ports q).1, (b.ports q).2.trans (a.ports q).2⟩

theorem WordsChecked.foldl {α : Type} {f : State → α → State} (h : ∀ s a, WordsChecked s (f s a)) (l : List α) (s : State) :
    WordsChecked s (l.foldl f s) :=
  List.foldlRecOn l f (WordsChecked.refl s) fun u hu a _ => hu.trans (h u a)

/-- A count of a port. -/
theorem modPort_checked (s : State) (p : SecIx) {f : Port → Port}
    (hf : ∀ x, (f x).queue = x.queue ∧ (f x).entries = x.entries := by exact fun _ => ⟨rfl, rfl⟩) :
    WordsChecked s (modPort s p f) where
  ports q := by
    unfold portOf
    by_cases h : q = p
    · subst h; rw [modPort_same]; exact hf _
    · rw [modPort_other f h]; exact ⟨rfl, rfl⟩

theorem record_checked (s : State) (code : Nat) (sev : BitVec 2) (unit a0 a1 a2 : Nat) :
    WordsChecked s (record s code sev unit a0 a1 a2) := {}

theorem poison_checked (s : State) (q : Tbl Bool) : WordsChecked s { s with dramPoison := q } := {}

theorem countPoison_checked (a n : Nat) (s : State) : WordsChecked s (countPoison a n s) :=
  .foldl (fun u w => modPort_checked u (stackOf (32 * w))) _ s

theorem dramEcc_checked (a : Nat) (e : Ecc) (s : State) : WordsChecked s (dramEcc a e s) := by
  unfold dramEcc
  dsimp only
  split
  · exact .refl s
  · split
    · exact .refl s
    · exact (modPort_checked s _).trans (record_checked ..)
    · refine (poison_checked s _).trans (.trans (modPort_checked _ _ fun x => ?_) (record_checked ..))
      split <;> exact ⟨rfl, rfl⟩

theorem checkWords_checked (ws : List Nat) (found : Finds) (s : State) : WordsChecked s (checkWords ws found s) := by
  refine .foldl (fun s w => ?_) ws s
  split
  · exact (countPoison_checked ..).trans (dramEcc_checked ..)
  · exact countPoison_checked ..

/-- The machine with bytes in stacked memory and their words' poison, before the poisoned words are counted. -/
def bytesStored (a : Nat) (bs : List Byte) (pois : Nat → Bool) (s : State) : State :=
  { s with
    dram := writeBytes s.dram a bs
    loose := s.loose.flatMap (Loose.cut a bs.length)
    dramPoison := (words32 a bs.length).foldl (fun t w =>
      tset false t w (pois w || (!(decide (a ≤ 32 * w) && decide (32 * w + 32 ≤ a + bs.length)) && tget false t w))) s.dramPoison }

theorem dramWrite_checked (a : Nat) (bs : List Byte) (pois : Nat → Bool) (s : State) :
    WordsChecked (bytesStored a bs pois s) (dramWrite a bs pois s) :=
  .foldl (fun u w => by
    split
    · exact modPort_checked u (stackOf (32 * w))
    · exact .refl u) _ (bytesStored a bs pois s)

/-- A write of stacked memory: its bytes are written, and queued requests and answers are as they were. -/
theorem dramWrite_spec (a : Nat) (bs : List Byte) (pois : Nat → Bool) (s : State) : let t := dramWrite a bs pois s
    t.dram = writeBytes s.dram a bs ∧ t.resps = s.resps ∧ ∀ q, (portOf t q).queue = (portOf s q).queue := by
  have h := dramWrite_checked a bs pois s
  exact ⟨by rw [h.only]; rfl, by rw [h.only]; rfl, fun q => (h.ports q).1⟩

/-- The bytes of a write are in memory, and no others have changed (R288). -/
theorem wrote_writeBytes {a : Nat} {bs : List Byte} (hw : Memory.wf s.dram = true) (ht : t.dram = writeBytes s.dram a bs) :
    Wrote s t a bs := by
  unfold Wrote
  rw [ht]
  exact ⟨fun _ h => readByte_write_in bs _ a hw h, fun _ h => readByte_write_other bs _ a h⟩

theorem ackGuest_frame (key : Nat) (s : State) : HubFrame s (ackGuest key s) := by
  unfold ackGuest
  split
  · exact .refl s
  · exact .ite (.refl s) (.trans {} (sendOrDrop_frame ..))

/-- No answer to a request touches stacked memory or its ports. -/
theorem answerMem_hub (r : MemReq) (data : List Byte) (poison : List Bool) (s : State) : HubFrame s (answerMem r data poison s) := by
  by_cases h : ∃ key o, r.agent = .engine key o
  · obtain ⟨key, o, he⟩ := h
    have ha : answerMem r data poison s =
        ackGuest key (noteRestored key (noteReleased s (answerRun key r.id r.write data poison s))) := by
      rw [answerMem, he]
    have run : HubFrame s (answerRun key r.id r.write data poison s) := {}
    have note (u : State) : HubFrame u (noteRestored key u) := {}
    rw [ha]
    exact run.trans <| (noteReleased_frame s _).trans <| (note _).trans (ackGuest_frame key _)
  · exact answerMem_frame r data poison s fun key o he => h ⟨key, o, he⟩

theorem answerMem_stream {r : MemReq} {c : CoreIx} {i : Fin 32} (h : r.agent = .stream c i) (data : List Byte) (poison : List Bool)
    (s : State) : answerMem r data poison s = answerReq r data poison s := by
  rw [answerMem, h]

/-- What is picked by comparing keys is one of those compared. -/
theorem foldl_pick_mem {α : Type} (below : α → α → Bool) (a : α) (l : List α) :
    l.foldl (fun a b => if below b a then b else a) a ∈ a :: l :=
  List.foldlRecOn (motive := (· ∈ a :: l)) l _ (List.mem_cons_self ..) fun b hb x hx => by
    split
    · exact List.mem_cons_of_mem a hx
    · exact hb

theorem mayServe_subset (s : State) (p : SecIx) (qs : List Queued) : mayServe s p qs ⊆ qs := List.filter_subset_self ..

theorem pickRequest_mem {qs : List Queued} {w : Queued} {forced : Bool} (h : pickRequest s p qs = some (w, forced)) : w ∈ qs := by
  unfold pickRequest at h
  dsimp only at h
  split at h
  next q hq =>
    cases h
    exact mayServe_subset s p qs (List.mem_of_find?_eq_some hq)
  next =>
    split at h
    next => cases h
    next q r hq =>
      cases h
      exact mayServe_subset s p qs (hq ▸ foldl_pick_mem (fun b a => keyBelow (portKey s p b) (portKey s p a)) q r)

theorem passOver_length_le (chan : Nat) (w : Queued) (seen : Bool) (qs : List Queued) :
    (passOver s p chan w seen qs).length ≤ qs.length := by
  induction qs generalizing seen with
  | nil => exact Nat.le_refl 0
  | cons q qs ih =>
    unfold passOver
    split
    · exact Nat.le_succ_of_le (ih true)
    · split <;> exact Nat.succ_le_succ (ih seen)

/-- The served request leaves the queue. -/
theorem passOver_length_lt (chan : Nat) {w : Queued} (seen : Bool) {qs : List Queued} (h : w ∈ qs) :
    (passOver s p chan w seen qs).length < qs.length := by
  induction qs generalizing seen with
  | nil => exact absurd h List.not_mem_nil
  | cons q qs ih =>
    unfold passOver
    split
    · exact Nat.lt_succ_of_le (passOver_length_le chan w true qs)
    next hne =>
      have hm : w ∈ qs := (List.mem_cons.mp h).resolve_left (Ne.symm hne)
      split <;> exact Nat.succ_lt_succ (ih seen hm)

/-- The machine once request `w` has left its queue and its access of `n` bytes is counted. -/
def serving (p : SecIx) (chan : Nat) (w : Queued) (forced : Bool) (n : Nat) (s : State) : State :=
  countAccess p n (takeQueued p chan w forced s)

theorem serving_spec (p : SecIx) (chan : Nat) (w : Queued) (forced : Bool) (n : Nat) (s : State) : let t := serving p chan w forced n s
    t = { s with ports := t.ports, act := t.act } ∧ (portOf t p).entries = (portOf s p).entries ∧
      (portOf t p).queue = passOver s p chan w false (portOf s p).queue := by
  refine ⟨rfl, ?_⟩
  unfold portOf
  rw [show (serving p chan w forced n s).ports = (takeQueued p chan w forced s).ports from rfl, takeQueued, modPort_same]
  exact ⟨rfl, rfl⟩

theorem execStackRequestServe_eq {ch : Fin 64} {w : Queued} {forced : Bool}
    (h : pickRequest s p (chanQueue s p ch.val) = some (w, forced)) (hw : w.part = false) (found : Finds) :
    execStackRequestServe p ch found s = .next
      (if w.req.write then serveWrite w.req found (serving p ch.val w forced (if w.req.write then w.req.len else 256) s)
       else serveRead p w.req found (serving p ch.val w forced (if w.req.write then w.req.len else 256) s)) := by
  unfold execStackRequestServe
  rw [h]
  dsimp only
  rw [hw]
  rfl

/-- R202, R288: a served write. -/
theorem serveWrite_spec (r : MemReq) (found : Finds) (s : State) : let t := serveWrite r found s
    t.dram = writeBytes s.dram (directOf r.addr) r.data ∧ (∀ q, (portOf t q).queue = (portOf s q).queue) ∧
      ∀ c i, r.agent = .stream c i → ∃ x, t.resps = s.resps ++ [x] ∧ x.req = r ∧ x.failed = false := by
  have hc := checkWords_checked ((words32 (directOf r.addr) r.data.length).filter fun w =>
    !(decide (directOf r.addr ≤ 32 * w) && decide (32 * w + 32 ≤ directOf r.addr + r.data.length))) found s
  unfold serveWrite
  dsimp only
  generalize checkWords _ found s = v at hc ⊢
  obtain ⟨hd, hr, hq⟩ := dramWrite_spec (directOf r.addr) r.data (fun w => r.poison.getD ((32 * w - directOf r.addr) / 64) false) v
  generalize dramWrite _ _ _ v = x at hd hr hq ⊢
  have ha := answerMem_hub r [] [] x
  have hvd : v.dram = s.dram := by rw [hc.only]
  have hvr : v.resps = s.resps := by rw [hc.only]
  refine ⟨ha.dram.trans (hd.trans (by rw [hvd])), fun q => ?_, fun c i hs => ?_⟩
  · exact (congrArg (fun y : Vector Port 12 => y[q].queue) ha.ports).trans ((hq q).trans (hc.ports q).1)
  · rw [answerMem_stream hs, ← hvr, ← hr]
    exact ⟨_, rfl, rfl, rfl⟩

/-- R199, R287: a served read fills its entry with the bytes of its granule. -/
theorem serveRead_spec {r : MemReq} {e : Combine} (found : Finds) (he : e ∈ (portOf s p).entries) (hi : e.id = r.id) :
    let t := serveRead p r found s
    t.dram = s.dram ∧ ∃ e' ∈ (portOf t p).entries, e'.id = e.id ∧ e'.served = true ∧
      e'.data = dramBytes s (r.granule * 256) 256 := by
  have hc := checkWords_checked (words32 (r.granule * 256) 256) found s
  unfold serveRead
  dsimp only
  generalize checkWords _ found s = v at hc ⊢
  have hv : dramBytes v (r.granule * 256) 256 = dramBytes s (r.granule * 256) 256 := by rw [hc.only]; rfl
  have hm : e ∈ (portOf v p).entries := (hc.ports p).2 ▸ he
  refine ⟨by rw [modPort_dram, hc.only], ?_⟩
  unfold portOf
  rw [modPort_same, ← hv]
  exact ⟨_, List.mem_map.mpr ⟨e, hm, if_pos (beq_iff_eq.mpr hi)⟩, rfl, rfl, rfl⟩

/-! ### A served entry answers its members (R201) -/

/-- The answers to stream requests of one entry: one to each, in their order, with the part that it asked for. -/
theorem foldl_answers (e : Combine) (l : List MemReq) (hl : ∀ r ∈ l, ∃ c i, r.agent = .stream c i) (s : State) :
    let t := l.foldl (fun s r => answerMem r (e.part r).1 (e.part r).2 s) s
    t.dram = s.dram ∧ ∃ xs, t.resps = s.resps ++ xs ∧ xs.map (fun x : MemResp => x.req) = l ∧
      ∀ x ∈ xs, x.data = (e.part x.req).1 ∧ x.poison = (e.part x.req).2 ∧ x.failed = false := by
  induction l generalizing s with
  | nil => exact ⟨rfl, [], (List.append_nil _).symm, rfl, by simp⟩
  | cons r l ih =>
    obtain ⟨⟨c, i, hr⟩, hl⟩ := List.forall_mem_cons.mp hl
    obtain ⟨hd, xs, hx, hm, ha⟩ := ih hl (answerReq r (e.part r).1 (e.part r).2 s)
    dsimp only
    rw [List.foldl_cons, answerMem_stream hr]
    exact ⟨hd, _ :: xs, hx.trans (List.append_assoc ..), congrArg (r :: ·) hm, List.forall_mem_cons.mpr ⟨⟨rfl, rfl, rfl⟩, ha⟩⟩

theorem dramReadReturn_spec {e : Combine} (h : ((portOf s p).entries.find? fun e => e.served && !e.returned) = some e)
    (hm : ∀ r ∈ e.members, ∃ c i, r.agent = .stream c i) :
    ∃ t xs, execDramReadReturn p s = .next t ∧ t.dram = s.dram ∧ t.resps = s.resps ++ xs ∧
      xs.map (fun x : MemResp => x.req) = e.members ∧
      ∀ x ∈ xs, x.data = (e.part x.req).1 ∧ x.poison = (e.part x.req).2 ∧ x.failed = false := by
  unfold portOf at h
  unfold execDramReadReturn
  rw [h]
  dsimp only
  obtain ⟨hd, xs, hx, hr, ha⟩ := foldl_answers e e.members hm (modPort s p fun x =>
    { x.modEntry e.id (fun e => { e with returned := true, members := [] }) with
      entries := (x.modEntry e.id fun e => { e with returned := true, members := [] }).entries.filter fun e => e.open_ || !e.returned })
  exact ⟨_, xs, rfl, hd, hx, hr, ha⟩

end Ports
end Sys2Proof.Machine

open Sys2Proof Sys2Proof.Machine Sys2Proof.Claims

/-- Settles O29: the arrival of a request, its service by kind, the answers of an entry and the entries' close. -/
theorem stackPortService : Obligations.StackPortService := by
  unfold Obligations.StackPortService
  refine ⟨fun p r s hn hp hl ho => ?queued, fun p r s hn hp hl => ?snoops, fun p r e s hn hp hl hw ho hr => ?joins,
    fun p ch found w forced s h hp hw hm => ?write, fun p ch found w forced e s h hp hw he hi => ?read,
    fun p e s h hm => dramReadReturn_spec h hm, fun p s => ⟨_, rfl, combineEntryClose_spec p s⟩⟩
  case queued =>
    obtain ⟨u, hu, hx⟩ := execStackPortRequest_arrives hn hp hl
    have hports : portOf u p = portOf s p := by rw [hu]; rfl
    have hspec : let t := if r.write then writeArrives p r u else readArrives p r u
        t.fabric = u.fabric ∧ t.dram = u.dram ∧
          ∃ q, (portOf t p).queue = (portOf u p).queue ++ [q] ∧ q.req = r ∧ q.passed = 0 := by
      cases hw : r.write with
      | true => exact writeArrives_spec r u
      | false => exact readArrives_queued (by rw [hports]; exact ho hw)
    obtain ⟨hf, hd, q, hq, hr, h0⟩ := hspec
    exact ⟨_, q, hx, hf.trans (by rw [hu]), hq.trans (by rw [hports]), hr, h0, hd.trans (by rw [hu])⟩
  case snoops =>
    obtain ⟨ho, hs⟩ := foldl_snoopFor r (snoopsFor s r) { s with fabric := s.fabric.erase r }
    exact ⟨_, execStackPortRequest_snoops hn hp hl, by rw [ho], by rw [ho], by rw [ho], hs⟩
  case joins =>
    obtain ⟨u, hu, hx⟩ := execStackPortRequest_arrives hn hp hl
    rw [hw, if_neg Bool.false_ne_true] at hx
    have hports : portOf u p = portOf s p := by rw [hu]; rfl
    have hopen : (portOf (closeOld p u) p).openEntry r.granule = some e := by
      rw [closeOld_port, hports, hu.pcNow, ← ho, closeOld_port]
      rfl
    obtain ⟨hf, hq, hc, ⟨e', he', hid, hm⟩, hd⟩ := readArrives_joins hopen hr
    exact ⟨_, e', hx, hf.trans (by rw [hu]), hq.trans (by rw [hports]), hc.trans (by rw [hports]), he', hid, hm, hd.trans (by rw [hu])⟩
  case write =>
    have hx := execStackRequestServe_eq h hp found
    rw [hw, if_pos rfl, if_pos rfl] at hx
    obtain ⟨ho, -, hq⟩ := serving_spec p ch.val w forced w.req.len s
    generalize serving p ch.val w forced w.req.len s = u at hx ho hq
    obtain ⟨hd, hqueue, hans⟩ := serveWrite_spec w.req found u
    have hud : u.dram = s.dram := by rw [ho]
    have hur : u.resps = s.resps := by rw [ho]
    refine ⟨_, hx, wrote_writeBytes hm (hd.trans (by rw [hud])), ?_, fun c i hs => hur ▸ hans c i hs⟩
    rw [hqueue, hq]
    exact passOver_length_lt ch.val false (List.filter_subset_self _ (pickRequest_mem h))
  case read =>
    have hx := execStackRequestServe_eq h hp found
    rw [hw, if_neg Bool.false_ne_true, if_neg Bool.false_ne_true] at hx
    obtain ⟨ho, he', -⟩ := serving_spec p ch.val w forced 256 s
    generalize serving p ch.val w forced 256 s = u at hx ho he'
    obtain ⟨hd, e', hm, hid, hs, hdata⟩ := serveRead_spec found (he' ▸ he) hi
    exact ⟨_, e', hx, hd.trans (by rw [ho]), hm, hid, hs, hdata.trans (by rw [ho]; rfl)⟩
end

section
/-! PROOF. The stream engine (chapter 09): requests, the landing of their answers, the reading of released halves, closes, real-time misses
and the stash time-out. -/

namespace Sys2Proof.Machine
open Claims

section Engine
variable {s t u : State} {c : CoreIx} {i : Fin 32}

/-! ### What the engine of a core leaves alone -/

/-- Of the machine only core `c`, increments on their way, the recorder and the model's free counter differ. -/
structure StreamWork (c : CoreIx) (s t : State) : Prop where
  only : t = { s with cores := t.cores, recorder := t.recorder, incs := t.incs, freeCtr := t.freeCtr } := by rfl
  others : ∀ d : CoreIx, d ≠ c → t.cores[d] = s.cores[d] := by exact fun _ _ => rfl

theorem StreamWork.refl (s : State) : StreamWork c s s := {}

theorem StreamWork.trans (a : StreamWork c s t) (b : StreamWork c t u) : StreamWork c s u where
  only := Eq.trans b.only (by rw [a.only])
  others d h := (b.others d h).trans (a.others d h)

theorem StreamWork.frame (h : StreamWork c s t) : CoreFrame s t c := ⟨h.others, by rw [h.only], by rw [h.only]⟩

theorem StreamWork.time (h : StreamWork c s t) : t.time = s.time := by rw [h.only]

theorem StreamWork.resps (h : StreamWork c s t) : t.resps = s.resps := by rw [h.only]

theorem modCore_work (s : State) (c : CoreIx) (f : Core → Core) : StreamWork c s (modCore s c f) where
  others _ h := modCore_other s c f h

theorem record_work (s : State) (code : Nat) (sev : BitVec 2) (unit a0 a1 a2 : Nat) : StreamWork c s (record s code sev unit a0 a1 a2) := {}

theorem SpRead.work (h : SpRead c s t) : StreamWork c s t where
  only := Eq.trans h.only (by rw [h.only])
  others := h.others

/-- A core whose slots are those of `s` with slot `i` updated by `f`. -/
theorem streamOf_of_streams {f : Stream → Stream} (h : t.cores[c].streams = (s.cores[c].modStream i f).streams) (j : Fin 32) :
    streamOf t c j = if j = i then f (streamOf s c i) else streamOf s c j := by
  have hs : streamOf (modCore s c fun x => x.modStream i f) c j = streamOf t c j := by
    unfold streamOf
    rw [modCore_core, h]
  exact hs.symm.trans (streamOf_modStream s f j)

/-- An update of a core whose slots are those of before with slot `i` updated by `g`. -/
theorem streamOf_modCore {f : Core → Core} {g : Stream → Stream} (hf : ∀ x, (f x).streams = (x.modStream i g).streams) (j : Fin 32) :
    streamOf (modCore s c f) c j = if j = i then g (streamOf s c i) else streamOf s c j :=
  streamOf_of_streams (by rw [modCore_core]; exact hf _) j

/-! ### Bytes that land (R191, R193) -/

/-- A slot's account of its fills and releases: nothing else of it differs. -/
def Stream.Accounted (x y : Stream) : Prop :=
  y = { x with landed := y.landed, fills := y.fills, lateCount := y.lateCount, rel := y.rel, lastRel := y.lastRel, pendA := y.pendA
               pendB := y.pendB }

theorem Stream.Accounted.trans {x y z : Stream} (a : x.Accounted y) (b : y.Accounted z) : x.Accounted z := Eq.trans b (by rw [a])

theorem Stream.Accounted.ite {x y z : Stream} {p : Prop} [Decidable p] (a : x.Accounted y) (b : x.Accounted z) :
    x.Accounted (if p then y else z) := by
  split <;> assumption

/-- What the landing of bytes of slot `i` changes: the slot's account of its fills and releases, the fills about to be signalled, and
increments. -/
structure Landed (c : CoreIx) (i : Fin 32) (s t : State) : Prop where
  only : t = { s with cores := t.cores, incs := t.incs } := by rfl
  others : ∀ d : CoreIx, d ≠ c → t.cores[d] = s.cores[d] := by exact fun _ _ => rfl
  core : t.cores[c] = { s.cores[c] with streams := t.cores[c].streams, fillsDue := t.cores[c].fillsDue } := by rfl
  stream : (streamOf s c i).Accounted (streamOf t c i) := by exact rfl

theorem Landed.refl (s : State) : Landed c i s s := {}

theorem Landed.trans (a : Landed c i s t) (b : Landed c i t u) : Landed c i s u where
  only := Eq.trans b.only (by rw [a.only])
  others d h := (b.others d h).trans (a.others d h)
  core := Eq.trans b.core (by rw [a.core])
  stream := a.stream.trans b.stream

theorem Landed.foldl {α : Type} {f : State → α → State} (h : ∀ s a, Landed c i s (f s a)) (l : List α) (s : State) :
    Landed c i s (l.foldl f s) :=
  List.foldlRecOn l f (Landed.refl s) fun u hu a _ => hu.trans (h u a)

theorem Landed.work (h : Landed c i s t) : StreamWork c s t where
  only := Eq.trans h.only (by rw [h.only])
  others := h.others

theorem Landed.sp (h : Landed c i s t) : t.cores[c].sp = s.cores[c].sp := by rw [h.core]

theorem Landed.ctx (h : Landed c i s t) (d : CoreIx) (k : CtxIx) : ctx t d k = ctx s d k := by
  unfold Claims.ctx
  by_cases hd : d = c
  · subst hd; rw [h.core]
  · rw [h.others d hd]

theorem modStream_landed (s : State) {f : Stream → Stream} (hf : ∀ x : Stream, x.Accounted (f x)) :
    Landed c i s (modCore s c fun y => y.modStream i f) where
  others _ h := modCore_other s c _ h
  core := by rw [modCore_core]; rfl
  stream := by
    rw [streamOf_modStream, if_pos rfl]
    exact hf _

theorem pushInc_landed (s : State) (x : CtrInc) : Landed c i s (pushInc s x) := {}

theorem fillComplete_landed (k : Nat) (s : State) : Landed c i s (fillComplete c i k s) := by
  refine .trans (modStream_landed s fun x => ?_) (pushInc_landed _ _)
  exact .ite rfl rfl

theorem fillDue_landed (s : State) (k : Nat) : Landed c i s (modCore s c fun y => { y with fillsDue := y.fillsDue ++ [(i, k)] }) where
  others _ h := modCore_other s c _ h
  core := by rw [modCore_core]
  stream := by
    unfold streamOf
    rw [modCore_core]
    exact rfl

theorem landBytes_landed (k n : Nat) (now : Bool) (s : State) : Landed c i s (landBytes c i k n now s) := by
  have h : Landed c i s (modCore s c fun y => y.modStream i fun t =>
    { t with landed := tset 0 t.landed k (tget 0 (streamOf s c i).landed k + n) }) := modStream_landed s fun _ => rfl
  unfold landBytes
  dsimp only
  split
  · exact h
  · split
    · exact h.trans (fillComplete_landed k _)
    · exact h.trans (fillDue_landed _ k)

/-! ### Requests (R197 to R199) -/

/-- The request that slot `i` issues for candidate `q`. -/
def requestOf (s : State) (c : CoreIx) (i : Fin 32) (q : Cand) : MemReq :=
  { id := s.nextId, agent := .stream c i, write := q.write, addr := q.addr, len := q.len
    gran := if q.write then q.fill else q.gran
    data := match (streamOf s c i).outbox.head? with
      | some o => if q.write then o.bytes else []
      | none => []
    poison := match (streamOf s c i).outbox.head? with
      | some o => if q.write then o.poison else []
      | none => []
    rt := (streamOf s c i).d.rt, deadline := fillDeadline s (streamOf s c i) q.fill, snooped := false, due := 0 }

/-- A slot whose candidate `q` has issued with deadline `dl`; `o` is the front of its outbox. -/
def Stream.issued (q : Cand) (dl : W32) (o : Option OutReq) (x : Stream) : Stream :=
  let t := { x with dls := if tget 0 x.dls q.fill = 0 then tset 0 x.dls q.fill (dl.toNat + 1) else x.dls }
  if q.write then
    { t with outbox := t.outbox.drop 1, outW := t.outW + 1,
             rows := t.rows + (match o with
               | some o => b2n o.rowEnd
               | none => 0) }
  else if t.off + q.len = 64 * t.d.rowG then { t with row := t.row + 1, off := 0, rows := t.rows + 1, outR := t.outR + 1 }
  else { t with off := t.off + q.len, outR := t.outR + 1 }

/-- The machine once slot `i` has issued, before its request sets out. -/
def requestIssued (s : State) (c : CoreIx) (i : Fin 32) (q : Cand) : State :=
  modCore { s with nextId := s.nextId + 1 } c fun y =>
    { y.modStream i (Stream.issued q (fillDeadline s (streamOf s c i) q.fill) (streamOf s c i).outbox.head?) with
      lastReq := s.time.cycle + 1 }

theorem execStreamRequestIssue_eq {q : Cand} (hq : candOf s c i = some q) (hl : s.cores[c].lastReq ≠ s.time.cycle + 1)
    (hn : issueNow s c = some i) :
    execStreamRequestIssue c i s = .next (sendReq (requestOf s c i q) (requestIssued s c i q)) := by
  unfold execStreamRequestIssue
  rw [hq]
  dsimp only
  rw [hn, if_neg (by simpa using hl)]
  rfl

theorem Stream.issued_read {q : Cand} (hw : q.write = false) (dl : W32) (o : Option OutReq) (x : Stream) :
    (Stream.issued q dl o x).outR = x.outR + 1 := by
  unfold Stream.issued
  dsimp only
  rw [hw, if_neg Bool.false_ne_true]
  split <;> rfl

theorem Stream.issued_write {q : Cand} (hw : q.write = true) (dl : W32) (o : Option OutReq) (x : Stream) :
    (Stream.issued q dl o x).outW = x.outW + 1 ∧ (Stream.issued q dl o x).outbox = x.outbox.tail := by
  unfold Stream.issued
  dsimp only
  rw [hw, if_pos rfl]
  exact ⟨rfl, List.drop_one⟩

theorem requestIssued_stream (q : Cand) (j : Fin 32) : streamOf (requestIssued s c i q) c j =
    if j = i then Stream.issued q (fillDeadline s (streamOf s c i) q.fill) (streamOf s c i).outbox.head? (streamOf s c i)
    else streamOf s c j :=
  streamOf_of_streams (s := s) (by rw [requestIssued, modCore_core]) j

/-! ### Answers (R171, R191, R203) -/

/-- A failed request is counted and recorded where `p` says so. -/
def errorNoted (p : Bool) (c : CoreIx) (i : Fin 32) (addr k : Nat) (s : State) : State := if p then streamError c i addr k s else s

theorem errorNoted_work (p : Bool) (addr k : Nat) : StreamWork c s (errorNoted p c i addr k s) := by
  unfold errorNoted
  split
  · exact (modCore_work s c _).trans (record_work ..)
  · exact .refl s

theorem Core.modStream_self (x : Core) : x.modStream i (fun t => t) = x := by simp [Core.modStream]

theorem errorNoted_core (p : Bool) (addr k : Nat) : (errorNoted p c i addr k s).cores[c] =
    s.cores[c].modStream i fun t => { t with errCount := if p then satInc t.errCount else t.errCount } := by
  cases p with
  | true => rw [errorNoted, if_pos rfl, streamError, record_cores, modCore_core]; rfl
  | false => exact (Core.modStream_self _).symm

/-- A granule of a response as it is staged in cycle `now`: zeros where the request failed. -/
def granuleWrite (r : MemResp) (now : Nat) (q : Nat × Nat) : SpWrite :=
  { addr := q.2, bytes := if r.failed then List.replicate 64 0 else (r.data.drop (64 * q.1)).take 64
    poison := r.failed || r.poison.getD q.1 false, agent := 8, issued := now, part := 0 }

/-- Granule `q` of a response goes to its bank. -/
def landGranule (c : CoreIx) (r : MemResp) (s : State) (q : Nat × Nat) : State :=
  bgWrite c q.2 (granuleWrite r s.time.cycle q).bytes (granuleWrite r s.time.cycle q).poison s

/-- Background writes `ws` of core `c` are staged; only the bank uses differ besides. -/
structure WritesStaged (c : CoreIx) (ws : List SpWrite) (s t : State) : Prop where
  only : OnlyCores s t := by exact rfl
  others : ∀ d : CoreIx, d ≠ c → t.cores[d] = s.cores[d] := by exact fun _ _ => rfl
  core : t.cores[c] = { s.cores[c] with sp := { s.cores[c].sp with
    uses := t.cores[c].sp.uses, staged := s.cores[c].sp.staged ++ ws } }

theorem WritesStaged.trans {vs ws : List SpWrite} (a : WritesStaged c vs s t) (b : WritesStaged c ws t u) :
    WritesStaged c (vs ++ ws) s u where
  only := a.only.trans b.only
  others d h := (b.others d h).trans (a.others d h)
  core := Eq.trans b.core (by rw [a.core, List.append_assoc])

theorem landGranule_staged (r : MemResp) (s : State) (q : Nat × Nat) :
    WritesStaged c [granuleWrite r s.time.cycle q] s (landGranule c r s q) where
  only := bgWrite_onlyCores ..
  others _ h := bgWrite_other _ _ _ _ h
  core := by
    rw [landGranule, bgWrite, takeBanks, modCore_modCore, modCore_core]
    rfl

theorem foldl_landGranule (r : MemResp) (l : List (Nat × Nat)) (s : State) :
    WritesStaged c (l.map (granuleWrite r s.time.cycle)) s (l.foldl (landGranule c r) s) := by
  induction l generalizing s with
  | nil => exact { core := by rw [List.map_nil, List.append_nil]; rfl }
  | cons q l ih =>
    have h := landGranule_staged (c := c) r s q
    have ht : (landGranule c r s q).time = s.time := by rw [h.only]
    have hl := ih (landGranule c r s q)
    rw [ht] at hl
    exact h.trans hl

theorem WritesStaged.work {ws : List SpWrite} (h : WritesStaged c ws s t) : StreamWork c s t where
  only := Eq.trans h.only (by rw [h.only])
  others := h.others

/-- A response of which the granules of `rest` are still to land is answered or shortened. -/
def answered (r : MemResp) (rest : List Nat) (s : State) : State :=
  { s with resps := if rest.isEmpty then s.resps.erase r else s.resps.map fun q => if q = r then { q with left := rest } else q }

/-- A core once `n` bytes of a response for slot `i` have arrived in the cycle before `now`; the request is over with its last granule. -/
def Core.granted (i : Fin 32) (last : Bool) (now n : Nat) (y : Core) : Core :=
  { y.modStream i (fun t => { t with outR := if last then t.outR - 1 else t.outR }) with
    landAt := (now, n + if y.landAt.1 = now then y.landAt.2 else 0) }

/-- The machine with a response answered or shortened, and its failure noted with its first granules (R203). -/
def responseNoted (s : State) (c : CoreIx) (i : Fin 32) (r : MemResp) : State :=
  errorNoted (r.failed && !r.part) c i r.req.addr (r.req.gran / (streamOf s c i).d.halfG) (answered r (waits s c r) s)

/-- The same with the granules staged that can land. -/
def responseStaged (s : State) (c : CoreIx) (i : Fin 32) (r : MemResp) : State :=
  (landable s c r).foldl (landGranule c r) (responseNoted s c i r)

/-- The machine once the granules of `r` that can land have arrived, before the slot's account of them. -/
def responseTaken (s : State) (c : CoreIx) (i : Fin 32) (r : MemResp) : State :=
  modCore (responseStaged s c i r) c
    (Core.granted i (waits s c r).isEmpty ((responseStaged s c i r).time.cycle + 1) (64 * (landable s c r).length))

theorem execStreamReadResponse_eq {r : MemResp} (hr : landNow s c = some r) (ha : r.req.agent = .stream c i) :
    execStreamReadResponse c i s = .next (landBytes c i (r.req.gran / (streamOf s c i).d.halfG) (64 * (landable s c r).length) false
      (responseTaken s c i r)) := by
  unfold execStreamReadResponse
  rw [hr]
  dsimp only
  rw [ha, if_neg (by simp)]
  rfl

/-- What a response that lands changes, besides the slot's account of its fills. -/
theorem responseTaken_spec (s : State) (c : CoreIx) (i : Fin 32) (r : MemResp) : let t := responseTaken s c i r
    StreamWork c (answered r (waits s c r) s) t ∧
      streamOf t c i = { streamOf s c i with
        errCount := if (r.failed && !r.part) = true then satInc (streamOf s c i).errCount else (streamOf s c i).errCount
        outR := if (waits s c r).isEmpty = true then (streamOf s c i).outR - 1 else (streamOf s c i).outR } ∧
      t.cores[c].sp.staged = s.cores[c].sp.staged ++ (landable s c r).map (granuleWrite r s.time.cycle) := by
  have hv : StreamWork c (answered r (waits s c r) s) (responseNoted s c i r) := errorNoted_work ..
  have hcore : (responseNoted s c i r).cores[c] = _ := errorNoted_core ..
  have hw : WritesStaged c _ (responseNoted s c i r) (responseStaged s c i r) := foldl_landGranule r (landable s c r) _
  rw [hv.time] at hw
  unfold responseTaken
  generalize responseStaged s c i r = u at hw ⊢
  generalize responseNoted s c i r = v at hv hcore hw
  have hsv : streamOf v c i = { streamOf s c i with
      errCount := if (r.failed && !r.part) = true then satInc (streamOf s c i).errCount else (streamOf s c i).errCount } :=
    (streamOf_of_streams (congrArg Core.streams hcore) i).trans (if_pos rfl)
  have huv : streamOf u c i = streamOf v c i := by unfold streamOf; rw [hw.core]
  refine ⟨hv.trans (hw.work.trans (modCore_work ..)), ?stream, ?staged⟩
  case stream =>
    have hg := streamOf_modCore (s := u) (c := c) (i := i)
      (g := fun t => { t with outR := if (waits s c r).isEmpty then t.outR - 1 else t.outR })
      (f := Core.granted i (waits s c r).isEmpty (u.time.cycle + 1) (64 * (landable s c r).length)) (fun _ => rfl) i
    rw [hg, if_pos rfl, huv, hsv]
  case staged =>
    rw [modCore_core]
    change u.cores[c].sp.staged = _
    rw [hw.core, hcore]
    rfl

/-- The machine once acknowledgment `r` has been taken, before the slot's account of its bytes. -/
def ackTaken (s : State) (c : CoreIx) (i : Fin 32) (r : MemResp) : State :=
  modCore (errorNoted r.failed c i r.req.addr r.req.gran { s with resps := s.resps.erase r }) c fun y =>
    y.modStream i fun t => { t with outW := t.outW - 1 }

theorem execStreamWriteAck_eq {r : MemResp} (h : ackDue s c i = some r) :
    execStreamWriteAck c i s = .next (landBytes c i r.req.gran r.req.len true (ackTaken s c i r)) := by
  rw [execStreamWriteAck, h]
  rfl

theorem ackTaken_spec (s : State) (c : CoreIx) (i : Fin 32) (r : MemResp) :
    StreamWork c { s with resps := s.resps.erase r } (ackTaken s c i r) ∧
      (streamOf (ackTaken s c i r) c i).outW = (streamOf s c i).outW - 1 := by
  have hcore := errorNoted_core (s := { s with resps := s.resps.erase r }) (c := c) (i := i) r.failed r.req.addr r.req.gran
  have hs := (streamOf_of_streams (congrArg Core.streams hcore) i).trans (if_pos rfl)
  refine ⟨(errorNoted_work ..).trans (modCore_work ..), ?_⟩
  rw [ackTaken, streamOf_modStream, if_pos rfl, hs]
  rfl

/-! ### Reads of released halves (R170, R191) -/

theorem backgroundFinds_read (s : State) (c : CoreIx) (a n : Nat) (found : Finds) : SpRead c s (backgroundFinds c a n found s) :=
  List.foldlRecOn found _ {} fun u hu q _ => by
    split
    · exact hu.trans (backgroundEcc_read u c q.1 q.2)
    · exact hu

theorem SpRead.stream (h : SpRead c s t) (j : Fin 32) : streamOf t c j = streamOf s c j := by
  unfold streamOf
  rw [h.core]

/-- The machine once the `n` bytes at `a` have been read for slot `i` on path `p`, before the slot's account of the read. -/
def halfTaken (c : CoreIx) (i : Fin 32) (p : Fin 3) (a n : Nat) (found : Finds) (s : State) : State :=
  let u := backgroundFinds c a n found (takeBanks s c a n)
  modCore u c fun y => { y with lastRead := y.lastRead.set p (u.time.cycle + 1, i) }

/-- What such a read leaves: bytes, slots and side channels are as they were. -/
structure HalfTaken (c : CoreIx) (s t : State) : Prop where
  work : StreamWork c s t
  stream : ∀ j, streamOf t c j = streamOf s c j
  mem : t.cores[c].sp.mem = s.cores[c].sp.mem
  port : ∀ d, t.cores[c].port d = s.cores[c].port d

theorem halfTaken_spec (c : CoreIx) (i : Fin 32) (p : Fin 3) (a n : Nat) (found : Finds) (s : State) :
    HalfTaken c s (halfTaken c i p a n found s) := by
  have h : SpRead c s (backgroundFinds c a n found (takeBanks s c a n)) :=
    (takeBanks_clean s c a n).toSpRead.trans (backgroundFinds_read ..)
  unfold halfTaken
  dsimp only
  generalize backgroundFinds c a n found (takeBanks s c a n) = u at h ⊢
  refine ⟨h.work.trans (modCore_work ..), fun j => ?_, ?_, fun d => ?_⟩
  · rw [← h.stream]
    unfold streamOf
    rw [modCore_core]
  · rw [modCore_core]
    exact h.mem
  · rw [modCore_core]
    cases d
    all_goals
      unfold Core.port
      rw [h.core]

/-- The piece that a WRITE slot `x` has read at `a` in the core's scratchpad `y`: granule `g`, for device address `o`. -/
def pieceRead (y : Scratchpad) (x : Stream) (g o a n now : Nat) : OutReq :=
  { fill := g / x.d.halfG, addr := o, bytes := readBytes y.mem a n, poison := (granules a n).map fun g => tget false y.poison g
    rowEnd := (g % x.d.rowG) * 64 + n == 64 * x.d.rowG, ready := now + 6 }

/-- The granule that a WINDOW slot `x` has read at `a` in core `y`. -/
def granuleRead (y : Core) (i : Fin 32) (x : Stream) (a now : Nat) : PortGran :=
  { slot := i, ctx := x.ctx, pc := x.pc, win := winNumber x.d, epoch := x.d.wepoch
    offset := x.d.rowAddr (x.readG / x.d.rowG), row := x.readG / x.d.rowG * x.d.rowG
    ix := x.readG % x.d.rowG, count := x.d.rowG, data := BitVec.ofNat 512 (leNat (readBytes y.sp.mem a 64))
    poison := spPoisoned y a 64, ready := now + 6 }

/-- A WRITE slot with piece `o` of `n` bytes read into its outbox. -/
def Stream.withPiece (n : Nat) (o : OutReq) (t : Stream) : Stream := { t with readG := t.readG + n / 64, outbox := t.outbox ++ [o] }

/-- A read of a WRITE slot: its next piece goes to the outbox. -/
theorem execStreamHalfRead_write {a n g o m : Nat} (found : Finds) (hn : halfNow s c (readPath c (streamOf s c i).d) = some (i, a, n))
    (hf : bgFree s c 4 a n = true) (hk : (streamOf s c i).d.kind = 2) (hp : (streamOf s c i).nextPiece = some (g, o, m)) :
    ∃ y, y.mem = s.cores[c].sp.mem ∧ execStreamHalfRead c i found s = .next
      (modCore (halfTaken c i (readPath c (streamOf s c i).d) a n found s) c fun x =>
        x.modStream i (Stream.withPiece n (pieceRead y (streamOf s c i) g o a n s.time.cycle))) := by
  have hr : SpRead c s (backgroundFinds c a n found (takeBanks s c a n)) :=
    (takeBanks_clean s c a n).toSpRead.trans (backgroundFinds_read ..)
  refine ⟨_, hr.mem, ?_⟩
  have hs := hr.stream i
  unfold streamOf at hn hk hp hs ⊢
  unfold execStreamHalfRead
  dsimp only
  rw [hn]
  dsimp only
  rw [hf, if_neg (by simp)]
  rw [hs, hp, if_pos hk, ← hr.time]
  rfl

theorem port_setPort (x : Core) (d : Side) (q : List PortGran) : (x.setPort d q).port d = q := by cases d <;> rfl

theorem setPort_sp (x : Core) (d : Side) (q : List PortGran) : (x.setPort d q).sp = x.sp := by cases d <;> rfl

theorem port_modStream (x : Core) (d : Side) (f : Stream → Stream) : (x.modStream i f).port d = x.port d := by cases d <;> rfl

/-- A core with granule `g` read for the side channel `d` by slot `i`. -/
def Core.granuleQueued (i : Fin 32) (d : Side) (g : PortGran) (y : Core) : Core :=
  (y.setPort d (y.port d ++ [g])).modStream i fun t => { t with readG := t.readG + 1 }

theorem Core.granuleQueued_streams (d : Side) (g : PortGran) (y : Core) :
    (y.granuleQueued i d g).streams = (y.modStream i fun t => { t with readG := t.readG + 1 }).streams := by
  cases d <;> rfl

/-- A read of a WINDOW slot: its next granule goes to its side channel. -/
theorem execStreamHalfRead_window {a n : Nat} (found : Finds) (hn : halfNow s c (readPath c (streamOf s c i).d) = some (i, a, n))
    (hf : bgFree s c 4 a n = true) (hk : (streamOf s c i).d.kind = 3) :
    ∃ y : Core, y.sp.mem = s.cores[c].sp.mem ∧ execStreamHalfRead c i found s = .next
      (modCore (halfTaken c i (readPath c (streamOf s c i).d) a n found s) c
        (Core.granuleQueued i (winTarget c (streamOf s c i).d).2 (granuleRead y i (streamOf s c i) a s.time.cycle))) := by
  have hr : SpRead c s (backgroundFinds c a n found (takeBanks s c a n)) :=
    (takeBanks_clean s c a n).toSpRead.trans (backgroundFinds_read ..)
  refine ⟨_, hr.mem, ?_⟩
  have hs := hr.stream i
  have hk2 : (streamOf s c i).d.kind ≠ 2 := by rw [hk]; decide
  unfold streamOf at hn hk2 hs ⊢
  unfold execStreamHalfRead
  dsimp only
  rw [hn]
  dsimp only
  rw [hf, if_neg (by simp)]
  rw [hs, if_neg hk2, ← hr.time]
  rfl

/-! ### Closes, misses and held writes (R194, R200, R234) -/

/-- A slot that has closed: UNCONFIGURED, without its descriptor. -/
def Stream.freed (t : Stream) : Stream :=
  { t with st := .unconfigured, d := SDesc.reset, closeAt := none, cur := false, pendA := false, pendB := false }

/-- The machine with slot `i` UNCONFIGURED, before END_CTR's signal. -/
def slotClosed (c : CoreIx) (i : Fin 32) (s : State) : State := modCore s c fun y => y.modStream i Stream.freed

theorem execStreamCloseDone_eq (h : closeDue s c i = true) : execStreamCloseDone c i s = .next
    (signalOwn (slotClosed c i s) c (streamOf s c i).d.endCtr 1 0 5 (streamOf s c i).ctx (streamOf s c i).pc) := by
  unfold execStreamCloseDone
  dsimp only
  rw [if_pos h]
  rfl

theorem missDue_of (ha : slotsAct s c = true) (hs : (streamOf s c i).st ≠ .unconfigured) (hr : (streamOf s c i).d.rt = true)
    (hj : (streamOf s c i).judged < (streamOf s c i).d.fills)
    (hd : 0 ≤ (BitVec.ofNat 32 (ftNow s) - fillDeadline s (streamOf s c i) (streamOf s c i).judged).toInt) : missDue s c i = true := by
  unfold streamOf at hs hr hj hd
  unfold missDue
  dsimp only
  rw [ha, bne_iff_ne.mpr hs, hr, decide_eq_true hj, decide_eq_true hd]
  rfl

/-- The machine with the next real-time fill of slot `i` judged. -/
def fillJudged (c : CoreIx) (i : Fin 32) (s : State) : State :=
  modCore s c fun y => y.modStream i fun t => { t with judged := (streamOf s c i).judged + 1 }

/-- The machine with fill `k` of slot `i` counted as missed, with its event. -/
def fillMissed (c : CoreIx) (i : Fin 32) (k : Nat) (s : State) : State :=
  record (modCore s c fun y => y.modStream i fun t => { t with missCount := satInc t.missCount, missed := true })
    0x1210 error c.val 0 i.val k

theorem execRtDeadlineMiss_eq (h : missDue s c i = true) : execRtDeadlineMiss c i s = .next
    (if s.cores[c].fillDone i (streamOf s c i).judged = true then fillJudged c i s
     else fillMissed c i (streamOf s c i).judged (fillJudged c i s)) := by
  rw [execRtDeadlineMiss, h]
  by_cases hf : s.cores[c].fillDone i (streamOf s c i).judged = true
  · rw [if_pos hf]
    exact if_pos hf
  · rw [if_neg hf]
    exact if_neg hf

theorem fillJudged_spec (s : State) (c : CoreIx) (i : Fin 32) : StreamWork c s (fillJudged c i s) ∧
    streamOf (fillJudged c i s) c i = { streamOf s c i with judged := (streamOf s c i).judged + 1 } :=
  ⟨modCore_work .., (streamOf_modStream s _ i).trans (if_pos rfl)⟩

theorem fillMissed_spec (k : Nat) (s : State) (c : CoreIx) (i : Fin 32) : StreamWork c s (fillMissed c i k s) ∧
    streamOf (fillMissed c i k s) c i = { streamOf s c i with missCount := satInc (streamOf s c i).missCount, missed := true } :=
  ⟨(modCore_work ..).trans (record_work ..), (streamOf_modStream s _ i).trans (if_pos rfl)⟩

theorem atLeast1_toNat {n : Nat} (x : BitVec n) : atLeast1 x.toNat = if x = 0 then 1 else x.toNat := by
  unfold atLeast1
  by_cases h : x = 0
  · rw [if_pos h, h]
    exact if_pos BitVec.toNat_zero
  · rw [if_neg h, if_neg fun e => h (BitVec.eq_of_toNat_eq (e.trans BitVec.toNat_zero.symm))]

/-- Every task's stash is as it was. -/
def StashKept (s t : State) : Prop := ∀ j : SlotIx, t.tasks[j].stash = s.tasks[j].stash

theorem StashKept.trans (a : StashKept s t) (b : StashKept t u) : StashKept s u := fun j => (b j).trans (a j)

theorem StashKept.ite {p : Prop} [Decidable p] (a : StashKept s t) (b : StashKept s u) : StashKept s (if p then t else u) := by
  split <;> assumption

theorem modTask_stashKept (q : SlotIx) {f : Task → Task} (hf : ∀ T, (f T).stash = T.stash := by exact fun _ => rfl) :
    StashKept s (modTask s q f) := fun j => by
  by_cases h : j = q
  · subst h; rw [modTask_same, hf]
  · rw [modTask_other s f h]

theorem haltTask_stashKept (q : SlotIx) (r : Byte) (s : State) : StashKept s (haltTask q r s) := by
  obtain ⟨h, a, e⟩ := haltTask_tasks q r s
  unfold StashKept
  rw [e]
  exact modTask_stashKept q

theorem faultCtx_stashKept (k : CtxIx) (cause : Byte) (inf : W16) (pc : BitVec 13) (s : State) :
    StashKept s (faultCtx c k cause inf pc s) := by
  have same {u : State} (h : u.tasks = s.tasks) : StashKept s u := fun j => by rw [h]
  unfold faultCtx
  dsimp only
  refine .ite (.ite ?notified (same rfl)) (.ite (.ite ?lower (same rfl)) (.ite (same rfl) ?halted))
  case lower =>
    split
    · exact .ite (modTask_stashKept _) (same rfl)
    · exact same rfl
  all_goals
    split
    · exact .trans (same rfl) (haltTask_stashKept _ _ _)
    · exact same rfl

/-- A task without the held writes of agent `a` in its stash. -/
def Task.dropHeld (a : Agent) (T : Task) : Task :=
  { T with stash := { T.stash with held := T.stash.held.filter fun q => q.req.agent != a } }

/-- The machine with the held writes of the agent of `h` out of the stash of task `t`, and their bytes acknowledged. -/
def writesDropped (t : SlotIx) (h : HeldWrite) (c : CoreIx) (i : Fin 32) (s : State) : State :=
  let drop := s.tasks[t].stash.held.filter fun q => q.req.agent == h.req.agent
  drop.foldl (fun s q => landBytes c i q.req.gran q.req.len true s)
    (modCore (modTask s t (Task.dropHeld h.req.agent)) c fun y => y.modStream i fun q => { q with outW := q.outW - drop.length })

theorem execStashTimeout_eq {t : SlotIx} {h : HeldWrite} (hh : heldStream s.tasks[t] = some (h, c, i)) (hd : stashDue s t = true) :
    execStashTimeout t s = .next (faultCtx c (streamOf s c i).ctx 0x0E (BitVec.ofNat 16 h.sid) (streamOf s c i).pc
      (writesDropped t h c i s)) := by
  rw [execStashTimeout, hh]
  dsimp only
  rw [hd]
  rfl

theorem stashDue_of {t : SlotIx} {h : HeldWrite} (hh : heldStream s.tasks[t] = some (h, c, i)) (hr : s.tasks[t].st = .running)
    (hd : max h.since s.tasks[t].stash.freedAt + (if s.stashTimeout = 0 then 1 else s.stashTimeout.toNat) * 1000 ≤ nsNow s) :
    stashDue s t = true := by
  rw [← atLeast1_toNat] at hd
  rw [stashDue, hh, hr]
  exact decide_eq_true hd

theorem writesDropped_spec (t : SlotIx) (h : HeldWrite) (c : CoreIx) (i : Fin 32) (s : State) : let u := writesDropped t h c i s
    u.tasks[t].stash.held = (s.tasks[t].stash.held.filter fun q => q.req.agent != h.req.agent) ∧ u.dram = s.dram ∧
      ∀ d k, ctx u d k = ctx s d k := by
  have hl : Landed c i (modCore (modTask s t (Task.dropHeld h.req.agent)) c fun y => y.modStream i fun q =>
      { q with outW := q.outW - (s.tasks[t].stash.held.filter fun q => q.req.agent == h.req.agent).length })
      (writesDropped t h c i s) := .foldl (fun s (q : HeldWrite) => landBytes_landed q.req.gran q.req.len true s) _ _
  have ht : (writesDropped t h c i s).tasks = (modTask s t (Task.dropHeld h.req.agent)).tasks := by rw [hl.only]; rfl
  refine ⟨?held, by rw [hl.only]; rfl, fun d k =>
    (hl.ctx d k).trans (modCore_keepsCtx _ (f := fun y => y.modStream i _) (fun _ => rfl) d k)⟩
  rw [ht, modTask_same]
  rfl

end Engine
end Sys2Proof.Machine

open Sys2Proof Sys2Proof.Machine Sys2Proof.Claims

/-- Settles O17: each event from the state it leaves before the slot's account of its bytes (`Landed`), which changes nothing the
statement names. -/
theorem streamEngine : Obligations.StreamEngine := by
  unfold Obligations.StreamEngine
  refine ⟨fun c i q s hq hl hn => ?request, fun c i r s hr ha => ?response, fun c i r s h => ?ack,
    fun c i g a m sp n found s hn hf hk hp => ?write, fun c i sp n found s hn hf hk => ?window, fun c i s h => ?close,
    fun c i s ha hs hr hj hd => ?miss, fun i h c j s hh hr hd => ?stash⟩
  case request =>
    have hi := requestIssued_stream (s := s) (c := c) (i := i) q i
    rw [if_pos rfl] at hi
    refine ⟨requestOf s c i q, requestIssued s c i q, execStreamRequestIssue_eq hq hl hn, rfl, rfl, rfl, rfl, rfl, rfl,
      modCore_onlyCore .., by rw [requestIssued, modCore_core], fun j hj => (requestIssued_stream q j).trans (if_neg hj),
      fun hw => ?_, fun hw => ?_⟩
    · rw [hi, Stream.issued_read hw]
    · rw [hi]
      exact Stream.issued_write hw ..
  case response =>
    obtain ⟨hw, hs, hg⟩ := responseTaken_spec s c i r
    have hl := landBytes_landed (c := c) (i := i) (r.req.gran / (streamOf s c i).d.halfG) (64 * (landable s c r).length) false
      (responseTaken s c i r)
    refine ⟨_, execStreamReadResponse_eq hr ha, (hw.trans hl.work).frame, ?answered, ?errors, ?staged⟩
    case answered =>
      rw [(hw.trans hl.work).resps, hl.stream, hs]
      cases waits s c r with
      | nil => exact ⟨rfl, rfl⟩
      | cons x xs => exact ⟨rfl, rfl⟩
    case errors =>
      rw [hl.stream, hs]
      simp
    case staged => rw [hl.sp, hg]; rfl
  case ack =>
    obtain ⟨hw, hs⟩ := ackTaken_spec s c i r
    have hl := landBytes_landed (c := c) (i := i) r.req.gran r.req.len true (ackTaken s c i r)
    refine ⟨_, execStreamWriteAck_eq h, (hw.trans hl.work).frame, (hw.trans hl.work).resps, ?_⟩
    rw [hl.stream]
    exact hs
  case write =>
    obtain ⟨y, hy, hx⟩ := execStreamHalfRead_write found hn hf hk hp
    have ht := halfTaken_spec c i (readPath c (streamOf s c i).d) sp n found s
    generalize halfTaken c i (readPath c (streamOf s c i).d) sp n found s = u at hx ht
    have hs := (streamOf_modStream (c := c) (i := i) u (Stream.withPiece n (pieceRead y (streamOf s c i) g a sp n s.time.cycle)) i).trans
      (if_pos rfl)
    rw [ht.stream] at hs
    refine ⟨_, pieceRead y (streamOf s c i) g a sp n s.time.cycle, hx, (ht.work.trans (modCore_work ..)).frame, by rw [hs]; rfl,
      by rw [hs]; rfl, rfl, ?bytes, rfl, ?mem⟩
    case bytes => rw [pieceRead, hy]
    case mem => rw [modCore_core]; exact ht.mem
  case window =>
    obtain ⟨y, hy, hx⟩ := execStreamHalfRead_window found hn hf hk
    have ht := halfTaken_spec c i (readPath c (streamOf s c i).d) sp n found s
    generalize halfTaken c i (readPath c (streamOf s c i).d) sp n found s = u at hx ht
    have hs := (streamOf_modCore (s := u) (c := c) (i := i) (Core.granuleQueued_streams (winTarget c (streamOf s c i).d).2
      (granuleRead y i (streamOf s c i) sp s.time.cycle)) i).trans (if_pos rfl)
    refine ⟨_, granuleRead y i (streamOf s c i) sp s.time.cycle, hx, (ht.work.trans (modCore_work ..)).frame, ?read, ?queued,
      rfl, rfl, rfl, rfl, rfl, ?data, ?mem⟩
    case read => rw [hs, ht.stream]
    case queued => rw [modCore_core, Core.granuleQueued, port_modStream, port_setPort, ht.port]
    case data => rw [granuleRead, hy]
    case mem =>
      rw [modCore_core]
      refine (congrArg Scratchpad.mem ?_).trans ht.mem
      exact setPort_sp ..
  case close =>
    obtain ⟨x, hincs, hcore, hctr, hn, hdue⟩ := signalOwn_incs (slotClosed c i s) c (streamOf s c i).d.endCtr 1 0 5
      (streamOf s c i).ctx (streamOf s c i).pc
    have hs (j : Fin 32) := streamOf_modStream (c := c) (i := i) s Stream.freed j
    exact ⟨_, x, execStreamCloseDone_eq h, (congrArg Stream.st (hs i)).trans (congrArg Stream.st (if_pos rfl)),
      fun j hj => (hs j).trans (if_neg hj), coreFrame_signalOwn (modCore_work ..).frame, hincs, hcore, hctr, hn, hdue⟩
  case miss =>
    obtain ⟨hw, hj1⟩ := fillJudged_spec s c i
    obtain ⟨hw2, hm⟩ := fillMissed_spec (streamOf s c i).judged (fillJudged c i s) c i
    rw [hj1] at hm
    refine ⟨_, execRtDeadlineMiss_eq (missDue_of ha hs hr hj hd), ?_⟩
    by_cases hf : s.cores[c].fillDone i (streamOf s c i).judged = true
    · simp only [if_pos hf]
      exact ⟨hw.frame, by rw [hj1], by rw [hj1], rfl⟩
    · simp only [if_neg hf]
      exact ⟨(hw.trans hw2).frame, by rw [hm], by rw [hm], by rw [hm]⟩
  case stash =>
    obtain ⟨hheld, hdram, hctx⟩ := writesDropped_spec i h c j s
    have hfault := faultCtx_stashKept (c := c) (streamOf s c j).ctx 0x0E (BitVec.ofNat 16 h.sid) (streamOf s c j).pc
      (writesDropped i h c j s) i
    refine ⟨_, execStashTimeout_eq hh (stashDue_of hh hr hd), fun q hq => ?_, ?_, fun hn => ?_⟩
    · rw [hfault, hheld] at hq
      exact bne_iff_ne.mp (List.mem_filter.mp hq).2
    · exact (faultCtx_faults (c := c) (k := (streamOf s c j).ctx)).dram.trans hdram
    · obtain ⟨hl, hi⟩ := faultCtx_latched (s := writesDropped i h c j s) (c := c) (k := (streamOf s c j).ctx) (cause := 0x0E)
        (inf := BitVec.ofNat 16 h.sid) (pc := (streamOf s c j).pc) (by rw [hctx]; exact hn)
      obtain ⟨hfaulted, hcause, -⟩ := hl
      exact ⟨hfaulted, hcause, hi⟩
end

section
-- One proof at a time: elaborated all at once, the proofs of the whole text need more memory than the check gives.
set_option Elab.async false
/-! PROOF. The GSIGs of a counter the task holds (R214, R219). -/

namespace Sys2Proof.Machine
open Claims

section GlobalSignals
variable {s : State} {c : CoreIx} {k : CtxIx} {a b : W64} {op : Nat}

/-- An address word with nothing above the operation names this device (R214). -/
theorem localAddress (h : a.toNat / 4096 = op) (ho : op < 4) : bit a 15 = false ∧ hiW a = 0 ∧ a.toNat / 2 ^ 16 % 2 ^ 16 = 0 := by
  have hlt : a.toNat < 2 ^ 14 := by omega
  have hhi : a.toNat / 2 ^ 32 = 0 := by omega
  refine ⟨?_, by rw [hiW, hhi]; rfl, by omega⟩
  exact Nat.testBit_lt_two_pow (by omega)

/-- The task of a core that holds the counter. -/
theorem taskOn_of_gsigHeld (h : gsigHeld s c a = true) :
    ∃ i T, taskOn s c = some (i, T) ∧ T.gctrFirst ≤ a.toNat % 4096 ∧ a.toNat % 4096 < T.gctrFirst + T.hdr.globals := by
  unfold gsigHeld at h
  unfold taskOn
  cases hs : s.cores[c].slot with
  | none => rw [hs] at h; cases h
  | some i =>
    rw [hs] at h
    exact ⟨i, _, rfl, by simpa using h⟩

/-- What a GSIG sends for a counter of this device that the task holds, by its operation. -/
def gsigHere (c : CoreIx) (k : CtxIx) (a b : W64) (op : Nat) (s : State) : State :=
  let fault := fun r : BitVec 2 => retireFault c k 0x0A (gctrInfo ⟨a.toNat % 4096, by omega⟩ r) s
  let post := fun o : GOp => retire c k (gsent s c k a o none)
  if op = 0 then if b.toNat % 65536 = 0 then retire c k s else post (.add (b.toNat % 65536))
  else if op = 1 then
    if b.toNat % 2 ^ 24 = 0 || b.toNat / 2 ^ 34 != 0 then fault 2
    else if !ctrHeld s c (b.toNat / 2 ^ 24 % 256) then fault 3
    else post (.arm (BitVec.ofNat 24 (b.toNat % 2 ^ 24)) (BitVec.ofNat 8 (b.toNat / 2 ^ 24)) (bit b 32) (bit b 33))
  else if op = 2 then post (.armAt b)
  else if b != 0 then fault 2
  else post .disarm

theorem gsigSend_local (h : gsigLocal s c a op) (ho : op < 4) : gsigSend c k a b s = gsigHere c k a b op s := by
  obtain ⟨hheld, hop⟩ := h
  obtain ⟨i, T, hT, hfirst, hlast⟩ := taskOn_of_gsigHeld hheld
  obtain ⟨hremote, hdest, hres⟩ := localAddress hop ho
  have hop8 : a.toNat / 4096 % 8 = op := by omega
  rw [gsigSend, hT]
  dsimp only
  rw [hremote, hdest, hres, hop8, decide_eq_true hfirst, decide_eq_true hlast, decide_eq_false (by omega : ¬4 ≤ op)]
  rfl

/-- A GSIG of one of the four operations on a local counter issues as `gsigHere`. -/
theorem gsig_answers {ra rb : SReg} {y : State} (h : issueOk s c k (encR 0x1C 0 ra.val rb.val 0) 0 [ra, rb] = true)
    (hl : gsigLocal s c (reads s c k ra) op) (ho : op < 4) (hg : gsigHere c k (reads s c k ra) (reads s c k rb) op s = retire c k y)
    (hy : ctx y c k = ctx s c k) : ∃ t, gsig c k ra rb op s = .next t ∧ Issued y t c k (passed s c k) := by
  have hop : (sreg s c k ra).toNat / 4096 % 8 = op := by
    rw [sreg_eq_reads, hl.2]
    omega
  refine issue_answers (if_pos (by simp [hop])) h ?_
  rw [sreg_eq_reads, sreg_eq_reads, gsigSend_local hl ho, hg]
  have hp := retire_passed y c k
  rwa [passed, hy] at hp

/-- An ARM word that encodes an expected count and a release counter of the task is sent as it is. -/
theorem gsigHere_arm {e : BitVec 24} {r : Byte} (hb : b.toNat % 2 ^ 32 = e.toNat + r.toNat * 2 ^ 24) (hlt : b.toNat < 2 ^ 34)
    (he : e ≠ 0) (hr : counterNamed s c r.toNat = true) :
    gsigHere c k a b 1 s = retire c k (gsent s c k a (.arm e r (b.getLsbD 32) (b.getLsbD 33)) none) := by
  have hel := e.isLt
  have hrl := r.isLt
  have h0 : e.toNat ≠ 0 := fun h => he (BitVec.eq_of_toNat_eq h)
  have hcount : b.toNat % 2 ^ 24 = e.toNat := by omega
  have hrctr : b.toNat / 2 ^ 24 % 256 = r.toNat := by omega
  have htop : b.toNat / 2 ^ 34 = 0 := by omega
  have hre : BitVec.ofNat 8 (b.toNat / 2 ^ 24) = r := BitVec.eq_of_toNat_eq (by rw [BitVec.toNat_ofNat]; exact hrctr)
  simp only [gsigHere, hcount, hrctr, htop, hre, ctrHeld_eq_counterNamed, hr]
  simp [h0, bit]

end GlobalSignals
end Sys2Proof.Machine

open Sys2Proof Sys2Proof.Machine Sys2Proof.Claims

/-- Settles O7: each operation by what `gsigHere` sends for it. -/
theorem globalSignalsSent : Obligations.GlobalSignalsSent := by
  unfold Obligations.GlobalSignalsSent
  refine ⟨fun c k ra rb s h hl => ?add, fun c k ra rb e r s h hl hb hlt he hr => ?arm, fun c k ra rb s h hl => ?armAt,
    fun c k ra rb s h hl hb => ?disarm⟩
  case add =>
    refine gsig_answers h hl (by omega) ?_ (by split <;> rfl)
    rw [gsigHere, if_pos rfl]
    split <;> rfl
  case arm => exact gsig_answers h hl (by omega) (gsigHere_arm hb hlt he hr) rfl
  case armAt => exact gsig_answers h hl (by omega) rfl rfl
  case disarm =>
    refine gsig_answers h hl (by omega) ?_ rfl
    simp [gsigHere, hb]
end

section
-- One proof at a time: elaborated all at once, the proofs of the whole text need more memory than the check gives.
set_option Elab.async false
/-! PROOF. Increments reach core counters, contexts wake, and discarded increments are reported (R206 to R208, R210). -/

namespace Sys2Proof.Machine
open Claims

/-! ### One counter, and the contexts it wakes -/

section Serving
variable (x : Core) (n m : Byte) (k : CtxIx) (now : Nat)

theorem modCounter_same (f : Counter → Counter) : (x.modCounter n f).counter n = f (x.counter n) := by
  simp [Core.modCounter, Core.counter]

theorem modCounter_other (f : Counter → Counter) {m : Byte} (h : m ≠ n) : (x.modCounter n f).counter m = x.counter m := by
  have hv : (ctrIx n).val ≠ (ctrIx m).val := fun e => h (BitVec.eq_of_toNat_eq e.symm)
  simp [Core.modCounter, Core.counter, hv]

theorem counterOf_eq (s : State) (c : CoreIx) : counterOf s c n = s.cores[c].counter n := rfl

/-- The contexts of the list wake 5 cc after `now`. -/
def Core.wakeAll (l : List CtxIx) (now : Nat) (x : Core) : Core :=
  l.foldl (fun x k => x.modCtx k fun y => { y with wakeAt := some (now + 5) }) x

theorem wakeAll_cons (l : List CtxIx) : x.wakeAll (k :: l) now = (x.modCtx k fun y => { y with wakeAt := some (now + 5) }).wakeAll l now :=
  rfl

theorem wakeAll_only (l : List CtxIx) : x.wakeAll l now = { x with ctx := (x.wakeAll l now).ctx } := by
  induction l generalizing x with
  | nil => rfl
  | cons j l ih => exact (ih _).trans rfl

theorem wakeAll_ctx (l : List CtxIx) :
    (x.wakeAll l now).ctx[k] = if k ∈ l then { x.ctx[k] with wakeAt := some (now + 5) } else x.ctx[k] := by
  induction l generalizing x with
  | nil => rfl
  | cons j l ih =>
    rw [wakeAll_cons, ih]
    by_cases h : k = j
    · subst h
      rw [Core.modCtx_same, if_pos List.mem_cons_self, ite_self]
    · rw [Core.modCtx_other _ _ h]
      simp [h]

theorem wakeAll_counter (l : List CtxIx) : (x.wakeAll l now).counter n = x.counter n := by
  rw [wakeAll_only]
  rfl

/-- The queue of counter `n` is served from its head (R208). -/
def Core.serve (n : Byte) (now : Nat) (x : Core) : Core :=
  let r := serveQueue (x.counter n).value.toNat (x.counter n).queue
  (x.modCounter n fun q => { q with value := BitVec.ofNat 16 r.1, queue := r.2.1 }).wakeAll r.2.2 now

theorem wake_foldl (s : State) (c : CoreIx) (l : List CtxIx) :
    l.foldl (fun s k => modCtx s c k fun y => { y with wakeAt := some (s.time.cycle + 5) }) s =
      modCore s c (Core.wakeAll l s.time.cycle) := by
  induction l generalizing s with
  | nil => simp [Core.wakeAll, modCore]
  | cons k l ih =>
    rw [List.foldl_cons, ih, modCtx, modCore_modCore]
    rfl

theorem serveCounter_eq (s : State) (c : CoreIx) : serveCounter c n s = modCore s c (Core.serve n s.time.cycle) := by
  rw [serveCounter]
  rw [wake_foldl, modCore_modCore]
  exact congrArg (fun y => { s with cores := s.cores.set c y }) rfl

theorem serve_counter_same : ((x.serve n now).counter n) =
    let r := serveQueue (x.counter n).value.toNat (x.counter n).queue
    { x.counter n with value := BitVec.ofNat 16 r.1, queue := r.2.1 } := by
  rw [Core.serve, wakeAll_counter, modCounter_same]

theorem serve_counter_other {m : Byte} (h : m ≠ n) : (x.serve n now).counter m = x.counter m := by
  rw [Core.serve, wakeAll_counter, modCounter_other _ _ _ h]

theorem serve_ctx : (x.serve n now).ctx[k] =
    if k ∈ (serveQueue (x.counter n).value.toNat (x.counter n).queue).2.2 then { x.ctx[k] with wakeAt := some (now + 5) }
    else x.ctx[k] := wakeAll_ctx ..

theorem serve_ctrRegs : (x.serve n now).ctrRegs = x.ctrRegs := by
  rw [Core.serve, wakeAll_only]
  rfl

/-- What is left of a value after its queue is served. -/
theorem serveQueue_le (v : Nat) (q : List Waiter) : (serveQueue v q).1 ≤ v := by
  induction q generalizing v with
  | nil => exact Nat.le_refl v
  | cons w q ih =>
    unfold serveQueue
    split
    · exact (ih _).trans (Nat.sub_le ..)
    · exact Nat.le_refl v

theorem serveQueue_toNat {v : Nat} (q : List Waiter) (h : v < 2 ^ 16) :
    (BitVec.ofNat 16 (serveQueue v q).1).toNat = (serveQueue v q).1 := by
  rw [BitVec.toNat_ofNat]
  exact Nat.mod_eq_of_lt (Nat.lt_of_le_of_lt (serveQueue_le v q) h)

end Serving

/-! ### A sum reaches its counter -/

section Applying
variable (s : State) (c : CoreIx) (n : Byte)

/-- The increments of counter `n` that are due. -/
def dueIncs (s : State) (c : CoreIx) (n : Byte) : List CtrInc := s.incs.filter fun i => i.hits c n s.time.cycle

theorem dueIncs_sum : (dueIncs s c n).foldl (fun a i => a + i.n) 0 = dueSum s c n := by
  rw [dueSum, List.sum_eq_foldl, List.foldl_map]
  rfl

/-- Of the machine at most the blocks of cores differ. -/
structure OnlyBlocks (s t : State) : Prop where
  only : OnlyCores s t
  cores : ∀ d : CoreIx, t.cores[d] = { s.cores[d] with blk := t.cores[d].blk }

/-- The TSIGs among the increments are noted in the blocks that sent them. -/
def markTsigs (l : List CtrInc) (now : Nat) (s : State) : State :=
  l.foldl (fun s i => if i.tsig then modCore s i.fcore fun x => x.modBlk fun b => { b with tsigAt := now + 1 } else s) s

theorem markTsigs_onlyBlocks (l : List CtrInc) (now : Nat) : OnlyBlocks s (markTsigs l now s) := by
  refine List.foldlRecOn l _ (motive := OnlyBlocks s) ⟨rfl, fun _ => rfl⟩ fun u ⟨hu, hc⟩ i _ => ?_
  split
  · refine ⟨OnlyCores.trans hu rfl, fun d => ?_⟩
    by_cases h : d = i.fcore
    · subst h; rw [modCore_core, Core.modBlk, hc]
    · rw [modCore_other _ _ _ h, hc]
  · exact ⟨hu, hc⟩

/-- Counter `n` of the core is about to take its sum. -/
def Core.begun (n : Byte) (now : Nat) (x : Core) : Core :=
  { x.modCounter n (fun q => { q with appliedAt := now + 1 }) with serveDue := x.serveDue.filter (· ≠ n) }

/-- The state in which the sum is applied: the increments have left the wires. -/
def takenIncs (c : CoreIx) (n : Byte) (s : State) : State :=
  markTsigs (dueIncs s c n) s.time.cycle (modCore { s with incs := s.incs.filter fun i => !i.hits c n s.time.cycle } c
    (Core.begun n s.time.cycle))

theorem takenIncs_only : takenIncs c n s =
    { s with cores := (takenIncs c n s).cores, incs := s.incs.filter fun i => !i.hits c n s.time.cycle } :=
  (markTsigs_onlyBlocks ..).only

theorem takenIncs_core : (takenIncs c n s).cores[c] = { s.cores[c].begun n s.time.cycle with blk := (takenIncs c n s).cores[c].blk } := by
  have h := (markTsigs_onlyBlocks (modCore { s with incs := s.incs.filter fun i => !i.hits c n s.time.cycle } c
    (Core.begun n s.time.cycle)) (dueIncs s c n) s.time.cycle).cores c
  rwa [modCore_core] at h

theorem takenIncs_time : (takenIncs c n s).time = s.time := by rw [takenIncs_only]

/-- The sum stands in the counter. -/
def summed (c : CoreIx) (n : Byte) (s : State) : State :=
  modCore (takenIncs c n s) c fun x => x.modCounter n fun q =>
    { q with value := BitVec.ofNat 16 (q.value.toNat + dueSum s c n) }

/-- The increments are discarded: counted, and their event recorded. -/
def discarded (c : CoreIx) (n : Byte) (s : State) : State :=
  record (modCore (takenIncs c n s) c fun x =>
    { x with ctrRegs := { x.ctrRegs with ovfDiscards := satAdd x.ctrRegs.ovfDiscards (dueIncs s c n).length } })
    0x1301 error c.val 0 n.toNat ((counterOf s c n).value.toNat + (min (dueSum s c n) 0xFFFF) * 2 ^ 16)

theorem applyCounter_eq (h : counterDue s c n = true) : applyCounter c n s =
    if (counterOf s c n).value.toNat + dueSum s c n ≤ (counterOf s c n).limit.toNat then serveCounter c n (summed c n s)
    else (dueIncs s c n).foldl (fun s i => reportOverflow i s) (serveCounter c n (discarded c n s)) := by
  unfold applyCounter
  rw [h, Bool.not_true, if_neg Bool.false_ne_true]
  unfold summed discarded
  rw [← dueIncs_sum]
  rfl

theorem takenIncs_counter : (takenIncs c n s).cores[c].counter n = { counterOf s c n with appliedAt := s.time.cycle + 1 } := by
  rw [takenIncs_core]
  exact modCounter_same s.cores[c] n fun q => { q with appliedAt := s.time.cycle + 1 }

theorem takenIncs_other {m : Byte} (h : m ≠ n) : (takenIncs c n s).cores[c].counter m = counterOf s c m := by
  rw [takenIncs_core]
  exact modCounter_other s.cores[c] n (fun q => { q with appliedAt := s.time.cycle + 1 }) h

theorem takenIncs_ctx : (takenIncs c n s).cores[c].ctx = s.cores[c].ctx := by
  rw [takenIncs_core]
  rfl

theorem takenIncs_ctrRegs : (takenIncs c n s).cores[c].ctrRegs = s.cores[c].ctrRegs := by
  rw [takenIncs_core]
  rfl

theorem summed_counter : (summed c n s).cores[c].counter n =
    { counterOf s c n with
      appliedAt := s.time.cycle + 1
      value := BitVec.ofNat 16 ((counterOf s c n).value.toNat + dueSum s c n) } := by
  rw [summed, modCore_core, modCounter_same, takenIncs_counter]

theorem summed_other {m : Byte} (h : m ≠ n) : (summed c n s).cores[c].counter m = counterOf s c m := by
  rw [summed, modCore_core, modCounter_other _ _ _ h, takenIncs_other s c n h]

/-- A sum within the limit: the queue is served from the new value (R206, R208). -/
theorem serve_summed (h : (counterOf s c n).value.toNat + dueSum s c n ≤ (counterOf s c n).limit.toNat) :
    let t := serveCounter c n (summed c n s)
    let r := serveQueue ((counterOf s c n).value.toNat + dueSum s c n) (counterOf s c n).queue
    (counterOf t c n).value.toNat = r.1 ∧ (counterOf t c n).queue = r.2.1 ∧
    (∀ k : CtxIx, ctx t c k = if k ∈ r.2.2 then { ctx s c k with wakeAt := some (s.time.cycle + 5) } else ctx s c k) ∧
    ∀ m : Byte, m ≠ n → counterOf t c m = counterOf s c m := by
  have hlt : (counterOf s c n).value.toNat + dueSum s c n < 2 ^ 16 := Nat.lt_of_le_of_lt h (counterOf s c n).limit.isLt
  have hv : ((summed c n s).cores[c].counter n).value.toNat = (counterOf s c n).value.toNat + dueSum s c n := by
    rw [summed_counter]
    exact Nat.mod_eq_of_lt hlt
  have hq : ((summed c n s).cores[c].counter n).queue = (counterOf s c n).queue := by rw [summed_counter]
  have ht : (summed c n s).time = s.time := takenIncs_time s c n
  have hc : (summed c n s).cores[c].ctx = s.cores[c].ctx := by
    rw [summed, modCore_core]
    exact takenIncs_ctx s c n
  dsimp only
  unfold ctx
  rw [serveCounter_eq, counterOf_eq, modCore_core, serve_counter_same, hv, hq]
  refine ⟨serveQueue_toNat _ hlt, rfl, fun k => ?_, fun m hm => ?_⟩
  · rw [serve_ctx, hv, hq, hc, ht]
  · rw [counterOf_eq, modCore_core, serve_counter_other _ _ _ hm, summed_other s c n hm]

end Applying

/-! ### A sum beyond the limit is discarded and reported (R206, R210) -/

section Discarding
variable {s t u : State} {c : CoreIx} {k : CtxIx} {n : Byte}

/-- What the reports of discarded increments leave: the counters' values, the counts of discards, and the events of overflows. -/
structure DiscardsReported (s t : State) : Prop where
  only : t = { s with cores := t.cores, tasks := t.tasks, recorder := t.recorder, reports := t.reports } := by rfl
  value : ∀ (d : CoreIx) (m : Byte), (counterOf t d m).value = (counterOf s d m).value := by exact fun _ _ => rfl
  ctrRegs : ∀ d : CoreIx, t.cores[d].ctrRegs = s.cores[d].ctrRegs := by exact fun _ => rfl
  events : ∀ e ∈ s.recorder.arriving, e.code = 0x1301 → e ∈ t.recorder.arriving := by exact fun _ h _ => h

theorem DiscardsReported.refl (s : State) : DiscardsReported s s := {}

theorem DiscardsReported.trans (a : DiscardsReported s t) (b : DiscardsReported t u) : DiscardsReported s u where
  only := Eq.trans b.only (by rw [a.only])
  value d m := (b.value d m).trans (a.value d m)
  ctrRegs d := (b.ctrRegs d).trans (a.ctrRegs d)
  events e h hc := b.events e (a.events e h hc) hc

/-- A halt touches neither the recorder nor the free counter. -/
theorem haltTask_freeCtr (i : SlotIx) (r : Byte) (s : State) : (haltTask i r s).freeCtr = s.freeCtr := by
  unfold haltTask
  dsimp only
  split
  · split <;> rfl
  · split <;> rfl

/-- The code of an overflow is none of a context's fault. -/
theorem overflowCode_ne (cause : Byte) : (0x1301 : W16) ≠ 0x1000 + cause.setWidth 16 := by
  intro h
  have h2 := congrArg BitVec.toNat h
  have hc := cause.isLt
  simp at h2
  omega

/-- Nothing is drawn from the model's free choices, and the events of overflows that are on their way stay so. -/
structure OverflowsKept (s t : State) : Prop where
  freeCtr : t.freeCtr = s.freeCtr := by rfl
  events : ∀ e ∈ s.recorder.arriving, e.code = 0x1301 → e ∈ t.recorder.arriving := by exact fun _ h _ => h

theorem OverflowsKept.trans (a : OverflowsKept s t) (b : OverflowsKept t u) : OverflowsKept s u :=
  ⟨b.freeCtr.trans a.freeCtr, fun e h hc => b.events e (a.events e h hc) hc⟩

theorem OverflowsKept.ite {p : Prop} [Decidable p] (a : OverflowsKept s t) (b : OverflowsKept s u) :
    OverflowsKept s (if p then t else u) := by
  split <;> assumption

theorem haltTask_overflowsKept (i : SlotIx) (r : Byte) (s : State) : OverflowsKept s (haltTask i r s) :=
  ⟨haltTask_freeCtr i r s, fun _ h _ => by rw [haltTask_recorder]; exact h⟩

theorem record_overflowsKept (code : Nat) (sev : BitVec 2) (unit a0 a1 a2 : Nat) (h : t.recorder = s.recorder)
    (hf : t.freeCtr = s.freeCtr) : OverflowsKept s (record t code sev unit a0 a1 a2) where
  freeCtr := hf
  events _ he _ := List.mem_append_left _ (h ▸ he)

/-- A fault that takes the place of another of its cycle changes events of faults only (R118). -/
theorem relabel_overflowsKept {p : Event → Bool} {f : Event → Event} (h : OverflowsKept s t)
    (hp : ∀ e, e.code = 0x1301 → p e = false) : OverflowsKept s { t with recorder := { t.recorder with
      arriving := t.recorder.arriving.map fun e => if p e then f e else e } } where
  freeCtr := h.freeCtr
  events e he hc := List.mem_map.mpr ⟨e, h.events e he hc, if_neg (by simp [hp e hc])⟩

theorem faultCtx_overflowsKept (c : CoreIx) (k : CtxIx) (cause : Byte) (inf : W16) (pc : BitVec 13) (s : State) :
    OverflowsKept s (faultCtx c k cause inf pc s) := by
  unfold faultCtx
  refine .ite (.ite ?_ {}) (.ite (.ite (relabel_overflowsKept ?_ fun e he => ?_) {}) (.ite ?_ ?_))
  · split
    · exact .trans (t := modCore _ c _) {} (haltTask_overflowsKept ..)
    · exact {}
  · split
    · exact .ite {} {}
    · exact {}
  · rw [he, decide_eq_false (overflowCode_ne _), Bool.false_and, Bool.false_and, Bool.false_and]
  · exact record_overflowsKept _ _ _ _ _ _ rfl rfl
  · split
    · refine .trans ?_ (haltTask_overflowsKept ..)
      exact record_overflowsKept _ _ _ _ _ _ rfl rfl
    · exact record_overflowsKept _ _ _ _ _ _ rfl rfl

theorem faultCtx_reports (c : CoreIx) (k : CtxIx) (cause : Byte) (inf : W16) (pc : BitVec 13) (s : State) :
    (faultCtx c k cause inf pc s).reports = s.reports := by rw [faultCtx_faults.only]

theorem faultCtx_discardsReported (c : CoreIx) (k : CtxIx) (cause : Byte) (inf : W16) (pc : BitVec 13) (s : State) :
    DiscardsReported s (faultCtx c k cause inf pc s) where
  only := by
    rw [faultCtx_reports]
    exact Eq.trans faultCtx_faults.only (by rw [(faultCtx_overflowsKept ..).freeCtr])
  value d m := ((faultCtx_faults.cores d).counters (ctrIx m)).1
  ctrRegs d := by rw [(faultCtx_faults.cores d).only]
  events := (faultCtx_overflowsKept c k cause inf pc s).events

/-- A core's update of its block. -/
theorem modBlk_discardsReported (d : CoreIx) (f : Block → Block) : DiscardsReported s (modCore s d fun x => x.modBlk f) where
  value e m := by
    rw [counterOf_eq]
    by_cases h : e = d
    · subst h; rw [modCore_core]; rfl
    · rw [modCore_other _ _ _ h]; rfl
  ctrRegs e := by
    by_cases h : e = d
    · subst h; rw [modCore_core]; rfl
    · rw [modCore_other _ _ _ h]

theorem reportOverflow_discardsReported (i : CtrInc) (s : State) : DiscardsReported s (reportOverflow i s) := by
  unfold reportOverflow
  split
  · exact modBlk_discardsReported ..
  · split
    · exact {}
    · exact faultCtx_discardsReported ..

/-- The report that a discarded increment of another core sends to its source (R210). -/
def CtrInc.report (now : Nat) (i : CtrInc) : OvfReport :=
  { core := i.fcore, ctx := i.fctx, pc := i.fpc, info := ctrInfo i.ctr i.source 0, due := now }

/-- Whether a discarded increment is reported over the fabric. -/
def CtrInc.reported (i : CtrInc) : Bool := !i.tsig && (i.source == 2 || i.source == 3 || i.source == 4)

theorem reportOverflow_reports (i : CtrInc) (s : State) :
    (reportOverflow i s).reports = s.reports ++ ([i].filter CtrInc.reported).map (CtrInc.report s.time.cycle) := by
  unfold reportOverflow
  by_cases ht : i.tsig = true
  · have hr : i.reported = false := by simp [CtrInc.reported, ht]
    rw [if_pos ht, List.filter_cons_of_neg (by simp [hr])]
    exact (List.append_nil _).symm
  · rw [if_neg ht]
    by_cases hs : (decide (i.source = 2) || decide (i.source = 3) || decide (i.source = 4)) = true
    · have hr : i.reported = true := by simpa [CtrInc.reported, ht] using hs
      rw [if_pos hs, List.filter_cons_of_pos hr]
      rfl
    · have hr : i.reported = false := by simpa [CtrInc.reported, ht] using hs
      rw [if_neg hs, List.filter_cons_of_neg (by simp [hr]), faultCtx_reports]
      exact (List.append_nil _).symm

theorem dueIncs_report {i : CtrInc} {now : Nat} (h : i ∈ dueIncs s c n) : i.report now =
    { core := i.fcore
      ctx := i.fctx
      pc := i.fpc
      info := BitVec.ofNat 16 (n.toNat + i.source.toNat * 256)
      due := now } := by
  have hhits := (List.mem_filter.mp h).2
  simp only [CtrInc.hits, Bool.and_eq_true, decide_eq_true_eq] at hhits
  obtain ⟨⟨-, hn⟩, -⟩ := hhits
  rw [CtrInc.report, ctrInfo, hn]
  rfl

theorem DiscardsReported.frame (h : DiscardsReported u t) (hu : u = { s with cores := u.cores, incs := u.incs, recorder := u.recorder }) :
    t = { s with cores := t.cores, incs := t.incs, tasks := t.tasks, recorder := t.recorder, reports := t.reports } := by
  have hi : t.incs = u.incs := by rw [h.only]
  rw [hi]
  exact Eq.trans h.only (by rw [hu])

theorem DiscardsReported.time (h : DiscardsReported s t) : t.time = s.time := by rw [h.only]

/-- The reports of a list of discarded increments. -/
theorem reportOverflows_spec (l : List CtrInc) (s : State) :
    let t := l.foldl (fun s i => reportOverflow i s) s
    DiscardsReported s t ∧ t.reports = s.reports ++ (l.filter CtrInc.reported).map (CtrInc.report s.time.cycle) := by
  induction l generalizing s with
  | nil => exact ⟨{}, (List.append_nil _).symm⟩
  | cons i l ih =>
    have h := reportOverflow_discardsReported i s
    obtain ⟨hr, hl⟩ := ih (reportOverflow i s)
    refine ⟨h.trans hr, hl.trans ?_⟩
    rw [h.time, reportOverflow_reports, List.append_assoc, ← List.map_append, ← List.filter_append]
    rfl

/-- The counter whose sum is discarded keeps its value and its waiters. -/
theorem discarded_counter (s : State) (c : CoreIx) (n : Byte) :
    (discarded c n s).cores[c].counter n = { counterOf s c n with appliedAt := s.time.cycle + 1 } := by
  rw [discarded, record_cores, modCore_core]
  exact takenIncs_counter s c n

theorem discarded_ctrRegs (s : State) (c : CoreIx) (n : Byte) : (discarded c n s).cores[c].ctrRegs.ovfDiscards =
    satAdd s.cores[c].ctrRegs.ovfDiscards (dueIncs s c n).length := by
  rw [discarded, record_cores, modCore_core, takenIncs_ctrRegs]

theorem discarded_only (s : State) (c : CoreIx) (n : Byte) : discarded c n s =
    { s with
      cores := (discarded c n s).cores
      incs := s.incs.filter fun i => !i.hits c n s.time.cycle
      recorder := (discarded c n s).recorder } := by
  unfold discarded
  rw [takenIncs_only]
  rfl

/-- The event of an overflow names the core and the counter (R206). -/
theorem discarded_event (s : State) (c : CoreIx) (n : Byte) : ∃ e ∈ (discarded c n s).recorder.arriving,
    e.code = 0x1301 ∧ e.unit = BitVec.ofNat 8 c.val ∧ e.arg1 = BitVec.ofNat 32 n.toNat :=
  ⟨_, List.mem_append_right _ List.mem_cons_self, rfl, rfl, rfl⟩

end Discarding

/-! ### Contexts that wake, and the report of a discarded increment -/

section Waking
variable {s : State} {c : CoreIx} {k : CtxIx}

/-- A served context of a task that runs completes its wait and is READY. -/
theorem execContextWake_eq {w : Nat} {i : SlotIx} (hw : (ctx s c k).wakeAt = some w) (hn : w ≤ s.time.cycle)
    (hst : (ctx s c k).st = .waiting) (hr : runs s c i = true) :
    exec (.contextWake c k) s = .next (modCtx s c k fun y => { completeWait s c y with st := .ready }) := by
  obtain ⟨ht, hi⟩ := taskOn_of_runs hr
  unfold ctx at hw hst
  change execContextWake c k s = _
  unfold execContextWake
  dsimp only
  rw [hw]
  dsimp only
  rw [if_pos (by rw [hst, decide_eq_true hn]; rfl), ht]
  refine congrArg Host.Outcome.next (congrArg (modCtx s c k) (funext fun y => if_neg ?_))
  change ¬(!s.tasks[i].issues) = true
  rw [hi]
  exact Bool.false_ne_true

theorem completeWait_object {y : Ctx} (h : y.kind ≠ .command) : completeWait s c y = { y with wakeAt := none, pc := y.pc + 1 } := by
  unfold completeWait
  dsimp only
  split
  next hk => exact absurd hk h
  next => rfl

/-- The word that a CMDWAIT gives for the entry `q`. -/
def wakeWord (s : State) (c : CoreIx) (q : W32) : W64 :=
  match taskOn s c with
  | none => 0
  | some (_, T) =>
    match T.cmd.posted.find? fun e => e.q == q with
    | none => 0
    | some e => e.words[0]

theorem completeWait_command {y : Ctx} {q : W32} {rest : List W32} (h : y.kind = .command) (hq : y.queued = q :: rest) :
    completeWait s c y = Ctx.sset { y with
      wakeAt := none
      pc := y.pc + 1
      cur := some q
      queued := rest } y.waitRd (wakeWord s c q) s.time.cycle := by
  unfold completeWait
  rw [h, hq]
  rfl

theorem wakeWord_posted {i : SlotIx} {q : W32} {e : Posted} (hr : runs s c i = true)
    (he : (s.tasks[i].cmd.posted.find? fun e => e.q == q) = some e) : wakeWord s c q = e.words[0] := by
  rw [wakeWord, (taskOn_of_runs hr).1]
  dsimp only
  rw [he]

/-- What a scalar write leaves of a context, and the register it writes. -/
theorem sset_kept (y : Ctx) (r : SReg) (v : W64) (at_ : Nat) : (y.sset r v at_).pc = y.pc ∧ (y.sset r v at_).wakeAt = y.wakeAt ∧
    (y.sset r v at_).cur = y.cur ∧ (y.sset r v at_).queued = y.queued ∧ (r.val ≠ 0 → (y.sset r v at_).s[r] = v) := by
  unfold Ctx.sset
  split
  next h => exact ⟨rfl, rfl, rfl, rfl, fun hn => absurd h hn⟩
  next => exact ⟨rfl, rfl, rfl, rfl, fun _ => by simp⟩

/-- Where an overflow's report is at its core. -/
theorem execCounterOverflowReport_eq {r : OvfReport} (h : (s.reports.find? fun r => r.core == c) = some r) :
    exec (.counterOverflowReport c) s = .next (faultCtx c r.ctx 0x08 r.info r.pc { s with reports := s.reports.erase r }) := by
  have hc : r.core = c := by simpa using List.find?_some h
  change execCounterOverflowReport c s = _
  unfold execCounterOverflowReport
  rw [h, ← hc]

/-- The counter's command applies its sum once every signal of the cycle is in. -/
theorem execCounterSignalApply_eq {n : Byte} (hs : signalsIn s c = true) (ha : (counterOf s c n).appliedAt ≠ s.time.cycle + 1)
    (hi : ∃ i ∈ s.incs, i.hits c n s.time.cycle = true) :
    exec (.counterSignalApply c n) s = .next (if (counterOf s c n).value.toNat + dueSum s c n ≤ (counterOf s c n).limit.toNat
      then serveCounter c n (summed c n s)
      else (dueIncs s c n).foldl (fun s i => reportOverflow i s) (serveCounter c n (discarded c n s))) := by
  have hd : counterDue s c n = true := by
    rw [counterDue, Bool.and_eq_true, Bool.or_eq_true, List.any_eq_true]
    exact ⟨bne_iff_ne.mpr ha, .inl hi⟩
  change execCounterSignalApply c n s = _
  rw [execCounterSignalApply, if_pos hs, applyCounter_eq s c n hd]

end Waking
end Sys2Proof.Machine

open Sys2Proof Sys2Proof.Machine Sys2Proof.Claims

/-- Settles O9: sums by `serve_summed`, overflows by what `discarded` and `reportOverflows_spec` leave, wakes by `completeWait`. -/
theorem counterEvents : Obligations.CounterEvents := by
  unfold Obligations.CounterEvents
  refine ⟨fun c ctr s hs ha hi hl => ?fits, fun c ctr s hs ha hi hl => ?discards, fun c k w s hw hn hst hk ⟨i, hr⟩ => ?object,
    fun c k w q rest i s hw hn hst hk hq hr => ?command, fun c r s h hf => ?report⟩
  case fits =>
    obtain ⟨hv, hq, hc, ho⟩ := serve_summed s c ctr hl
    refine ⟨_, (execCounterSignalApply_eq hs ha hi).trans (by rw [if_pos hl]), hv, hq, hc, ?_, ho, ?_⟩
    all_goals
      rw [serveCounter_eq, summed, modCore_modCore, takenIncs_only]
      rfl
  case discards =>
    obtain ⟨hr, hreports⟩ := reportOverflows_spec (dueIncs s c ctr) (serveCounter c ctr (discarded c ctr s))
    have hserve : serveCounter c ctr (discarded c ctr s) = modCore (discarded c ctr s) c (Core.serve ctr s.time.cycle) := by
      rw [serveCounter_eq, show (discarded c ctr s).time = s.time from takenIncs_time s c ctr]
    refine ⟨_, (execCounterSignalApply_eq hs ha hi).trans (by rw [if_neg (Nat.not_le.mpr hl)]), ?value, ?incs, ?regs, ?event, ?reports,
      ?frame⟩
    case value =>
      rw [hr.value, hserve, counterOf_eq, modCore_core, serve_counter_same, discarded_counter]
      exact serveQueue_toNat _ (counterOf s c ctr).value.isLt
    case incs =>
      rw [hr.only, hserve, discarded_only]
      rfl
    case regs =>
      rw [hr.ctrRegs, hserve, modCore_core, serve_ctrRegs]
      exact discarded_ctrRegs s c ctr
    case event =>
      obtain ⟨e, he, hcode, hu, ha1⟩ := discarded_event s c ctr
      exact ⟨e, hr.events e (by rw [hserve]; exact he) hcode, hcode, hu, ha1⟩
    case reports =>
      rw [hreports, hserve, discarded_only]
      exact congrArg (s.reports ++ ·) (List.map_congr_left fun i hi => dueIncs_report (List.mem_of_mem_filter hi))
    case frame =>
      refine hr.frame ?_
      rw [hserve, discarded_only]
      rfl
  case object =>
    refine ⟨_, execContextWake_eq hw hn hst hr, modCore_onlyCore .., ?_, fun j hj => modCtx_other s c k _ hj⟩
    unfold ctx at hk ⊢
    rw [modCtx_ctx, completeWait_object hk]
  case command =>
    unfold ctx at hk hq
    refine ⟨_, execContextWake_eq hw hn hst hr, modCore_onlyCore .., ?_⟩
    unfold ctx
    rw [modCtx_ctx, completeWait_command hk hq]
    obtain ⟨hpc, hwake, hcur, hqueued, hreg⟩ := sset_kept { s.cores[c].ctx[k] with
      wakeAt := none
      pc := s.cores[c].ctx[k].pc + 1
      cur := some q
      queued := rest } s.cores[c].ctx[k].waitRd (wakeWord s c q) s.time.cycle
    exact ⟨rfl, hpc, hwake, hcur, hqueued, fun e he h0 => (hreg h0).trans (wakeWord_posted hr he), fun j hj => modCtx_other s c k _ hj⟩
  case report =>
    obtain ⟨hlatched, -⟩ := faultCtx_latched (s := { s with reports := s.reports.erase r }) (c := c) (k := r.ctx) (cause := 0x08)
      (inf := r.info) (pc := r.pc) hf
    exact ⟨_, execCounterOverflowReport_eq h, faultCtx_reports .., hlatched⟩
end

section
-- One proof at a time: elaborated all at once, the proofs of the whole text need more memory than the check gives.
set_option Elab.async false
/-! PROOF. Global counters: what a cycle of the hub does with the signals that reach a counter, and the releases of barriers (R215 to
R218). -/

namespace Sys2Proof.Machine
open Claims

/-- A fold whose steps change nothing. -/
theorem foldl_unchanged {α β : Type} {f : α → β → α} {l : List β} (h : ∀ x ∈ l, ∀ a, f a x = a) (a : α) :
    l.foldl f a = a := by
  induction l with
  | nil => rfl
  | cons x l ih =>
    rw [List.foldl_cons, h x List.mem_cons_self]
    exact ih fun y hy => h y (List.mem_cons_of_mem x hy)

/-! ### The table of global counters -/

section Table
variable {s t : State} {g : Fin 4096} {x : GCounter}

theorem globalOf_eq (s : State) (g : Fin 4096) : globalOf s g = gget s g := rfl

/-- Counter `g` of `t` is `x`, every other one that of `s`. -/
structure GlobalIs (g : Fin 4096) (x : GCounter) (s t : State) : Prop where
  wf : twf GCounter.reset t.gctr = true
  same : gget t g = x
  other : ∀ h : Fin 4096, h ≠ g → gget t h = gget s h

/-- A state whose table is that of `s`. -/
theorem GlobalIs.refl (w : twf GCounter.reset s.gctr = true) (h : t.gctr = s.gctr) : GlobalIs g (gget s g) s t where
  wf := h ▸ w
  same := by rw [gget, h]; rfl
  other _ _ := by rw [gget, h]; rfl

theorem GlobalIs.gset (h : GlobalIs g x s t) (y : GCounter) : GlobalIs g y s (gset g y t) where
  wf := tset_wf _ _ h.wf
  same := tget_tset_self _ _ h.wf
  other j hj := (tget_tset_other _ _ fun e => hj (Fin.ext e)).trans (h.other j hj)

theorem GlobalIs.of_gctr {u : State} (h : GlobalIs g x s t) (hu : u.gctr = t.gctr) : GlobalIs g x s u where
  wf := hu ▸ h.wf
  same := by rw [gget, hu]; exact h.same
  other j hj := by rw [gget, hu]; exact h.other j hj

end Table

/-! ### The signals of one hub cycle (R215, R216) -/

section Cycle
variable {s t : State} {g : Fin 4096} {x : GCounter}

/-- The signals of this device that reach the counter. -/
def arrivingHere (s : State) (g : Fin 4096) : List GSig := (arriving s g).filter fun i => i.src.isNone

/-- The ADDs among them. -/
def arrivingAdds (s : State) (g : Fin 4096) : List GSig := (arrivingHere s g).filter fun i => decide (0 < i.amount)

/-- The state once the signals have left the wires. -/
def withoutArriving (s : State) (g : Fin 4096) : State :=
  { s with gsigs := s.gsigs.filter fun i => !(i.g == g && decide (i.due ≤ s.time.cycle)) }

/-- An ADD that does not fit is reported to its context; a packet is refused (R215). -/
def discardAdd (g : Fin 4096) (s : State) (i : GSig) : State :=
  match i.op with
  | .packet p k => refuse p k 10 s
  | .add _ => { s with reports := s.reports ++ [{ core := i.core, ctx := i.ctx, pc := i.pc, info := gctrInfo g 0, due := s.time.cycle }] }
  | _ => s

/-- The hub takes the sum of the ADDs, or discards them. -/
def addsTaken (s : State) (g : Fin 4096) : State :=
  let sum := (arrivingAdds s g).foldl (fun a i => a + i.amount) 0
  if gfits (gget s g) sum then gset g { gget s g with value := (gget s g).value + BitVec.ofNat 24 sum } (withoutArriving s g)
  else (arrivingAdds s g).foldl (discardAdd g) { withoutArriving s g with
    gregs := { s.gregs with govf := satAdd s.gregs.govf (arrivingAdds s g).length } }

/-- The cycle with which a barrier completes. -/
def completedAt (s : State) (g : Fin 4096) : Nat :=
  (arrivingHere s g).foldl (fun a i => max a i.due) (if (arrivingHere s g).isEmpty then s.time.cycle else 0)

/-- The cycle is over for the counter. -/
def sumNoted (g : Fin 4096) (s : State) : State := gset g { gget s g with sumAt := hubCycle s + 1 } s

/-- What a cycle of the hub leaves of the counter, where nothing is for another device. -/
def cycleOver (s : State) (g : Fin 4096) : State :=
  sumNoted g (completeBarrier g (completedAt s g) ((arrivingHere s g).foldl (fun s i => gsigOp i s) (addsTaken s g)))

theorem arrivingHere_eq (hl : ∀ i ∈ arriving s g, i.src = none) : arrivingHere s g = arriving s g :=
  List.filter_eq_self.mpr fun i hi => by rw [hl i hi]; rfl

/-- A cycle of the hub in which nothing is for another device and no entry waits for the counter. -/
theorem execGlobalSignalApply_eq (hd : globalDue s g = true) (hl : ∀ i ∈ arriving s g, i.src = none)
    (hb : ∀ i ∈ arriving s g, ∀ t q, i.op ≠ .barrier t q) : exec (.globalSignalApply g) s = .next (cycleOver s g) := by
  have haway : (arriving s g).filter (fun i => i.src.isSome) = [] :=
    List.filter_eq_nil_iff.mpr fun i hi => by rw [hl i hi]; exact Bool.false_ne_true
  have hanswer (u : State) : (arrivingHere s g).foldl (fun s i => match i.op with
      | .barrier t q => answerEntry t q 0 s
      | _ => s) u = u := by
    refine foldl_unchanged (fun i hi v => ?_) u
    split
    next t q h => exact absurd h (hb i (List.mem_of_mem_filter hi) t q)
    next => rfl
  change execGlobalSignalApply g s = _
  unfold execGlobalSignalApply
  rw [hd, Bool.not_true, if_neg Bool.false_ne_true]
  change Host.Outcome.next (List.foldl _ (List.foldl _ (cycleOver s g) (arrivingHere s g))
    ((arriving s g).filter fun i => i.src.isSome)) = _
  rw [haway, List.foldl_nil]
  exact congrArg Host.Outcome.next (hanswer _)

theorem arrivingAdds_sum (hl : ∀ i ∈ arriving s g, i.src = none) :
    (arrivingAdds s g).foldl (fun a i => a + i.amount) 0 = ((arriving s g).map GSig.amount).sum := by
  have pos (l : List GSig) : ((l.filter fun i => decide (0 < i.amount)).map GSig.amount).sum = (l.map GSig.amount).sum := by
    induction l with
    | nil => rfl
    | cons i l ih =>
      by_cases h : 0 < i.amount
      · rw [List.filter_cons_of_pos (by simpa using h), List.map_cons, List.map_cons, List.sum_cons, List.sum_cons, ih]
      · rw [List.filter_cons_of_neg (by simpa using h), ih, List.map_cons, List.sum_cons, Nat.eq_zero_of_not_pos h, Nat.zero_add]
  rw [← pos, List.sum_eq_foldl, List.foldl_map, arrivingAdds, arrivingHere_eq hl]

/-- A sum that fits is added (R215). -/
theorem addsTaken_fits (w : twf GCounter.reset s.gctr = true) (hl : ∀ i ∈ arriving s g, i.src = none)
    (hf : (gget s g).value.toNat + ((arriving s g).map GSig.amount).sum < 2 ^ 24) :
    GlobalIs g { gget s g with value := (gget s g).value + BitVec.ofNat 24 ((arriving s g).map GSig.amount).sum } s (addsTaken s g) ∧
    addsTaken s g = { withoutArriving s g with gctr := (addsTaken s g).gctr } := by
  have hg : gfits (gget s g) ((arriving s g).map GSig.amount).sum = true := decide_eq_true (by omega)
  rw [addsTaken, arrivingAdds_sum hl]
  rw [hg, if_pos rfl]
  exact ⟨(GlobalIs.refl (t := withoutArriving s g) w rfl).gset _, rfl⟩

/-- ADDs that are discarded are reported to the contexts that sent them. -/
theorem discardAdds_spec (l : List GSig) (hl : ∀ i ∈ l, ∃ n, i.op = .add n) (u : State) :
    ∃ rs, l.foldl (discardAdd g) u = { u with reports := u.reports ++ rs } ∧
      rs.map (fun r : OvfReport => (r.core, r.ctx, r.pc)) = l.map fun i => (i.core, i.ctx, i.pc) := by
  induction l generalizing u with
  | nil => exact ⟨[], by rw [List.append_nil]; rfl, rfl⟩
  | cons i l ih =>
    obtain ⟨n, hn⟩ := hl i List.mem_cons_self
    obtain ⟨rs, ht, hrs⟩ := ih (fun j hj => hl j (List.mem_cons_of_mem i hj)) (discardAdd g u i)
    refine ⟨{ core := i.core, ctx := i.ctx, pc := i.pc, info := gctrInfo g 0, due := u.time.cycle } :: rs, ?_,
      by rw [List.map_cons, hrs]; rfl⟩
    rw [List.foldl_cons, ht, discardAdd, hn]
    rw [List.append_assoc]
    rfl

/-- A sum that does not fit is discarded (R215). -/
theorem addsTaken_discards (hl : ∀ i ∈ arriving s g, i.src = none ∧ ∃ n, i.op = .add n ∧ 0 < n)
    (hf : 2 ^ 24 ≤ (gget s g).value.toNat + ((arriving s g).map GSig.amount).sum) :
    ∃ rs, addsTaken s g = { withoutArriving s g with
        gregs := { s.gregs with govf := satAdd s.gregs.govf (arriving s g).length }
        reports := s.reports ++ rs } ∧
      rs.map (fun r : OvfReport => (r.core, r.ctx, r.pc)) = (arriving s g).map fun i => (i.core, i.ctx, i.pc) := by
  have hg : gfits (gget s g) ((arriving s g).map GSig.amount).sum = false := decide_eq_false (by omega)
  have hadds : arrivingAdds s g = arriving s g := by
    rw [arrivingAdds, arrivingHere_eq fun i hi => (hl i hi).1]
    refine List.filter_eq_self.mpr fun i hi => ?_
    obtain ⟨-, n, hn, hpos⟩ := hl i hi
    rw [GSig.amount, hn]
    exact decide_eq_true hpos
  rw [addsTaken, arrivingAdds_sum fun i hi => (hl i hi).1]
  rw [hg, if_neg Bool.false_ne_true, hadds]
  exact discardAdds_spec (arriving s g) (fun i hi => let ⟨_, n, hn, _⟩ := hl i hi; ⟨n, hn⟩) _

/-- ADDs do nothing beyond their sum. -/
theorem gsigOps_adds (hl : ∀ i ∈ arriving s g, ∃ n, i.op = .add n) (u : State) :
    (arrivingHere s g).foldl (fun s i => gsigOp i s) u = u := by
  refine foldl_unchanged (fun i hi v => ?_) u
  obtain ⟨n, hn⟩ := hl i (List.mem_of_mem_filter hi)
  rw [gsigOp, hn]

theorem completeBarrier_idle {u : State} {n : Nat} (h : (gget u g).complete (hubCycle u) = false) : completeBarrier g n u = u := by
  rw [completeBarrier, h]
  exact if_neg Bool.false_ne_true

theorem GlobalIs.sumNoted (h : GlobalIs g x s t) (ht : hubCycle t = hubCycle s) :
    GlobalIs g { x with sumAt := hubCycle s + 1 } s (sumNoted g t) := by
  rw [Machine.sumNoted, h.same, ht]
  exact h.gset _

theorem globalDue_of_arriving (ht : hubTurn s g) (h : arriving s g ≠ []) : globalDue s g = true := by
  obtain ⟨he, hs⟩ := ht
  rw [globalOf_eq] at hs
  obtain ⟨i, hi⟩ := List.exists_mem_of_ne_nil _ h
  obtain ⟨hm, hi⟩ := List.mem_filter.mp hi
  have hany : (s.gsigs.any fun i => i.g == g && decide (i.due ≤ s.time.cycle)) = true := List.any_eq_true.mpr ⟨i, hm, hi⟩
  rw [globalDue, he, hany, bne_iff_ne.mpr hs]
  rfl

theorem unarmed_idle (h : x.armed = false) (n : Nat) : x.complete n = false := by
  rw [GCounter.complete, h]
  rfl

/-- A barrier that completes: EXPECT is subtracted and a release scheduled (R216). -/
theorem GlobalIs.completes (h : GlobalIs g x s t) (ht : hubCycle t = hubCycle s) (hc : x.complete (hubCycle s) = true) (n : Nat) :
    GlobalIs g { x with
      value := x.value - x.expect
      armed := x.rearm
      doneAt := hubCycle s + 1
      releases := x.releases ++ [x.release n] } s (completeBarrier g n t) := by
  rw [completeBarrier, h.same, ht, hc, if_pos rfl]
  exact h.gset _

/-- ARM at the hub (R216). -/
theorem GlobalIs.arms (h : GlobalIs g x s t) {i : GSig} {e : BitVec 24} {r : Byte} {timed rearm : Bool} (hg : i.g = g)
    (ho : i.op = .arm e r timed rearm) : GlobalIs g { x with
      armed := true
      timed := timed
      rearm := rearm
      ftSet := false
      expect := e
      rctr := r
      releases := if x.armed then [] else x.releases.map fun r => { r with past := true }
      armer := (i.core, i.ctx, i.pc) } s (gsigOp i t) := by
  rw [gsigOp, ho, hg, h.same]
  exact h.gset _

/-- The counter behind the ADDs of a cycle in which nothing else is for another device. -/
theorem addsTaken_none (w : twf GCounter.reset s.gctr = true) (hl : ∀ i ∈ arriving s g, i.src = none)
    (h0 : ((arriving s g).map GSig.amount).sum = 0) : GlobalIs g (gget s g) s (addsTaken s g) ∧
    addsTaken s g = { withoutArriving s g with gctr := (addsTaken s g).gctr } := by
  obtain ⟨h, ht⟩ := addsTaken_fits w hl (by rw [h0]; exact (gget s g).value.isLt)
  rw [h0, BitVec.add_zero] at h
  exact ⟨h, ht⟩

/-- A cycle of the hub that brings an unarmed counter ADDs only. -/
theorem cycleOver_adds (hl : ∀ i ∈ arriving s g, ∃ n, i.op = .add n) (h : GlobalIs g x s (addsTaken s g))
    (ht : hubCycle (addsTaken s g) = hubCycle s) (hx : x.armed = false) :
    GlobalIs g { x with sumAt := hubCycle s + 1 } s (cycleOver s g) ∧
    cycleOver s g = { addsTaken s g with gctr := (cycleOver s g).gctr } := by
  have hi : (gget (addsTaken s g) g).complete (hubCycle (addsTaken s g)) = false := by
    rw [h.same]
    exact unarmed_idle hx _
  rw [cycleOver, gsigOps_adds hl, completeBarrier_idle hi]
  exact ⟨h.sumNoted ht, rfl⟩

theorem execGlobalSignalApply_adds (ht : hubTurn s g) (h : arriving s g ≠ [])
    (hl : ∀ i ∈ arriving s g, i.src = none ∧ ∃ n, i.op = .add n) :
    exec (.globalSignalApply g) s = .next (cycleOver s g) := by
  refine execGlobalSignalApply_eq (globalDue_of_arriving ht h) (fun i hi => (hl i hi).1) fun i hi t q => ?_
  obtain ⟨-, n, hn⟩ := hl i hi
  rw [hn]
  exact GOp.noConfusion

/-- A barrier that can complete is due though nothing reaches its counter. -/
theorem globalDue_of_complete (ht : hubTurn s g) (hc : (gget s g).complete (hubCycle s) = true) : globalDue s g = true := by
  obtain ⟨he, hs⟩ := ht
  rw [globalOf_eq] at hs
  rw [globalDue, he, bne_iff_ne.mpr hs, hc, Bool.or_true]
  rfl

/-- A cycle of the hub in which an armed barrier completes and nothing reaches its counter. -/
theorem cycleOver_completes (w : twf GCounter.reset s.gctr = true) (hn : arriving s g = []) (hc : (gget s g).complete (hubCycle s) = true) :
    GlobalIs g { gget s g with
      value := (gget s g).value - (gget s g).expect
      armed := (gget s g).rearm
      doneAt := hubCycle s + 1
      sumAt := hubCycle s + 1
      releases := (gget s g).releases ++ [(gget s g).release s.time.cycle] } s (cycleOver s g) := by
  have hnone : arrivingHere s g = [] := by rw [arrivingHere, hn]; rfl
  obtain ⟨hg, htaken⟩ := addsTaken_none w (fun i hi => by rw [hn] at hi; exact nomatch hi) (by rw [hn]; rfl)
  have htime : hubCycle (addsTaken s g) = hubCycle s := by rw [htaken]; rfl
  have hdone := hg.completes htime hc s.time.cycle
  have htime2 : hubCycle (completeBarrier g s.time.cycle (addsTaken s g)) = hubCycle s := by
    rw [completeBarrier]
    split <;> exact htime
  rw [cycleOver, completedAt, hnone]
  exact hdone.sumNoted htime2

/-- A cycle of the hub that brings an ARM whose EXPECT is above the counter's value. -/
theorem cycleOver_arms {i : GSig} {e : BitVec 24} {r : Byte} {timed rearm : Bool} (w : twf GCounter.reset s.gctr = true)
    (hi : arriving s g = [i]) (hs : i.src = none) (ho : i.op = .arm e r timed rearm) (hv : (gget s g).value.toNat < e.toNat) :
    GlobalIs g { gget s g with
      armed := true
      timed := timed
      rearm := rearm
      ftSet := false
      expect := e
      rctr := r
      armer := (i.core, i.ctx, i.pc)
      sumAt := hubCycle s + 1
      releases := if (gget s g).armed then [] else (gget s g).releases.map fun r => { r with past := true } } s (cycleOver s g) := by
  have hsrc : ∀ j ∈ arriving s g, j.src = none := by
    rw [hi]
    simpa using hs
  have hg : i.g = g := by
    have hm : i ∈ arriving s g := by rw [hi]; exact List.mem_cons_self
    exact eq_of_beq (Bool.and_eq_true_iff.mp (List.mem_filter.mp hm).2).1
  obtain ⟨h, htaken⟩ := addsTaken_none w hsrc (by rw [hi, List.map_singleton, List.sum_singleton, GSig.amount, ho])
  have harm := h.arms hg ho
  have htime : hubCycle (gsigOp i (addsTaken s g)) = hubCycle s := by
    rw [gsigOp, ho, htaken]
    rfl
  have hidle : (gget (gsigOp i (addsTaken s g)) g).complete (hubCycle (gsigOp i (addsTaken s g))) = false := by
    rw [harm.same, GCounter.complete, decide_eq_false (Nat.not_le.mpr hv)]
    rfl
  rw [cycleOver, arrivingHere_eq hsrc, hi, List.foldl_cons, List.foldl_nil, completeBarrier_idle hidle]
  exact harm.sumNoted htime

/-- The release of a barrier, as R217 and R218 give it. -/
theorem release_eq (x : GCounter) (n : Nat) : x.release n =
    { kind := if x.timed then .timed n else .immediate (n + 19)
      rctr := x.rctr
      armer := x.armer
      past := false
      ft := if x.timed = true ∧ x.ftSet = true then some x.relFt else none } := by
  simp [GCounter.release]

/-- What has reached the counter has left the wires. -/
theorem withoutArriving_gsigs : ∀ i ∈ (withoutArriving s g).gsigs, i.g = g → s.time.cycle < i.due := by
  intro i hi hg
  obtain ⟨-, h⟩ := List.mem_filter.mp hi
  simpa [hg] using h

end Cycle

/-! ### Releases (R217, R218) -/

section Releases
variable {s : State} {g : Fin 4096} {i : SlotIx} {r : Release}

/-- The increment that a release gives core `c`. -/
def releaseInc (r : Release) (now : Nat) (c : CoreIx) : CtrInc :=
  { core := c, ctr := r.rctr, n := 1, due := now, source := 7, tsig := false, fcore := r.armer.1, fctx := r.armer.2.1,
    fpc := r.armer.2.2 }

/-- A release adds to the signals one for each core of the task (R217). -/
theorem releaseCores_eq (r : Release) (i : SlotIx) (s : State) : releaseCores r i s =
    { s with
      gregs := { s.gregs with releases := satInc s.gregs.releases }
      incs := s.incs ++ (coresOf s i).map (releaseInc r s.time.cycle) } := by
  have push (l : List CoreIx) (u : State) (hc : u.cores = s.cores) (ht : u.time = s.time) :
      l.foldl (fun u c => if u.cores[c].slot = some i then pushInc u (releaseInc r u.time.cycle c) else u) u =
        { u with incs := u.incs ++ (l.filter fun c => s.cores[c].slot == some i).map (releaseInc r s.time.cycle) } := by
    induction l generalizing u with
    | nil => rw [List.filter_nil, List.map_nil, List.append_nil]; rfl
    | cons c l ih =>
      rw [List.foldl_cons]
      by_cases h : u.cores[c].slot = some i
      · rw [if_pos h, ih (pushInc u (releaseInc r u.time.cycle c)) hc ht, List.filter_cons_of_pos (by rw [← hc, h]; simp), List.map_cons,
          pushInc, List.append_assoc, ht]
        rfl
      · rw [if_neg h, ih u hc ht, List.filter_cons_of_neg (by rw [← hc]; simpa using h)]
  exact push _ { s with gregs := { s.gregs with releases := satInc s.gregs.releases } } rfl rfl

/-- What a release from counter `g` leaves: its list without it, and a signal for each core of the task. -/
theorem released_spec (w : twf GCounter.reset s.gctr = true) (r : Release) (i : SlotIx) :
    let t := releaseCores r i (gset g ((gget s g).without r) s)
    GlobalIs g ((gget s g).without r) s t ∧ t.incs.length = s.incs.length + (coresOf s i).length ∧
    (∀ c ∈ coresOf s i, ∃ x ∈ t.incs, x.core = c ∧ x.ctr = r.rctr ∧ x.n = 1 ∧ x.due = s.time.cycle) ∧
    t.gregs.releases = satInc s.gregs.releases ∧ t.time = s.time := by
  rw [releaseCores_eq]
  refine ⟨((GlobalIs.refl (t := s) w rfl).gset _).of_gctr rfl, ?_, fun c hc => ?_, rfl, rfl⟩
  · rw [List.length_append, List.length_map]
    rfl
  · exact ⟨_, List.mem_append_right _ (List.mem_map_of_mem hc), rfl, rfl, rfl, rfl⟩

theorem releasing_of_holder (hh : (globalOf s g).holder = some i) (hst : s.tasks[i].st = .running ∨ s.tasks[i].st = .ending) :
    releasing s (gget s g) = some i := by
  rw [globalOf_eq] at hh
  unfold releasing
  rw [hh]
  refine if_pos ?_
  rcases hst with h | h <;> rw [h] <;> rfl

theorem execBarrierReleaseApply_eq (hh : (globalOf s g).holder = some i) (hst : s.tasks[i].st = .running ∨ s.tasks[i].st = .ending)
    (hr : immediateDue s (globalOf s g) = some r) :
    exec (.barrierReleaseApply g) s = .next (releaseCores r i (gset g ((gget s g).without r) s)) := by
  rw [globalOf_eq] at hr
  change execBarrierReleaseApply g s = _
  unfold execBarrierReleaseApply
  dsimp only
  rw [releasing_of_holder hh hst, hr]

theorem execTimedRelease_eq {late : Bool} (hh : (globalOf s g).holder = some i)
    (hst : s.tasks[i].st = .running ∨ s.tasks[i].st = .ending) (hr : timedDue s (globalOf s g) = some (r, late)) :
    exec (.timedRelease g) s = .next (if late
      then lateAction (releaseCores r i (gset g ((gget s g).without r) s)) 0 (r.ft.getD 0).toNat
        (ftNow (releaseCores r i (gset g ((gget s g).without r) s)))
      else releaseCores r i (gset g ((gget s g).without r) s)) := by
  rw [globalOf_eq] at hr
  change execTimedRelease g s = _
  unfold execTimedRelease
  dsimp only
  rw [releasing_of_holder hh hst, hr]

/-- An action that counts as late leaves counters and signals. -/
theorem lateAction_keeps (s : State) (unit stated effect : Nat) : (lateAction s unit stated effect).gctr = s.gctr ∧
    (lateAction s unit stated effect).incs = s.incs ∧
    (lateAction s unit stated effect).time.lateCount = satInc s.time.lateCount := ⟨rfl, rfl, rfl⟩

/-- A release with a beat is a timed one (R218). -/
theorem timedDue_kind {x : GCounter} {late : Bool} (h : timedDue s x = some (r, late)) : ∃ n, r.kind = .timed n := by
  unfold timedDue at h
  split at h
  · exact nomatch h
  · obtain ⟨q, -, hq⟩ := List.exists_of_findSome?_eq_some h
    split at hq
    next b hb =>
      split at hq
      · cases hq
        unfold timedBeat at hb
        split at hb
        next n _ hk _ => exact ⟨n, hk⟩
        next => exact nomatch hb
      · exact nomatch hq
    next => exact nomatch hq

end Releases
end Sys2Proof.Machine

open Sys2Proof Sys2Proof.Machine Sys2Proof.Claims

/-- Settles O32: a cycle of the hub by `cycleOver`, the releases by `releaseCores`. -/
theorem globalCounterEvents : Obligations.GlobalCounterEvents := by
  unfold Obligations.GlobalCounterEvents
  refine ⟨fun g s w ha ht hne hl hf => ?fits, fun g s w ha ht hl hf => ?discards, fun g s w hn ha he hd ht => ?completes,
    fun g i e r timed rearm s w hi hs ho ht hv => ?arms, fun g i r s w hh hst hr => ?immediate, fun g i r late s w hh hst hr => ?timed⟩
  case fits =>
    obtain ⟨hg, htaken⟩ := addsTaken_fits w (fun i hi => (hl i hi).1) hf
    obtain ⟨hend, hover⟩ := cycleOver_adds (fun i hi => (hl i hi).2) hg (by rw [htaken]; rfl) ha
    refine ⟨_, execGlobalSignalApply_adds ht hne hl, hend.same, hend.other, ?_, ?_⟩
    · rw [hover, htaken]
      exact withoutArriving_gsigs
    · rw [hover, htaken]
      rfl
  case discards =>
    have hadd : ∀ i ∈ arriving s g, i.src = none ∧ ∃ n, i.op = .add n := fun i hi =>
      let ⟨hs, n, hn, _⟩ := hl i hi
      ⟨hs, n, hn⟩
    have hne : arriving s g ≠ [] := fun h => by
      rw [h] at hf
      exact absurd (gget s g).value.isLt (Nat.not_lt.mpr hf)
    obtain ⟨rs, htaken, hrs⟩ := addsTaken_discards hl hf
    have hg : GlobalIs g (gget s g) s (addsTaken s g) := .refl w (by rw [htaken]; rfl)
    obtain ⟨hend, hover⟩ := cycleOver_adds (fun i hi => (hadd i hi).2) hg (by rw [htaken]; rfl) ha
    refine ⟨_, rs, execGlobalSignalApply_adds ht hne hadd, hend.other, hend.same, ?_, ?_, hrs⟩
    all_goals
      rw [hover, htaken]
  case completes =>
    rw [globalOf_eq] at ha he hd
    have hc : (gget s g).complete (hubCycle s) = true := by
      rw [GCounter.complete, ha, decide_eq_true he, bne_iff_ne.mpr hd]
      rfl
    have h := cycleOver_completes w hn hc
    rw [release_eq] at h
    refine ⟨_, execGlobalSignalApply_eq (globalDue_of_complete ht hc) ?_ ?_, h.other, h.same⟩
    all_goals
      rw [hn]
      exact fun i hi => nomatch hi
  case arms =>
    have h := cycleOver_arms w hi hs ho hv
    refine ⟨_, execGlobalSignalApply_eq (globalDue_of_arriving ht (by rw [hi]; exact List.cons_ne_nil _ _)) (fun j hj => ?_)
      (fun j hj t q => ?_), h.other, h.same⟩
    all_goals
      rw [hi, List.mem_singleton] at hj
      subst hj
    · exact hs
    · rw [ho]
      exact GOp.noConfusion
  case immediate =>
    obtain ⟨hg, hlen, hinc, hregs, -⟩ := released_spec (g := g) w r i
    exact ⟨_, execBarrierReleaseApply_eq hh hst hr, congrArg GCounter.releases hg.same, hlen, hinc, hregs, hg.other⟩
  case timed =>
    obtain ⟨hg, hlen, hinc, -, htime⟩ := released_spec (g := g) w r i
    obtain ⟨n, hk⟩ := timedDue_kind hr
    have hft : ((gget s g).without r).ftSet = ((gget s g).ftSet && r.past) := by
      rw [GCounter.without, hk]
      exact congrArg ((gget s g).ftSet && ·) (Bool.or_false _)
    refine ⟨_, execTimedRelease_eq hh hst hr, ?_⟩
    cases late with
    | false => exact ⟨congrArg GCounter.releases hg.same, (congrArg GCounter.ftSet hg.same).trans hft, hlen, hinc,
        congrArg Time.lateCount htime⟩
    | true =>
      obtain ⟨hgctr, hincs, hlate⟩ := lateAction_keeps (releaseCores r i (gset g ((gget s g).without r) s)) 0 (r.ft.getD 0).toNat
        (ftNow (releaseCores r i (gset g ((gget s g).without r) s)))
      have hend := hg.of_gctr hgctr
      rw [if_pos rfl, if_pos rfl, hincs, hlate, htime]
      exact ⟨congrArg GCounter.releases hend.same, (congrArg GCounter.ftSet hend.same).trans hft, hlen, hinc, rfl⟩
end

section
-- One proof at a time: elaborated all at once, the proofs of the whole text need more memory than the check gives.
set_option Elab.async false
/-! PROOF. Every step keeps the tables of O57 in canonical form: global counters and events, the postponed refreshes of each port, the
wide buffer of each core, the mailboxes' data and the two vectors of the CXL port (R213, R378). Almost every operation of the model
names none of these tables (`update_canon`) or writes one through `tset`, `filter` or a fold of them; each function of the model that
gives a state has its lemma `<function>_canon`, in the order of the model, built from those of the functions it calls. -/

namespace Sys2Proof.Machine

section Canonical
variable {s t : State}

/-! ### The canonical form and the ways to build a state -/

/-- The tables that O57 speaks of are in canonical form. -/
def Canon (s : State) : Prop := s.tablesOk = true

/-- A record update that names no table keeps them canonical; of the recorder, the CXL port and the mailboxes all else may change. -/
theorem update_canon_of {s : State} {recorder' : Recorder} {cxl' : Cxl} {mbHost' mbMgmt' : Mailbox}
    {pending' out' freeCtr' flits' buckleNext' buckle' xingAlarm' incs' reports' gsigs' gregs' fabric' resps' runs' probe'
    nextId' dram' dramPoison' loose' lookup' lkWork' tasks' resv' queues' rrQueue' submit' stashTimeout' rhaor' links' net'
    mir' time' regions' duty' power' act' reqHost' reqMgmt' reqFw' staging' mbQueue' stTimeout' quiesce' sec'}
    (hs : Canon s) (hl : recorder'.log = s.recorder.log) (hm : cxl'.masked = s.cxl.masked)
    (hp : cxl'.pendingBits = s.cxl.pendingBits) (hh : mbHost'.data = s.mbHost.data) (hg : mbMgmt'.data = s.mbMgmt.data) :
    Canon { s with
      pending := pending', out := out', freeCtr := freeCtr', flits := flits', buckleNext := buckleNext', buckle := buckle',
      xingAlarm := xingAlarm', incs := incs', reports := reports', gsigs := gsigs', gregs := gregs', fabric := fabric',
      resps := resps', runs := runs', probe := probe', nextId := nextId', dram := dram', dramPoison := dramPoison',
      loose := loose', lookup := lookup', lkWork := lkWork', tasks := tasks', resv := resv', queues := queues',
      rrQueue := rrQueue', submit := submit', stashTimeout := stashTimeout', rhaor := rhaor', cxl := cxl', links := links',
      net := net', mir := mir', time := time', regions := regions', duty := duty', power := power', act := act',
      recorder := recorder', reqHost := reqHost', reqMgmt := reqMgmt', reqFw := reqFw', staging := staging',
      mbHost := mbHost', mbMgmt := mbMgmt', mbQueue := mbQueue', stTimeout := stTimeout', quiesce := quiesce', sec := sec' } := by
  simpa only [Canon, State.tablesOk, hl, hm, hp, hh, hg] using hs

/-- A record update that names neither a table nor the recorder, the CXL port or a mailbox. -/
theorem update_canon {s : State}
    {pending' out' freeCtr' flits' buckleNext' buckle' xingAlarm' incs' reports' gsigs' gregs' fabric' resps' runs' probe'
    nextId' dram' dramPoison' loose' lookup' lkWork' tasks' resv' queues' rrQueue' submit' stashTimeout' rhaor' links' net'
    mir' time' regions' duty' power' act' reqHost' reqMgmt' reqFw' staging' mbQueue' stTimeout' quiesce' sec'}
    (hs : Canon s) :
    Canon { s with
      pending := pending', out := out', freeCtr := freeCtr', flits := flits', buckleNext := buckleNext', buckle := buckle',
      xingAlarm := xingAlarm', incs := incs', reports := reports', gsigs := gsigs', gregs := gregs', fabric := fabric',
      resps := resps', runs := runs', probe := probe', nextId := nextId', dram := dram', dramPoison := dramPoison',
      loose := loose', lookup := lookup', lkWork := lkWork', tasks := tasks', resv := resv', queues := queues',
      rrQueue := rrQueue', submit := submit', stashTimeout := stashTimeout', rhaor := rhaor', links := links',
      net := net', mir := mir', time := time', regions := regions', duty := duty', power := power', act := act',
      reqHost := reqHost', reqMgmt := reqMgmt', reqFw := reqFw', staging := staging', mbQueue := mbQueue',
      stTimeout := stTimeout', quiesce := quiesce', sec := sec' } :=
  update_canon_of hs rfl rfl rfl rfl rfl

/-- A command that goes on does so in a state whose tables are canonical. -/
def CanonOut (o : Out) : Prop := ∀ t, o = .next t → Canon t


theorem next_canon (hs : Canon s) : CanonOut (.next s) := fun _ h => Host.Outcome.next.inj h ▸ hs

theorem ite_canon {p : Prop} [Decidable p] (hs : Canon s) (ht : Canon t) : Canon (if p then s else t) := by
  split
  · exact hs
  · exact ht

theorem ite_canonOut {p : Prop} [Decidable p] {o u : Out} (ho : CanonOut o) (hu : CanonOut u) : CanonOut (if p then o else u) := by
  split
  · exact ho
  · exact hu

theorem dite_canon {p : Prop} [Decidable p] {f : p → State} {g : ¬p → State} (hf : ∀ h, Canon (f h)) (hg : ∀ h, Canon (g h)) :
    Canon (if h : p then f h else g h) := by
  split
  · exact hf _
  · exact hg _

theorem dite_canonOut {p : Prop} [Decidable p] {f : p → Out} {g : ¬p → Out} (hf : ∀ h, CanonOut (f h)) (hg : ∀ h, CanonOut (g h)) :
    CanonOut (if h : p then f h else g h) := by
  split
  · exact hf _
  · exact hg _

theorem foldl_canon {β : Type} {f : State → β → State} {l : List β} (hf : ∀ s x, Canon s → Canon (f s x)) (hs : Canon s) :
    Canon (l.foldl f s) := by
  induction l generalizing s with
  | nil => exact hs
  | cons x xs ih => exact ih (hf s x hs)

theorem foldl_canon_fst {α β : Type} {f : State × α → β → State × α} {l : List β} {a : State × α}
    (hf : ∀ a x, Canon a.1 → Canon (f a x).1) (ha : Canon a.1) : Canon (l.foldl f a).1 := by
  induction l generalizing a with
  | nil => exact ha
  | cons x xs ih => exact ih (hf a x ha)

theorem foldl_canon_snd {α β : Type} {f : α × State → β → α × State} {l : List β} {a : α × State}
    (hf : ∀ a x, Canon a.2 → Canon (f a x).2) (ha : Canon a.2) : Canon (l.foldl f a).2 := by
  induction l generalizing a with
  | nil => exact ha
  | cons x xs ih => exact ih (hf a x ha)

theorem foldl_canon_trd {α β γ : Type} {f : α × β × State → γ → α × β × State} {l : List γ} {a : α × β × State}
    (hf : ∀ a x, Canon a.2.2 → Canon (f a x).2.2) (ha : Canon a.2.2) : Canon (l.foldl f a).2.2 := by
  induction l generalizing a with
  | nil => exact ha
  | cons x xs ih => exact ih (hf a x ha)

/-- The parts of the canonical form, one for each table or family of tables. -/
theorem canon_iff : Canon s ↔ twf GCounter.reset s.gctr = true ∧ twf noEvent s.recorder.log = true ∧
    (∀ p : SecIx, twf 0 s.ports[p].postponed = true) ∧ (∀ c : CoreIx, twf 0 s.cores[c].wb = true) ∧
    twf 0 s.mbHost.data = true ∧ twf 0 s.mbMgmt.data = true ∧ twf true s.cxl.masked = true ∧ twf false s.cxl.pendingBits = true := by
  simp only [Canon, State.tablesOk, Bool.and_eq_true, Vector.all_eq_true, and_assoc, Fin.forall_iff]
  rfl

theorem Canon.log (hs : Canon s) : twf noEvent s.recorder.log = true := (canon_iff.mp hs).2.1

theorem modCore_canon_of {c : CoreIx} {f : Core → Core} (hf : twf 0 s.cores[c].wb = true → twf 0 (f s.cores[c]).wb = true)
    (hs : Canon s) : Canon (modCore s c f) := by
  obtain ⟨hg, hl, hp, hc, hr⟩ := canon_iff.mp hs
  refine canon_iff.mpr ⟨hg, hl, hp, fun d => ?_, hr⟩
  by_cases h : d = c
  · rw [h, modCore_core]; exact hf (hc c)
  · rw [modCore_other _ _ _ h]; exact hc d

theorem modCore_canon {c : CoreIx} {f : Core → Core} (hf : ∀ x, (f x).wb = x.wb) (hs : Canon s) : Canon (modCore s c f) :=
  modCore_canon_of (fun h => (hf _).symm ▸ h) hs

theorem cores_map_canon_of {f : Core → Core} (hf : ∀ x, twf 0 x.wb = true → twf 0 (f x).wb = true) (hs : Canon s) :
    Canon { s with cores := s.cores.map f } := by
  obtain ⟨hg, hl, hp, hc, hr⟩ := canon_iff.mp hs
  refine canon_iff.mpr ⟨hg, hl, hp, fun d => ?_, hr⟩
  simpa using hf _ (hc d)

theorem cores_map_canon {f : Core → Core} (hf : ∀ x, (f x).wb = x.wb) (hs : Canon s) : Canon { s with cores := s.cores.map f } :=
  cores_map_canon_of (fun x h => (hf x).symm ▸ h) hs

theorem modPort_canon_of {p : SecIx} {f : Port → Port}
    (hf : twf 0 s.ports[p].postponed = true → twf 0 (f s.ports[p]).postponed = true) (hs : Canon s) : Canon (modPort s p f) := by
  obtain ⟨hg, hl, hp, hr⟩ := canon_iff.mp hs
  refine canon_iff.mpr ⟨hg, hl, fun d => ?_, hr⟩
  by_cases h : p.val = d.val
  · simpa [modPort, Fin.ext h] using hf (hp p)
  · simpa [modPort, h] using hp d

theorem modPort_canon {p : SecIx} {f : Port → Port} (hf : ∀ x, (f x).postponed = x.postponed) (hs : Canon s) :
    Canon (modPort s p f) :=
  modPort_canon_of (fun h => (hf _).symm ▸ h) hs

theorem cores_set_canon_of {c : CoreIx} {x : Core} (hx : twf 0 x.wb = true) (hs : Canon s) : Canon { s with cores := s.cores.set c x } :=
  modCore_canon_of (f := fun _ => x) (fun _ => hx) hs

theorem ports_map_canon_of {f : Port → Port} (hf : ∀ x, twf 0 x.postponed = true → twf 0 (f x).postponed = true) (hs : Canon s) :
    Canon { s with ports := s.ports.map f } := by
  obtain ⟨hg, hl, hp, hr⟩ := canon_iff.mp hs
  refine canon_iff.mpr ⟨hg, hl, fun d => ?_, hr⟩
  simpa using hf _ (hp d)

theorem setPort_wb (x : Core) (d : Side) (q : List PortGran) : (x.setPort d q).wb = x.wb := by cases d <;> rfl

theorem setWinWrites_wb (x : Core) (d : Side) (ws : List WinWrite) : (x.setWinWrites d ws).wb = x.wb := by cases d <;> rfl

/-! ### State operations -/

theorem modCtx_canon {c k f} (hs : Canon s) : Canon (modCtx s c k f) :=
  modCore_canon (fun _ => rfl) hs

theorem modTask_canon {t f} (hs : Canon s) : Canon (modTask s t f) :=
  update_canon hs

theorem modCmd_canon {t f} (hs : Canon s) : Canon (modCmd s t f) :=
  modTask_canon hs

theorem modLink_canon {p f} (hs : Canon s) : Canon (modLink s p f) :=
  update_canon hs

theorem modDuty_canon {p f} (hs : Canon s) : Canon (modDuty s p f) :=
  update_canon hs

theorem modRegion_canon {r f} (hs : Canon s) : Canon (modRegion s r f) :=
  update_canon hs

theorem modQueue_canon {q f} (hs : Canon s) : Canon (modQueue s q f) :=
  update_canon hs

theorem mapTaskCores_canon {t f} (hf : ∀ x, (f x).wb = x.wb) (hs : Canon s) : Canon (mapTaskCores s t f) :=
  cores_map_canon (fun x => by split; exacts [hf x, rfl]) hs

theorem actAdd_canon {p f} (hs : Canon s) : Canon (actAdd p f s) :=
  update_canon hs

theorem emit_canon {m} (hs : Canon s) : Canon (emit s m) :=
  update_canon hs

theorem rebase_canon {ft step} (hs : Canon s) : Canon (rebase ft step s) :=
  cores_map_canon (fun _ => rfl) (update_canon hs)

theorem record_canon {code sev unit a0 a1 a2} (hs : Canon s) : Canon (record s code sev unit a0 a1 a2) :=
  update_canon_of hs rfl rfl rfl rfl rfl

theorem haltTask_canon {t r} (hs : Canon s) : Canon (haltTask t r s) := by
  unfold haltTask
  dsimp only
  split
  · exact ite_canon (modTask_canon hs) hs
  · exact ite_canon (modTask_canon hs) (mapTaskCores_canon (fun _ => rfl) (modTask_canon hs))

theorem faultCtx_canon {c k cause inf pc} (hs : Canon s) : Canon (faultCtx c k cause inf pc s) := by
  have stopped (f g : Ctx → Ctx) : Canon (modCore (modCtx s c k f) c fun y => (y.unqueue k).modCtx k g) :=
    modCore_canon (fun _ => rfl) (modCtx_canon hs)
  have latched (h : Option (BitVec 13)) (held : Bool) : Canon (latchState c k cause inf pc h held s) := record_canon (stopped _ _)
  refine ite_canon (ite_canon ?_ (modCtx_canon hs)) (ite_canon (ite_canon ?_ (modCtx_canon hs)) (ite_canon (latched _ _) ?_))
  · split
    · exact haltTask_canon (stopped _ _)
    · exact stopped _ _
  · refine update_canon ?_
    split
    · exact ite_canon (modTask_canon (modCtx_canon (modCtx_canon hs))) (modCtx_canon (modCtx_canon hs))
    · exact modCtx_canon (modCtx_canon hs)
  · split
    · exact haltTask_canon (latched _ _)
    · exact latched _ _

theorem returnFromFault_canon {c k} (hs : Canon s) : Canon (returnFromFault c k s) :=
  modCtx_canon hs

theorem faultNow_canon {c k cause inf} (hs : Canon s) : Canon (faultNow c k cause inf s) :=
  faultCtx_canon hs

theorem serveCounter_canon {c n} (hs : Canon s) : Canon (serveCounter c n s) :=
  foldl_canon (fun _ _ => modCtx_canon) (modCore_canon (fun _ => rfl) hs)

theorem pushInc_canon {i} (hs : Canon s) : Canon (pushInc s i) :=
  update_canon hs

theorem signalOwn_canon {c n amt d src k pc} (hs : Canon s) : Canon (signalOwn s c n amt d src k pc) :=
  pushInc_canon hs

theorem reportOverflow_canon {i} (hs : Canon s) : Canon (reportOverflow i s) :=
  ite_canon (modCore_canon (fun _ => rfl) hs) (ite_canon (update_canon hs) (faultCtx_canon hs))

theorem applyCounter_canon {c n} (hs : Canon s) : Canon (applyCounter c n s) :=
  ite_canon hs (ite_canon (serveCounter_canon (modCore_canon (fun _ => rfl) (foldl_canon (fun _ _ hu => ite_canon (modCore_canon
      (fun _ => rfl) hu) hu) (modCore_canon (fun _ => rfl) (update_canon hs))))) (foldl_canon (fun _ _ => reportOverflow_canon)
      (serveCounter_canon (record_canon (modCore_canon (fun _ => rfl) (foldl_canon (fun _ _ hu => ite_canon (modCore_canon
      (fun _ => rfl) hu) hu) (modCore_canon (fun _ => rfl) (update_canon hs))))))))

/-! ### Operands -/

theorem noteIssue_canon {c k} (hs : Canon s) : Canon (noteIssue c k s) :=
  modCore_canon (fun _ => rfl) hs

theorem retireTo_canon {c k pc} (hs : Canon s) : Canon (retireTo c k pc s) :=
  noteIssue_canon (modCtx_canon hs)

theorem retire_canon {c k} (hs : Canon s) : Canon (retire c k s) :=
  retireTo_canon hs

theorem retireFault_canon {c k cause inf} (hs : Canon s) : Canon (retireFault c k cause inf s) :=
  noteIssue_canon (faultNow_canon hs)

theorem issue_canon {c k w dc srcs f} (hf : Canon s → Canon (f s)) (hs : Canon s) : CanonOut (issue c k w dc srcs s f) :=
  next_canon (ite_canon (hf hs) hs)

theorem jumpTo_canon {c k pc} (hs : Canon s) : Canon (jumpTo c k pc s) :=
  retireTo_canon (modCtx_canon hs)

theorem withFreeInfo_canon {f} (hf : ∀ x0 u, Canon u → Canon (f x0 u)) (hs : Canon s) : Canon (withFreeInfo s f) :=
  hf _ _ (update_canon hs)

theorem waitOn_canon {c k kind obj} (hs : Canon s) : Canon (waitOn c k kind obj s) :=
  noteIssue_canon (modCtx_canon (ite_canon (update_canon hs) hs))

theorem result_canon {c k rd v lat} (hs : Canon s) : Canon (result c k rd v lat s) :=
  retire_canon (modCtx_canon hs)

theorem takeBanks_canon {c a n} (hs : Canon s) : Canon (takeBanks s c a n) :=
  modCore_canon (fun _ => rfl) hs

/-! ### Background accesses -/

theorem bgWrite_canon {c a bs poison} (hs : Canon s) : Canon (bgWrite c a bs poison s) :=
  modCore_canon (fun _ => rfl) (takeBanks_canon hs)

theorem foundCorrected_canon {c a} (hs : Canon s) : Canon (foundCorrected c a s) :=
  modCore_canon (fun _ => rfl) hs

theorem foundUncorrectable_canon {c agent a} (hs : Canon s) : Canon (foundUncorrectable c agent a s) :=
  record_canon (modCore_canon (fun _ => rfl) hs)

theorem applyEcc_canon {c agent a e} (hs : Canon s) : Canon (applyEcc c agent a e s) := by
  unfold applyEcc
  split
  · exact hs
  · exact foundCorrected_canon hs
  · exact foundUncorrectable_canon hs

theorem applyFinds_canon {c agent ok found} (hs : Canon s) : Canon (applyFinds c agent ok found s) :=
  foldl_canon (fun _ _ hu => ite_canon (applyEcc_canon hu) hu) hs

theorem backgroundEcc_canon {c a e} (hs : Canon s) : Canon (backgroundEcc c a e s) := by
  unfold backgroundEcc
  split
  · exact foundUncorrectable_canon (update_canon hs)
  · exact applyEcc_canon hs

theorem backgroundFinds_canon {c a n found} (hs : Canon s) : Canon (backgroundFinds c a n found s) :=
  foldl_canon (fun _ _ hu => ite_canon (backgroundEcc_canon hu) hu) hs

/-! ### Control contexts -/

theorem alu_canon {c k rd ra rb fn lat f} (hs : Canon s) : CanonOut (alu c k rd ra rb fn lat f s) :=
  issue_canon result_canon hs

theorem aluImm_canon {c k op rd ra imm f} (hs : Canon s) : CanonOut (aluImm c k op rd ra imm f s) :=
  issue_canon result_canon hs

theorem checkedAccess_canon {c k ad imm f} (hf : ∀ x0 u, Canon u → Canon (f x0 u)) (hs : Canon s) : Canon (checkedAccess c k ad imm
    s f) :=
  ite_canon (withFreeInfo_canon (fun _ _ => retireFault_canon) hs) (ite_canon (withFreeInfo_canon (fun _ _ => retireFault_canon)
      hs) (hf _ _ hs))

theorem execLd_canon {c k rd ad imm} (hs : Canon s) : CanonOut (execLd c k rd ad imm s) :=
  issue_canon (checkedAccess_canon (fun _ _ hv => retire_canon (modCtx_canon hv))) hs

theorem execLdBankRead_canon {c k found} (hs : Canon s) : CanonOut (execLdBankRead c k found s) := by
  unfold execLdBankRead
  split
  · exact next_canon hs
  · exact ite_canonOut (next_canon (withFreeInfo_canon (fun _ _ => faultCtx_canon) (modCtx_canon (backgroundEcc_canon
        (takeBanks_canon (modCtx_canon hs)))))) (next_canon (modCtx_canon (backgroundEcc_canon (takeBanks_canon (modCtx_canon
        hs)))))

theorem execSt_canon {c k rs ad imm} (hs : Canon s) : CanonOut (execSt c k rs ad imm s) :=
  issue_canon (checkedAccess_canon (fun _ _ hv => retire_canon (modCore_canon (fun _ => rfl) hv))) hs

theorem execMova_canon {c k ad ra} (hs : Canon s) : CanonOut (execMova c k ad ra s) :=
  issue_canon (fun hu => retire_canon (modCtx_canon hu)) hs

theorem execAdda_canon {c k ad ad2 imm} (hs : Canon s) : CanonOut (execAdda c k ad ad2 imm s) :=
  issue_canon (fun hu => retire_canon (modCtx_canon hu)) hs

theorem branch_canon {c k op ra rb off p} (hs : Canon s) : CanonOut (branch c k op ra rb off p s) :=
  issue_canon (fun hu => ite_canon (jumpTo_canon hu) (retire_canon hu)) hs

theorem execJal_canon {c k rd imm} (hs : Canon s) : CanonOut (execJal c k rd imm s) :=
  issue_canon (fun hu => jumpTo_canon (modCtx_canon hu)) hs

theorem rangeFault_canon {c k n} (hs : Canon s) : Canon (rangeFault c k n s) :=
  retireFault_canon hs

theorem sendSignal_canon {c k t ctr n d src} (hs : Canon s) : Canon (sendSignal c k t ctr n d src s) :=
  ite_canon hs (pushInc_canon hs)

theorem execSig_canon {c k ctr n} (hs : Canon s) : CanonOut (execSig c k ctr n s) :=
  issue_canon (fun hu => ite_canon (rangeFault_canon hu) (retire_canon (sendSignal_canon hu))) hs

theorem sigNeighbour_canon {c t k closed ctr n src} (hs : Canon s) : Canon (sigNeighbour c t k closed ctr n src s) :=
  ite_canon (rangeFault_canon hs) (ite_canon (retireFault_canon hs) (retire_canon (sendSignal_canon hs)))

theorem execSigC_canon {c k ra rb ctr} (hs : Canon s) : CanonOut (execSigC c k ra rb ctr s) := by
  refine issue_canon (fun hu => ite_canon (rangeFault_canon hu) ?_) hs
  split
  · exact hu
  · exact dite_canon (fun _ => ite_canon (retire_canon (sendSignal_canon hu)) (retireFault_canon hu)) (fun _ => retireFault_canon
        hu)

theorem gsigSend_canon {c k a b} (hs : Canon s) : Canon (gsigSend c k a b s) := by
  unfold gsigSend
  split
  · exact hs
  · exact ite_canon (retireFault_canon hs) (ite_canon (retireFault_canon hs) (ite_canon (ite_canon (ite_canon (withFreeInfo_canon
        (fun _ _ => retireFault_canon) hs) (ite_canon (retire_canon hs) (retire_canon (update_canon hs)))) (ite_canon (retire_canon
        hs) (retire_canon (update_canon hs)))) (ite_canon (ite_canon (retireFault_canon hs) (ite_canon (retireFault_canon hs)
        (retire_canon (update_canon hs)))) (ite_canon (retire_canon (update_canon hs)) (ite_canon (retireFault_canon hs)
        (retire_canon (update_canon hs)))))))

theorem gsig_canon {c k ra rb op} (hs : Canon s) : CanonOut (gsig c k ra rb op s) :=
  ite_canonOut (issue_canon gsigSend_canon hs) (next_canon hs)

theorem consume_canon {c ctr n} (hs : Canon s) : Canon (consume c ctr n s) :=
  modCore_canon (fun _ => rfl) hs

theorem joinQueue_canon {c k ctr n} (hs : Canon s) : Canon (joinQueue c k ctr n s) :=
  modCore_canon (fun _ => rfl) hs

theorem execWait_canon {c k ctr n} (hs : Canon s) : CanonOut (execWait c k ctr n s) :=
  issue_canon (fun hu => ite_canon (rangeFault_canon hu) (ite_canon (retire_canon hu) (ite_canon (retireFault_canon hu)
      (ite_canon (retire_canon (consume_canon hu)) (waitOn_canon (joinQueue_canon hu)))))) hs

theorem execTake_canon {c k ctr n} (hs : Canon s) : CanonOut (execTake c k ctr n s) :=
  issue_canon (fun hu => ite_canon (rangeFault_canon hu) (ite_canon (retire_canon (consume_canon hu)) (retireFault_canon hu))) hs

theorem execCtrrd_canon {c k rd ctr} (hs : Canon s) : CanonOut (execCtrrd c k rd ctr s) :=
  issue_canon (fun hu => ite_canon (rangeFault_canon hu) (result_canon hu)) hs

theorem execSrset_canon {c k ra rb} (hs : Canon s) : CanonOut (execSrset c k ra rb s) :=
  issue_canon (fun hu => retire_canon (modCtx_canon hu)) hs

theorem execVflg_canon {c k rd imm} (hs : Canon s) : CanonOut (execVflg c k rd imm s) :=
  issue_canon (fun hu => result_canon (modCtx_canon hu)) hs

theorem execYield_canon {c k} (hs : Canon s) : CanonOut (execYield c k s) :=
  issue_canon (fun hu => modCore_canon (fun _ => rfl) (retire_canon hu)) hs

theorem execHalt_canon {c k} (hs : Canon s) : CanonOut (execHalt c k s) :=
  issue_canon (fun hu => noteIssue_canon (modCtx_canon hu)) hs

theorem execTrap_canon {c k imm} (hs : Canon s) : CanonOut (execTrap c k imm s) :=
  ite_canonOut (next_canon hs) (issue_canon retireFault_canon hs)

theorem execTrapReturn_canon {c k} (hs : Canon s) : CanonOut (execTrapReturn c k s) :=
  ite_canonOut (issue_canon (fun hu => noteIssue_canon (returnFromFault_canon hu)) hs) (next_canon hs)

theorem execIllegal_canon {c k word} (hs : Canon s) : CanonOut (execIllegal c k word s) :=
  ite_canonOut (next_canon hs) (issue_canon (withFreeInfo_canon (fun _ _ => retireFault_canon)) hs)

theorem execContextWake_canon {c k} (hs : Canon s) : CanonOut (execContextWake c k s) := by
  unfold execContextWake
  dsimp only
  split
  · exact next_canon hs
  · exact ite_canonOut (next_canon (modCtx_canon hs)) (next_canon hs)

theorem execCounterOverflowReport_canon {c} (hs : Canon s) : CanonOut (execCounterOverflowReport c s) := by
  unfold execCounterOverflowReport
  split
  · exact next_canon hs
  · exact next_canon (faultCtx_canon (update_canon hs))

/-! ### Launches -/

theorem fixDuty_canon {g} (hs : Canon s) : Canon (fixDuty s g) :=
  foldl_canon (fun _ _ => modDuty_canon) (update_canon hs)

theorem execDutyBeat_canon {sec} (hs : Canon s) : CanonOut (execDutyBeat sec s) :=
  ite_canonOut (next_canon (fixDuty_canon (foldl_canon (fun _ _ => modDuty_canon) hs))) (next_canon hs)

theorem execSegmentRest_canon {sec} (hs : Canon s) : CanonOut (execSegmentRest sec s) :=
  ite_canonOut (next_canon (foldl_canon (fun _ _ => modDuty_canon) hs)) (next_canon hs)

theorem startRamp_canon {c} (hs : Canon s) : Canon (startRamp s c) :=
  ite_canon (ite_canon (fixDuty_canon (foldl_canon (fun _ _ => modDuty_canon) hs)) (foldl_canon (fun _ _ => modDuty_canon) hs)) hs

theorem launch_canon {c k ctr f} (hf : ∀ u, Canon u → Canon (f u)) (hs : Canon s) : Canon (launch c k ctr s f) :=
  ite_canon (rangeFault_canon hs) (ite_canon (waitOn_canon hs) (hf _ hs))

theorem recordLaunch_canon {c k l} (hs : Canon s) : Canon (recordLaunch c k l s) :=
  retire_canon (modCore_canon (fun _ => rfl) hs)

theorem execLaunch_canon {c k blk ctr} (hs : Canon s) : CanonOut (execLaunch c k blk ctr s) :=
  issue_canon (launch_canon (fun _ => recordLaunch_canon)) hs

theorem execLaunchSeg_canon {c k blk ctr} (hs : Canon s) : CanonOut (execLaunchSeg c k blk ctr s) :=
  issue_canon (launch_canon (fun _ => recordLaunch_canon)) hs

theorem lateAction_canon {unitClass stated effect} (hs : Canon s) : Canon (lateAction s unitClass stated effect) :=
  record_canon (update_canon hs)

theorem execLaunchAt_canon {c k blk ctr rf} (hs : Canon s) : CanonOut (execLaunchAt c k blk ctr rf s) :=
  issue_canon (launch_canon (fun _ hv => ite_canon (withFreeInfo_canon (fun _ _ => retireFault_canon) (modCore_canon (fun _ => rfl)
      (lateAction_canon hv))) (recordLaunch_canon hv))) hs

theorem startBlock_canon {c} (hs : Canon s) : Canon (startBlock s c) := by
  unfold startBlock
  split
  · exact hs
  · exact startRamp_canon (modCore_canon (fun _ => rfl) hs)

theorem execLocalBlockStart_canon {c} (hs : Canon s) : CanonOut (execLocalBlockStart c s) := by
  unfold execLocalBlockStart
  split
  · exact ite_canonOut (next_canon (startBlock_canon hs)) (next_canon hs)
  · exact next_canon hs

theorem execSegmentArrival_canon {c} (hs : Canon s) : CanonOut (execSegmentArrival c s) := by
  unfold execSegmentArrival
  split
  · exact ite_canonOut (next_canon (modCore_canon (fun _ => rfl) hs)) (next_canon hs)
  · exact next_canon hs

theorem execSegmentLaunchStart_canon {c} (hs : Canon s) : CanonOut (execSegmentLaunchStart c s) := by
  unfold execSegmentLaunchStart
  dsimp only
  split
  · refine ite_canonOut (ite_canonOut (next_canon (foldl_canon (fun _ _ hu => startBlock_canon (modCore_canon (fun _ => rfl) hu))
        hs)) (next_canon (foldl_canon (fun _ _ hu => ?_) hs))) (next_canon hs)
    split
    · exact hu
    · exact withFreeInfo_canon (fun _ _ => faultCtx_canon) (modCore_canon (fun _ => rfl) hu)
  · exact next_canon hs

theorem atFails_canon {u c} (hu : Canon u) : Canon (atFails s u c) := by
  unfold atFails
  split
  · exact hu
  · exact withFreeInfo_canon (fun _ _ => faultCtx_canon) (modCore_canon (fun _ => rfl) hu)

theorem execTimedLaunchStart_canon {c} (hs : Canon s) : CanonOut (execTimedLaunchStart c s) :=
  next_canon (foldl_canon (fun _ _ => atFails_canon) (foldl_canon (fun _ _ hu => startBlock_canon (modCore_canon (fun _ => rfl)
      hu)) hs))

theorem execBlockComplete_canon {c} (hs : Canon s) : CanonOut (execBlockComplete c s) := by
  unfold execBlockComplete
  split
  · exact next_canon hs
  · exact ite_canonOut (next_canon (signalOwn_canon (modCore_canon (fun _ => rfl) (update_canon hs)))) (next_canon hs)

/-! ### GIRTH -/

theorem girthFail_canon {c t reason expect observed lane empty} (hs : Canon s) : Canon (girthFail c t reason expect observed lane
    empty s) := by
  unfold girthFail
  dsimp only
  split
  · exact hs
  · split
    · exact modCore_canon (fun _ => rfl) (record_canon hs)
    · exact modCore_canon (fun _ => rfl) hs

theorem issueT_canon {c w f} (hf : ∀ x0 x1 u, Canon u → Canon (f x0 x1 u)) (hs : Canon s) : CanonOut (issueT c w s f) := by
  unfold issueT
  split
  · exact next_canon hs
  · exact ite_canonOut (next_canon (hf _ _ _ (modCore_canon (fun _ => rfl) hs))) (next_canon hs)

theorem pushUpdT_canon {c us} (hs : Canon s) : Canon (pushUpdT c us s) :=
  modCore_canon (fun _ => rfl) hs

theorem execTnop_canon {c} (hs : Canon s) : CanonOut (execTnop c s) :=
  issueT_canon (fun _ _ _ hu => hu) hs

theorem execGinj_canon {c g} (hs : Canon s) : CanonOut (execGinj c g s) :=
  issueT_canon (fun _ _ _ hu => pushUpdT_canon (modCore_canon (fun _ => rfl) (ite_canon (record_canon hu) hu))) hs

theorem execFlitInject_canon {c lane found} (hs : Canon s) : CanonOut (execFlitInject c lane found s) := by
  unfold execFlitInject
  dsimp only
  split
  · exact next_canon hs
  · split
    · exact next_canon hs
    · refine ite_canonOut (next_canon hs) ?_
      split
      · exact next_canon (girthFail_canon (modCore_canon (fun _ => rfl) (applyFinds_canon hs)))
      · exact next_canon (update_canon (modCore_canon (fun _ => rfl) (applyFinds_canon hs)))

theorem execFlitHop_canon {lane c upset} (hs : Canon s) : CanonOut (execFlitHop lane c upset s) := by
  unfold execFlitHop
  split
  · exact next_canon hs
  · exact next_canon (ite_canon (record_canon (actAdd_canon (update_canon hs))) (actAdd_canon (update_canon hs)))

theorem absorbAt_canon {c lane} (hs : Canon s) : Canon (absorbAt c lane s) :=
  update_canon hs

theorem execGsink_canon {c station} (hs : Canon s) : CanonOut (execGsink c station s) :=
  ite_canonOut (issueT_canon (fun _ _ _ hu => absorbAt_canon (modCore_canon (fun _ => rfl) hu)) hs) (next_canon hs)

theorem capture_canon {c g b t} (hs : Canon s) : Canon (capture c g b t s) :=
  ite_canon (pushUpdT_canon (modCore_canon (fun _ => rfl) (ite_canon hs (ite_canon (modCore_canon (fun _ => rfl) hs)
      (girthFail_canon hs))))) (modCore_canon (fun _ => rfl) (ite_canon hs (ite_canon (modCore_canon (fun _ => rfl) hs)
      (girthFail_canon hs))))

theorem execGcap_canon {c g} (hs : Canon s) : CanonOut (execGcap c g s) :=
  ite_canonOut (issueT_canon (fun _ _ _ => capture_canon) hs) (next_canon hs)

theorem execGcapS_canon {c g} (hs : Canon s) : CanonOut (execGcapS c g s) :=
  ite_canonOut (issueT_canon (fun _ _ _ hu => absorbAt_canon (capture_canon hu)) hs) (next_canon hs)

theorem addrError_canon {c agent} (hs : Canon s) : Canon (addrError c agent s) :=
  modCore_canon (fun _ => rfl) (update_canon hs)

theorem blockWrite_canon {c agent issued part addr bs poison} (hs : Canon s) : Canon (blockWrite c agent issued part addr bs poison
    s) :=
  ite_canon (modCore_canon (fun _ => rfl) hs) (addrError_canon hs)

theorem execGcapWrite_canon {c} (hs : Canon s) : CanonOut (execGcapWrite c s) := by
  unfold execGcapWrite
  split
  · exact next_canon hs
  · exact next_canon (foldl_canon (fun _ _ => blockWrite_canon) (modCore_canon (fun _ => rfl) hs))

theorem tsigFail_canon {c cause inf} (hs : Canon s) : Canon (tsigFail c cause inf s) :=
  modCore_canon (fun _ => rfl) hs

theorem execTsig_canon {c target ctr n} (hs : Canon s) : CanonOut (execTsig c target ctr n s) :=
  issueT_canon (fun _ _ _ hu => ite_canon (tsigFail_canon hu) (ite_canon (tsigFail_canon hu) (ite_canon hu (pushInc_canon hu)))) hs

theorem execTrset_canon {c tr field imm} (hs : Canon s) : CanonOut (execTrset c tr field imm s) :=
  issueT_canon (fun _ _ _ => pushUpdT_canon) hs

theorem execTradd_canon {c tr field imm} (hs : Canon s) : CanonOut (execTradd c tr field imm s) :=
  issueT_canon (fun _ _ _ => pushUpdT_canon) hs

theorem execBaadd_canon {c ba imm} (hs : Canon s) : CanonOut (execBaadd c ba imm s) :=
  issueT_canon (fun _ _ _ => pushUpdT_canon) hs

theorem execLoop_canon {c len count} (hs : Canon s) : CanonOut (execLoop c len count s) :=
  issueT_canon (fun _ _ _ => modCore_canon (fun _ => rfl)) hs

/-! ### The fabric and stacked memory -/

theorem loosen_canon {a n} (hs : Canon s) : Canon (loosen a n s) :=
  update_canon hs

theorem dramWrite_canon {a bs pois} (hs : Canon s) : Canon (dramWrite a bs pois s) :=
  foldl_canon (fun _ _ hu => ite_canon (modPort_canon (fun _ => rfl) hu) hu) (update_canon hs)

theorem countPoison_canon {a n} (hs : Canon s) : Canon (countPoison a n s) :=
  foldl_canon (fun _ _ => modPort_canon (fun _ => rfl)) hs

theorem dramEcc_canon {a e} (hs : Canon s) : Canon (dramEcc a e s) := by
  unfold dramEcc
  dsimp only
  refine ite_canon hs ?_
  cases e with
  | clean => exact hs
  | corrected => exact record_canon (modPort_canon (fun _ => rfl) hs)
  | uncorrectable => exact record_canon (modPort_canon (fun x => by split <;> rfl) (update_canon hs))

theorem checkWords_canon {ws found} (hs : Canon s) : Canon (checkWords ws found s) := by
  refine foldl_canon (fun _ _ hu => ?_) hs
  split
  · exact dramEcc_canon (countPoison_canon hu)
  · exact countPoison_canon hu

theorem sendSnoop_canon {l inv} (hs : Canon s) : Canon (sendSnoop l inv s) :=
  emit_canon (update_canon_of hs rfl rfl rfl rfl rfl)

theorem noteReleased_canon {before after} (hu : Canon after) : Canon (noteReleased before after) := by
  unfold noteReleased
  split
  · exact hu
  · exact update_canon hu

/-- `stashAlloc` is opened by name and not by its value at `s`, and its task is forgotten at once: else the kernel would compute the
number of the stash's pages. -/
theorem stashAlloc_canon {i sid pg x} (hs : Canon s) (h : stashAlloc i sid pg s = some x) : Canon x.2 := by
  generalize hf : stashAlloc = f at h
  delta stashAlloc at hf
  subst hf
  beta_reduce at h
  extract_lets +onlyGivenNames T y at h
  clear_value y T
  split at h
  · obtain rfl := Option.some.inj h
    exact modTask_canon hs
  · split at h
    · split at h
      · obtain rfl := Option.some.inj h
        exact modTask_canon (ite_canon hs (record_canon (update_canon hs)))
      · cases h
    · cases h

theorem putFrame_canon {p k} (hs : Canon s) : Canon (putFrame p k s) :=
  emit_canon (modLink_canon (actAdd_canon hs))

theorem sendFrame_canon {p k from_} (hs : Canon s) : Canon (sendFrame p k from_ s) :=
  ite_canon (putFrame_canon hs) (modLink_canon hs)

theorem sendPacket_canon {k} (hs : Canon s) (h : sendPacket k s = some t) : Canon t := by
  unfold sendPacket at h
  split at h
  · cases h
  · cases h
    exact sendFrame_canon hs

theorem answerRun_canon {key id write bytes poison} (hs : Canon s) : Canon (answerRun key id write bytes poison s) :=
  update_canon hs

theorem failReq_canon {r} (hs : Canon s) : Canon (failReq r s) := by
  unfold failReq
  split
  · exact answerRun_canon hs
  · exact update_canon hs

theorem answerReq_canon {r data poison} (hs : Canon s) : Canon (answerReq r data poison s) :=
  update_canon hs

theorem slowEmit_canon {m} (hs : Canon s) : Canon (slowEmit m s) :=
  emit_canon (update_canon_of (actAdd_canon hs) rfl rfl rfl rfl rfl)

theorem slowDrain_canon (n : Nat) (hs : Canon s) : Canon (slowDrain n s) := by
  induction n generalizing s with
  | zero => exact hs
  | succ n ih =>
    unfold slowDrain
    split
    · exact hs
    · exact ih (slowEmit_canon (update_canon hs))

theorem slowGo_canon {r} (hs : Canon s) : Canon (slowGo r s) :=
  slowDrain_canon _ (update_canon_of hs rfl rfl rfl rfl rfl)

theorem slowSend_canon {r} (hs : Canon s) : Canon (slowSend r s) := by
  refine ite_canon (failReq_canon hs) (ite_canon (ite_canon (failReq_canon hs) ?_) (ite_canon (failReq_canon hs) (slowGo_canon hs)))
  split
  · exact slowGo_canon hs
  · refine ite_canon (failReq_canon hs) ?_
    split
    · exact failReq_canon hs
    · exact slowGo_canon (update_canon hs)

theorem remotePacket_canon {r write data poison} (hs : Canon s) : Canon (remotePacket r write data poison s) := by
  unfold remotePacket
  dsimp only
  split
  · exact failReq_canon hs
  · next h => exact update_canon (sendPacket_canon hs h)

theorem remoteSend_canon {r} (hs : Canon s) : Canon (remoteSend r s) :=
  ite_canon (failReq_canon hs) (ite_canon (remotePacket_canon hs) (remotePacket_canon hs))

theorem enterMesh_canon {r} (hs : Canon s) : Canon (enterMesh r s) :=
  actAdd_canon (update_canon hs)

theorem sendReq_canon {r} (hs : Canon s) : Canon (sendReq r s) := by
  have go (a : Nat) {u : State} (hu : Canon u) : Canon (match spaceOf a with
      | some .slow => slowSend { r with addr := a } u
      | some .remote => remoteSend { r with addr := a } u
      | none | some .stash => failReq { r with addr := a } u
      | some .direct | some .param | some .table => enterMesh { r with addr := a } u) := by
    split
    · exact slowSend_canon hu
    · exact remoteSend_canon hu
    · exact failReq_canon hu
    · exact failReq_canon hu
    all_goals exact enterMesh_canon hu
  rw [sendReq]
  split
  · exact failReq_canon hs
  · exact slowSend_canon hs
  · exact remoteSend_canon hs
  · extract_lets q go'
    have hgo (a : Nat) {u : State} (hu : Canon u) : Canon (go' a u) := go (a + q.2.2) hu
    clear_value go' q
    split
    · exact failReq_canon hs
    next t _ =>
      cases s.tasks[t].stash.lookup q.1 q.2.1 with
      | some a => exact hgo a hs
      | none =>
        refine ite_canon (failReq_canon hs) ?_
        cases h : stashAlloc t q.1 q.2.1 s with
        | some v => exact hgo v.1 (stashAlloc_canon hs h)
        | none => exact modTask_canon hs
  · exact enterMesh_canon hs

theorem stashResume_canon {i} (hs : Canon s) : Canon (stashResume i s) := by
  rw [stashResume]
  refine foldl_canon (fun u x hu => ?_) (modTask_canon hs)
  extract_lets q
  clear_value q
  cases u.tasks[i].stash.lookup q.1 q.2.1 with
  | some _ => exact sendReq_canon hu
  | none =>
    cases h : stashAlloc i q.1 q.2.1 u with
    | some v => exact sendReq_canon (s := v.2) (stashAlloc_canon hu h)
    | none => exact modTask_canon hu

/-! ### Runs of requests -/

theorem devRead_canon {a n} (hs : Canon s) : Canon (devRead a n s).2.2 := by
  unfold devRead
  split
  · exact hs
  · exact update_canon hs

theorem see_canon {a n} (hs : Canon s) : Canon (see a n s) :=
  devRead_canon hs

theorem devWrite_canon {a bs poison} (hs : Canon s) : Canon (devWrite a bs poison s) :=
  update_canon hs

theorem writeRecord_canon {k a bs poison} (hs : Canon s) : Canon (writeRecord k a bs poison s) :=
  devWrite_canon hs

theorem runSend_canon {key t k write a n data poison} (hs : Canon s) : Canon (runSend key t k write a n data poison s) :=
  sendReq_canon (update_canon (ite_canon (actAdd_canon (ite_canon hs (update_canon hs))) (ite_canon hs (update_canon hs))))

theorem putRun_canon {u} (hs : Canon s) : Canon (putRun u s) :=
  update_canon hs

theorem runFetch_canon {u k p} (hs : Canon s) : Canon (runFetch u k p s) := by
  refine foldl_canon (fun _ _ hu => ite_canon ?_ hu) (putRun_canon hs)
  split
  · exact update_canon (runSend_canon hu)
  · exact runSend_canon hu

theorem runCommit_canon {u k wrote w} (hs : Canon w) : Canon (runCommit u k wrote w) :=
  update_canon (foldl_canon (fun _ _ => foldl_canon (fun _ _ => runSend_canon)) (foldl_canon (fun _ _ => runSend_canon)
      (putRun_canon (update_canon hs))))

theorem probing_canon {u} (hs : Canon s) : Canon (probing u s) :=
  update_canon hs

theorem engineRunIf_canon {key t k ready work} (hwork : ∀ u, Canon u → Canon (work u)) (hs : Canon s) : CanonOut (engineRunIf key t
    k ready work s) := by
  unfold engineRunIf
  dsimp only
  refine ite_canonOut (next_canon hs) ?_
  split
  · exact next_canon hs
  · exact ite_canonOut (next_canon (runFetch_canon hs)) (ite_canonOut (next_canon (runCommit_canon (hwork _ (probing_canon hs))))
        (next_canon hs))

theorem engineRun_canon {key t k ready work} (hwork : ∀ u, Canon u → Canon (work u)) (hs : Canon s) : CanonOut (engineRun key t k
    ready work s) :=
  engineRunIf_canon (fun _ => hwork _) hs

theorem dropRuns_canon {t} (hs : Canon s) : Canon (dropRuns t s) :=
  update_canon hs

/-! ### The hub -/

theorem recordOpen_canon {unit a0 a1 a2} (hs : Canon s) : Canon (recordOpen s unit a0 a1 a2) :=
  record_canon (update_canon hs)

theorem msix_canon {v} (hs : Canon s) : Canon (msix v s) := by
  refine ite_canon ?_ (ite_canon (emit_canon hs) hs)
  obtain ⟨hg, hl, hp, hc, hh, hm, ha, hb⟩ := canon_iff.mp hs
  exact canon_iff.mpr ⟨hg, hl, hp, hc, hh, hm, ha, tset_wf _ _ hb⟩

theorem putCompletion_canon {q e} (hs : Canon s) : Canon (putCompletion q e s) :=
  msix_canon (modQueue_canon (emit_canon hs))

theorem complete_canon {q e} (hs : Canon s) : Canon (complete q e s) :=
  ite_canon hs (ite_canon (modQueue_canon hs) (putCompletion_canon hs))

theorem completeTask_canon {t kind} (hs : Canon s) : Canon (completeTask t kind s) := by
  unfold completeTask
  dsimp only
  split
  · exact hs
  · exact complete_canon hs

theorem drainHeld_canon {q} (n : Nat) (hs : Canon s) : Canon (drainHeld q n s) := by
  induction n generalizing s with
  | zero => exact hs
  | succ n ih =>
    unfold drainHeld
    split
    · exact modQueue_canon hs
    · exact ite_canon hs (ih (putCompletion_canon (modQueue_canon hs)))

theorem freeStash_canon {t sid} (hs : Canon s) : Canon (freeStash t sid s) :=
  stashResume_canon (modTask_canon hs)

theorem taskInterrupt_canon {t} (hs : Canon s) : Canon (taskInterrupt t s) := by
  unfold taskInterrupt
  split
  · exact hs
  · exact msix_canon hs

theorem sendRecord_canon {t intr a bs} (hs : Canon s) : Canon (sendRecord t intr a bs s) :=
  sendReq_canon (update_canon hs)

theorem noteUpdate_canon {step} (hs : Canon s) : Canon (noteUpdate step s) :=
  update_canon hs

theorem finishEntry_canon {t e status} (hs : Canon s) : Canon (finishEntry t e status s) :=
  ite_canon (freeStash_canon (ite_canon (noteUpdate_canon (update_canon (modCmd_canon (ite_canon (modCmd_canon (sendRecord_canon
      hs)) (sendRecord_canon hs))))) (update_canon (modCmd_canon (ite_canon (modCmd_canon (sendRecord_canon hs)) (sendRecord_canon
      hs)))))) (ite_canon (noteUpdate_canon (update_canon (modCmd_canon (ite_canon (modCmd_canon (sendRecord_canon hs))
      (sendRecord_canon hs))))) (update_canon (modCmd_canon (ite_canon (modCmd_canon (sendRecord_canon hs)) (sendRecord_canon
      hs)))))

theorem finishAll_canon {t status was} (hu : Canon s) : Canon (finishAll t status was s) :=
  foldl_canon (fun _ _ => finishEntry_canon) hu

theorem faultTask_canon {t reason quiet} (hs : Canon s) : Canon (faultTask t reason quiet s) :=
  ite_canon (record_canon (finishAll_canon (noteReleased_canon (dropRuns_canon (update_canon (mapTaskCores_canon (fun _ => rfl)
      (modTask_canon hs))))))) (completeTask_canon (record_canon (finishAll_canon (noteReleased_canon (dropRuns_canon (update_canon
      (mapTaskCores_canon (fun _ => rfl) (modTask_canon hs))))))))

theorem sendOrDrop_canon {k} (hs : Canon s) : Canon (sendOrDrop k s) := by
  unfold sendOrDrop
  split
  · next h => exact sendPacket_canon hs h
  · exact record_canon hs

theorem ackGuest_canon {key} (hs : Canon s) : Canon (ackGuest key s) := by
  unfold ackGuest
  split
  · exact hs
  · exact ite_canon hs (sendOrDrop_canon (update_canon hs))

theorem noteRestored_canon {key} (hs : Canon s) : Canon (noteRestored key s) :=
  update_canon hs

theorem answerMem_canon {r data poison} (hs : Canon s) : Canon (answerMem r data poison s) := by
  unfold answerMem
  split
  · exact answerReq_canon hs
  · exact ackGuest_canon (noteRestored_canon (noteReleased_canon (answerRun_canon hs)))
  · exact ite_canon (taskInterrupt_canon hs) hs
  · exact emit_canon hs
  · exact emit_canon hs
  · exact sendOrDrop_canon hs

theorem failMem_canon {r} (hs : Canon s) : Canon (failMem r s) := by
  unfold failMem
  split
  · exact failReq_canon hs
  · exact failReq_canon (update_canon hs)
  · exact answerMem_canon hs

theorem thermalShutdown_canon {cause} (hs : Canon s) : Canon (thermalShutdown cause s) := by
  have unpowered {u : State} (hu : Canon u) : Canon { u with
      cores := u.cores.map Core.unpowered, ports := u.ports.map Port.unpowered, flits := [], incs := [], reports := [], gsigs := [],
      fabric := [], resps := [], dram := [], loose := [], dramPoison := [], cxl := { u.cxl with snoops := [] } } :=
    (ports_map_canon_of (f := Port.unpowered) (fun _ _ => rfl) (cores_map_canon_of (f := Core.unpowered) (fun _ _ => rfl) hu) :)
  exact ite_canon hs (unpowered (foldl_canon (fun _ _ h => ite_canon (faultTask_canon h) h) (update_canon hs)))

/-! ### Counters and barriers -/

theorem gset_canon {g x} (hs : Canon s) : Canon (gset g x s) := by
  obtain ⟨hg, hr⟩ := canon_iff.mp hs
  exact canon_iff.mpr ⟨tset_wf _ _ hg, hr⟩

theorem completeBarrier_canon {g at_} (hs : Canon s) : Canon (completeBarrier g at_ s) :=
  ite_canon (gset_canon hs) hs

theorem gsigOp_canon {i} (hs : Canon s) : Canon (gsigOp i s) := by
  unfold gsigOp
  split
  · exact hs
  · exact hs
  · exact hs
  · exact gset_canon hs
  · exact ite_canon (gset_canon hs) (faultCtx_canon hs)
  · exact gset_canon hs

theorem releaseCores_canon {r t} (hs : Canon s) : Canon (releaseCores r t s) :=
  foldl_canon (fun _ _ hu => ite_canon (pushInc_canon hu) hu) (update_canon hs)

theorem execBarrierReleaseApply_canon {g} (hs : Canon s) : CanonOut (execBarrierReleaseApply g s) := by
  unfold execBarrierReleaseApply
  dsimp only
  split
  · exact next_canon (releaseCores_canon (gset_canon hs))
  · exact next_canon hs

theorem execTimedRelease_canon {g} (hs : Canon s) : CanonOut (execTimedRelease g s) := by
  unfold execTimedRelease
  dsimp only
  split
  · exact next_canon (ite_canon (lateAction_canon (releaseCores_canon (gset_canon hs))) (releaseCores_canon (gset_canon hs)))
  · exact next_canon hs

theorem keptReleases_canon {t} (hs : Canon s) : Canon (keptReleases t s) := by
  refine foldl_canon (fun _ _ hu => ite_canon (foldl_canon (fun _ _ hv => ?_) hu) hu) hs
  split
  · exact releaseCores_canon (gset_canon hv)
  · exact lateAction_canon (releaseCores_canon (gset_canon hv))

/-! ### Commands -/

theorem seeSections_canon {w} (hs : Canon s) : Canon (seeSections w s) :=
  see_canon hs

theorem refuseHeld_canon {h reason} (hs : Canon s) : Canon (refuseHeld h reason s) :=
  sendOrDrop_canon (record_canon (modLink_canon (ite_canon hs (update_canon hs))))

theorem judgeHeld_canon {coll g step} (hs : Canon s) : Canon (judgeHeld coll g step s) :=
  foldl_canon (fun _ _ hu => ite_canon (refuseHeld_canon hu) (ite_canon hu (refuseHeld_canon (update_canon hu)))) (update_canon hs)

theorem takeHeld_canon {t w} (hs : Canon s) : Canon (takeHeld t w s) :=
  ite_canon (judgeHeld_canon hs) hs

theorem postEntry_canon {t q w} (hs : Canon s) : Canon (postEntry t q w s) :=
  modCmd_canon (update_canon (takeHeld_canon (ite_canon (modTask_canon (ite_canon (lateAction_canon hs) hs))
      (ite_canon (lateAction_canon hs) hs))))

theorem stopPosting_canon {t q w status} (hs : Canon s) : Canon (stopPosting t q w status s) :=
  finishEntry_canon (modCmd_canon (record_canon hs))

theorem readHead_canon {t} (hs : Canon s) : Canon (readHead t s) :=
  modCmd_canon (ite_canon (seeSections_canon (devRead_canon hs)) (devRead_canon hs))

theorem takePass_canon {t q w} (hs : Canon s) : Canon (takePass t q w s) :=
  ite_canon (stopPosting_canon (modCmd_canon hs)) (modCmd_canon (modCmd_canon hs))

theorem postPass_canon {t h q w} (hs : Canon s) : Canon (postPass t h q w s) :=
  postEntry_canon (modCmd_canon hs)

theorem noteRipe_canon {t} (hs : Canon s) : Canon (noteRipe t s) :=
  ite_canon hs (modCmd_canon hs)

theorem execEntryPost_canon {t} (hs : Canon s) : CanonOut (execEntryPost t s) := by
  refine ite_canonOut (next_canon hs) ?_
  split
  · exact next_canon (postPass_canon hs)
  · split
    · split
      · exact next_canon hs
      · exact next_canon (stopPosting_canon (modCmd_canon hs))
      · exact next_canon (takePass_canon hs)
      · exact next_canon (postEntry_canon (modCmd_canon hs))
    · exact ite_canonOut (next_canon hs) (engineRun_canon (fun _ => readHead_canon) hs)

theorem markDelivered_canon {t q} (hs : Canon s) : Canon (markDelivered t q s) :=
  modCmd_canon hs

theorem reachCores_canon {t e} (hs : Canon s) : Canon (reachCores t e s) :=
  foldl_canon (fun _ _ => modCtx_canon) hs

theorem deliver_canon {t q op} (hs : Canon s) : Canon (deliver t q op s) := by
  unfold deliver
  split
  · exact hs
  · exact reachCores_canon (markDelivered_canon hs)

theorem execMark_canon {t q} (hs : Canon s) : CanonOut (execMark t q s) := by
  unfold execMark
  split
  · exact next_canon hs
  · exact next_canon (finishEntry_canon (record_canon (markDelivered_canon hs)))

theorem execPipecfg_canon {t q} (hs : Canon s) : CanonOut (execPipecfg t q s) := by
  unfold execPipecfg
  split
  · exact next_canon hs
  · exact next_canon (finishEntry_canon (ite_canon (modCmd_canon (modCmd_canon (markDelivered_canon hs))) (modCmd_canon
        (markDelivered_canon hs))))

theorem execEntryComplete_canon {t q} (hs : Canon s) : CanonOut (execEntryComplete t q s) := by
  unfold execEntryComplete
  split
  · exact next_canon hs
  · split
    · exact next_canon hs
    · exact ite_canonOut (next_canon hs) (next_canon (finishEntry_canon hs))

theorem answerEntry_canon {t q status} (hs : Canon s) : Canon (answerEntry t q status s) :=
  modCmd_canon hs

theorem report_canon {c k q status misses} (hs : Canon s) : Canon (report c k q status misses s) := by
  unfold report
  split
  · exact hs
  · exact modCmd_canon hs

theorem execCmdwait_canon {c k rd} (hs : Canon s) : CanonOut (execCmdwait c k rd s) := by
  unfold execCmdwait
  dsimp only
  refine issue_canon (fun hu => ?_) hs
  split
  · refine result_canon (modCtx_canon ?_)
    split
    · exact modCtx_canon (report_canon hu)
    · exact hu
  · refine waitOn_canon (modCtx_canon ?_)
    split
    · exact modCtx_canon (report_canon hu)
    · exact hu

theorem takeMissed_canon {c} (hs : Canon s) : Canon (takeMissed c s).2 :=
  modCore_canon (fun _ => rfl) hs

theorem execCmddone_canon {c k imm} (hs : Canon s) : CanonOut (execCmddone c k imm s) := by
  unfold execCmddone
  dsimp only
  refine issue_canon (fun hu => ?_) hs
  split
  · exact retire_canon (modCtx_canon (report_canon (takeMissed_canon hu)))
  · exact retire_canon (record_canon hu)

/-! ### Power and duty -/

theorem execControlWindow_canon {core dram rest leakage} (hs : Canon s) : CanonOut (execControlWindow core dram rest leakage s) :=
  ite_canonOut (next_canon hs) (next_canon (ports_map_canon_of (fun _ => id) (foldl_canon (fun _ _ => modDuty_canon) (update_canon
      hs))))

theorem detBreak_canon {inForce} (hs : Canon s) : Canon (detBreak inForce s) :=
  ite_canon hs (update_canon hs)

theorem execPackageSensorRead_canon {watts mean10ms} (hs : Canon s) : CanonOut (execPackageSensorRead watts mean10ms s) :=
  ite_canonOut (next_canon hs) (ite_canonOut (next_canon (thermalShutdown_canon (record_canon (ite_canon (record_canon
      (update_canon (detBreak_canon hs))) hs)))) (next_canon (ite_canon (record_canon (update_canon (detBreak_canon hs))) hs)))

theorem setTdpCap_canon {v} (hs : Canon s) : Canon (setTdpCap v s) :=
  ite_canon (update_canon (ite_canon hs (recordOpen_canon hs))) (update_canon (ite_canon hs (recordOpen_canon hs)))

theorem execMarginReport_canon {r slack} (hs : Canon s) : CanonOut (execMarginReport r slack s) := by
  have warned (f : Region → Region) (p q : Prop) [Decidable p] [Decidable q] (g h : Region → Region) (code sev unit a0 a1 a2) :
      Canon (if p then if q then record (modRegion (modRegion (modRegion s r f) r g) r h) code sev unit a0 a1 a2
        else modRegion (modRegion s r f) r g else modRegion s r f) :=
    ite_canon (ite_canon (record_canon (modRegion_canon (modRegion_canon (modRegion_canon hs)))) (modRegion_canon (modRegion_canon
        hs)))
      (modRegion_canon hs)
  refine ite_canonOut (dite_canonOut (fun _ => next_canon ?_) fun _ => dite_canonOut (fun _ => next_canon ?_) fun _ => next_canon
      ?_)
    (next_canon (warned ..))
  · exact modDuty_canon (detBreak_canon (record_canon (modRegion_canon (warned ..))))
  · exact modPort_canon (fun _ => rfl) (record_canon (modRegion_canon (warned ..)))
  · exact record_canon (modRegion_canon (warned ..))

theorem execCalibration_canon {r} (hs : Canon s) : CanonOut (execCalibration r s) := by
  unfold execCalibration
  split
  · exact ite_canonOut (next_canon (modRegion_canon hs)) (next_canon hs)
  · exact next_canon (modRegion_canon hs)

theorem execDroopStretch_canon {p ns} (hs : Canon s) : CanonOut (execDroopStretch p ns s) :=
  ite_canonOut (next_canon hs) (next_canon (modRegion_canon (update_canon hs)))

theorem railHere_canon {mv} (hs : Canon s) : Canon (railHere mv s) :=
  update_canon hs

theorem trimRail_canon {off step} (hs : Canon s) : Canon (trimRail off step s) :=
  update_canon (railHere_canon hs)

theorem setVoltOffset_canon {v} (hs : Canon s) : Canon (setVoltOffset v s) :=
  ite_canon (trimRail_canon (ite_canon (update_canon hs) hs)) (ite_canon (update_canon hs) hs)

theorem execCrossingMarginLoss_canon {sec} (hs : Canon s) : CanonOut (execCrossingMarginLoss sec s) :=
  next_canon (foldl_canon (fun _ _ hu => ite_canon (haltTask_canon (update_canon hu)) hu) (record_canon (update_canon hs)))

theorem execJunctionTemp_canon {r celsius} (hs : Canon s) : CanonOut (execJunctionTemp r celsius s) :=
  ite_canonOut (next_canon (thermalShutdown_canon (record_canon (ite_canon (record_canon (detBreak_canon (ite_canon (record_canon
      (modRegion_canon hs)) (modRegion_canon hs)))) (ite_canon (record_canon (modRegion_canon hs)) (modRegion_canon hs))))))
      (next_canon (ite_canon (record_canon (detBreak_canon (ite_canon (record_canon (modRegion_canon hs)) (modRegion_canon hs))))
      (ite_canon (record_canon (modRegion_canon hs)) (modRegion_canon hs))))

/-! ### Stack ports -/

theorem trackLine_canon {l} (hs : Canon s) : Canon (trackLine l s) := by
  refine ite_canon hs (update_canon_of (ite_canon ?_ hs) rfl rfl rfl rfl rfl)
  split
  · exact hs
  · exact update_canon_of (sendSnoop_canon hs) rfl rfl rfl rfl rfl

theorem closeOld_canon {p} (hs : Canon s) : Canon (closeOld p s) :=
  foldl_canon (fun _ _ => modPort_canon (fun _ => rfl)) hs

theorem readArrives_canon {p r} (hs : Canon s) : Canon (readArrives p r s) := by
  unfold readArrives
  dsimp only
  split
  · exact ite_canon (answerMem_canon (modPort_canon (fun _ => rfl) (closeOld_canon hs))) (modPort_canon (fun _ => rfl)
        (modPort_canon (fun _ => rfl) (closeOld_canon hs)))
  · exact modPort_canon (fun _ => rfl) (closeOld_canon hs)

theorem writeArrives_canon {p r} (hs : Canon s) : Canon (writeArrives p r s) :=
  modPort_canon (fun _ => rfl) hs

theorem execStackPortRequest_canon {p} (hs : Canon s) : CanonOut (execStackPortRequest p s) := by
  unfold execStackPortRequest
  split
  · exact next_canon hs
  · exact ite_canonOut (next_canon (failMem_canon (update_canon hs))) (ite_canonOut (next_canon (foldl_canon (fun _ _ hu =>
        sendSnoop_canon (update_canon_of hu rfl rfl rfl rfl rfl)) (update_canon hs))) (next_canon (ite_canon (writeArrives_canon
        (ite_canon (foldl_canon (fun _ _ => trackLine_canon) (update_canon hs)) (update_canon hs))) (readArrives_canon
        (ite_canon (foldl_canon (fun _ _ => trackLine_canon) (update_canon hs)) (update_canon hs))))))

theorem execBisnpResponse_canon {line} (hs : Canon s) : CanonOut (execBisnpResponse line s) :=
  next_canon (foldl_canon (fun _ _ hu => ite_canon hu (update_canon hu)) (update_canon_of hs rfl rfl rfl rfl rfl))

theorem countAccess_canon {p n} (hs : Canon s) : Canon (countAccess p n s) :=
  actAdd_canon hs

theorem serveRead_canon {p r found} (hs : Canon s) : Canon (serveRead p r found s) :=
  modPort_canon (fun _ => rfl) (checkWords_canon hs)

theorem serveWrite_canon {r found} (hs : Canon s) : Canon (serveWrite r found s) :=
  answerMem_canon (dramWrite_canon (checkWords_canon hs))

theorem takeQueued_canon {p chan w forced} (hs : Canon s) : Canon (takeQueued p chan w forced s) :=
  modPort_canon (fun _ => rfl) hs

theorem execStackRequestServe_canon {p chan found} (hs : Canon s) : CanonOut (execStackRequestServe p chan found s) := by
  unfold execStackRequestServe
  split
  · exact next_canon hs
  · exact ite_canonOut (next_canon hs) (next_canon (ite_canon (serveWrite_canon (countAccess_canon (takeQueued_canon hs)))
        (serveRead_canon (countAccess_canon (takeQueued_canon hs)))))

theorem execDramReadReturn_canon {p} (hs : Canon s) : CanonOut (execDramReadReturn p s) := by
  unfold execDramReadReturn
  split
  · exact next_canon hs
  · exact next_canon (foldl_canon (fun _ _ => answerMem_canon) (modPort_canon (fun _ => rfl) hs))

theorem discardRecord_canon {p x} (hs : Canon s) : Canon (discardRecord p x s) :=
  foldl_canon (fun _ _ => answerMem_canon) (record_canon (update_canon (modPort_canon (fun _ => rfl) hs)))

theorem judgeRecord_canon {p x bs found} (hs : Canon s) : Canon (judgeRecord p x bs found s) := by
  have hu (ws) : Canon (checkWords ws found s) := checkWords_canon hs
  have put (bs) {u : State} (h : Canon u) : Canon (modPort (dramWrite x.addr bs (fun _ => false) u) p fun y =>
      (y.closeGranule (x.addr / 256)).closeGranule ((x.addr + 191) / 256)) :=
    modPort_canon (fun _ => rfl) (dramWrite_canon h)
  unfold judgeRecord
  dsimp only
  refine ite_canon (record_canon (modPort_canon (fun _ => rfl) (hu _))) (ite_canon (put _ (hu _)) (ite_canon (put _ ?_) ?_))
  all_goals exact record_canon (modPort_canon (fun y => by split <;> rfl) (hu _))

theorem joinRecord_canon {p k who poison found q} (hs : Canon s) : Canon (joinRecord p k who poison found q s) := by
  unfold joinRecord
  dsimp only
  split
  · refine foldl_canon (fun _ _ => answerMem_canon) (judgeRecord_canon (modPort_canon (fun _ => rfl) ?_))
    split
    · exact ite_canon (discardRecord_canon hs) hs
    · exact hs
  · refine modPort_canon (fun _ => rfl) (modPort_canon (fun _ => rfl) ?_)
    split
    · exact ite_canon (discardRecord_canon hs) hs
    · exact hs

theorem execRecordPartArrival_canon {p found} (hs : Canon s) : CanonOut (execRecordPartArrival p found s) := by
  unfold execRecordPartArrival
  dsimp only
  split
  · exact next_canon hs
  · split
    · exact next_canon (answerMem_canon (foldl_canon (fun _ _ => joinRecord_canon) (takeQueued_canon hs)))
    · exact next_canon (modPort_canon (fun _ => rfl) (foldl_canon (fun _ _ => joinRecord_canon) (takeQueued_canon hs)))

theorem execRecordAssemblyTimeout_canon {p} (hs : Canon s) : CanonOut (execRecordAssemblyTimeout p s) := by
  unfold execRecordAssemblyTimeout
  split
  · exact next_canon hs
  · exact next_canon (discardRecord_canon hs)

theorem execRefresh_canon {p bank waiting} (hs : Canon s) : CanonOut (execRefresh p bank waiting s) :=
  ite_canonOut (next_canon hs) (ite_canonOut (next_canon (modPort_canon_of (tset_wf _ _) hs)) (next_canon (modPort_canon_of
      (tset_wf _ _) hs)))

theorem execScrubRead_canon {p found} (hs : Canon s) : CanonOut (execScrubRead p found s) := by
  have scrubAt (x : Port) (now hours) : (x.scrubAt now hours).postponed = x.postponed := by
    unfold Port.scrubAt
    split <;> rfl
  have begun (now hours) : Canon (modPort s p fun _ => s.ports[p].scrubAt now hours) :=
    modPort_canon_of (fun h => (scrubAt ..).symm ▸ h) hs
  refine ite_canonOut (next_canon (modPort_canon (fun _ => rfl) hs)) (ite_canonOut (next_canon (begun ..)) (next_canon ?_))
  refine modPort_canon (fun x => ?_) (checkWords_canon (begun ..))
  split <;> rfl

theorem execStackTempSample_canon {p celsius} (hs : Canon s) : CanonOut (execStackTempSample p celsius s) := by
  unfold execStackTempSample
  extract_lets x t level r2 th dt sampled refreshed throttled warned
  have h1 : Canon sampled := modPort_canon (fun _ => rfl) hs
  have h2 : Canon refreshed := ite_canon (record_canon h1) h1
  have h3 : Canon throttled := ite_canon (record_canon (detBreak_canon h2)) h2
  have h4 : Canon warned := ite_canon (record_canon h3) h3
  exact ite_canonOut (next_canon (modPort_canon (fun _ => rfl) hs))
    (ite_canonOut (next_canon (thermalShutdown_canon (record_canon h4))) (next_canon h4))

/-! ### The array -/

theorem arrayFail_canon {c t reason accB} (hs : Canon s) : Canon (arrayFail c t reason accB s) := by
  unfold arrayFail
  dsimp only
  split
  · exact hs
  · split
    · exact modCore_canon (fun _ => rfl) hs
    · exact modCore_canon (fun _ => rfl) (record_canon hs)

theorem issueMma_canon {c sh m b n} (hs : Canon s) : Canon (issueMma c sh m b n s) := by
  have marked (p : Prop) [Decidable p] (x : Core) (accB : Bool) (n : Nat) : (if p then x.markFault accB n else x).wb = x.wb := by
    split <;> rfl
  refine modCore_canon (fun x => ?_) (ite_canon (record_canon ?_) ?_)
  · dsimp only
    split
    · exact (marked ..).trans ((marked ..).trans (marked ..))
    · exact (marked ..).trans (marked ..)
  all_goals
    split
    · exact hs
    · exact arrayFail_canon hs

theorem mma_canon {c sh m} (hs : Canon s) : CanonOut (mma c sh m s) := by
  unfold mma
  split
  · exact next_canon hs
  · exact ite_canonOut (next_canon (issueMma_canon hs)) (next_canon hs)

theorem execMnop_canon {c} (hs : Canon s) : CanonOut (execMnop c s) := by
  unfold execMnop
  split
  · exact next_canon hs
  · exact ite_canonOut (next_canon (modCore_canon (fun _ => rfl) hs)) (next_canon hs)

theorem checkTag_canon {c t m st} (hs : Canon s) : Canon (checkTag c t m st s).1 := by
  unfold checkTag
  dsimp only
  split
  · exact hs
  · split
    · exact girthFail_canon hs
    · exact modCore_canon (fun _ => rfl) hs

theorem execKgroupConsume_canon {c found} (hs : Canon s) : CanonOut (execKgroupConsume c found s) := by
  unfold execKgroupConsume
  split
  · exact next_canon hs
  · split
    · exact next_canon hs
    · refine ite_canonOut (next_canon hs) (next_canon (modCore_canon (fun x => ?_) (modDuty_canon (applyFinds_canon
          (applyFinds_canon
        (applyFinds_canon (applyFinds_canon (foldl_canon_fst (fun _ _ h => checkTag_canon h) hs))))))))
      split <;> rfl

theorem execTileBoundary_canon {c} (hs : Canon s) : CanonOut (execTileBoundary c s) := by
  unfold execTileBoundary
  split
  · exact next_canon hs
  · split
    · exact next_canon hs
    · exact next_canon (modCore_canon (fun _ => rfl) hs)

theorem wbRow_wf (add : Bool) (n : Nat) (d : Drain) (r : Nat) {x : Core} (h : twf 0 x.wb = true) : twf 0 (wbRow add n d r x).wb =
    true :=
  foldl_wf _ _ _ (fun w j hw => by
    split
    · exact tset_wf _ _ hw
    · exact hw) h

theorem deliverRow_canon {c n d} (hs : Canon s) : Canon (deliverRow c n d s) := by
  unfold deliverRow
  split
  · exact foldl_canon (fun _ _ => blockWrite_canon) hs
  · exact modCore_canon (fun _ => rfl) hs
  · exact modCore_canon_of (wbRow_wf _ _ _ _) hs
  · exact modCore_canon_of (wbRow_wf _ _ _ _) hs
  · exact hs

theorem execDrainRow_canon {c} (hs : Canon s) : CanonOut (execDrainRow c s) := by
  unfold execDrainRow
  split
  · exact next_canon hs
  · split
    · exact next_canon hs
    · exact next_canon (modCore_canon (fun _ => rfl) (deliverRow_canon hs))

/-! ### The vector unit -/

theorem issueV_canon {c w srcs f} (hf : ∀ x0 x1 u, Canon u → Canon (f x0 x1 u)) (hs : Canon s) : CanonOut (issueV c w srcs s f) :=
    by
  unfold issueV
  split
  · exact next_canon hs
  · exact ite_canonOut (next_canon (hf _ _ _ (modCore_canon (fun _ => rfl) hs))) (next_canon hs)

theorem vput_canon {c t vd lat r} (hs : Canon s) : Canon (vput c t vd lat r s) :=
  modCore_canon (fun _ => rfl) hs

theorem pushUpdV_canon {c us} (hs : Canon s) : Canon (pushUpdV c us s) :=
  modCore_canon (fun _ => rfl) hs

theorem v1_canon {c op vd va bf aux lat g} (hs : Canon s) : CanonOut (v1 c op vd va bf aux lat g s) :=
  issueV_canon (fun _ _ _ => vput_canon) hs

theorem v2_canon {c op vd va vb bf aux lat g} (hs : Canon s) : CanonOut (v2 c op vd va vb bf aux lat g s) :=
  issueV_canon (fun _ _ _ => vput_canon) hs

theorem v3_canon {c op vd va vb vc bf lat g} (hs : Canon s) : CanonOut (v3 c op vd va vb vc bf lat g s) :=
  issueV_canon (fun _ _ _ => vput_canon) hs

theorem execVnop_canon {c} (hs : Canon s) : CanonOut (execVnop c s) :=
  issueV_canon (fun _ _ _ hu => hu) hs

theorem execVmov_canon {c vd va} (hs : Canon s) : CanonOut (execVmov c vd va s) := by
  unfold execVmov
  exact v1_canon hs

theorem execVcmp_canon {c vd va vb bf rel} (hs : Canon s) : CanonOut (execVcmp c vd va vb bf rel s) :=
  ite_canonOut (next_canon hs) (v2_canon hs)

theorem bitwise_canon {c op vd va vb g} (hs : Canon s) : CanonOut (bitwise c op vd va vb g s) :=
  v2_canon hs

theorem sfu_canon {c op vd va} (hs : Canon s) : CanonOut (sfu c op vd va s) :=
  v1_canon hs

theorem execVcvt_canon {c vd va fmt sr sat} (hs : Canon s) : CanonOut (execVcvt c vd va fmt sr sat s) :=
  ite_canonOut (next_canon hs) (issueV_canon (fun _ _ _ hu => ite_canon (modCore_canon (fun _ => rfl) (vput_canon hu)) (vput_canon
      hu)) hs)

theorem execVext_canon {c vd va fmt} (hs : Canon s) : CanonOut (execVext c vd va fmt s) :=
  ite_canonOut (next_canon hs) (v1_canon hs)

theorem execVbs_canon {c vd tr} (hs : Canon s) : CanonOut (execVbs c vd tr s) :=
  issueV_canon (fun _ _ _ => vput_canon) hs

theorem execVld_canon {c vd ba au off found} (hs : Canon s) : CanonOut (execVld c vd ba au off found s) :=
  issueV_canon (fun _ _ _ hu => ite_canon (pushUpdV_canon (vput_canon (modCore_canon (fun _ => rfl) (ite_canon (addrError_canon
      (applyFinds_canon hu)) (applyFinds_canon hu))))) (vput_canon (modCore_canon (fun _ => rfl) (ite_canon (addrError_canon
      (applyFinds_canon hu)) (applyFinds_canon hu))))) hs

theorem execVst_canon {c vs ba au off} (hs : Canon s) : CanonOut (execVst c vs ba au off s) :=
  issueV_canon (fun _ _ _ hu => ite_canon (pushUpdV_canon (modCore_canon (fun _ => rfl) hu)) (modCore_canon (fun _ => rfl) hu)) hs

theorem execVectorResultWrite_canon {c} (hs : Canon s) : CanonOut (execVectorResultWrite c s) := by
  unfold execVectorResultWrite
  split
  · exact next_canon hs
  · exact ite_canonOut (next_canon hs) (next_canon (modCore_canon (fun _ => rfl) hs))

/-! ### Engines -/

theorem freePick_canon {n} (hs : Canon s) : Canon (freePick n s).2 :=
  update_canon hs

/-! ### Parameter updates -/

theorem tensorList_canon {t cores a} (hs : Canon s) : Canon (tensorList t cores a s).2 := by
  unfold tensorList
  dsimp only
  split
  · exact hs
  · split
    · exact devRead_canon hs
    · split <;> exact foldl_canon_trd (fun _ _ => devRead_canon) (devRead_canon hs)

theorem readGrad_canon {g} (hs : Canon s) : Canon (readGrad g s).2.2 :=
  foldl_canon_trd (fun _ _ => devRead_canon) hs

theorem readSums_canon {g grad gPoison} (hs : Canon s) : Canon (readSums g grad gPoison s).2.2.2 := by
  unfold readSums
  split
  · exact hs
  · exact devRead_canon (devRead_canon hs)

theorem writeStats_canon {a rows step vr vc pr pc} (hs : Canon s) : Canon (writeStats a rows step vr vc pr pc s) :=
  devWrite_canon (devWrite_canon (devWrite_canon hs))

theorem updateGroup_canon {h step g} (hs : Canon s) : Canon (updateGroup h step g s).2 :=
  ite_canon (writeStats_canon (foldl_canon (fun _ _ hu => writeRecord_canon (devRead_canon hu)) (readSums_canon (readGrad_canon
      (devRead_canon (devRead_canon (devRead_canon hs))))))) (writeStats_canon (foldl_canon (fun _ _ hu => writeRecord_canon
      (devRead_canon hu)) (readSums_canon (readGrad_canon (devRead_canon (devRead_canon (devRead_canon hs)))))))

theorem updateKernel_canon {t w} (hs : Canon s) : Canon (updateKernel t w s).2 := by
  unfold updateKernel
  dsimp only
  split
  · exact tensorList_canon hs
  · split
    · exact tensorList_canon hs
    · exact foldl_canon_snd (fun _ _ => updateGroup_canon) (tensorList_canon hs)

theorem sourceCopy_canon {a b t} (hs : Canon s) : Canon (sourceCopy a b t s).2 := by
  unfold sourceCopy
  split
  · exact hs
  · split
    · exact hs
    · exact freePick_canon hs

theorem updateTableCore_canon {h step d core rows} (hs : Canon s) : Canon (updateTableCore h step d core rows s).2 := by
  unfold updateTableCore
  dsimp only
  split
  · exact devRead_canon (devRead_canon hs)
  · exact devWrite_canon (devWrite_canon (foldl_canon (fun _ _ hu => devWrite_canon (foldl_canon (fun _ _ hv => writeRecord_canon
        (devRead_canon hv)) hu)) (foldl_canon_trd (fun _ _ => devRead_canon) (devRead_canon (sourceCopy_canon (devRead_canon
        (devRead_canon hs)))))))

theorem tableKernel_canon {t w k} (hs : Canon s) : Canon (tableKernel t w k s).2 := by
  unfold tableKernel
  dsimp only
  split
  · exact hs
  · refine foldl_canon_snd (fun _ _ hu => ?_) hs
    split
    · exact devRead_canon hu
    · refine foldl_canon_snd (fun _ _ hv => ?_) (devRead_canon hu)
      split
      · exact hv
      · exact updateTableCore_canon hv

theorem reportAll_canon {t e status} (hs : Canon s) : Canon (reportAll t e status s) :=
  foldl_canon (fun _ _ hu => modCtx_canon (report_canon (takeMissed_canon hu))) hs

theorem execUpdate_canon {t q} (hs : Canon s) : CanonOut (execUpdate t q s) := by
  unfold execUpdate
  split
  · exact engineRun_canon (fun _ hu => reportAll_canon (updateKernel_canon hu)) hs
  · exact next_canon (deliver_canon hs)

theorem execRun_canon {t q} (hs : Canon s) : CanonOut (execRun t q s) := by
  unfold execRun
  dsimp only
  split
  · split
    · exact engineRun_canon (fun _ hu => reportAll_canon (tableKernel_canon hu)) hs
    · exact next_canon hs
  · exact next_canon (deliver_canon hs)

/-! ### Lookups -/

theorem readBag_canon {e rows b} (hs : Canon s) : Canon (readBag e rows b s).2 := by
  unfold readBag
  dsimp only
  split
  · exact devRead_canon hs
  · refine foldl_canon_snd (fun a k h => ?_) (devRead_canon hs)
    have hw : Canon (if e.pool = 2 then devRead (e.wgt + 4 * (field (devRead (e.offs + 4 * b) 8 s).1 0 4 + k)) 4
        (devRead (e.idx + 8 * (field (devRead (e.offs + 4 * b) 8 s).1 0 4 + k)) 8 a.2).2.2
        else (([], false, (devRead (e.idx + 8 * (field (devRead (e.offs + 4 * b) 8 s).1 0 4 + k)) 8 a.2).2.2) :
          List Byte × Bool × State)).2.2 := by
      split
      · exact devRead_canon (devRead_canon h)
      · exact devRead_canon h
    split <;> exact hw

theorem readBags_canon {e rows} (hs : Canon s) : Canon (readBags e rows s).2 :=
  foldl_canon_snd (fun _ _ => readBag_canon) hs

theorem readItem_canon {w i} (hs : Canon s) : Canon (readItem w i s).2 := by
  unfold readItem
  dsimp only
  split
  · exact devRead_canon hs
  · split
    · exact readBags_canon (devRead_canon (devRead_canon hs))
    · exact devRead_canon (devRead_canon hs)

theorem readItems_canon {w} (hs : Canon s) : Canon (readItems w s).2 :=
  foldl_canon_snd (fun _ _ => readItem_canon) hs

theorem poisonRow_canon {x b} (hs : Canon s) : Canon (poisonRow x b s) :=
  devWrite_canon hs

theorem modEngine_canon {n f} (hs : Canon s) : Canon (modEngine n s f) :=
  dite_canon (fun _ => update_canon hs) (fun _ => hs)

theorem judgeItem_canon {forward x} (hs : Canon s) : Canon (judgeItem forward x s).2 := by
  unfold judgeItem
  dsimp only
  split
  · exact ite_canon (foldl_canon (fun _ _ => poisonRow_canon) hs) hs
  · split
    · exact hs
    · exact ite_canon (foldl_canon (fun _ _ => poisonRow_canon) (record_canon (modEngine_canon (freePick_canon hs)))) (record_canon
          (modEngine_canon (freePick_canon hs)))

theorem onRow_canon {x} (hs : Canon s) : Canon (onRow x s) :=
  update_canon hs

theorem readRow_canon {d l} (hs : Canon s) : Canon (readRow d l s).2.2 :=
  onRow_canon (foldl_canon_trd (fun _ _ => devRead_canon) (onRow_canon hs))

theorem readAgain_canon {parts} (hs : Canon s) : Canon (readAgain parts s) :=
  update_canon hs

theorem countRow_canon {d l again} (hs : Canon s) : Canon (countRow d l again s) :=
  modEngine_canon (actAdd_canon (ite_canon (readAgain_canon (ite_canon (update_canon hs) hs)) (ite_canon (update_canon hs) hs)))

theorem foldBag_canon {x rs old} (hs : Canon s) : Canon (foldBag x rs old s).2.2 :=
  foldl_canon_trd (fun _ _ hu => ite_canon (modEngine_canon (readRow_canon (countRow_canon hu))) (readRow_canon (countRow_canon
      hu))) hs

theorem workFits_canon {need mib} (hs : Canon s) : Canon (workFits need mib s).2 := by
  unfold workFits
  split
  · exact hs
  · exact update_canon hs

theorem gatherParts_canon {bf items routed} (hs : Canon s) : Canon (gatherParts bf items routed s).2 := by
  refine foldl_canon_trd (fun _ _ hu => ?_) hs
  split
  · exact hu
  · dsimp only
    split
    · exact foldBag_canon hu
    · exact foldBag_canon hu

theorem loosenWork_canon {w} (hs : Canon s) : Canon (loosenWork w s) :=
  loosen_canon hs

theorem forwardLookup_canon {t q n w routed} (hs : Canon s) : Canon (forwardLookup t q n w routed s).2 := by
  rw [forwardLookup.eq_1]
  generalize hfit : workFits _ _ _ = fit
  have hf : Canon fit.2 :=
    hfit ▸ workFits_canon (foldl_canon_snd (fun _ _ => judgeItem_canon) (readItems_canon hs))
  split
  · exact update_canon (foldl_canon (fun _ _ => foldl_canon (fun _ _ => poisonRow_canon)) hf)
  · exact update_canon (gatherParts_canon hf)

theorem execLookupForward_canon {t q routed} (hs : Canon s) : CanonOut (execLookupForward t q routed s) := by
  unfold execLookupForward
  split
  · exact next_canon hs
  · exact ite_canonOut (next_canon hs) (ite_canonOut (next_canon (answerEntry_canon hs)) (engineRun_canon (fun _ hu =>
        answerEntry_canon (loosenWork_canon (forwardLookup_canon hu))) hs))

theorem combineBag_canon {k x b parts} (hs : Canon s) : Canon (combineBag k x b parts s).2.2 :=
  ite_canon (foldl_canon (fun _ _ hu => modEngine_canon (freePick_canon hu)) hs) (devWrite_canon (foldl_canon (fun _ _ hu =>
      modEngine_canon (freePick_canon hu)) hs))

theorem combineAll_canon {k items parts miss} (hmiss : ∀ x b f u, miss x b = some f → Canon u → Canon (f u)) (hs : Canon s) :
    Canon (combineAll k items parts miss s).2.2 := by
  refine foldl_canon_trd (fun _ _ => foldl_canon_trd fun _ _ hv => ?_) hs
  split
  next h => exact hmiss _ _ _ _ h hv
  next => exact combineBag_canon hv

theorem keepArgs_canon {t q args} (hs : Canon s) : Canon (keepArgs t q args s) :=
  update_canon hs

theorem execExchange_canon {t q parts} (hs : Canon s) : CanonOut (execExchange t q parts s) := by
  have hwork {k : LkWork} {u : State} (hu : Canon u) := combineAll_canon (k := k) (items := (readItems k.words u).1)
      (parts := parts)
    (miss := fun _ _ => none) (fun _ _ _ _ h => by cases h) (readItems_canon (w := k.words) hu)
  unfold execExchange
  split
  · exact next_canon hs
  · dsimp only
    split
    · exact next_canon hs
    · refine ite_canonOut (next_canon (answerEntry_canon hs)) (ite_canonOut (next_canon (answerEntry_canon hs))
        (engineRunIf_canon (fun u hu => ?_) hs))
      exact answerEntry_canon (loosenWork_canon (keepArgs_canon (hwork hu)))

theorem bagGrads_canon {args x b} (hs : Canon s) : Canon (bagGrads args x b s).2.2 := by
  unfold bagGrads
  split
  · exact hs
  · exact devRead_canon hs

theorem backwardLookup_canon {t q n w routed all} (hs : Canon s) : Canon (backwardLookup t q n w routed all s).2 :=
  update_canon (update_canon (workFits_canon (foldl_canon_trd (fun _ _ => foldl_canon_trd (fun _ _ => bagGrads_canon))
      (foldl_canon_snd (fun _ _ => judgeItem_canon) (readItems_canon hs)))))

theorem execLookupBackward_canon {t q routed} (hs : Canon s) : CanonOut (execLookupBackward t q routed s) := by
  unfold execLookupBackward
  split
  · exact next_canon hs
  · exact ite_canonOut (next_canon hs) (ite_canonOut (next_canon (answerEntry_canon hs)) (engineRun_canon (fun _ hu =>
        answerEntry_canon (loosenWork_canon (backwardLookup_canon hu))) hs))

/-! ### Collectives -/

theorem readGrans_canon {a n} (hs : Canon s) : Canon (readGrans a n s).2.2 :=
  foldl_canon_trd (fun _ _ => devRead_canon) hs

theorem writeGrans_canon {a ws ps} (hs : Canon s) : Canon (writeGrans a ws ps s) :=
  foldl_canon (fun _ _ => devWrite_canon) hs

theorem contribution_canon {t w} (hs : Canon s) : Canon (contribution t w s).2.2 := by
  unfold contribution
  split
  · exact hs
  · exact foldl_canon_trd (fun _ _ => readGrans_canon) (readGrans_canon hs)

theorem collEvent_canon {w coll status member} (hs : Canon s) : Canon (collEvent w coll status member s) :=
  record_canon hs

theorem writeShard_canon {t w vals ps} (hs : Canon s) : Canon (writeShard t w vals ps s).2 := by
  unfold writeShard
  dsimp only
  split
  · exact writeGrans_canon hs
  · split
    · exact tensorList_canon hs
    · split
      · exact tensorList_canon hs
      · exact foldl_canon_snd (fun _ _ hu => devWrite_canon (devWrite_canon (writeGrans_canon hu))) (tensorList_canon hs)

theorem forgetColl_canon {coll} (hs : Canon s) : Canon (forgetColl coll s) :=
  update_canon hs

theorem reduceRun_canon {t w coll g own peers} (hs : Canon s) : Canon (reduceRun t w coll g own peers s).2 :=
  ite_canon (collEvent_canon (writeShard_canon (forgetColl_canon (update_canon (contribution_canon hs))))) (writeShard_canon
      (forgetColl_canon (update_canon (contribution_canon hs))))

theorem execReduce_canon {t q peers} (hs : Canon s) : CanonOut (execReduce t q peers s) := by
  unfold execReduce
  dsimp only
  split
  · exact next_canon hs
  · split
    · exact next_canon (answerEntry_canon hs)
    · exact engineRun_canon (fun _ hu => answerEntry_canon (reduceRun_canon hu)) hs

theorem placeShard_canon {w g r vals ps} (hs : Canon s) : Canon (placeShard w g r vals ps s) :=
  foldl_canon (fun _ _ => writeGrans_canon) hs

theorem placePeers_canon {w g own peers stray} (hs : Canon s) : Canon (placePeers w g own peers stray s) :=
  foldl_canon (fun _ _ hu => ite_canon (foldl_canon (fun _ _ hv => ite_canon hv (writeGrans_canon hv)) (update_canon hu))
      (placeShard_canon hu)) hs

theorem gatherRun_canon {w coll g own peers} (hs : Canon s) : Canon (gatherRun w coll g own peers s).2 :=
  ite_canon (collEvent_canon (placePeers_canon (placeShard_canon (forgetColl_canon (readGrans_canon hs))))) (placePeers_canon
      (placeShard_canon (forgetColl_canon (readGrans_canon hs))))

theorem execGather_canon {t q peers} (hs : Canon s) : CanonOut (execGather t q peers s) := by
  unfold execGather
  split
  · exact next_canon hs
  · refine ite_canonOut (next_canon hs) ?_
    split
    · exact next_canon (answerEntry_canon hs)
    · exact engineRun_canon (fun _ hu => answerEntry_canon (gatherRun_canon hu)) hs

theorem addOne_canon {t q i} (hs : Canon s) : Canon (addOne t q i s) :=
  update_canon hs

theorem execGatherBarrier_canon {t q arrived} (hs : Canon s) : CanonOut (execGatherBarrier t q arrived s) := by
  unfold execGatherBarrier
  split
  · exact next_canon hs
  · refine ite_canonOut (next_canon hs) ?_
    split
    · exact next_canon (answerEntry_canon hs)
    · exact ite_canonOut (next_canon hs) (next_canon (addOne_canon hs))

theorem gatherWithout_canon {w g own peers} (hs : Canon s) : Canon (gatherWithout w g own peers s) :=
  foldl_canon (fun _ _ => placeShard_canon) (placePeers_canon (placeShard_canon (readGrans_canon hs)))

theorem exchangeWithout_canon {t k parts} (hs : Canon s) : Canon (exchangeWithout t k parts s).2 := by
  refine keepArgs_canon (combineAll_canon (fun x b f u h hu => ?_) (readItems_canon hs))
  split at h
  · exact Option.some.inj h ▸ hu
  · split at h
    · exact nomatch h
    · exact Option.some.inj h ▸ poisonRow_canon hu

theorem runWithout_canon {t q e w g own m got} (hs : Canon s) : Canon (runWithout t q e w g own m got s).2 := by
  unfold runWithout
  split
  · split
    · exact loosenWork_canon (backwardLookup_canon hs)
    · exact loosenWork_canon (forwardLookup_canon hs)
  · split
    · split
      · exact hs
      · exact exchangeWithout_canon hs
    · exact hs
  · exact writeShard_canon hs
  · split
    · exact hs
    · exact gatherWithout_canon hs

theorem execCollTimeout_canon {t q late} (hs : Canon s) : CanonOut (execCollTimeout t q late s) := by
  unfold execCollTimeout
  split
  · exact next_canon hs
  · refine ite_canonOut (next_canon hs) ?_
    split
    · exact ite_canonOut (next_canon hs) (engineRun_canon (fun _ hu => answerEntry_canon (collEvent_canon (forgetColl_canon
          (runWithout_canon hu)))) hs)
    · exact next_canon (answerEntry_canon hs)
    · exact next_canon hs

theorem execCollResend_canon (hs : Canon s) : CanonOut (execCollResend s) := by
  unfold execCollResend
  split
  · exact next_canon hs
  · exact ite_canonOut (next_canon hs) (next_canon (sendOrDrop_canon (update_canon hs)))

/-! ### Fabric time -/

theorem modTime_canon {f} (hs : Canon s) : Canon (modTime s f) :=
  update_canon hs

theorem setTimeState_canon {st} (hs : Canon s) : Canon (setTimeState st s) :=
  ite_canon hs (msix_canon (modTime_canon hs))

theorem timeEvent_canon {reason sev} (hs : Canon s) : Canon (timeEvent reason sev s) :=
  record_canon hs

theorem noteHold_canon (hs : Canon s) : Canon (noteHold s) :=
  ite_canon (modTime_canon (timeEvent_canon hs)) hs

theorem enterHoldover_canon (hs : Canon s) : Canon (enterHoldover s) :=
  noteHold_canon (setTimeState_canon (modTime_canon hs))

theorem retrim_canon (hs : Canon s) : Canon (retrim s) :=
  modTime_canon (update_canon hs)

theorem measure_canon {offset} (hs : Canon s) : Canon (measure offset s) :=
  modTime_canon hs

theorem execTsyncExchange_canon {p _roundTrip offset} (hs : Canon s) : CanonOut (execTsyncExchange p _roundTrip offset s) :=
  ite_canonOut (next_canon (ite_canon (measure_canon (modTime_canon hs)) (retrim_canon (measure_canon (modTime_canon hs)))))
      (next_canon hs)

theorem execUpstreamLoss_canon (hs : Canon s) : CanonOut (execUpstreamLoss s) :=
  ite_canonOut (next_canon (enterHoldover_canon hs)) (next_canon hs)

theorem execMasterElection_canon {others} (hs : Canon s) : CanonOut (execMasterElection others s) := by
  unfold execMasterElection
  dsimp only
  refine ite_canonOut (next_canon hs) ?_
  split
  · exact ite_canonOut (next_canon (setTimeState_canon (modTime_canon hs))) (next_canon hs)
  · exact ite_canonOut (next_canon (setTimeState_canon (modTime_canon hs))) (next_canon (setTimeState_canon (modTime_canon hs)))

theorem execTimeLock_canon {offset} (hs : Canon s) : CanonOut (execTimeLock offset s) :=
  ite_canonOut (ite_canonOut (next_canon (ite_canon (timeEvent_canon (setTimeState_canon (retrim_canon (modTime_canon
      (measure_canon hs))))) (setTimeState_canon (retrim_canon (modTime_canon (measure_canon hs)))))) (next_canon
      (setTimeState_canon (retrim_canon (modTime_canon (measure_canon hs)))))) (next_canon hs)

theorem stepWindows_canon {was} (hs : Canon s) : Canon (stepWindows was s) :=
  update_canon_of hs rfl rfl rfl rfl rfl

theorem stepFt_canon (hs : Canon s) : Canon (stepFt s) :=
  ite_canon hs (stepWindows_canon (modTime_canon (rebase_canon hs)))

theorem execFtStepApply_canon (hs : Canon s) : CanonOut (execFtStepApply s) :=
  ite_canonOut (next_canon (stepFt_canon hs)) (next_canon hs)

theorem execTrimOutOfRange_canon {trim} (hs : Canon s) : CanonOut (execTrimOutOfRange trim s) :=
  ite_canonOut (next_canon (enterHoldover_canon (timeEvent_canon hs))) (next_canon hs)

theorem execHoldoverTick_canon (hs : Canon s) : CanonOut (execHoldoverTick s) :=
  ite_canonOut (next_canon hs) (next_canon (noteHold_canon (modTime_canon hs)))

theorem acquireTime_canon (hs : Canon s) : Canon (acquireTime s) :=
  ite_canon (setTimeState_canon (modTime_canon hs)) hs

/-! ### The event recorder -/

theorem modReq_canon {r f} (hs : Canon s) : Canon (modReq s r f) := by
  unfold modReq
  split <;> exact update_canon hs

theorem refuseAccess_canon {r reason off} (hs : Canon s) : Canon (refuseAccess r reason off s) :=
  record_canon hs

theorem ignoreWrite_canon {r off} (hs : Canon s) : Canon (ignoreWrite r off s) :=
  refuseAccess_canon hs

/-- A recorder with a canonical log leaves the tables canonical. -/

theorem recorder_canon {r : Recorder} (hr : twf noEvent r.log = true) (hs : Canon s) : Canon { s with recorder := r } := by
  obtain ⟨hg, -, ho⟩ := canon_iff.mp hs
  exact canon_iff.mpr ⟨hg, hr, ho⟩

theorem recorder_log_canon {r : Recorder} (hr : r.log = s.recorder.log) (hs : Canon s) : Canon { s with recorder := r } :=
  recorder_canon (hr ▸ hs.log) hs

theorem takeFrozen_log (x : Recorder) (e : Event) : (x.takeFrozen e).log = x.log := by
  unfold Recorder.takeFrozen
  split <;> rfl

theorem place_log (x : Recorder) (e : Event) : (x.place e).log = x.log := by
  unfold Recorder.place
  dsimp only
  split <;> rfl

theorem suppress_log (x : Recorder) (e : Event) : (x.suppress e).log = x.log := rfl

theorem take_log (x : Recorder) (e : Event) : (x.take e).log = x.log := by
  unfold Recorder.take
  split
  · exact place_log ..
  · dsimp only
    split
    · exact suppress_log ..
    · exact place_log ..

theorem execEventQueue_canon (hs : Canon s) : CanonOut (execEventQueue s) := by
  unfold execEventQueue
  split
  · exact next_canon hs
  · next e es _ =>
    have taken (x : Recorder) (g : Event) (b : Bool) (h : x.log = s.recorder.log) :
        Canon { s with recorder := if b then x.takeFrozen g else x.take g } :=
      recorder_log_canon (by split; exacts [(takeFrozen_log ..).trans h, (take_log ..).trans h]) hs
    exact ite_canonOut (next_canon hs) (next_canon (ite_canon (msix_canon (taken _ _ _ rfl)) (taken _ _ _ rfl)))

theorem writeEntry_canon {e} (hs : Canon s) : Canon (writeEntry e s) := by
  have put (x : Recorder) (i : Nat) (h : x.log = s.recorder.log) : twf noEvent (x.put i e).log = true :=
    tset_wf _ _ (h ▸ hs.log)
  refine ite_canon (ite_canon (msix_canon ?_) ?_) ?_
  · exact recorder_canon (put _ _ rfl) hs
  · exact recorder_canon (put _ _ rfl) hs
  · split
    · exact ite_canon (msix_canon (recorder_canon (put _ _ rfl) hs)) (recorder_canon (put _ _ rfl) hs)
    · exact recorder_log_canon rfl hs

theorem execEventWrite_canon (hs : Canon s) : CanonOut (execEventWrite s) := by
  unfold execEventWrite
  dsimp only
  refine ite_canonOut (next_canon hs) ?_
  split
  · exact next_canon (writeEntry_canon (update_canon_of hs rfl rfl rfl rfl rfl))
  · split
    · exact next_canon (writeEntry_canon (update_canon_of hs rfl rfl rfl rfl rfl))
    · split
      · exact next_canon (writeEntry_canon (update_canon_of hs rfl rfl rfl rfl rfl))
      · exact next_canon (writeEntry_canon (update_canon_of hs rfl rfl rfl rfl rfl))
      · exact next_canon hs

theorem execRateWindow_canon (hs : Canon s) : CanonOut (execRateWindow s) := by
  refine ite_canonOut (next_canon hs) (next_canon (recorder_log_canon ?_ hs))
  dsimp only [Recorder.refill]
  split <;> rfl

theorem armLog_canon {r} (hs : Canon s) : Canon (armLog r s) :=
  ite_canon (update_canon hs) (update_canon hs)

theorem setFreeze_canon {r on} (hs : Canon s) : Canon (setFreeze r on s) :=
  ite_canon (modReq_canon hs) (ite_canon (update_canon_of (modReq_canon hs) rfl rfl rfl rfl rfl) (update_canon_of (modReq_canon hs)
      rfl rfl rfl rfl rfl))

/-! ### Task loads -/

theorem seeImage_canon {image h} (hs : Canon s) : Canon (seeImage image h s) :=
  ite_canon (foldl_canon (fun _ _ => see_canon) hs) hs

theorem seeSigned_canon {image h} (hs : Canon s) : Canon (seeSigned image h s) :=
  ite_canon hs (see_canon hs)

theorem refuseTask_canon {q x reason} (hs : Canon s) : Canon (refuseTask q x reason s) :=
  complete_canon (record_canon (ite_canon (record_canon hs) hs))

theorem takeRegions_canon {t n} (hs : Canon s) : Canon (takeRegions t n s) :=
  update_canon hs

theorem acceptTask_canon {q x h} (hs : Canon s) : Canon (acceptTask q x h s) :=
  ite_canon (update_canon hs) (takeRegions_canon (update_canon hs))

theorem submitWork_canon {q x} (hs : Canon s) : Canon (submitWork q x s) :=
  ite_canon (acceptTask_canon (update_canon (ite_canon (devRead_canon hs) (seeSigned_canon (seeImage_canon (devRead_canon hs))))))
      (refuseTask_canon (update_canon (ite_canon (devRead_canon hs) (seeSigned_canon (seeImage_canon (devRead_canon hs))))))

theorem submitGo_canon {p} (hs : Canon s) : CanonOut (submitGo p s) :=
  engineRun_canon (fun _ => submitWork_canon) hs

theorem execSubmissionFetch_canon {q entry} (hs : Canon s) : CanonOut (execSubmissionFetch q entry s) := by
  unfold execSubmissionFetch
  dsimp only
  refine ite_canonOut (next_canon hs) ?_
  split
  · exact submitGo_canon hs
  · exact ite_canonOut (next_canon hs) (ite_canonOut (next_canon (update_canon (modQueue_canon hs))) (ite_canonOut (next_canon
        (refuseTask_canon (update_canon (modQueue_canon hs)))) (submitGo_canon (update_canon ((modQueue_canon hs))))))

theorem loadImages_canon {t} (hs : Canon s) : Canon (loadImages t s) :=
  ite_canon hs (update_canon (foldl_canon (fun _ _ => modCore_canon (fun _ => rfl)) (see_canon (see_canon hs))))

/-! ### Streams -/

theorem streamFault_canon {c k reason slot} (hs : Canon s) : Canon (streamFault c k reason slot s) :=
  retireFault_canon hs

theorem execScfg_canon {c k slot ad} (hs : Canon s) : CanonOut (execScfg c k slot ad s) :=
  issue_canon (fun hu => ite_canon (streamFault_canon hu) (ite_canon (streamFault_canon hu) (ite_canon (streamFault_canon hu)
      (noteIssue_canon (modCtx_canon hu))))) hs

theorem execScfgDescriptorRead_canon {c k found} (hs : Canon s) : CanonOut (execScfgDescriptorRead c k found s) := by
  unfold execScfgDescriptorRead
  dsimp only
  split
  · refine ite_canonOut (next_canon hs) ?_
    split
    · exact ite_canonOut (next_canon (modCore_canon (fun _ => rfl) (modCtx_canon (modCtx_canon (backgroundFinds_canon
          (takeBanks_canon hs)))))) (next_canon (signalOwn_canon (signalOwn_canon (modCore_canon (fun _ => rfl) (modCtx_canon
          (modCtx_canon (backgroundFinds_canon (takeBanks_canon hs))))))))
    · exact next_canon (faultCtx_canon (modCtx_canon (backgroundFinds_canon (takeBanks_canon hs))))
  · exact next_canon hs

theorem onSlot_canon {c k slot f} (hf : ∀ x0 u, Canon u → Canon (f x0 u)) (hs : Canon s) : Canon (onSlot c k slot s f) :=
  ite_canon (streamFault_canon hs) (ite_canon (streamFault_canon hs) (hf _ _ hs))

theorem execSwait_canon {c k slot} (hs : Canon s) : CanonOut (execSwait c k slot s) :=
  issue_canon (onSlot_canon (fun _ _ hv => ite_canon (streamFault_canon hv) (ite_canon (retire_canon (consume_canon hv))
      (waitOn_canon (joinQueue_canon hv))))) hs

theorem execSwap_canon {c k slot} (hs : Canon s) : CanonOut (execSwap c k slot s) :=
  issue_canon (onSlot_canon (fun _ _ hv => ite_canon (retire_canon hv) (ite_canon (ite_canon (streamFault_canon hv)
      (ite_canon (retire_canon (modCore_canon (fun _ => rfl) hv)) (retire_canon (modCore_canon (fun _ => rfl) hv)))) (ite_canon
      (streamFault_canon hv) (retire_canon (modCore_canon (fun _ => rfl) hv)))))) hs

theorem execSclose_canon {c k slot} (hs : Canon s) : CanonOut (execSclose c k slot s) :=
  issue_canon (onSlot_canon (fun _ _ hv => ite_canon (retire_canon hv) (retire_canon (modCore_canon (fun _ => rfl) hv)))) hs

theorem execStreamRequestIssue_canon {c slot} (hs : Canon s) : CanonOut (execStreamRequestIssue c slot s) := by
  unfold execStreamRequestIssue
  split
  · exact next_canon hs
  · exact ite_canonOut (next_canon hs) (next_canon (sendReq_canon (modCore_canon (fun _ => rfl) (update_canon hs))))

theorem fillComplete_canon {c slot k} (hs : Canon s) : Canon (fillComplete c slot k s) :=
  pushInc_canon (modCore_canon (fun _ => rfl) hs)

theorem landBytes_canon {c slot k n now} (hs : Canon s) : Canon (landBytes c slot k n now s) :=
  ite_canon (modCore_canon (fun _ => rfl) hs) (ite_canon (fillComplete_canon (modCore_canon (fun _ => rfl) hs)) (modCore_canon
      (fun _ => rfl) (modCore_canon (fun _ => rfl) hs)))

theorem deliverFills_canon {c} (hs : Canon s) : Canon (deliverFills c s) :=
  ite_canon hs (foldl_canon (fun _ _ => fillComplete_canon) (modCore_canon (fun _ => rfl) hs))

theorem streamError_canon {c slot addr k} (hs : Canon s) : Canon (streamError c slot addr k s) :=
  record_canon (modCore_canon (fun _ => rfl) hs)

theorem execStreamReadResponse_canon {c slot} (hs : Canon s) : CanonOut (execStreamReadResponse c slot s) := by
  unfold execStreamReadResponse
  split
  · exact next_canon hs
  · exact ite_canonOut (next_canon hs) (next_canon (landBytes_canon (modCore_canon (fun _ => rfl) (foldl_canon (fun _ _ =>
        bgWrite_canon) (ite_canon (streamError_canon (update_canon hs)) (update_canon hs))))))

theorem execStreamWriteAck_canon {c slot} (hs : Canon s) : CanonOut (execStreamWriteAck c slot s) := by
  unfold execStreamWriteAck
  split
  · exact next_canon hs
  · exact next_canon (landBytes_canon (modCore_canon (fun _ => rfl) (ite_canon (streamError_canon (update_canon hs)) (update_canon
        hs))))

theorem execStreamHalfRead_canon {c slot found} (hs : Canon s) : CanonOut (execStreamHalfRead c slot found s) := by
  have hb {sp n} : Canon (backgroundFinds c sp n found (takeBanks s c sp n)) := backgroundFinds_canon (takeBanks_canon hs)
  unfold execStreamHalfRead
  dsimp only
  split
  · exact next_canon hs
  · refine ite_canonOut (next_canon hs) (ite_canonOut ?_ ?_)
    · split
      · exact next_canon (modCore_canon (fun _ => rfl) hb)
      · exact next_canon (modCore_canon (fun _ => rfl) (modCore_canon (fun _ => rfl) hb))
    · exact next_canon (modCore_canon (fun _ => setPort_wb ..) (modCore_canon (fun _ => rfl) hb))

theorem refuseRow_canon {c side g reason} (hs : Canon s) : Canon (refuseRow c side g reason s) :=
  faultCtx_canon (landBytes_canon (modCore_canon (fun _ => setPort_wb ..) (ite_canon (record_canon hs) hs)))

theorem leave_canon {c side g} (hs : Canon s) : Canon (leave c side g s) := by
  refine landBytes_canon (modCore_canon (fun x => ?_) (modCore_canon (fun x => setWinWrites_wb ..) hs))
  cases side <;> rfl

theorem dropRejected_canon {c side} (hs : Canon s) : Canon (dropRejected c side s) :=
  ite_canon hs (modCore_canon (fun _ => setWinWrites_wb ..) hs)

theorem leavePort_canon {c side} (hs : Canon s) : Canon (leavePort c side s) := by
  unfold leavePort
  split
  · exact hs
  · exact ite_canon hs (ite_canon (refuseRow_canon hs) (ite_canon (leave_canon hs) hs))

theorem leavePorts_canon {c} (hs : Canon s) : Canon (leavePorts c s) :=
  leavePort_canon (leavePort_canon (dropRejected_canon (dropRejected_canon hs)))

theorem execStreamCloseDone_canon {c slot} (hs : Canon s) : CanonOut (execStreamCloseDone c slot s) :=
  ite_canonOut (next_canon (signalOwn_canon (modCore_canon (fun _ => rfl) hs))) (next_canon hs)

theorem execRtDeadlineMiss_canon {c slot} (hs : Canon s) : CanonOut (execRtDeadlineMiss c slot s) :=
  ite_canonOut (next_canon hs) (ite_canonOut (next_canon (modCore_canon (fun _ => rfl) hs)) (next_canon (record_canon
      (modCore_canon (fun _ => rfl) (modCore_canon (fun _ => rfl) hs)))))

theorem execStashTimeout_canon {t} (hs : Canon s) : CanonOut (execStashTimeout t s) := by
  unfold execStashTimeout
  dsimp only
  split
  · exact next_canon hs
  · exact ite_canonOut (next_canon hs) (next_canon (faultCtx_canon (foldl_canon (fun _ _ => landBytes_canon) (modCore_canon
        (fun _ => rfl) (modTask_canon hs)))))

/-! ### Windows -/

theorem wopenFault_canon {c k reason w} (hs : Canon s) : Canon (wopenFault c k reason w s) :=
  retireFault_canon hs

theorem execWopen_canon {c k w ad} (hs : Canon s) : CanonOut (execWopen c k w ad s) :=
  issue_canon (fun hu => ite_canon (wopenFault_canon hu) (ite_canon (wopenFault_canon hu) (ite_canon (wopenFault_canon hu)
      (noteIssue_canon (modCtx_canon hu))))) hs

theorem execWopenDescriptorRead_canon {c k found} (hs : Canon s) : CanonOut (execWopenDescriptorRead c k found s) := by
  unfold execWopenDescriptorRead
  split
  · exact ite_canonOut (next_canon hs) (ite_canonOut (next_canon (faultCtx_canon (modCtx_canon (backgroundFinds_canon
        (takeBanks_canon hs))))) (ite_canonOut (next_canon (faultCtx_canon (modCtx_canon (backgroundFinds_canon (takeBanks_canon
        hs))))) (next_canon (modCore_canon (fun _ => rfl) (modCtx_canon (modCtx_canon (backgroundFinds_canon (takeBanks_canon
        hs))))))))
  · exact next_canon hs

theorem closeWindow_canon {c w} (hs : Canon s) : Canon (closeWindow c w s) :=
  ite_canon hs (foldl_canon (fun _ _ => modCore_canon (fun _ => rfl)) (modCore_canon (fun _ => rfl) hs))

theorem execWclose_canon {c k w} (hs : Canon s) : CanonOut (execWclose c k w s) :=
  issue_canon (fun hu => retire_canon (ite_canon (closeWindow_canon hu) hu)) hs

theorem execCloseNoticeArrival_canon {c} (hs : Canon s) : CanonOut (execCloseNoticeArrival c s) := by
  unfold execCloseNoticeArrival
  split
  · exact next_canon hs
  · exact next_canon (modCore_canon (fun _ => rfl) hs)

theorem execDrainMarkerSend_canon {c side} (hs : Canon s) : CanonOut (execDrainMarkerSend c side s) := by
  unfold execDrainMarkerSend
  split
  · exact next_canon hs
  · exact next_canon (modCore_canon (fun _ => rfl) (modCore_canon (fun _ => rfl) hs))

theorem execWindowClosed_canon {c w} (hs : Canon s) : CanonOut (execWindowClosed c w s) :=
  ite_canonOut (next_canon (signalOwn_canon (modCore_canon (fun _ => rfl) hs))) (next_canon hs)

theorem winReject_canon {c side w reason} (hs : Canon s) : Canon (winReject c side w reason s) :=
  modCore_canon (fun _ => rfl) (record_canon hs)

theorem execWindowWriteArrival_canon {c side} (hs : Canon s) : CanonOut (execWindowWriteArrival c side s) := by
  unfold execWindowWriteArrival
  split
  · exact next_canon hs
  · exact ite_canonOut (next_canon (modCore_canon (fun _ => setWinWrites_wb ..) hs))
      (next_canon (modCore_canon (fun _ => rfl) (winReject_canon (modCore_canon (fun _ => setWinWrites_wb ..) hs))))

theorem execWindowGranuleWrite_canon {c side} (hs : Canon s) : CanonOut (execWindowGranuleWrite c side s) := by
  unfold execWindowGranuleWrite
  split
  · exact next_canon hs
  · next w g n _ =>
    have hw : Canon (modCore (bgWrite c (64 * n) (natLe 64 g.data.toNat) g.poison s) c fun x =>
        let x := x.setWinWrites side ((x.winWrites side).filterMap fun q =>
          if q = w then (if w.past + 1 == w.count then none else some { q with past := q.past + 1, grans := q.grans.drop 1 })
          else some q)
        if w.past + 1 == w.count then x.modWindow w.win fun v => { v with writes := satInc v.writes } else x) := by
      refine modCore_canon (fun x => ?_) (bgWrite_canon hs)
      split <;> exact setWinWrites_wb ..
    exact next_canon (ite_canon (signalOwn_canon hw) hw)

theorem execWindowFaultReturn_canon {c} (hs : Canon s) : CanonOut (execWindowFaultReturn c s) := by
  unfold execWindowFaultReturn
  split
  · exact next_canon hs
  · exact next_canon (faultCtx_canon (modCore_canon (fun _ => rfl) hs))

theorem execSpCorrectionWriteback_canon {c} (hs : Canon s) : CanonOut (execSpCorrectionWriteback c s) := by
  unfold execSpCorrectionWriteback
  split
  · exact next_canon hs
  · exact next_canon (modCore_canon (fun _ => rfl) (takeBanks_canon hs))

theorem execSegmentClearDone_canon {c seg} (hs : Canon s) : CanonOut (execSegmentClearDone c seg s) :=
  ite_canonOut (next_canon (modCore_canon (fun _ => rfl) hs)) (next_canon hs)

/-! ### Saves -/

theorem writeSave_canon {t a r} (hs : Canon s) : Canon (writeSave t a r s) :=
  foldl_canon (fun _ _ => devWrite_canon) hs

theorem seeSave_canon {a r} (hs : Canon s) : Canon (seeSave a r s) :=
  ite_canon (ite_canon (see_canon hs) (see_canon (see_canon hs))) (see_canon (ite_canon (see_canon hs) (see_canon (see_canon hs))))

/-! ### Tasks -/

theorem powerSegments_canon {T} (hs : Canon s) : Canon (powerSegments T s) :=
  foldl_canon (fun _ _ => modCore_canon (fun _ => rfl)) hs

theorem launchTask_canon {t} (hs : Canon s) : Canon (launchTask t s) :=
  modTask_canon (update_canon (foldl_canon (fun _ _ => gset_canon) (foldl_canon (fun _ _ => modCore_canon (fun _ => rfl))
      (loadImages_canon hs))))

theorem execTaskLaunch_canon {t} (hs : Canon s) : CanonOut (execTaskLaunch t s) :=
  ite_canonOut (engineRun_canon (fun _ => launchTask_canon) hs) (next_canon hs)

theorem powerDownSegments_canon {t} (hs : Canon s) : Canon (powerDownSegments t s) :=
  foldl_canon (fun _ _ => modCore_canon (fun _ => rfl)) hs

theorem gctr_filter_canon {p : Nat × GCounter → Bool} (hs : Canon s) : Canon { s with gctr := s.gctr.filter p } := by
  obtain ⟨hg, hr⟩ := canon_iff.mp hs
  exact canon_iff.mpr ⟨filter_wf _ hg, hr⟩

theorem freeCores_canon {t : SlotIx} {l : List CoreIx} (hs : Canon s) : Canon (l.foldl (fun s c => modCore s c fun x =>
    if x.slot = some t then { x with slot := none, girth := { x.girth with tagCheck := true }, pend := none }
    else if x.slot.isNone then { x with girth := { x.girth with tagCheck := true } } else x) s) := by
  refine foldl_canon (fun _ _ => modCore_canon fun x => ?_) hs
  split
  · rfl
  · split <;> rfl

theorem releaseTask_canon {t} (hs : Canon s) : Canon (releaseTask t s) := by
  have hf := gctr_filter_canon (p := fun q => q.2.holder != some t)
    (powerDownSegments_canon (t := t) (freeCores_canon (t := t) (l := s.tasks[t].cores) hs))
  exact update_canon (modTask_canon (update_canon (ite_canon (update_canon hf) hf)))

theorem freeTask_canon {t} (hs : Canon s) : Canon (freeTask t s) :=
  modTask_canon (releaseTask_canon hs)

theorem refuseLoad_canon (hs : Canon s) : Canon (refuseLoad s) :=
  record_canon (update_canon hs)

theorem loadedTask_canon {t} (hs : Canon s) : Canon (loadedTask t s) :=
  ite_canon (modTask_canon (powerSegments_canon hs)) (completeTask_canon (modTask_canon (powerSegments_canon hs)))

theorem loadTask_canon {t} (hs : Canon s) : Canon (loadTask t s) := by
  refine ite_canon (loadedTask_canon (loadImages_canon hs)) (ite_canon (loadedTask_canon (refuseLoad_canon hs)) ?_)
  split
  · exact freeTask_canon (refuseLoad_canon (record_canon hs))
  · exact complete_canon (freeTask_canon (refuseLoad_canon (record_canon hs)))

theorem execTaskLoadDone_canon {t} (hs : Canon s) : CanonOut (execTaskLoadDone t s) :=
  ite_canonOut (next_canon hs) (engineRun_canon (fun _ => loadTask_canon) hs)

theorem releaseWhenIdle_canon {t} (hs : Canon s) : Canon (releaseWhenIdle t s) :=
  ite_canon (freeTask_canon hs) (modTask_canon hs)

theorem haltedTask_canon {t r} (hs : Canon s) : Canon (haltedTask t r s) :=
  ite_canon (releaseWhenIdle_canon (faultTask_canon hs)) (faultTask_canon hs)

theorem closeAll_canon {c} (hs : Canon s) : Canon (closeAll c s) :=
  foldl_canon (fun _ _ => closeWindow_canon) (modCore_canon (fun _ => rfl) hs)

theorem driftCore_canon {T q} (hs : Canon s) : Canon (driftCore T q s) := by
  unfold driftCore
  split
  · exact hs
  · exact record_canon (modCore_canon (fun _ => rfl) hs)

theorem scrubCores_canon {T} (hs : Canon s) : Canon (scrubCores T s) :=
  foldl_canon (fun _ _ => modCore_canon_of (fun h => filter_wf _ h)) hs

theorem finishOpen_canon {t} (hs : Canon s) : Canon (finishOpen t s) :=
  foldl_canon (fun _ _ => finishEntry_canon) hs

theorem endTask_canon {t drift} (hs : Canon s) : Canon (endTask t drift s) :=
  ite_canon (completeTask_canon (record_canon (modTask_canon (releaseTask_canon (finishOpen_canon hs))))) (completeTask_canon
      (modTask_canon (releaseTask_canon (finishOpen_canon hs))))

theorem checkEnd_canon {t} (hs : Canon s) : Canon (checkEnd t s) :=
  ite_canon (scrubCores_canon (modTask_canon (foldl_canon (fun _ _ => driftCore_canon) hs))) (modTask_canon (foldl_canon
      (fun _ _ => driftCore_canon) hs))

theorem execTaskEnd_canon {t} (hs : Canon s) : CanonOut (execTaskEnd t s) :=
  ite_canonOut (next_canon hs) (ite_canonOut (next_canon (modTask_canon hs)) (ite_canonOut (next_canon hs) (ite_canonOut
      (next_canon (foldl_canon (fun _ _ => closeAll_canon) (modTask_canon hs))) (ite_canonOut (ite_canonOut (next_canon
      (checkEnd_canon hs)) (next_canon hs)) (ite_canonOut (next_canon hs) (next_canon (endTask_canon hs)))))))

theorem execTaskHaltDone_canon {t} (hs : Canon s) : CanonOut (execTaskHaltDone t s) := by
  unfold execTaskHaltDone
  dsimp only
  split
  · exact next_canon (ite_canon (releaseWhenIdle_canon hs) hs)
  · exact ite_canonOut (next_canon hs) (ite_canonOut (ite_canonOut (next_canon (haltedTask_canon hs)) (next_canon hs)) (next_canon
        (haltedTask_canon hs)))

theorem holdTask_canon {t} (hs : Canon s) : Canon (holdTask t s) :=
  mapTaskCores_canon (fun _ => rfl) (modTask_canon hs)

theorem execQuantumExpiry_canon {t} (hs : Canon s) : CanonOut (execQuantumExpiry t s) :=
  ite_canonOut (ite_canonOut (next_canon (holdTask_canon hs)) (next_canon (modTask_canon hs))) (next_canon hs)

theorem saveCore_canon {t q} (hs : Canon s) : Canon (saveCore t q s) :=
  modCore_canon (fun _ => rfl) (modTask_canon (writeSave_canon hs))

theorem execPreemptSave_canon {t} (hs : Canon s) : CanonOut (execPreemptSave t s) := by
  refine ite_canonOut (next_canon hs) (ite_canonOut (ite_canonOut (engineRun_canon (fun _ => foldl_canon (fun _ _ =>
      saveCore_canon)) hs) (next_canon hs)) (ite_canonOut (next_canon hs) ?_))
  split
  · exact next_canon (haltedTask_canon hs)
  · exact next_canon (modTask_canon hs)

theorem applyReleases_canon {t} (hs : Canon s) : Canon (applyReleases t s) :=
  foldl_canon (fun _ _ => applyCounter_canon) hs

theorem resumeTask_canon {t} (hs : Canon s) : Canon (resumeTask t s) :=
  ite_canon (faultTask_canon (foldl_canon (fun _ _ => seeSave_canon) hs)) (modTask_canon (applyReleases_canon (keptReleases_canon
      (foldl_canon (fun _ _ => modCore_canon (fun _ => rfl)) (loadImages_canon (foldl_canon (fun _ _ => seeSave_canon) hs))))))

theorem execTaskResume_canon {t} (hs : Canon s) : CanonOut (execTaskResume t s) :=
  ite_canonOut (engineRun_canon (fun _ => resumeTask_canon) hs) (next_canon hs)

theorem execReservationLead_canon {r} (hs : Canon s) : CanonOut (execReservationLead r s) := by
  unfold execReservationLead
  split
  · exact next_canon hs
  · exact ite_canonOut (next_canon hs) (next_canon (update_canon (foldl_canon (fun _ _ hu => ite_canon (holdTask_canon hu) hu) hs)))

theorem startReserved_canon {r v} (hs : Canon s) : Canon (startReserved r v s) :=
  update_canon (modTask_canon (ite_canon (launchTask_canon (ite_canon (lateAction_canon hs) hs)) (ite_canon (resumeTask_canon
      (ite_canon (lateAction_canon hs) hs)) (ite_canon (lateAction_canon hs) hs))))

theorem execReservationStart_canon {r} (hs : Canon s) : CanonOut (execReservationStart r s) := by
  unfold execReservationStart
  split
  · exact next_canon hs
  · exact ite_canonOut (next_canon hs) (engineRun_canon (fun _ => startReserved_canon) hs)

theorem execReservationEnd_canon {r} (hs : Canon s) : CanonOut (execReservationEnd r s) := by
  unfold execReservationEnd
  split
  · exact next_canon hs
  · exact ite_canonOut (next_canon (update_canon (modTask_canon hs))) (next_canon hs)

/-! ### Mailboxes -/

theorem modMb_canon {p} {f : Mailbox → Mailbox} (hf : ∀ x, twf 0 x.data = true → twf 0 (f x).data = true) (hs : Canon s) :
    Canon (modMb s p f) := by
  obtain ⟨hg, hl, hp, hc, hh, hm, hr⟩ := canon_iff.mp hs
  cases p with
  | host => exact canon_iff.mpr ⟨hg, hl, hp, hc, hf _ hh, hm, hr⟩
  | mgmt => exact canon_iff.mpr ⟨hg, hl, hp, hc, hh, hf _ hm, hr⟩

theorem putWords_wf {x : Mailbox} {ws : List W32} (h : twf 0 x.data = true) : twf 0 (x.putWords ws).data = true :=
  foldl_wf _ _ _ (fun _ _ => tset_wf _ _) h

theorem mbFinish_canon {p status len ws} (hs : Canon s) : Canon (mbFinish p status len ws s) := by
  have hm := modMb_canon (p := p)
    (f := fun x => { x.putWords ws with busy := false, status := status, resultLen := BitVec.ofNat 13 len })
    (fun _ => putWords_wf) hs
  cases p with
  | host => exact msix_canon hm
  | mgmt => exact emit_canon hm

theorem opGetVersion_canon {p} (hs : Canon s) : Canon (opGetVersion p s) :=
  mbFinish_canon hs

theorem opSetVersion_canon {p v} (hs : Canon s) : Canon (opSetVersion p v s) :=
  ite_canon (mbFinish_canon (modMb_canon (fun _ h => h) hs)) (mbFinish_canon hs)

theorem opSetQuantum_canon {p frames} (hs : Canon s) : Canon (opSetQuantum p frames s) :=
  ite_canon (mbFinish_canon (update_canon hs)) (mbFinish_canon hs)

theorem opSetSignedMode_canon {p} (hs : Canon s) : Canon (opSetSignedMode p s) :=
  mbFinish_canon (update_canon hs)

theorem opCommitSvn_canon {p} (hs : Canon s) : Canon (opCommitSvn p s) :=
  mbFinish_canon (update_canon hs)

theorem opLogRead_canon {p first count} (hs : Canon s) : Canon (opLogRead p first count s) := by
  unfold opLogRead
  split
  · exact mbFinish_canon (update_canon hs)
  · exact ite_canon (mbFinish_canon hs) (mbFinish_canon (emit_canon hs))

theorem opReserve_canon {p slot sectors a b} (hs : Canon s) : Canon (opReserve p slot sectors a b s) := by
  unfold opReserve
  split
  · exact mbFinish_canon hs
  · refine dite_canon (fun _ => ite_canon (mbFinish_canon hs) (ite_canon (mbFinish_canon hs) (ite_canon (mbFinish_canon hs)
        (ite_canon (mbFinish_canon hs) ?_)))) (fun _ => mbFinish_canon hs)
    split <;> exact mbFinish_canon (update_canon hs)

theorem opUnreserve_canon {p n} (hs : Canon s) : Canon (opUnreserve p n s) := by
  unfold opUnreserve
  dsimp only
  refine dite_canon (fun _ => ?_) (fun _ => mbFinish_canon hs)
  split
  · exact mbFinish_canon hs
  · exact mbFinish_canon (update_canon hs)

theorem quiesceEnds_canon {p status} (hs : Canon s) : Canon (quiesceEnds p status s) :=
  mbFinish_canon (update_canon (record_canon hs))

theorem opQuiesce_canon {p waitUs} (hs : Canon s) : Canon (opQuiesce p waitUs s) :=
  ite_canon (mbFinish_canon hs) (ite_canon (quiesceEnds_canon hs) (foldl_canon (fun _ _ => holdTask_canon) (update_canon hs)))

theorem restoreHeld_canon {z status} (hs : Canon s) : Canon (restoreHeld z status s) :=
  update_canon hs

theorem startChanges_canon {z} (hs : Canon s) : Canon (startChanges z s) :=
  ite_canon (trimRail_canon (update_canon hs)) (update_canon hs)

theorem checkChanges_canon {z} (hs : Canon s) : Canon (checkChanges z s) :=
  ite_canon (restoreHeld_canon hs) (startChanges_canon hs)

theorem stepClocks_canon {step} (hs : Canon s) : Canon (stepClocks step s) :=
  ite_canon (update_canon hs) (trimRail_canon (update_canon (railHere_canon (rebase_canon (update_canon hs)))))

theorem applyChanges_canon {step} (hs : Canon s) : Canon (applyChanges step s) :=
  stepClocks_canon (ite_canon (update_canon (ite_canon (stepFt_canon hs) (cores_map_canon (fun _ => rfl) (stepFt_canon hs))))
      (ite_canon (stepFt_canon hs) (cores_map_canon (fun _ => rfl) (stepFt_canon hs))))

theorem opSelfTest_canon {p sectors kind} (hs : Canon s) : Canon (opSelfTest p sectors kind s) := by
  unfold opSelfTest
  split
  · exact mbFinish_canon hs
  · exact ite_canon (mbFinish_canon hs) (ite_canon (update_canon hs) (mbFinish_canon (update_canon hs)))

theorem opTestResult_canon {p n} (hs : Canon s) : Canon (opTestResult p n s) := by
  unfold opTestResult
  split <;> exact mbFinish_canon hs

theorem mbExec_canon {p op len args} (hs : Canon s) : Canon (mbExec p op len args s) := by
  unfold mbExec
  split
  · exact mbFinish_canon hs
  · refine ite_canon (mbFinish_canon (ite_canon (record_canon hs) hs)) (ite_canon (mbFinish_canon hs) ?_)
    split
    · exact opGetVersion_canon hs
    · exact opSetVersion_canon hs
    · exact opQuiesce_canon hs
    · exact opReserve_canon hs
    · exact opUnreserve_canon hs
    · exact opSetQuantum_canon hs
    · exact opSelfTest_canon hs
    · exact opTestResult_canon hs
    · exact opSetSignedMode_canon hs
    · exact opCommitSvn_canon hs
    · exact opLogRead_canon hs

theorem mbDrain_canon {n} (hs : Canon s) : Canon (mbDrain n s) := by
  induction n generalizing s with
  | zero => exact hs
  | succ n ih =>
    refine ite_canon hs ?_
    split
    · exact hs
    · exact ih (mbExec_canon (update_canon hs))

theorem mbNext_canon (hs : Canon s) : Canon (mbNext s) :=
  mbDrain_canon hs

theorem mbArrive_canon {p op len args} (hs : Canon s) : Canon (mbArrive p op len args s) := by
  have hm := modMb_canon (p := p) (f := fun x => { x with busy := true }) (fun _ h => h) hs
  exact ite_canon (mbFinish_canon (record_canon hm)) (ite_canon (update_canon hm) (mbExec_canon hm))

theorem mbCommand_canon {p op args} (hs : Canon s) : Canon (mbCommand p op args s) := by
  cases p with
  | host => exact ite_canon hs (ite_canon (ignoreWrite_canon hs) (mbArrive_canon (modMb_canon (fun _ => putWords_wf) hs)))
  | mgmt => exact mbArrive_canon (modMb_canon (fun _ h => h) hs)

theorem execQuiesceApply_canon (hs : Canon s) : CanonOut (execQuiesceApply s) := by
  unfold execQuiesceApply
  split
  · exact next_canon hs
  · split
    · exact ite_canonOut (next_canon (mbNext_canon (quiesceEnds_canon hs))) (next_canon hs)
    · split
      · exact ite_canonOut (next_canon hs) (next_canon (checkChanges_canon hs))
      · exact ite_canonOut (next_canon (applyChanges_canon (restoreHeld_canon hs))) (next_canon hs)

theorem execQuiesceTimeout_canon (hs : Canon s) : CanonOut (execQuiesceTimeout s) := by
  unfold execQuiesceTimeout
  split
  · exact next_canon hs
  · exact ite_canonOut (next_canon (ite_canon (restoreHeld_canon hs) (checkChanges_canon hs))) (next_canon hs)

theorem testedDown_canon {sectors} (hs : Canon s) : Canon (testedDown sectors s) :=
  foldl_canon (fun _ _ hu => ite_canon (modCore_canon (fun _ => rfl) hu) hu) hs

theorem putTest_canon {x} (hs : Canon s) : Canon (putTest x s) :=
  update_canon hs

theorem execSelfTestRun_canon {n failing} (hs : Canon s) : CanonOut (execSelfTestRun n failing s) := by
  unfold execSelfTestRun
  dsimp only
  split
  · exact next_canon hs
  · refine ite_canonOut (next_canon hs) ?_
    split
    · exact next_canon (ite_canon (record_canon (putTest_canon (ite_canon (testedDown_canon hs) hs))) (record_canon (putTest_canon
          (ite_canon (testedDown_canon hs) hs))))
    · exact next_canon (mbNext_canon (mbFinish_canon (ite_canon (record_canon (putTest_canon (ite_canon (testedDown_canon hs) hs)))
          (record_canon (putTest_canon (ite_canon (testedDown_canon hs) hs))))))

theorem execSelfTestTimeout_canon {n} (hs : Canon s) : CanonOut (execSelfTestTimeout n s) := by
  unfold execSelfTestTimeout
  split
  · exact next_canon hs
  · refine ite_canonOut (next_canon hs) ?_
    split
    · exact next_canon (record_canon (putTest_canon hs))
    · exact next_canon (mbNext_canon (mbFinish_canon (record_canon (putTest_canon hs))))

theorem commitShadow_canon (hs : Canon s) : Canon (commitShadow s) :=
  update_canon hs

theorem execCfgApply_canon {u} (hs : Canon s) : CanonOut (execCfgApply u s) :=
  ite_canonOut (next_canon hs) (next_canon (ite_canon (record_canon (update_canon hs)) (update_canon hs)))

/-! ### Register accesses -/

theorem clearCore_canon {x off} (hs : Canon s) : Canon (clearCore x off s) :=
  ite_canon (modCore_canon (fun _ => rfl) hs) (ite_canon (modCore_canon (fun _ => rfl) hs) (ite_canon (modCore_canon (fun _ => rfl)
      hs) (ite_canon (modCore_canon (fun _ => rfl) hs) (ite_canon (modCtx_canon hs) (ite_canon (modCore_canon (fun _ => rfl) hs)
      (ite_canon (modCore_canon (fun _ => rfl) hs) (ite_canon (modCore_canon (fun _ => rfl) hs) (ite_canon (modCore_canon
      (fun _ => rfl) hs) (ite_canon (modCore_canon (fun _ => rfl) hs) (ite_canon (modCore_canon (fun _ => rfl) hs)
      (ite_canon (modCore_canon (fun _ => rfl) hs) (ite_canon (modCore_canon (fun _ => rfl) hs) (ite_canon (modCore_canon
      (fun _ => rfl) hs) hs)))))))))))))

theorem clearHub_canon {x off} (hs : Canon s) : Canon (clearHub x off s) :=
  ite_canon (update_canon hs) (ite_canon (update_canon hs) (ite_canon (update_canon hs) (ite_canon (update_canon hs)
      (ite_canon (update_canon hs) (ite_canon (modQueue_canon hs) (ite_canon (update_canon_of hs rfl rfl rfl rfl rfl)
      (ite_canon (update_canon_of hs rfl rfl rfl rfl rfl) (ite_canon (update_canon_of hs rfl rfl rfl rfl rfl)
      (ite_canon (update_canon_of hs rfl rfl rfl rfl rfl) (ite_canon (update_canon_of hs rfl rfl rfl rfl rfl) hs))))))))))

theorem clearStack_canon {x off} (hs : Canon s) : Canon (clearStack x off s) :=
  ite_canon (modPort_canon (fun _ => rfl) hs) (ite_canon (modPort_canon (fun _ => rfl) hs) (ite_canon (modPort_canon (fun _ => rfl)
      hs) (ite_canon (modPort_canon (fun _ => rfl) hs) (ite_canon (modPort_canon (fun _ => rfl) hs) (ite_canon (modPort_canon
      (fun _ => rfl) hs) (ite_canon (modPort_canon (fun _ => rfl) hs) (ite_canon (modPort_canon (fun _ => rfl) hs)
      (ite_canon (modPort_canon (fun _ => rfl) hs) (ite_canon (modPort_canon (fun _ => rfl) hs) (ite_canon (modPort_canon
      (fun _ => rfl) hs) (ite_canon (modPort_canon (fun _ => rfl) hs) (ite_canon (update_canon hs) (ite_canon (update_canon hs)
      (ite_canon (update_canon hs) hs))))))))))))))

theorem clearLink_canon {x off} (hs : Canon s) : Canon (clearLink x off s) :=
  ite_canon (modLink_canon hs) (ite_canon (modLink_canon hs) (ite_canon (modLink_canon hs) (ite_canon (modLink_canon hs)
      (ite_canon (modLink_canon hs) (ite_canon (update_canon hs) hs)))))

theorem clearPower_canon {x off} (hs : Canon s) : Canon (clearPower x off s) :=
  ite_canon (update_canon hs) (ite_canon (update_canon hs) (ite_canon (modRegion_canon hs) (ite_canon (modRegion_canon hs)
      (ite_canon (modRegion_canon hs) (ite_canon (modRegion_canon hs) hs)))))

theorem clearRecorder_canon {off} (hs : Canon s) : Canon (clearRecorder off s) :=
  ite_canon (update_canon_of hs rfl rfl rfl rfl rfl) (ite_canon (update_canon_of hs rfl rfl rfl rfl rfl)
      (ite_canon (update_canon_of hs rfl rfl rfl rfl rfl) (ite_canon (update_canon_of hs rfl rfl rfl rfl rfl) hs)))

theorem clearRc_canon {r off} (hs : Canon s) : Canon (clearRc r off s) :=
  ite_canon hs (ite_canon (clearHub_canon hs) (ite_canon (clearCore_canon hs) (ite_canon (clearStack_canon hs)
      (ite_canon (clearLink_canon hs) (ite_canon (clearPower_canon hs) (ite_canon (clearRecorder_canon hs) (ite_canon (update_canon
      hs) hs)))))))

theorem readLive_canon {r off} (hs : Canon s) : Canon (readLive r off s).2 := by
  unfold readLive
  dsimp only
  split
  · exact hs
  · split
    · exact hs
    · split
      · exact refuseAccess_canon hs
      · split
        · exact hs
        · exact clearRc_canon hs

theorem read32_canon {r off} (hs : Canon s) : Canon (read32 r off s).2 := by
  unfold read32
  split
  · exact hs
  · split
    · exact modReq_canon (readLive_canon hs)
    · split
      · split
        · exact hs
        · exact readLive_canon hs
      · exact readLive_canon hs

theorem read64_canon {r off} (hs : Canon s) : Canon (read64 r off s).2 := by
  unfold read64
  split
  · exact hs
  · exact readLive_canon (readLive_canon hs)

theorem readReg_canon {r off size} (hs : Canon s) : Canon (readReg r off size s).2 := by
  unfold readReg
  split
  · exact read64_canon hs
  · split
    · exact read32_canon hs
    · split
      · exact read32_canon hs
      · split
        · exact read32_canon hs
        · exact hs

theorem execLowHalfRead_canon {r off} (hs : Canon s) : CanonOut (execLowHalfRead r off s) :=
  next_canon (emit_canon (read32_canon hs))

theorem execReadClear_canon {r off size} (hs : Canon s) : CanonOut (execReadClear r off size s) :=
  next_canon (emit_canon (readReg_canon hs))

theorem mctpAnswer_canon {status off data} (hs : Canon s) : Canon (mctpAnswer status off data s) :=
  emit_canon hs

theorem execMgmtRead32_canon {off} (hs : Canon s) : CanonOut (execMgmtRead32 off s) :=
  ite_canonOut (next_canon (mctpAnswer_canon hs)) (next_canon (mctpAnswer_canon (read32_canon hs)))

theorem execMgmtRead64_canon {off} (hs : Canon s) : CanonOut (execMgmtRead64 off s) :=
  ite_canonOut (next_canon (mctpAnswer_canon hs)) (next_canon (mctpAnswer_canon (read64_canon hs)))

/-! ### Snapshots and restores -/

theorem takeInterval_canon {step} (hs : Canon s) : Canon (takeInterval step s) :=
  ite_canon (update_canon hs) hs

theorem beginTake_canon (hs : Canon s) : Canon (beginTake s) :=
  ite_canon hs (update_canon hs)

theorem execSnapshot_canon {t q} (hs : Canon s) : CanonOut (execSnapshot t q s) := by
  unfold execSnapshot
  split
  · exact next_canon hs
  · exact ite_canonOut (next_canon hs) (ite_canonOut (next_canon (answerEntry_canon (takeInterval_canon (beginTake_canon hs))))
        (ite_canonOut (next_canon (answerEntry_canon (takeInterval_canon (beginTake_canon hs)))) (next_canon (update_canon
        (takeInterval_canon (beginTake_canon hs))))))

theorem putTake_canon {run} (hs : Canon s) : Canon (putTake run s) :=
  update_canon hs

theorem mirrorSend_canon {run commit o bs} (hs : Canon s) : Canon (mirrorSend run commit o bs s).2 := by
  unfold mirrorSend
  generalize (if bit (cfgOf s 23).express 8 then 256 else 1024) = unit
  refine foldl_canon_snd (fun a i h => ?_) hs
  split
  · exact h
  · dsimp only
    split
    · exact record_canon (update_canon h)
    · split
      · exact update_canon h
      · next hp => exact sendPacket_canon (update_canon h) hp

theorem copyPiece_canon {o bs acc} (hs : Canon acc.2) : Canon (copyPiece o bs acc).2 := by
  unfold copyPiece
  dsimp only
  split
  · exact devWrite_canon hs
  · split <;> exact mirrorSend_canon (devWrite_canon hs)

theorem endSnapshot_canon {run status} (hs : Canon s) : Canon (endSnapshot run status s) :=
  answerEntry_canon (update_canon hs)

theorem settleSnapshot_canon {run} (hs : Canon s) : Canon (settleSnapshot run s) :=
  ite_canon (endSnapshot_canon hs) (putTake_canon hs)

theorem noteCopy_canon {run} (hs : Canon s) : Canon (noteCopy run s) :=
  update_canon hs

theorem captureWork_canon {run e} (hs : Canon s) : Canon (captureWork run e s) :=
  ite_canon (endSnapshot_canon hs) (putTake_canon (copyPiece_canon (copyPiece_canon (update_canon (update_canon hs)))))

theorem execSnapshotCapture_canon (hs : Canon s) : CanonOut (execSnapshotCapture s) := by
  unfold execSnapshotCapture
  split
  · exact next_canon hs
  · exact engineRun_canon (fun _ => captureWork_canon) hs

theorem copyWork_canon {run} (hs : Canon s) : Canon (copyWork run s) := by
  unfold copyWork
  dsimp only
  split
  · exact endSnapshot_canon (record_canon (foldl_canon (fun _ _ => see_canon) hs))
  · exact putTake_canon (foldl_canon_snd (fun _ _ => copyPiece_canon) (foldl_canon (fun _ _ => see_canon) hs))

theorem commitHome_canon {run digest} (hs : Canon s) : CanonOut (commitHome run digest s) :=
  ite_canonOut (next_canon hs) (ite_canonOut (next_canon (settleSnapshot_canon (noteCopy_canon (update_canon hs))))
      (engineRun_canon (fun _ hu => putTake_canon (devWrite_canon hu)) hs))

theorem commitBag_canon {run digest} (hs : Canon s) : CanonOut (commitBag run digest s) := by
  unfold commitBag
  dsimp only
  refine ite_canonOut (next_canon hs) ?_
  split
  · exact next_canon (settleSnapshot_canon (mirrorSend_canon hs))
  · exact next_canon (putTake_canon (mirrorSend_canon hs))

theorem execSnapshotCommit_canon {home digest} (hs : Canon s) : CanonOut (execSnapshotCommit home digest s) := by
  unfold execSnapshotCommit
  split
  · exact next_canon hs
  · next run _ =>
    have he := engineRun_canon (key := entryKey run.slot run.q) (t := some run.slot) (k := Rank.open_) (ready := true)
      (fun _ => copyWork_canon (run := run)) hs
    refine ite_canonOut (next_canon hs) (ite_canonOut ?_ ?_)
    · split
      next h => exact next_canon (noteReleased_canon (he _ h))
      next => exact he
    · dsimp only
      split
      · exact commitHome_canon hs
      · exact commitBag_canon hs

theorem mirrorAnswered_canon {tag ok} (hs : Canon s) : Canon (mirrorAnswered tag ok s) := by
  unfold mirrorAnswered
  split
  · exact hs
  · exact ite_canon hs (ite_canon (settleSnapshot_canon hs) (ite_canon (settleSnapshot_canon (noteCopy_canon (update_canon hs)))
        (putTake_canon hs)))

theorem seeSlot_canon {T a} (hs : Canon s) : Canon (seeSlot T a s).2.2.2 := by
  unfold seeSlot
  dsimp only
  split
  · exact devRead_canon (devRead_canon hs)
  · exact devRead_canon hs

theorem bagSlots_canon {T} (hs : Canon s) : Canon (bagSlots T s).2 := by
  unfold bagSlots
  split
  · exact hs
  · exact foldl_canon_snd (fun _ _ => seeSlot_canon) hs

theorem verifyResult_canon {r} (hs : Canon s) : Canon (verifyResult r s) :=
  ite_canon (record_canon (update_canon (update_canon hs))) (update_canon hs)

theorem readSlot_canon {T a} {l : List (Nat × Nat)} (hs : Canon s) :
    Canon (l.foldl (fun s p => see p.1 p.2 s) (devRead (a + 0x1000) 9216 (seeSlot T a s).2.2.2).2.2) :=
  foldl_canon (fun _ _ => see_canon) (devRead_canon (seeSlot_canon hs))

theorem restoreWork_canon {t q e ok} (hs : Canon s) : Canon (restoreWork t q e ok s) := by
  have hb {c : Prop} [Decidable c] : Canon (if c then bagSlots s.tasks[t] s else ([], s)).2 := by
    split
    · exact bagSlots_canon hs
    · exact hs
  rw [restoreWork.eq_1]
  split
  · exact answerEntry_canon (ite_canon (update_canon hb) hb)
  · refine ite_canon (answerEntry_canon (ite_canon (verifyResult_canon ?_) ?_))
      (ite_canon (answerEntry_canon (verifyResult_canon (foldl_canon (fun _ _ => devWrite_canon) ?_)))
        (update_canon (ite_canon (verifyResult_canon (foldl_canon (fun _ _ => devWrite_canon) ?_))
          (foldl_canon (fun _ _ => devWrite_canon) ?_))))
    all_goals exact readSlot_canon (ite_canon (update_canon hb) hb)

theorem beginRestore_canon {step} (hs : Canon s) : Canon (beginRestore step s) :=
  update_canon (takeInterval_canon hs)

theorem execSnapshotRestore_canon {t q homeOk bag0Ok bag1Ok} (hs : Canon s) : CanonOut (execSnapshotRestore t q homeOk bag0Ok
    bag1Ok s) := by
  unfold execSnapshotRestore
  split
  · exact next_canon hs
  · exact ite_canonOut (next_canon hs) (ite_canonOut (next_canon (answerEntry_canon (beginRestore_canon hs))) (engineRun_canon
        (fun _ => restoreWork_canon) (beginRestore_canon hs)))

theorem execRestoreSeedWrite_canon (hs : Canon s) : CanonOut (execRestoreSeedWrite s) := by
  unfold execRestoreSeedWrite
  split
  · exact next_canon hs
  · exact ite_canonOut (next_canon (answerEntry_canon (update_canon (foldl_canon (fun _ _ => modCtx_canon) hs)))) (next_canon hs)

theorem execRestoreSeedTimeout_canon (hs : Canon s) : CanonOut (execRestoreSeedTimeout s) := by
  unfold execRestoreSeedTimeout
  split
  · exact next_canon hs
  · exact ite_canonOut (next_canon (answerEntry_canon (update_canon (modCmd_canon (record_canon hs))))) (next_canon hs)

theorem replayWork_canon {v peerLoss} (hs : Canon s) : Canon (replayWork v peerLoss s) := by
  unfold replayWork
  split
  · exact verifyResult_canon (update_canon (devRead_canon hs))
  · exact ite_canon (verifyResult_canon (update_canon (devRead_canon hs))) (verifyResult_canon (update_canon (devRead_canon hs)))

theorem execVerifyReplay_canon {peerLoss} (hs : Canon s) : CanonOut (execVerifyReplay peerLoss s) := by
  unfold execVerifyReplay
  split
  · exact next_canon hs
  · exact ite_canonOut (next_canon hs) (engineRun_canon (fun _ => replayWork_canon) hs)

theorem execIntervalCompute_canon {costNum costDen gaps base} (hs : Canon s) : CanonOut (execIntervalCompute costNum costDen gaps
    base s) :=
  ite_canonOut (next_canon hs) (next_canon (update_canon hs))

theorem execRfence_canon {t q} (hs : Canon s) : CanonOut (execRfence t q s) := by
  unfold execRfence
  split
  · exact next_canon hs
  · exact ite_canonOut (next_canon hs) (next_canon (answerEntry_canon (modCmd_canon hs)))

theorem modRhaor_canon {i f} (hs : Canon s) : Canon (modRhaor i s f) :=
  update_canon hs

theorem execRhaorCompletion_canon {comp tag report} (hs : Canon s) : CanonOut (execRhaorCompletion comp tag report s) := by
  refine ite_canonOut (next_canon (emit_canon hs)) ?_
  split
  · exact next_canon (record_canon (modRhaor_canon (update_canon hs)))
  · exact ite_canonOut (next_canon (sendReq_canon (update_canon (modRhaor_canon hs)))) (next_canon (record_canon (modCmd_canon
        (modRhaor_canon (sendReq_canon (update_canon (modRhaor_canon hs)))))))

theorem retireTag_canon {comp q} (hs : Canon s) : Canon (retireTag comp q s) :=
  record_canon (modRhaor_canon hs)

theorem execRhaorTimeout_canon {comp tag} (hs : Canon s) : CanonOut (execRhaorTimeout comp tag s) := by
  unfold execRhaorTimeout
  split
  · exact next_canon hs
  · exact ite_canonOut (next_canon hs) (next_canon (retireTag_canon hs))

/-! ### Links -/

theorem turnAway_canon {p k reason} (hs : Canon s) : Canon (turnAway p k reason s) :=
  ite_canon (modLink_canon (record_canon (update_canon hs))) (sendOrDrop_canon (modLink_canon (modLink_canon (record_canon
      (update_canon hs)))))

theorem remoteRefused_canon {write tag} (hs : Canon s) : Canon (remoteRefused write tag s) := by
  unfold remoteRefused
  split
  · exact hs
  · exact failReq_canon (update_canon hs)

theorem ownRefused_canon {ty tag} (hs : Canon s) : Canon (ownRefused ty tag s) := by
  unfold ownRefused
  split
  · exact remoteRefused_canon hs
  · exact remoteRefused_canon hs
  · exact mirrorAnswered_canon hs
  · exact hs

theorem reroute_canon {q} (hs : Canon s) : Canon (reroute q s) := by
  have hb {reason} : Canon (match q.2 with
      | some p => turnAway p q.1 reason s
      | none => ownRefused q.1.ptype q.1.tag
          (record s (0x5000 + reason.toNat) error (wantedPort s q.1.dest.toNat) 0 q.1.src.toNat q.1.ptype.toNat)) := by
    split
    · exact turnAway_canon hs
    · exact ownRefused_canon (record_canon hs)
  refine ite_canon hs ?_
  split
  · exact ite_canon (sendFrame_canon hs) hb
  · exact ite_canon hb (record_canon hs)

theorem portFails_canon {p} (hs : Canon s) : Canon (portFails p s) :=
  foldl_canon (fun _ _ => reroute_canon) (record_canon (modLink_canon (update_canon hs)))

theorem portRetrains_canon {p} (hs : Canon s) : Canon (portRetrains p s) :=
  modLink_canon hs

theorem countViolation_canon {p} (hs : Canon s) : Canon (countViolation p s) :=
  ite_canon (modLink_canon hs) (ite_canon (portFails_canon (modLink_canon (record_canon hs))) (portRetrains_canon (modLink_canon
      (record_canon hs))))

theorem refuse_canon {p k reason} (hs : Canon s) : Canon (refuse p k reason s) :=
  ite_canon (countViolation_canon (turnAway_canon hs)) (turnAway_canon hs)

theorem resendAll_canon {p} (hs : Canon s) : Canon (resendAll p s) :=
  foldl_canon (fun _ _ => emit_canon) hs

theorem drainLink_canon {p n} (hs : Canon s) : Canon (drainLink p n s) := by
  induction n generalizing s with
  | zero => exact hs
  | succ n ih =>
    unfold drainLink
    split
    · exact hs
    · exact ih (putFrame_canon (modLink_canon hs))

theorem takeAck_canon {p ack} (hs : Canon s) : Canon (takeAck p ack s) :=
  drainLink_canon (modLink_canon hs)

theorem enablePort_canon {p on hlMax2} (hs : Canon s) : Canon (enablePort p on hlMax2 s) :=
  ite_canon (modLink_canon hs) (ite_canon (modLink_canon hs) (modLink_canon hs))

theorem lanesTrained_canon {p width} (hs : Canon s) : Canon (lanesTrained p width s) :=
  putFrame_canon (modLink_canon hs)

theorem execPortTrainingDone_canon {p lanes} (hs : Canon s) : CanonOut (execPortTrainingDone p lanes s) :=
  ite_canonOut (next_canon hs) (ite_canonOut (next_canon (lanesTrained_canon (modLink_canon hs))) (ite_canonOut (next_canon
      (record_canon (lanesTrained_canon (modLink_canon hs)))) (ite_canonOut (next_canon (record_canon (lanesTrained_canon
      (modLink_canon hs)))) (ite_canonOut (next_canon (modLink_canon (modLink_canon hs))) (next_canon (portFails_canon
      (modLink_canon hs)))))))

theorem execLinkNegotiation_canon {p caps} (hs : Canon s) : CanonOut (execLinkNegotiation p caps s) :=
  ite_canonOut (next_canon hs) (ite_canonOut (next_canon (modLink_canon (update_canon hs))) (next_canon (modLink_canon
      (record_canon hs))))

theorem execLinkRetrain_canon {p ok} (hs : Canon s) : CanonOut (execLinkRetrain p ok s) :=
  ite_canonOut (next_canon hs) (ite_canonOut (next_canon (resendAll_canon (modLink_canon hs))) (ite_canonOut (next_canon
      (portFails_canon (modLink_canon hs))) (next_canon (modLink_canon hs))))

theorem replayFrom_canon {p ack} (hs : Canon s) : Canon (replayFrom p ack s) :=
  ite_canon (takeAck_canon hs) (ite_canon (portRetrains_canon (modLink_canon (takeAck_canon hs))) (resendAll_canon (modLink_canon
      (modLink_canon (takeAck_canon hs)))))

theorem execLinkReplay_canon {p ack} (hs : Canon s) : CanonOut (execLinkReplay p ack s) :=
  ite_canonOut (next_canon hs) (next_canon (replayFrom_canon hs))

theorem takeLink_canon {p l} (hs : Canon s) : Canon (takeLink p l s) :=
  ite_canon (replayFrom_canon (modLink_canon hs)) (takeAck_canon (modLink_canon hs))

theorem forward_canon {p k} (hs : Canon s) : Canon (forward p k s) := by
  unfold forward
  split
  · exact ite_canon (refuse_canon hs) (record_canon hs)
  · exact ite_canon (sendFrame_canon hs) (refuse_canon hs)

theorem remoteAccess_canon {p k write} (hs : Canon s) : Canon (remoteAccess p k write s) :=
  ite_canon (refuse_canon hs) (enterMesh_canon (update_canon hs))

theorem remoteResponse_canon {k} (hs : Canon s) : Canon (remoteResponse k s) := by
  unfold remoteResponse
  dsimp only
  split
  · exact ite_canon (remotePacket_canon (update_canon hs)) (answerMem_canon (update_canon hs))
  · exact mirrorAnswered_canon hs

theorem signalArrives_canon {p k} (hs : Canon s) : Canon (signalArrives p k s) :=
  ite_canon (refuse_canon (update_canon hs)) (ite_canon hs (update_canon hs))

theorem execGlobalSignalApply_canon {g} (hs : Canon s) : CanonOut (execGlobalSignalApply g s) := by
  refine ite_canonOut (next_canon hs) (next_canon (foldl_canon (fun _ _ hu => sendOrDrop_canon (update_canon hu)) (foldl_canon
      (fun _ _ hu => ?_) (gset_canon (completeBarrier_canon (foldl_canon (fun _ _ => gsigOp_canon)
      (ite_canon (gset_canon (update_canon hs)) (foldl_canon (fun _ _ hu => ?_) (update_canon (update_canon hs))))))))))
  · split
    · exact answerEntry_canon hu
    · exact hu
  · split
    · exact refuse_canon hu
    · exact update_canon hu
    · exact hu

theorem collArrives_canon {p k} (hs : Canon s) : Canon (collArrives p k s) := by
  unfold collArrives
  split
  · exact ite_canon (refuse_canon hs) (ite_canon (refuse_canon (update_canon hs)) hs)
  · exact ite_canon (refuse_canon hs) (update_canon hs)

theorem mirrorArrives_canon {p k} (hs : Canon s) : Canon (mirrorArrives p k s) := by
  unfold mirrorArrives
  dsimp only
  split
  · exact refuse_canon hs
  · exact ite_canon (refuse_canon hs) (runCommit_canon (update_canon hs))

theorem tsyncArrives_canon {p k} (hs : Canon s) : Canon (tsyncArrives p k s) :=
  ite_canon (ite_canon (update_canon hs) hs) (sendFrame_canon (ite_canon (update_canon hs) hs))

theorem nakArrives_canon {p k} (hs : Canon s) : Canon (nakArrives p k s) := by
  unfold nakArrives
  dsimp only
  refine ite_canon (ownRefused_canon (modLink_canon hs)) (ite_canon (modLink_canon hs) ?_)
  split
  · exact modLink_canon hs
  · exact ite_canon (answerEntry_canon (freePick_canon (modLink_canon hs))) (ite_canon (update_canon
        ((freePick_canon (modLink_canon hs)))) (modLink_canon hs))

theorem arrive_canon {p k} (hs : Canon s) : Canon (arrive p k s) := by
  refine ite_canon (refuse_canon hs) (ite_canon (forward_canon hs) ?_)
  split
  · exact remoteAccess_canon hs
  · exact remoteAccess_canon hs
  · exact remoteResponse_canon hs
  · exact signalArrives_canon hs
  · exact collArrives_canon hs
  · exact tsyncArrives_canon hs
  · exact mirrorArrives_canon hs
  · exact nakArrives_canon hs
  · exact hs

theorem typed_canon {ty p k} (hs : Canon s) : CanonOut (typed ty p k s) :=
  ite_canonOut (next_canon (arrive_canon hs)) (next_canon hs)

theorem execPacketForward_canon {p k} (hs : Canon s) : CanonOut (execPacketForward p k s) :=
  ite_canonOut (next_canon (arrive_canon hs)) (next_canon hs)

theorem askReplay_canon {p} (hs : Canon s) : Canon (askReplay p s) :=
  emit_canon (modLink_canon hs)

theorem acknowledge_canon {p k} (hs : Canon s) : Canon (acknowledge p k s) :=
  emit_canon hs

theorem countFec_canon {p l} (hs : Canon s) : Canon (countFec p l s) :=
  modLink_canon hs

theorem gapAt_canon {p expected n} (hs : Canon s) : Canon (gapAt p expected n s) :=
  ite_canon (portRetrains_canon hs) (askReplay_canon hs)

theorem execIdle_canon {p f} (hs : Canon s) : CanonOut (execIdle p f s) :=
  ite_canonOut (next_canon hs) (ite_canonOut (next_canon (askReplay_canon (countFec_canon hs))) (ite_canonOut (next_canon
      (refuse_canon (countFec_canon hs))) (ite_canonOut (next_canon (takeLink_canon (countFec_canon hs))) (next_canon (gapAt_canon
      (takeLink_canon (countFec_canon hs)))))))

theorem execLinkFrameReceive_canon {p l k} (hs : Canon s) : CanonOut (execLinkFrameReceive p l k s) :=
  ite_canonOut (next_canon hs) (ite_canonOut (next_canon (askReplay_canon (countFec_canon hs))) (ite_canonOut (next_canon
      (takeLink_canon (countFec_canon hs))) (ite_canonOut (next_canon (arrive_canon (acknowledge_canon (modLink_canon
      (takeLink_canon (countFec_canon hs)))))) (next_canon (gapAt_canon (takeLink_canon (countFec_canon hs)))))))

theorem execRemoteTimeout_canon {tag} (hs : Canon s) : CanonOut (execRemoteTimeout tag s) := by
  unfold execRemoteTimeout
  split
  · exact ite_canonOut (next_canon hs) (next_canon (failReq_canon (update_canon hs)))
  · split
    · exact next_canon hs
    · split
      · exact next_canon hs
      · exact ite_canonOut (next_canon hs) (next_canon (mirrorAnswered_canon hs))

/-! ### Registers -/

theorem writeTagCheck_canon {r c v} (hs : Canon s) : Canon (writeTagCheck r c v s) := by
  unfold writeTagCheck
  split
  · exact ignoreWrite_canon hs
  · exact modCore_canon (fun _ => rfl) hs

theorem writeRelease_canon {r t} (hs : Canon s) : Canon (writeRelease r t s) :=
  ite_canon (releaseWhenIdle_canon hs) (ignoreWrite_canon hs)

theorem writeAbort_canon {t} (hs : Canon s) : Canon (writeAbort t s) :=
  ite_canon (haltTask_canon hs) hs

theorem writeCmdTail_canon {r t v} (hs : Canon s) : Canon (writeCmdTail r t v s) :=
  ite_canon (modCmd_canon hs) (ignoreWrite_canon hs)

theorem badDoorbell_canon {q} (hs : Canon s) : Canon (badDoorbell q s) :=
  record_canon (modQueue_canon hs)

theorem writeSqTail_canon {q v} (hs : Canon s) : Canon (writeSqTail q v s) :=
  ite_canon (modQueue_canon hs) (badDoorbell_canon hs)

theorem writeCqHead_canon {q v} (hs : Canon s) : Canon (writeCqHead q v s) :=
  ite_canon (drainHeld_canon _ (modQueue_canon hs)) (badDoorbell_canon hs)

theorem writeQueueCtrl_canon {q v} (hs : Canon s) : Canon (writeQueueCtrl q v s) :=
  modQueue_canon hs

theorem onlyIf_canon {c f} (hf : ∀ u, Canon u → Canon (f u)) (hs : Canon s) : Canon (onlyIf c f s) :=
  ite_canon (hf _ hs) hs

theorem onlyIfElse_canon {c r off f} (hf : ∀ u, Canon u → Canon (f u)) (hs : Canon s) : Canon (onlyIfElse c r off f s) :=
  ite_canon (hf _ hs) (ignoreWrite_canon hs)

theorem modShadow_canon {f} (hs : Canon s) : Canon (modShadow s f) :=
  update_canon hs

theorem writeStash_canon {r t o off v} (hs : Canon s) : Canon (writeStash r t o off v s) :=
  ite_canon (ignoreWrite_canon hs) (ite_canon (modTask_canon hs) (ite_canon (modTask_canon hs) (ite_canon (modTask_canon hs) hs)))

theorem writeRhaor_canon {r i off v} (hs : Canon s) : Canon (writeRhaor r i off v s) :=
  ite_canon (ite_canon (update_canon hs) (ite_canon (update_canon hs) (update_canon hs))) (ite_canon (update_canon hs)
      (ite_canon (ignoreWrite_canon hs) (ite_canon (update_canon hs) (ite_canon (update_canon hs) (ite_canon (update_canon hs)
      (update_canon hs))))))

theorem writeQueue_canon {q off v} (hs : Canon s) : Canon (writeQueue q off v s) :=
  ite_canon (writeQueueCtrl_canon hs) (onlyIf_canon (fun _ => modQueue_canon) hs)

theorem pokeHub_canon {r off v} (hs : Canon s) : Canon (pokeHub r off v s) := by
  unfold pokeHub
  split
  · exact ite_canon (writeAbort_canon (ite_canon (writeRelease_canon hs) hs)) (ite_canon (writeRelease_canon hs) hs)
  · exact writeCmdTail_canon hs
  · exact writeStash_canon hs
  · exact ite_canon (writeSqTail_canon hs) (writeCqHead_canon hs)
  · exact ite_canon (modReq_canon hs) (ite_canon (modShadow_canon hs) (ite_canon (update_canon hs) (ite_canon (modReq_canon hs)
        (ite_canon (writeRhaor_canon hs) (ite_canon (modReq_canon hs) (ite_canon (writeQueue_canon hs) (ite_canon (onlyIf_canon
        (fun _ hu => update_canon_of hu rfl rfl rfl rfl rfl) hs) (ite_canon (modShadow_canon (update_canon_of hs rfl rfl rfl rfl
        rfl)) (ite_canon (ite_canon (commitShadow_canon (update_canon hs)) (update_canon hs)) (ite_canon (modReq_canon hs)
        hs))))))))))

theorem pokeCore_canon {r off v} (hs : Canon s) : Canon (pokeCore r off v s) :=
  ite_canon (writeTagCheck_canon hs) (ite_canon (modCore_canon (fun _ => rfl) hs) (ite_canon (modCore_canon (fun _ => rfl) hs)
      (ite_canon (modCore_canon (fun _ => rfl) hs) (ite_canon (modReq_canon hs) (ite_canon (modReq_canon hs)
      (ite_canon (ite_canon (modCtx_canon hs) hs) (ite_canon (modReq_canon hs) (ite_canon (modCore_canon (fun _ => rfl) hs)
      (ite_canon (modReq_canon hs) (ite_canon (modCore_canon (fun _ => rfl) hs) (ite_canon (modReq_canon hs)
      (ite_canon (modReq_canon hs) (ite_canon (modCore_canon (fun _ => rfl) hs) (ite_canon (update_canon hs) hs))))))))))))))

theorem pokeStack_canon {r off v} (hs : Canon s) : Canon (pokeStack r off v s) :=
  ite_canon (modPort_canon (fun _ => rfl) hs) (ite_canon (modPort_canon (fun _ => rfl) hs) (ite_canon (modShadow_canon hs)
      (ite_canon (modShadow_canon hs) (ite_canon (modShadow_canon hs) (ite_canon (modShadow_canon hs) hs)))))

theorem writeGroup_canon {r g o off v} (hs : Canon s) : Canon (writeGroup r g o off v s) :=
  onlyIfElse_canon (fun _ => update_canon) hs

theorem pokeMirror_canon {off v} (hs : Canon s) : Canon (pokeMirror off v s) :=
  ite_canon (update_canon hs) (ite_canon (update_canon hs) (ite_canon (update_canon hs) (ite_canon (update_canon hs)
      (ite_canon (modShadow_canon hs) (ite_canon (modShadow_canon hs) (ite_canon (modShadow_canon hs) (ite_canon (update_canon hs)
      hs)))))))

theorem pokeLink_canon {r off v} (hs : Canon s) : Canon (pokeLink r off v s) := by
  refine ite_canon (enablePort_canon hs) (ite_canon (modLink_canon hs) (ite_canon (onlyIf_canon (fun _ => update_canon) hs)
      (ite_canon (onlyIf_canon (fun _ => update_canon) hs) (ite_canon (modShadow_canon hs) (ite_canon (modShadow_canon hs)
      (ite_canon (modShadow_canon hs) (ite_canon (modShadow_canon hs) (ite_canon (modShadow_canon hs) ?_))))))))
  split
  · exact writeGroup_canon hs
  · exact pokeMirror_canon hs

theorem writeNextSteps_canon {r v} (hs : Canon s) : Canon (writeNextSteps r v s) :=
  ite_canon (update_canon hs) (ignoreWrite_canon (update_canon hs))

theorem writeThresholds_canon {r i v} (hs : Canon s) : Canon (writeThresholds r i v s) :=
  ite_canon (modRegion_canon (modRegion_canon hs)) (ignoreWrite_canon (modRegion_canon hs))

theorem pokePower_canon {r off v} (hs : Canon s) : Canon (pokePower r off v s) :=
  ite_canon (writeNextSteps_canon hs) (ite_canon (update_canon hs) (ite_canon (setTdpCap_canon hs) (ite_canon (setVoltOffset_canon
      hs) (ite_canon (update_canon hs) (ite_canon (modRegion_canon hs) (ite_canon (writeThresholds_canon hs) hs))))))

theorem pokeRecorder_canon {r off v} (hs : Canon s) : Canon (pokeRecorder r off v s) :=
  ite_canon (setFreeze_canon (ite_canon (armLog_canon (update_canon_of hs rfl rfl rfl rfl rfl)) (update_canon_of hs rfl rfl rfl rfl
      rfl))) (ite_canon (update_canon_of hs rfl rfl rfl rfl rfl) hs)

theorem mbHost_data_canon {d} (hd : twf 0 d = true) (hs : Canon s) : Canon { s with mbHost := { s.mbHost with data := d } } := by
  obtain ⟨hg, hl, hp, hc, hh, hm, hr⟩ := canon_iff.mp hs
  exact canon_iff.mpr ⟨hg, hl, hp, hc, hd, hm, hr⟩

theorem pokeMailbox_canon {r off v} (hs : Canon s) : Canon (pokeMailbox r off v s) := by
  obtain ⟨hg, hl, hp, hc, hh, hm, hr⟩ := canon_iff.mp hs
  exact ite_canon (update_canon hs) (ite_canon (ignoreWrite_canon hs) (ite_canon
    (ite_canon (mbArrive_canon (update_canon hs)) (update_canon hs)) (mbHost_data_canon (tset_wf _ _ hh) hs)))

theorem pokeTime_canon {off v} (hs : Canon s) : Canon (pokeTime off v s) :=
  ite_canon (ite_canon (acquireTime_canon (update_canon hs)) (update_canon hs)) (update_canon hs)

theorem pokeSelect_canon {r off v} (hs : Canon s) : Canon (pokeSelect r off v s) :=
  modReq_canon hs

theorem poke_canon {r off v} (hs : Canon s) : Canon (poke r off v s) :=
  ite_canon (pokeSelect_canon hs) (ite_canon (pokeHub_canon hs) (ite_canon (pokeCore_canon hs) (ite_canon (pokeStack_canon hs)
      (ite_canon (pokeLink_canon hs) (ite_canon (pokePower_canon hs) (ite_canon (pokeRecorder_canon hs)
      (ite_canon (pokeMailbox_canon hs) (pokeTime_canon hs))))))))

theorem reach_canon {r off f} (hf : ∀ u, Canon u → Canon (f u)) (hs : Canon s) : Canon (reach r off f s) :=
  ite_canon hs (ite_canon (refuseAccess_canon hs) (ite_canon hs (hf _ hs)))

theorem write32_canon {r off v} (hs : Canon s) : Canon (write32 r off v s) := by
  refine ite_canon hs ?_
  split
  · exact reach_canon (fun _ => poke_canon) hs
  · exact ignoreWrite_canon hs

theorem writeReg_canon {r off size v} (hs : Canon s) : Canon (writeReg r off size v s) :=
  ite_canon (write32_canon hs) (ite_canon (write32_canon (write32_canon hs)) (ite_canon hs (ignoreWrite_canon hs)))

theorem execMgmtWrite32_canon {off data} (hs : Canon s) : CanonOut (execMgmtWrite32 off data s) :=
  ite_canonOut (next_canon (mctpAnswer_canon hs)) (next_canon (mctpAnswer_canon (write32_canon hs)))

theorem execCfgCommit_canon {r} (hs : Canon s) : CanonOut (execCfgCommit r s) :=
  next_canon (reach_canon (fun _ => commitShadow_canon) hs)

theorem execTagCheckWrite_canon {r v} (hs : Canon s) : CanonOut (execTagCheckWrite r v s) :=
  next_canon (reach_canon (fun _ => writeTagCheck_canon) hs)

theorem execTaskRelease_canon {r t} (hs : Canon s) : CanonOut (execTaskRelease r t s) :=
  next_canon (reach_canon (fun _ => writeRelease_canon) hs)

theorem execTaskAbort_canon {r t} (hs : Canon s) : CanonOut (execTaskAbort r t s) :=
  next_canon (reach_canon (fun _ => writeAbort_canon) hs)

theorem execCmdTailWrite_canon {r t v} (hs : Canon s) : CanonOut (execCmdTailWrite r t v s) :=
  next_canon (reach_canon (fun _ => writeCmdTail_canon) hs)

theorem execSqDoorbell_canon {r q v} (hs : Canon s) : CanonOut (execSqDoorbell r q v s) :=
  next_canon (reach_canon (fun _ => writeSqTail_canon) hs)

theorem execCqDoorbell_canon {r q v} (hs : Canon s) : CanonOut (execCqDoorbell r q v s) :=
  next_canon (reach_canon (fun _ => writeCqHead_canon) hs)

theorem execQueueEnable_canon {r} (hs : Canon s) : CanonOut (execQueueEnable r s) :=
  next_canon (reach_canon (fun _ => writeQueueCtrl_canon) hs)

theorem execTdpCapWrite_canon {r v} (hs : Canon s) : CanonOut (execTdpCapWrite r v s) :=
  next_canon (reach_canon (fun _ => setTdpCap_canon) hs)

theorem execVoltOffsetWrite_canon {r v} (hs : Canon s) : CanonOut (execVoltOffsetWrite r v s) :=
  next_canon (reach_canon (fun _ => setVoltOffset_canon) hs)

theorem execPortEnable_canon {r v} (hs : Canon s) : CanonOut (execPortEnable r v s) :=
  next_canon (reach_canon (fun _ => enablePort_canon) hs)

/-! ### The host attachment -/

theorem execCxlLinkUp_canon {width rate flit} (hs : Canon s) : CanonOut (execCxlLinkUp width rate flit s) :=
  ite_canonOut (next_canon hs) (next_canon (ite_canon (record_canon (update_canon (update_canon_of hs rfl rfl rfl rfl rfl)))
      (update_canon_of hs rfl rfl rfl rfl rfl)))

theorem slowAnswered_canon {m got failed} (hs : Canon s) : Canon (slowAnswered m got failed s) := by
  unfold slowAnswered
  dsimp only
  split
  · exact slowDrain_canon _ (update_canon_of hs rfl rfl rfl rfl rfl)
  · exact ite_canon (slowDrain_canon _ (update_canon_of (slowDrain_canon _ (update_canon_of hs rfl rfl rfl rfl rfl)) rfl rfl rfl
        rfl rfl)) (ite_canon (update_canon_of (update_canon_of (slowDrain_canon _ (update_canon_of hs rfl rfl rfl rfl rfl)) rfl rfl
        rfl rfl rfl) rfl rfl rfl rfl rfl) (ite_canon (failMem_canon (update_canon_of (slowDrain_canon _ (update_canon_of hs rfl rfl
        rfl rfl rfl)) rfl rfl rfl rfl rfl)) (ite_canon (answerMem_canon (update_canon_of (slowDrain_canon _ (update_canon_of hs rfl
        rfl rfl rfl rfl)) rfl rfl rfl rfl rfl)) (answerMem_canon (update_canon_of (slowDrain_canon _ (update_canon_of hs rfl rfl
        rfl rfl rfl)) rfl rfl rfl rfl rfl)))))

theorem slowFails_canon {r} (hs : Canon s) : Canon (slowFails r s) := by
  refine slowAnswered_canon (record_canon (update_canon_of hs rfl ?_ ?_ rfl rfl)) <;> split <;> rfl

theorem execCxlResponse_canon {id a} (hs : Canon s) : CanonOut (execCxlResponse id a s) := by
  unfold execCxlResponse
  split
  · exact next_canon hs
  · split
    · exact ite_canonOut (next_canon hs) (next_canon (slowAnswered_canon hs))
    · exact ite_canonOut (next_canon (slowAnswered_canon hs)) (next_canon hs)
    · exact next_canon (slowFails_canon hs)

theorem execCxlTimeout_canon {id} (hs : Canon s) : CanonOut (execCxlTimeout id s) := by
  unfold execCxlTimeout
  split
  · exact next_canon hs
  · exact ite_canonOut (next_canon (slowFails_canon hs)) (next_canon hs)

theorem execSlowLatMeasure_canon {cache uio} (hs : Canon s) : CanonOut (execSlowLatMeasure cache uio s) :=
  ite_canonOut (next_canon (update_canon_of hs rfl rfl rfl rfl rfl)) (next_canon hs)

theorem execCacheEnable_canon {on} (hs : Canon s) : CanonOut (execCacheEnable on s) :=
  next_canon (update_canon_of hs rfl rfl rfl rfl rfl)

theorem execHdmDecoderCommit_canon {commit} (hs : Canon s) : CanonOut (execHdmDecoderCommit commit s) := by
  unfold execHdmDecoderCommit
  split
  · exact next_canon (update_canon_of hs rfl rfl rfl rfl rfl)
  · exact ite_canonOut (next_canon (update_canon_of hs rfl rfl rfl rfl rfl)) (next_canon hs)

theorem windowReq_canon {who x dpa n bytes} (hs : Canon s) : Canon (windowReq who x dpa n bytes s) :=
  update_canon hs

theorem execHostMemRequest_canon {x} (hs : Canon s) : CanonOut (execHostMemRequest x s) := by
  refine ite_canonOut ?_ (next_canon hs)
  split
  · exact next_canon hs
  · exact next_canon (windowReq_canon hs)

theorem execUioPeerRequest_canon {x} (hs : Canon s) : CanonOut (execUioPeerRequest x s) :=
  ite_canonOut (next_canon hs) (ite_canonOut (next_canon (emit_canon hs)) (next_canon (foldl_canon (fun _ _ => windowReq_canon)
      hs)))

theorem unmask_canon {v w : Nat} {x : Cxl} (hm : x.masked = tset true s.cxl.masked v false)
    (hb : x.pendingBits = tset false s.cxl.pendingBits w false) (hs : Canon s) : Canon { s with cxl := x } := by
  obtain ⟨hg, hl, hp, hc, hh, hd, wm, wb⟩ := canon_iff.mp hs
  exact canon_iff.mpr ⟨hg, hl, hp, hc, hh, hd, hm ▸ tset_wf _ _ wm, hb ▸ tset_wf _ _ wb⟩

theorem execMsixVectorUnmask_canon {v} (hs : Canon s) : CanonOut (execMsixVectorUnmask v s) :=
  next_canon (ite_canon (msix_canon (unmask_canon rfl rfl hs)) (unmask_canon rfl rfl hs))

theorem execCdatTableAccess_canon {discovery} (hs : Canon s) : CanonOut (execCdatTableAccess discovery s) :=
  ite_canonOut (next_canon (emit_canon hs)) (next_canon (emit_canon hs))

theorem abortQueueTasks_canon (hs : Canon s) : Canon (abortQueueTasks s) :=
  foldl_canon (fun _ _ hu => ite_canon hu (ite_canon (releaseWhenIdle_canon hu) (ite_canon (haltTask_canon (modTask_canon hu))
      hu))) hs

theorem failSlow_canon (hs : Canon s) : Canon (failSlow s) :=
  foldl_canon (fun _ _ => failMem_canon) (update_canon_of hs rfl rfl rfl rfl rfl)

theorem retireTags_canon (hs : Canon s) : Canon (retireTags s) :=
  foldl_canon (fun _ _ => foldl_canon (fun _ _ => retireTag_canon)) hs

theorem clear_masks_canon {queues' rr' submit' runs' req'} {x : Cxl} (hs : Canon s) :
    Canon { s with queues := queues', rrQueue := rr', submit := submit', runs := runs', reqHost := req',
                   cxl := { x with masked := [], pendingBits := [] } } := by
  obtain ⟨hg, hl, hp, hc, hh, hm, _⟩ := canon_iff.mp hs
  exact canon_iff.mpr ⟨hg, hl, hp, hc, hh, hm, rfl, rfl⟩

theorem resetIo_canon (hs : Canon s) : Canon (resetIo s) := by
  exact clear_masks_canon (retireTags_canon (failSlow_canon (abortQueueTasks_canon hs)))

theorem resetMem_canon (hs : Canon s) : Canon (resetMem s) :=
  update_canon_of hs rfl rfl rfl rfl rfl

theorem hotReset_canon (hs : Canon s) : Canon (hotReset s) :=
  update_canon_of (resetMem_canon (resetIo_canon hs)) rfl rfl rfl rfl rfl

theorem clearWindow_canon (hs : Canon s) : Canon (clearWindow s) :=
  update_canon hs

theorem execCxlReset_canon {memClr} (hs : Canon s) : CanonOut (execCxlReset memClr s) :=
  next_canon (ite_canon (clearWindow_canon (update_canon_of (resetMem_canon (resetIo_canon hs)) rfl rfl rfl rfl rfl))
      (update_canon_of (resetMem_canon (resetIo_canon hs)) rfl rfl rfl rfl rfl))

/-! ### Bring-up and resets -/

theorem lostCore_canon {p} (hs : Canon s) : Canon (lostCore p s) := by
  unfold lostCore
  exact modDuty_canon (foldl_canon (fun _ _ => modCore_canon (fun _ => rfl)) (foldl_canon (fun _ _ hu => ite_canon (faultTask_canon
      hu) hu) hs))

theorem lostPort_canon {p} (hs : Canon s) : Canon (lostPort p s) :=
  foldl_canon (fun _ _ => failMem_canon) (modPort_canon (fun _ => rfl) hs)

theorem portDown_canon {p} (hs : Canon s) : Canon (portDown p s) :=
  modLink_canon (enablePort_canon hs)

theorem lostQuadrant_canon {k} (hs : Canon s) : Canon (lostQuadrant k s) :=
  ite_canon (hotReset_canon (portDown_canon (portDown_canon hs))) (portDown_canon (portDown_canon hs))

theorem execLostLock_canon {r} (hs : Canon s) : CanonOut (execLostLock r s) :=
  dite_canonOut (fun _ => next_canon (lostCore_canon (record_canon (modRegion_canon hs)))) (fun _ => dite_canonOut
      (fun _ => next_canon (lostPort_canon (record_canon (modRegion_canon hs)))) (fun _ => ite_canonOut (next_canon
      (lostQuadrant_canon (record_canon (modRegion_canon hs)))) (next_canon (thermalShutdown_canon (record_canon (modRegion_canon
      hs))))))

theorem deviceReset_canon : Canon (deviceReset s) := by
  refine rebase_canon (canon_iff.mpr ⟨rfl, rfl, fun p => ?_, fun c => ?_, rfl, rfl, rfl, rfl⟩)
  · simp [Port.reset]; rfl
  · simp [State.reset, Core.reset]; rfl

theorem reset_keeping_log_canon {f u : State} {tasks power w} (hf : Canon f) (hu : Canon u) :
    Canon { f with tasks := tasks, power := power, recorder := { u.recorder with boundary := w } } := by
  obtain ⟨_, hl, _⟩ := canon_iff.mp hu
  obtain ⟨hg, _, hr⟩ := canon_iff.mp hf
  exact canon_iff.mpr ⟨hg, hl, hr⟩

theorem execPerstN_canon (hs : Canon s) : CanonOut (execPerstN s) := by
  have hf : ∀ l : List SlotIx, Canon (l.foldl (fun s t => if s.tasks[t].live then faultTask t 0xFE true s else s) (retireTags
      (failSlow s))) :=
    fun l => foldl_canon (fun _ _ h => ite_canon (faultTask_canon h) h) (retireTags_canon (failSlow_canon hs))
  unfold execPerstN
  generalize List.finRange 16 = l
  refine ite_canonOut (next_canon hs) (next_canon ?_)
  exact reset_keeping_log_canon deviceReset_canon (hf l)

theorem execPowerRemoval_canon (hs : Canon s) : CanonOut (execPowerRemoval s) :=
  ite_canonOut (next_canon hs) (next_canon deviceReset_canon)

theorem badSignature_canon {m} (hs : Canon s) : Canon (badSignature m s) :=
  ite_canon hs (record_canon (update_canon hs))

theorem runImage_canon {slotB m} (hs : Canon s) : Canon (runImage slotB m s) :=
  record_canon (update_canon hs)

theorem execPowerUp_canon {a b f} (hs : Canon s) : CanonOut (execPowerUp a b f s) := by
  unfold execPowerUp
  extract_lets _ fused _ _ _ counted _ _ boot once twice
  have hf : Canon fused := ite_canon hs (update_canon hs)
  have hc : Canon counted := ite_canon (update_canon hf) hf
  have hb {slotB m u} (hu : Canon u) : Canon (boot slotB m u) := runImage_canon (ite_canon (record_canon hu) hu)
  have h1 : Canon once := badSignature_canon hc
  have h2 : Canon twice := badSignature_canon h1
  exact ite_canonOut (next_canon hs) (ite_canonOut (next_canon (hb hc)) (ite_canonOut (next_canon (hb h1))
    (next_canon (record_canon (modRegion_canon (update_canon h2))))))

theorem execStackInitDone_canon (hs : Canon s) : CanonOut (execStackInitDone s) := by
  unfold execStackInitDone
  generalize (Vector.ofFn _ : Vector Region 29) = v
  refine ite_canonOut (next_canon ?_) (next_canon hs)
  exact ports_map_canon_of (f := fun p => { p with scrub := 0 })
    (s := { s with dram := [], loose := [], dramPoison := [], regions := v, cxl := { s.cxl with memActive := true },
                   sec := { s.sec with fw := .ready } }) (fun _ h => h) (update_canon hs)

theorem execFirmwareUpdate_canon {u} (hs : Canon s) : CanonOut (execFirmwareUpdate u s) := by
  refine ite_canonOut (next_canon hs) ?_
  split
  · exact ite_canonOut (next_canon hs) (next_canon (record_canon (update_canon hs)))
  · exact ite_canonOut (next_canon hs) (next_canon (update_canon hs))
  · exact ite_canonOut (next_canon hs) (next_canon (record_canon (update_canon hs)))

theorem execSpdmMessage_canon {m} (hs : Canon s) : CanonOut (execSpdmMessage m s) := by
  refine ite_canonOut (next_canon hs) ?_
  split
  · exact ite_canonOut (next_canon (emit_canon hs)) (next_canon (emit_canon hs))
  · exact next_canon (emit_canon hs)
  · exact ite_canonOut (next_canon (record_canon (emit_canon (update_canon hs)))) (next_canon (record_canon (emit_canon hs)))
  · exact next_canon (emit_canon (ite_canon (update_canon_of hs rfl rfl rfl rfl rfl) hs))

/-! ### The clock -/

theorem execCounterSignalApply_canon {c ctr} (hs : Canon s) : CanonOut (execCounterSignalApply c ctr s) :=
  next_canon (ite_canon (applyCounter_canon hs) hs)

theorem countCycle_canon {c} (hs : Canon s) : Canon (countCycle c s) :=
  ite_canon hs (actAdd_canon hs)

theorem mmaReads_canon {c us t m} (hs : Canon s) : Canon (mmaReads c us t m s) := by
  refine ite_canon (addrError_canon ?_) ?_
  · split
    · exact ite_canon (addrError_canon (modCore_canon (fun _ => rfl) hs)) (modCore_canon (fun _ => rfl) hs)
    · exact ite_canon hs (modCore_canon (fun _ => rfl) hs)
  · split
    · exact ite_canon (addrError_canon (modCore_canon (fun _ => rfl) hs)) (modCore_canon (fun _ => rfl) hs)
    · exact ite_canon hs (modCore_canon (fun _ => rfl) hs)

theorem feedReads_canon {c us t f} (hs : Canon s) : Canon (feedReads c us t f s) :=
  ite_canon hs (ite_canon (addrError_canon (modCore_canon (fun _ => rfl) hs)) (modCore_canon (fun _ => rfl) hs))

theorem vstWrites_canon {c b t} (hs : Canon s) : Canon (vstWrites c b t s) :=
  ite_canon hs (foldl_canon (fun _ _ => foldl_canon (fun _ _ => blockWrite_canon)) (modCore_canon (fun _ => rfl) hs))

theorem bankConflicts_canon {c us t} (hs : Canon s) : Canon (bankConflicts c us t s) := by
  unfold bankConflicts
  split
  · exact ite_canon (modCore_canon (fun _ => rfl) hs) (modCore_canon (fun _ => rfl) (record_canon hs))
  · exact hs

theorem performStores_canon {c} (hs : Canon s) : Canon (performStores c s) := by
  refine modCore_canon (fun _ => rfl) (foldl_canon_fst (fun _ _ hu => ?_) hs)
  split
  · exact actAdd_canon (modCore_canon (fun _ => rfl) (takeBanks_canon hu))
  · exact hu

theorem endScratchpad_canon {c us} (hs : Canon s) : Canon (endScratchpad c us s) :=
  ite_canon (ite_canon hs (performStores_canon hs)) (modCore_canon (fun _ => rfl) (ite_canon hs (performStores_canon hs)))

theorem openStarts_wb (t : Nat) (x : Core) : (openStarts t x).wb = x.wb := by
  unfold openStarts
  split
  · rfl
  · exact List.foldlRecOn (motive := fun y : Core => y.wb = x.wb) _ _ rfl fun _ h _ _ => h

theorem coreCycle_canon {c} (hs : Canon s) : Canon (coreCycle c s) := by
  unfold coreCycle
  split
  · exact endScratchpad_canon hs
  · exact modCore_canon (fun _ => openStarts_wb ..) (endScratchpad_canon (bankConflicts_canon (vstWrites_canon
      (foldl_canon (fun _ _ => feedReads_canon) (foldl_canon (fun _ _ => mmaReads_canon) hs)))))

theorem deliverFaults_canon {c} (hs : Canon s) : Canon (deliverFaults c s) :=
  ite_canon hs (foldl_canon (fun _ _ => faultCtx_canon) (modCore_canon (fun _ => rfl) hs))

theorem advanceClock_canon (hs : Canon s) : Canon (advanceClock s) :=
  update_canon hs

theorem beginCycle_canon {c} (hs : Canon s) : Canon (beginCycle c s) :=
  leavePorts_canon (deliverFills_canon (deliverFaults_canon hs))

theorem oneCycle_canon (hs : Canon s) : Canon (oneCycle s) :=
  foldl_canon (fun _ _ => beginCycle_canon) (advanceClock_canon (foldl_canon (fun _ _ hu => coreCycle_canon (countCycle_canon hu))
      (ite_canon (foldl_canon (fun _ _ => noteRipe_canon) hs) hs)))

theorem tick_canon (hs : Canon s) : Canon (tick s) :=
  ite_canon (oneCycle_canon hs) hs

/-! ### Commands and steps -/

/-- By the command's name: `induction`, where `cases` would give the term an equation for each of the commands. -/
theorem exec_canon {i} (hs : Canon s) : CanonOut (exec i s) := by
  unfold exec
  induction i with
  | add | sub | and | or | xor | shl | shr | sra | slt | sltu | min | max | mul => exact alu_canon hs
  | addi | andi | ori | xori => exact aluImm_canon hs
  | movz | movk | movs | cmdrd | ftrd => exact issue_canon result_canon hs
  | ld => exact execLd_canon hs
  | ldBankRead => exact execLdBankRead_canon hs
  | st => exact execSt_canon hs
  | mova => exact execMova_canon hs
  | adda => exact execAdda_canon hs
  | beq | bne | blt | bge | bltu | bgeu => exact branch_canon hs
  | jal => exact execJal_canon hs
  | jr => exact issue_canon jumpTo_canon hs
  | sig => exact execSig_canon hs
  | sigUp | sigDn => exact issue_canon sigNeighbour_canon hs
  | sigC => exact execSigC_canon hs
  | gsigAdd | gsigArm | gsigArmAt | gsigDisarm => exact gsig_canon hs
  | wait => exact execWait_canon hs
  | take => exact execTake_canon hs
  | ctrrd => exact execCtrrd_canon hs
  | launch => exact execLaunch_canon hs
  | launchSeg => exact execLaunchSeg_canon hs
  | launchAt => exact execLaunchAt_canon hs
  | scfg => exact execScfg_canon hs
  | scfgDescriptorRead => exact execScfgDescriptorRead_canon hs
  | swait => exact execSwait_canon hs
  | swap => exact execSwap_canon hs
  | sclose => exact execSclose_canon hs
  | wopen => exact execWopen_canon hs
  | wopenDescriptorRead => exact execWopenDescriptorRead_canon hs
  | wclose => exact execWclose_canon hs
  | cmdwait => exact execCmdwait_canon hs
  | cmddone => exact execCmddone_canon hs
  | srset => exact execSrset_canon hs
  | vflg => exact execVflg_canon hs
  | yield => exact execYield_canon hs
  | nop => exact issue_canon retire_canon hs
  | halt => exact execHalt_canon hs
  | trap => exact execTrap_canon hs
  | trapReturn => exact execTrapReturn_canon hs
  | illegal => exact execIllegal_canon hs
  | contextWake => exact execContextWake_canon hs
  | counterSignalApply => exact execCounterSignalApply_canon hs
  | counterOverflowReport => exact execCounterOverflowReport_canon hs
  | mnop => exact execMnop_canon hs
  | mmaF | mmaH | mmaQ | mmaN | mmaS => exact mma_canon hs
  | kgroupConsume => exact execKgroupConsume_canon hs
  | tileBoundary => exact execTileBoundary_canon hs
  | drainRow => exact execDrainRow_canon hs
  | tnop => exact execTnop_canon hs
  | ginj => exact execGinj_canon hs
  | flitInject => exact execFlitInject_canon hs
  | flitHop => exact execFlitHop_canon hs
  | gcap => exact execGcap_canon hs
  | gcapS => exact execGcapS_canon hs
  | gcapWrite => exact execGcapWrite_canon hs
  | gsink => exact execGsink_canon hs
  | tsig => exact execTsig_canon hs
  | trset => exact execTrset_canon hs
  | tradd => exact execTradd_canon hs
  | baadd => exact execBaadd_canon hs
  | loop => exact execLoop_canon hs
  | vnop => exact execVnop_canon hs
  | vadd | vsub | vmul | vmin | vmax => exact v2_canon hs
  | vfma | vsel => exact v3_canon hs
  | vabs | vneg | vred => exact v1_canon hs
  | vmov => exact execVmov_canon hs
  | vcmp => exact execVcmp_canon hs
  | vand | vor | vxor => exact bitwise_canon hs
  | vrcp | vsqrt | vrsqrt | vexp2 | vlog2 | vtanh | vsigm => exact sfu_canon hs
  | vcvt => exact execVcvt_canon hs
  | vext => exact execVext_canon hs
  | vbs => exact execVbs_canon hs
  | vld => exact execVld_canon hs
  | vst => exact execVst_canon hs
  | vectorResultWrite => exact execVectorResultWrite_canon hs
  | localBlockStart => exact execLocalBlockStart_canon hs
  | segmentArrival => exact execSegmentArrival_canon hs
  | segmentLaunchStart => exact execSegmentLaunchStart_canon hs
  | timedLaunchStart => exact execTimedLaunchStart_canon hs
  | blockComplete => exact execBlockComplete_canon hs
  | dutyBeat => exact execDutyBeat_canon hs
  | segmentRest => exact execSegmentRest_canon hs
  | spCorrectionWriteback => exact execSpCorrectionWriteback_canon hs
  | segmentClearDone => exact execSegmentClearDone_canon hs
  | windowWriteArrival => exact execWindowWriteArrival_canon hs
  | windowGranuleWrite => exact execWindowGranuleWrite_canon hs
  | windowFaultReturn => exact execWindowFaultReturn_canon hs
  | closeNoticeArrival => exact execCloseNoticeArrival_canon hs
  | drainMarkerSend => exact execDrainMarkerSend_canon hs
  | windowClosed => exact execWindowClosed_canon hs
  | streamRequestIssue => exact execStreamRequestIssue_canon hs
  | streamReadResponse => exact execStreamReadResponse_canon hs
  | streamHalfRead => exact execStreamHalfRead_canon hs
  | streamWriteAck => exact execStreamWriteAck_canon hs
  | streamCloseDone => exact execStreamCloseDone_canon hs
  | rtDeadlineMiss => exact execRtDeadlineMiss_canon hs
  | stashTimeout => exact execStashTimeout_canon hs
  | stackPortRequest => exact execStackPortRequest_canon hs
  | stackRequestServe => exact execStackRequestServe_canon hs
  | dramReadReturn => exact execDramReadReturn_canon hs
  | combineEntryClose => exact next_canon (closeOld_canon hs)
  | recordPartArrival => exact execRecordPartArrival_canon hs
  | recordAssemblyTimeout => exact execRecordAssemblyTimeout_canon hs
  | refresh => exact execRefresh_canon hs
  | scrubRead => exact execScrubRead_canon hs
  | stackTempSample => exact execStackTempSample_canon hs
  | globalSignalApply => exact execGlobalSignalApply_canon hs
  | barrierReleaseApply => exact execBarrierReleaseApply_canon hs
  | timedRelease => exact execTimedRelease_canon hs
  | submissionFetch => exact execSubmissionFetch_canon hs
  | taskLoadDone => exact execTaskLoadDone_canon hs
  | taskLaunch => exact execTaskLaunch_canon hs
  | taskEnd => exact execTaskEnd_canon hs
  | taskHaltDone => exact execTaskHaltDone_canon hs
  | quantumExpiry => exact execQuantumExpiry_canon hs
  | preemptSave => exact execPreemptSave_canon hs
  | taskResume => exact execTaskResume_canon hs
  | reservationLead => exact execReservationLead_canon hs
  | reservationStart => exact execReservationStart_canon hs
  | entryPost => exact execEntryPost_canon hs
  | entryComplete => exact execEntryComplete_canon hs
  | fwd | bwd | endEntry => exact next_canon (deliver_canon hs)
  | update => exact execUpdate_canon hs
  | lookupForward => exact execLookupForward_canon hs
  | lookupBackward => exact execLookupBackward_canon hs
  | exchange => exact execExchange_canon hs
  | reduce => exact execReduce_canon hs
  | gather => exact execGather_canon hs
  | gatherBarrier => exact execGatherBarrier_canon hs
  | snapshot => exact execSnapshot_canon hs
  | snapshotRestore => exact execSnapshotRestore_canon hs
  | rfence => exact execRfence_canon hs
  | run => exact execRun_canon hs
  | mark => exact execMark_canon hs
  | pipecfg => exact execPipecfg_canon hs
  | snapshotCapture => exact execSnapshotCapture_canon hs
  | snapshotCommit => exact execSnapshotCommit_canon hs
  | restoreSeedWrite => exact execRestoreSeedWrite_canon hs
  | restoreSeedTimeout => exact execRestoreSeedTimeout_canon hs
  | verifyReplay => exact execVerifyReplay_canon hs
  | intervalCompute => exact execIntervalCompute_canon hs
  | collTimeout => exact execCollTimeout_canon hs
  | collResend => exact execCollResend_canon hs
  | idle => exact execIdle_canon hs
  | write | read | resp | signal | coll | tsync | mirror | mgmt | nak => exact typed_canon hs
  | packetForward => exact execPacketForward_canon hs
  | linkFrameReceive => exact execLinkFrameReceive_canon hs
  | linkReplay => exact execLinkReplay_canon hs
  | linkRetrain => exact execLinkRetrain_canon hs
  | portTrainingDone => exact execPortTrainingDone_canon hs
  | linkNegotiation => exact execLinkNegotiation_canon hs
  | remoteTimeout => exact execRemoteTimeout_canon hs
  | tsyncExchange => exact execTsyncExchange_canon hs
  | upstreamLoss => exact execUpstreamLoss_canon hs
  | masterElection => exact execMasterElection_canon hs
  | timeLock => exact execTimeLock_canon hs
  | ftStepApply => exact execFtStepApply_canon hs
  | ftReplicaCorrect => exact next_canon hs
  | trimOutOfRange => exact execTrimOutOfRange_canon hs
  | holdoverTick => exact execHoldoverTick_canon hs
  | controlWindow => exact execControlWindow_canon hs
  | packageSensorRead => exact execPackageSensorRead_canon hs
  | marginReport => exact execMarginReport_canon hs
  | calibration => exact execCalibration_canon hs
  | droopStretch => exact execDroopStretch_canon hs
  | lostLock => exact execLostLock_canon hs
  | crossingMarginLoss => exact execCrossingMarginLoss_canon hs
  | junctionTemp => exact execJunctionTemp_canon hs
  | energyIntegrate => exact next_canon (update_canon hs)
  | eventQueue => exact execEventQueue_canon hs
  | eventWrite => exact execEventWrite_canon hs
  | rateWindow => exact execRateWindow_canon hs
  | logArm => exact next_canon (armLog_canon hs)
  | logFreeze | logUnfreeze => exact next_canon (setFreeze_canon hs)
  | getVersion | setVersion | quiesce | reserve | unreserve | setQuantum | selfTest | testResult | setSignedMode | commitSvn
  | logRead => exact next_canon (mbCommand_canon hs)
  | quiesceApply => exact execQuiesceApply_canon hs
  | selfTestRun => exact execSelfTestRun_canon hs
  | selfTestTimeout => exact execSelfTestTimeout_canon hs
  | mgmtRead32 => exact execMgmtRead32_canon hs
  | mgmtWrite32 => exact execMgmtWrite32_canon hs
  | mgmtRead64 => exact execMgmtRead64_canon hs
  | cfgCommit => exact execCfgCommit_canon hs
  | cfgApply => exact execCfgApply_canon hs
  | tagCheckWrite => exact execTagCheckWrite_canon hs
  | ftAcquire => exact next_canon (acquireTime_canon hs)
  | taskRelease => exact execTaskRelease_canon hs
  | taskAbort => exact execTaskAbort_canon hs
  | cmdTailWrite => exact execCmdTailWrite_canon hs
  | sqDoorbell => exact execSqDoorbell_canon hs
  | cqDoorbell => exact execCqDoorbell_canon hs
  | queueEnable => exact execQueueEnable_canon hs
  | tdpCapWrite => exact execTdpCapWrite_canon hs
  | voltOffsetWrite => exact execVoltOffsetWrite_canon hs
  | portEnable => exact execPortEnable_canon hs
  | lowHalfRead => exact execLowHalfRead_canon hs
  | readClear => exact execReadClear_canon hs
  | registerWrite => exact next_canon (writeReg_canon hs)
  | hostMemRequest => exact execHostMemRequest_canon hs
  | bisnpResponse => exact execBisnpResponse_canon hs
  | uioPeerRequest => exact execUioPeerRequest_canon hs
  | cxlResponse => exact execCxlResponse_canon hs
  | cxlTimeout => exact execCxlTimeout_canon hs
  | slowLatMeasure => exact execSlowLatMeasure_canon hs
  | cxlLinkUp => exact execCxlLinkUp_canon hs
  | rhaorCompletion => exact execRhaorCompletion_canon hs
  | rhaorTimeout => exact execRhaorTimeout_canon hs
  | perstN => exact execPerstN_canon hs
  | hotReset => exact next_canon (hotReset_canon hs)
  | flr => exact next_canon (resetIo_canon hs)
  | cxlReset => exact execCxlReset_canon hs
  | powerUp => exact execPowerUp_canon hs
  | stackInitDone => exact execStackInitDone_canon hs
  | firmwareUpdate => exact execFirmwareUpdate_canon hs
  | spdmMessage => exact execSpdmMessage_canon hs
  | reservationEnd => exact execReservationEnd_canon hs
  | quiesceTimeout => exact execQuiesceTimeout_canon hs
  | hostSnoop => exact next_canon (emit_canon hs)
  | hdmDecoderCommit => exact execHdmDecoderCommit_canon hs
  | cacheEnable => exact execCacheEnable_canon hs
  | msixVectorUnmask => exact execMsixVectorUnmask_canon hs
  | cdatTableAccess => exact execCdatTableAccess_canon hs
  | powerRemoval => exact execPowerRemoval_canon hs

theorem step_canon (hs : Canon s) : CanonOut (step s) := by
  unfold step
  split
  · exact next_canon (tick_canon hs)
  · exact exec_canon (update_canon hs)

end Canonical
end Sys2Proof.Machine

/-- Settles O57: `step_canon`, the last of the lemmas about the model's functions. -/
theorem stepKeepsTablesCanonical : Obligations.StepKeepsTablesCanonical := by
  exact fun _ t hs ht => Sys2Proof.Machine.step_canon hs t ht
end

section
-- One proof at a time: elaborated all at once, the proofs of the whole text need more memory than the check gives.
set_option Elab.async false
/-! PROOF. Packets that arrive on a port: which are turned away, what each type does, and how a frame leaves (R324, R336, R326). -/

namespace Sys2Proof.Machine
open Claims

/-! ### What a port's traffic leaves alone -/

/-- What the turning away of packets, the failing of ports and the answering of requests leave alone: cores, stacked memory and global
counters. An event that is on its way stays so, and a port that has latched VIOL keeps it. -/
structure Traffic (s t : State) : Prop where
  cores : t.cores = s.cores := by rfl
  dram : t.dram = s.dram := by rfl
  gctr : t.gctr = s.gctr := by rfl
  gregs : t.gregs = s.gregs := by rfl
  events : ∀ v ∈ s.recorder.arriving, v ∈ t.recorder.arriving := by exact fun _ h => h
  viol : ∀ p : Fin 8, s.links[p].viol = true → t.links[p].viol = true := by exact fun _ h => h

theorem Traffic.refl (s : State) : Traffic s s := {}

theorem Traffic.trans {s t u : State} (a : Traffic s t) (b : Traffic t u) : Traffic s u where
  cores := b.cores.trans a.cores
  dram := b.dram.trans a.dram
  gctr := b.gctr.trans a.gctr
  gregs := b.gregs.trans a.gregs
  events v h := b.events v (a.events v h)
  viol p h := b.viol p (a.viol p h)

theorem Traffic.ite {s t u : State} {p : Prop} [Decidable p] (a : Traffic s t) (b : Traffic s u) : Traffic s (if p then t else u) := by
  split <;> assumption

theorem Traffic.foldl {α : Type} {f : State → α → State} (h : ∀ s a, Traffic s (f s a)) (l : List α) (s : State) :
    Traffic s (l.foldl f s) :=
  List.foldlRecOn l f (Traffic.refl s) fun u hu a _ => hu.trans (h u a)

section Ports
variable {s : State}

theorem modLink_same (s : State) (p : Fin 8) (f : LinkPort → LinkPort) : (modLink s p f).links[p] = f s.links[p] := by simp [modLink]

theorem modLink_other (s : State) {p q : Fin 8} (f : LinkPort → LinkPort) (h : q ≠ p) : (modLink s p f).links[q] = s.links[q] := by
  have hv : p.val ≠ q.val := fun e => h (Fin.ext e.symm)
  simp [modLink, hv]

theorem modLink_traffic (s : State) (p : Fin 8) {f : LinkPort → LinkPort}
    (hf : ∀ x : LinkPort, x.viol = true → (f x).viol = true := by exact fun _ h => h) : Traffic s (modLink s p f) where
  viol q h := by
    by_cases hq : q = p
    · subst hq
      rw [modLink_same]
      exact hf _ h
    · rwa [modLink_other s f hq]

theorem record_traffic (s : State) (code : Nat) (sev : BitVec 2) (unit a0 a1 a2 : Nat) : Traffic s (record s code sev unit a0 a1 a2) where
  events _ h := List.mem_append_left _ h

theorem actAdd_traffic (s : State) (p : Fin 13) (f : Activity → Activity) : Traffic s (actAdd p f s) := {}

theorem emit_traffic (s : State) (m : OutMsg) : Traffic s (emit s m) := {}

theorem putFrame_traffic (p : Fin 8) (k : Packet) (s : State) : Traffic s (putFrame p k s) :=
  (actAdd_traffic ..).trans ((modLink_traffic _ p).trans (emit_traffic ..))

theorem sendFrame_traffic (p : Fin 8) (k : Packet) (o : Option (Fin 8)) (s : State) : Traffic s (sendFrame p k o s) :=
  .ite (putFrame_traffic p k s) (modLink_traffic s p)

theorem sendPacket_traffic {k : Packet} {t : State} (h : sendPacket k s = some t) : Traffic s t := by
  unfold sendPacket at h
  split at h
  · cases h
  · cases h
    exact sendFrame_traffic _ k none s

theorem sendOrDrop_traffic (k : Packet) (s : State) : Traffic s (sendOrDrop k s) := by
  unfold sendOrDrop
  split
  next t h => exact sendPacket_traffic h
  next => exact record_traffic ..

/-! ### Requests that come back refused -/

/-- What the refusal of a request of this device's own leaves alone besides. -/
structure HubTraffic (s t : State) : Prop extends Traffic s t where
  links : t.links = s.links := by rfl

theorem failReq_hubTraffic (r : MemReq) (s : State) : HubTraffic s (failReq r s) := by
  unfold failReq
  split <;> exact {}

theorem settleSnapshot_hubTraffic (run : SnapRun) (s : State) : HubTraffic s (settleSnapshot run s) := by
  unfold settleSnapshot
  split <;> exact {}

theorem mirrorAnswered_hubTraffic (tag : W16) (ok : Bool) (s : State) : HubTraffic s (mirrorAnswered tag ok s) := by
  unfold mirrorAnswered
  dsimp only
  split
  · exact {}
  · split
    · exact {}
    · split
      · exact settleSnapshot_hubTraffic _ s
      · split
        · obtain ⟨h, hl⟩ := settleSnapshot_hubTraffic _ _
          exact ⟨.trans {} h, hl⟩
        · exact {}

theorem remoteRefused_hubTraffic (write : Bool) (tag : W16) (s : State) : HubTraffic s (remoteRefused write tag s) := by
  unfold remoteRefused
  split
  · exact {}
  · obtain ⟨h, hl⟩ := failReq_hubTraffic _ _
    exact ⟨.trans {} h, hl⟩

theorem ownRefused_hubTraffic (ty : Byte) (tag : W16) (s : State) : HubTraffic s (ownRefused ty tag s) := by
  unfold ownRefused
  split
  · exact remoteRefused_hubTraffic ..
  · exact remoteRefused_hubTraffic ..
  · exact mirrorAnswered_hubTraffic ..
  · exact {}

/-! ### Packets that are turned away -/

/-- The NAK of a packet that is turned away. -/
theorem nak_traffic (c : Prop) [Decidable c] (p : Fin 8) (n : Packet) (s : State) :
    Traffic s (if c then s else sendOrDrop n (modLink s p fun x => { x with nakSent := satInc x.nakSent })) :=
  .ite (.refl s) ((modLink_traffic s p).trans (sendOrDrop_traffic ..))

theorem viol_ite {c : Prop} [Decidable c] {x y : LinkPort} (hx : c → x.viol = true) (hy : y.viol = true) :
    (if c then x else y).viol = true := by
  split
  next h => exact hx h
  next => exact hy

theorem turnAway_traffic (p : Fin 8) (k : Packet) (reason : Byte) (s : State) : Traffic s (turnAway p k reason s) := by
  unfold turnAway
  refine Traffic.trans ?_ (nak_traffic ..)
  refine Traffic.trans ?_ (modLink_traffic _ p fun _ h => viol_ite (fun _ => h) rfl)
  exact .trans (t := { s with freeCtr := _ }) {} (record_traffic ..)

/-- A port that turns a packet away latches VIOL. -/
theorem turnAway_viol (p : Fin 8) (k : Packet) (reason : Byte) (s : State) : (turnAway p k reason s).links[p].viol = true := by
  unfold turnAway
  refine (nak_traffic ..).viol p ?_
  rw [modLink_same]
  exact viol_ite (fun h => h) rfl

/-- The event of a refusal names its reason, and is an error where a rule states its severity. -/
theorem turnAway_event (p : Fin 8) (k : Packet) (reason : Byte) (s : State) :
    ∃ v ∈ (turnAway p k reason s).recorder.arriving, v.code = BitVec.ofNat 16 (0x5000 + reason.toNat) ∧
      ((reason == 8 || reason == 9 || reason == 10) = true → v.sev = error) := by
  obtain ⟨v, hv, hc, hs, -⟩ := record_noted
    { s with freeCtr := if reason == 8 || reason == 9 || reason == 10 then s.freeCtr else s.freeCtr + 1 } (0x5000 + reason.toNat)
    (if reason == 8 || reason == 9 || reason == 10 then error else Config.free 2 s.freeCtr) p.val 0 k.src.toNat k.ptype.toNat
  unfold turnAway
  exact ⟨v, (nak_traffic ..).events v hv, hc, fun h => hs.trans (if_pos h)⟩

theorem reroute_traffic (q : Packet × Option (Fin 8)) (s : State) : Traffic s (reroute q s) := by
  have back (reason : Byte) (u : State) : Traffic u (match q.2 with
      | some p => turnAway p q.1 reason u
      | none => ownRefused q.1.ptype q.1.tag
          (record u (0x5000 + reason.toNat) error (wantedPort u q.1.dest.toNat) 0 q.1.src.toNat q.1.ptype.toNat)) := by
    split
    · exact turnAway_traffic ..
    · exact (record_traffic ..).trans (ownRefused_hubTraffic ..).toTraffic
  unfold reroute
  refine .ite (.refl s) ?_
  split
  · exact .ite (sendFrame_traffic ..) (back 3 s)
  · exact .ite (back 13 s) (record_traffic ..)

theorem portFails_traffic (p : Fin 8) (s : State) : Traffic s (portFails p s) :=
  .trans (t := { s with freeCtr := s.freeCtr + 1 }) {} (.trans (modLink_traffic _ p)
    (.trans (record_traffic ..) (.foldl (fun u q => reroute_traffic q u) _ _)))

theorem countViolation_traffic (p : Fin 8) (s : State) : Traffic s (countViolation p s) := by
  unfold countViolation
  refine .ite (modLink_traffic s p) (Traffic.trans (record_traffic s 0x5102 error p.val 0 0 0) (.ite ?_ ?_))
  · exact (modLink_traffic _ p).trans (portFails_traffic ..)
  · exact (modLink_traffic _ p).trans (modLink_traffic _ p)

/-- A refused packet is turned away, and what counts the violation leaves that as it is. -/
theorem refuse_turnAway (p : Fin 8) (k : Packet) (reason : Byte) (s : State) : Traffic (turnAway p k reason s) (refuse p k reason s) :=
  .ite (countViolation_traffic ..) (.refl _)

theorem refuse_traffic (p : Fin 8) (k : Packet) (reason : Byte) (s : State) : Traffic s (refuse p k reason s) :=
  (turnAway_traffic ..).trans (refuse_turnAway ..)

theorem refuse_viol (p : Fin 8) (k : Packet) (reason : Byte) (s : State) : (refuse p k reason s).links[p].viol = true :=
  (refuse_turnAway ..).viol p (turnAway_viol ..)

theorem refuse_event (p : Fin 8) (k : Packet) (reason : Byte) (s : State) :
    ∃ v ∈ (refuse p k reason s).recorder.arriving, v.code = BitVec.ofNat 16 (0x5000 + reason.toNat) ∧
      ((reason == 8 || reason == 9 || reason == 10) = true → v.sev = error) := by
  obtain ⟨v, hv, h⟩ := turnAway_event p k reason s
  exact ⟨v, (refuse_turnAway ..).events v hv, h⟩

end Ports

/-! ### Packets that are taken -/

/-- What a device does with a packet of a type that it takes (R324). -/
def takeType (ty : Byte) (p : Fin 8) (k : Packet) (s : State) : State := match ty.toNat with
  | 1 => remoteAccess p k true s
  | 2 => remoteAccess p k false s
  | 3 => remoteResponse k s
  | 4 => signalArrives p k s
  | 5 => collArrives p k s
  | 6 => tsyncArrives p k s
  | 7 => mirrorArrives p k s
  | 9 => nakArrives p k s
  | _ => s

section Types
variable {s : State} {p : Fin 8} {k : Packet} {ty : Byte}

theorem typed_taken (h : Taken s p k ty) : typed ty p k s = .next (takeType ty p k s) := by
  obtain ⟨hup, hty, hr, hd⟩ := h
  have hf : (!hopLocal k && k.dest != ownAddr s) = false := by
    rcases hd with hl | he
    · simp [hl]
    · simp [he]
  subst hty
  simp only [typed, hup, arrive, hr, hf, beq_self_eq_true, Bool.and_self, if_true, bne_self_eq_false, Bool.false_eq_true, if_false]
  rfl

theorem typed_refused (hup : s.links[p].st = .up) (hty : k.ptype = ty) (hr : refusal s p k ≠ 0) :
    typed ty p k s = .next (refuse p k (refusal s p k) s) := by
  simp only [typed, hup, hty, arrive, bne_iff_ne.mpr hr, beq_self_eq_true, Bool.and_self, if_true]

/-- A packet for another device that is not refused is forwarded. -/
theorem packetForward_forwards (hup : s.links[p].st = .up) (hr : refusal s p k = 0) (hh : hopLocal k = false) (hd : k.dest ≠ ownAddr s) :
    exec (.packetForward p k) s = .next (forward p k s) := by
  have he : exec (.packetForward p k) s = execPacketForward p k s := rfl
  rw [he]
  simp only [execPacketForward, arrive, hup, hr, hh, bne_iff_ne.mpr hd, beq_self_eq_true, Bool.and_self, Bool.not_false, if_true,
    bne_self_eq_false, Bool.false_eq_true, if_false]

theorem exec_arrivalRows {a : Byte × (Fin 8 → Packet → Instr)} (h : a ∈ arrivalRows) (p : Fin 8) (k : Packet) (s : State) :
    exec (a.2 p k) s = typed a.1 p k s := by
  simp only [arrivalRows, List.mem_cons, List.not_mem_nil, or_false] at h
  rcases h with rfl | rfl | rfl | rfl | rfl | rfl | rfl | rfl | rfl <;> rfl

/-- A refused packet is turned away, whatever its type. -/
theorem refused_latches (hup : s.links[p].st = .up) (hty : k.ptype = ty) (hr : refusal s p k ≠ 0) :
    ∃ t v, typed ty p k s = .next t ∧ t.links[p].viol = true ∧ v ∈ t.recorder.arriving ∧
      v.code.toNat = 0x5000 + (refusal s p k).toNat ∧ t.cores = s.cores ∧ t.dram = s.dram := by
  obtain ⟨v, hv, hc, -⟩ := refuse_event p k (refusal s p k) s
  obtain ⟨hcores, hdram, -⟩ := refuse_traffic p k (refusal s p k) s
  refine ⟨_, v, typed_refused hup hty hr, refuse_viol .., hv, ?_, hcores, hdram⟩
  rw [hc, BitVec.toNat_ofNat]
  exact Nat.mod_eq_of_lt (by omega)

/-! ### WRITE and READ, RESP -/

/-- A WRITE or READ within the direct region is a request to stacked memory. -/
theorem remoteAccess_enters (w : Bool) (h : k.addr.toNat + (if w then k.len.toNat else k.arg.toNat) ≤ directEnd) :
    ∃ r, (remoteAccess p k w s).fabric = s.fabric ++ [r] ∧ r.write = w ∧ r.addr = k.addr.toNat ∧ r.data = k.payload ∧
      r.len = (if w then k.len.toNat else k.arg.toNat) ∧ r.agent = .remote k.src k.tag ∧
      remoteAccess p k w s = { s with
        fabric := (remoteAccess p k w s).fabric
        nextId := (remoteAccess p k w s).nextId
        act := (remoteAccess p k w s).act } := by
  have he : remoteAccess p k w s = enterMesh _ _ := if_neg (Nat.not_lt.mpr h)
  rw [he]
  exact ⟨_, rfl, rfl, rfl, rfl, rfl, rfl, rfl⟩

/-- A packet leaves, or is dropped with an event: nothing else of the device changes. -/
theorem sendOrDrop_only (n : Packet) (u : State) : let t := sendOrDrop n u
    t = { u with out := t.out, links := t.links, act := t.act, recorder := t.recorder } := by
  have frame (o : Fin 8) : let t := sendFrame o n none u
      t = { u with out := t.out, links := t.links, act := t.act, recorder := t.recorder } := by
    unfold sendFrame
    dsimp only
    split <;> rfl
  unfold sendOrDrop sendPacket
  split
  next t ht =>
    split at ht
    · cases ht
    · cases ht
      exact frame _
  next => rfl

theorem ackGuest_keeps (key : Nat) (u : State) : let t := ackGuest key u
    t.net.remote = u.net.remote ∧ t.cores = u.cores ∧ t.dram = u.dram ∧ t.runs = u.runs := by
  unfold ackGuest
  split
  · exact ⟨rfl, rfl, rfl, rfl⟩
  · split
    · exact ⟨rfl, rfl, rfl, rfl⟩
    · rw [sendOrDrop_only]
      exact ⟨rfl, rfl, rfl, rfl⟩

theorem noteReleased_keeps (u v : State) : let t := noteReleased u v
    t.net = v.net ∧ t.cores = v.cores ∧ t.dram = v.dram ∧ t.runs = v.runs := by
  unfold noteReleased
  split <;> exact ⟨rfl, rfl, rfl, rfl⟩

/-- An engine's answer is its run's; the requests to other devices, the cores and memory stay as they are. -/
theorem answerMem_engine {r : MemReq} {key : Nat} {o : Option SlotIx} (h : r.agent = .engine key o) (data : List Byte)
    (poison : List Bool) (u : State) : let t := answerMem r data poison u
    t.net.remote = u.net.remote ∧ t.cores = u.cores ∧ t.dram = u.dram ∧ t.runs = (answerRun key r.id r.write data poison u).runs := by
  have he : answerMem r data poison u =
      ackGuest key (noteRestored key (noteReleased u (answerRun key r.id r.write data poison u))) := by rw [answerMem, h]
  obtain ⟨an, ac, ad, ar⟩ := ackGuest_keeps key (noteRestored key (noteReleased u (answerRun key r.id r.write data poison u)))
  obtain ⟨nn, nc, nd, nr⟩ := noteReleased_keeps u (answerRun key r.id r.write data poison u)
  rw [he]
  exact ⟨an.trans (congrArg Links.remote nn), ac.trans nc, ad.trans nd, ar.trans nr⟩

/-- A RESP of a request that has not fetched first answers it. -/
theorem remoteResponse_answers {q : W16 × MemReq × Nat} (hf : s.net.fetching.contains k.tag = false)
    (hq : (s.net.remote.find? fun q => q.1 == k.tag && BitVec.ofNat 32 (q.2.1.addr / 2 ^ 39 % 2 ^ 24) == k.src) = some q) :
    remoteResponse k s = answerMem q.2.1 ((k.payload.drop (q.2.1.addr % 64)).take q.2.1.len)
      (List.replicate ((granuleSpan q.2.1).2 / 64) (bit k.pflags 0))
      { s with net := { s.net with remote := s.net.remote.erase q, fetching := s.net.fetching.erase k.tag } } := by
  simp only [remoteResponse, hq, hf, Bool.false_eq_true, if_false]

/-! ### SIGNAL, COLL and TSYNC -/

theorem signalArrives_held (h : (globalOf s (Fin.ofNat 4096 k.addr.toNat)).holder.isSome = true) :
    signalArrives p k s = if k.arg.toNat % 65536 = 0 then s else
      { s with gsigs := s.gsigs ++ [{ g := Fin.ofNat 4096 k.addr.toNat, op := .packet p k, due := s.time.cycle, core := 0, ctx := 0,
                                      pc := 0, src := none }] } := by
  have hn : (gget s (Fin.ofNat 4096 k.addr.toNat)).holder.isNone = false := by
    rw [← Option.not_isSome, show (gget s _).holder.isSome = true from h]
    rfl
  unfold signalArrives
  rw [if_neg (by rw [hn]; decide)]

/-- A signal of a counter that no task holds is refused. -/
theorem signalArrives_free (h : (globalOf s (Fin.ofNat 4096 k.addr.toNat)).holder = none) :
    signalArrives p k s = refuse p k 9 { s with gregs := { s.gregs with dropped := satInc s.gregs.dropped } } :=
  if_pos (by rw [show (gget s (Fin.ofNat 4096 k.addr.toNat)).holder = none from h]; rfl)

/-- A segment of an open entry, from a device of its group and of its STEP, is taken. -/
theorem collArrives_open {i : SlotIx} {e : Posted} (he : collEntry s k.coll = some (i, e))
    (hg : (groupRank s (groupAt s (Entry.group e.words)) k.src.toNat).isSome = true) (hs : k.step = Entry.step e.words) :
    collArrives p k s = s := by
  unfold collArrives
  rw [he]
  dsimp only
  rw [if_neg (by rw [Option.isNone_eq_false_iff.mpr hg]; decide), if_neg (by simp [hs])]

/-- A segment of no entry is held where there is room. -/
theorem collArrives_held (he : collEntry s k.coll = none)
    (hb : s.net.held.foldl (fun n h => n + h.pkt.payload.length) 0 + k.payload.length ≤ 16 * 2 ^ 20)
    (hk : (k.coll :: s.net.held.map fun h => h.pkt.coll).eraseDups.length ≤ 64) :
    collArrives p k s = { s with net := { s.net with held := s.net.held ++ [{ port := p, pkt := k, at_ := s.time.cycle }] } } := by
  unfold collArrives
  rw [he]
  rw [if_neg]
  simp only [Bool.or_eq_true, decide_eq_true_eq, not_or, Nat.not_lt]
  exact ⟨hb, hk⟩

/-- A TSYNC of the upstream port shows it lives, and one that asks is answered. -/
theorem tsyncArrives_eq : ∃ u,
    u = (if s.time.upstream.toNat = p.val then { s with time := { s.time with lastSync := nsNow s } } else s) ∧
    if bit k.arg 32 = true then tsyncArrives p k s = u
    else ∃ r, tsyncArrives p k s = sendFrame p r none u ∧ r.ptype = 6 ∧ r.tag = k.tag ∧ r.addr = BitVec.ofNat 64 (ftNow s) ∧
      bit r.arg 32 = true := by
  refine ⟨_, rfl, ?_⟩
  by_cases h : bit k.arg 32 = true
  · simp only [tsyncArrives, if_pos h]
  · simp only [tsyncArrives, if_neg h]
    refine ⟨_, rfl, rfl, rfl, ?_, ?_⟩
    · split <;> rfl
    · show bit (BitVec.ofNat 64 (2 ^ 32)) 32 = true
      decide

/-! ### NAK -/

theorem nakArrives_hubTraffic : HubTraffic (modLink s p fun x => { x with nakRcvd := satInc x.nakRcvd }) (nakArrives p k s) := by
  unfold nakArrives
  dsimp only
  split
  · exact ownRefused_hubTraffic ..
  · split
    · exact {}
    · split
      · exact {}
      · split
        · exact {}
        · split <;> exact {}

/-- A NAK is counted, and of a SIGNAL nothing else happens. -/
theorem nakArrives_keeps : let t := nakArrives p k s
    t.links[p].nakRcvd = satInc s.links[p].nakRcvd ∧ t.cores = s.cores ∧ t.dram = s.dram ∧
      (k.orig = 4 → t = { s with links := t.links }) := by
  obtain ⟨⟨hc, hd, -⟩, hl⟩ := nakArrives_hubTraffic (s := s) (p := p) (k := k)
  refine ⟨?_, hc, hd, fun h => ?_⟩
  · rw [hl, modLink_same]
  · have he : nakArrives p k s = modLink s p fun x => { x with nakRcvd := satInc x.nakRcvd } := by
      have ho : (k.orig != 5) = true := by rw [h]; decide
      rw [nakArrives, if_pos ho, h]
      rfl
    rw [he]
    rfl

end Types

/-! ### MIRROR -/

/-- What the requests of a run leave alone: the mirrored saddlebags and the segments that wait to be answered. -/
structure BagKept (s t : State) : Prop where
  mir : t.mir = s.mir := by rfl
  acks : t.net.acks = s.net.acks := by rfl

theorem BagKept.trans {s t u : State} (a : BagKept s t) (b : BagKept t u) : BagKept s u where
  mir := b.mir.trans a.mir
  acks := b.acks.trans a.acks

theorem BagKept.ite {s t u : State} {p : Prop} [Decidable p] (a : BagKept s t) (b : BagKept s u) : BagKept s (if p then t else u) := by
  split <;> assumption

theorem BagKept.foldl {α : Type} {f : State → α → State} (h : ∀ s a, BagKept s (f s a)) (l : List α) (s : State) :
    BagKept s (l.foldl f s) :=
  List.foldlRecOn l f (motive := fun t => BagKept s t) {} fun u hu a _ => hu.trans (h u a)

section Bags
variable {s : State}

theorem modTask_bag (t : SlotIx) (f : Task → Task) (s : State) : BagKept s (modTask s t f) := {}

theorem sendPacket_bag {k : Packet} {t : State} (h : sendPacket k s = some t) : BagKept s t := by
  unfold sendPacket at h
  split at h
  · cases h
  · cases h
    exact .ite {} {}

theorem failReq_bag (r : MemReq) (s : State) : BagKept s (failReq r s) := by
  unfold failReq
  split <;> exact {}

theorem slowDrain_bag (n : Nat) (s : State) : BagKept s (slowDrain n s) := by
  induction n generalizing s with
  | zero => exact {}
  | succ n ih =>
    unfold slowDrain
    split
    next => exact {}
    next m _ => exact .trans (t := slowEmit m _) {} (ih _)

theorem slowGo_bag (r : MemReq) (s : State) : BagKept s (slowGo r s) := .trans {} (slowDrain_bag _ _)

theorem slowSend_bag (r : MemReq) (s : State) : BagKept s (slowSend r s) := by
  unfold slowSend
  refine .ite (failReq_bag r s) (.ite (.ite (failReq_bag r s) ?_) (.ite (failReq_bag r s) (slowGo_bag r s)))
  split
  next => exact slowGo_bag r s
  next =>
    refine .ite (failReq_bag r s) ?_
    split
    · exact failReq_bag r s
    · exact .trans {} (slowGo_bag r _)

theorem remotePacket_bag (r : MemReq) (w : Bool) (data : List Byte) (poison : Bool) (s : State) :
    BagKept s (remotePacket r w data poison s) := by
  unfold remotePacket
  dsimp only
  split
  next => exact failReq_bag r s
  next t h => exact (sendPacket_bag h).trans {}

theorem remoteSend_bag (r : MemReq) (s : State) : BagKept s (remoteSend r s) :=
  .ite (failReq_bag r s) (.ite (remotePacket_bag ..) (remotePacket_bag ..))

theorem stashAlloc_bag {t : SlotIx} {sid pg : Nat} {x : Nat × State} (h : stashAlloc t sid pg s = some x) : BagKept s x.2 := by
  generalize hf : stashAlloc = f at h
  delta stashAlloc at hf
  subst hf
  beta_reduce at h
  extract_lets +onlyGivenNames T y at h
  clear_value y T
  split at h
  · obtain rfl := Option.some.inj h
    exact {}
  · split at h
    · split at h
      · obtain rfl := Option.some.inj h
        dsimp only
        refine BagKept.trans ?_ (modTask_bag ..)
        exact .ite {} {}
      · cases h
    · cases h

theorem sendReq_bag (r : MemReq) (s : State) : BagKept s (sendReq r s) := by
  have go (a : Nat) (u : State) : BagKept u (match spaceOf a with
      | some .slow => slowSend { r with addr := a } u
      | some .remote => remoteSend { r with addr := a } u
      | none | some .stash => failReq { r with addr := a } u
      | some .direct | some .param | some .table => enterMesh { r with addr := a } u) := by
    split
    · exact slowSend_bag _ u
    · exact remoteSend_bag _ u
    · exact failReq_bag _ u
    · exact failReq_bag _ u
    all_goals exact {}
  rw [sendReq]
  split
  · exact failReq_bag r s
  · exact slowSend_bag r s
  · exact remoteSend_bag r s
  · extract_lets q go'
    have hgo (a : Nat) (u : State) : BagKept u (go' a u) := go (a + q.2.2) u
    clear_value go' q
    split
    · exact failReq_bag r s
    next t _ =>
      cases s.tasks[t].stash.lookup q.1 q.2.1 with
      | some a => exact hgo a s
      | none =>
        refine .ite (failReq_bag r s) ?_
        cases h : stashAlloc t q.1 q.2.1 s with
        | some v => exact (stashAlloc_bag h).trans (hgo v.1 v.2)
        | none => exact {}
  · exact {}

theorem runSend_bag (key : Nat) (o : Option SlotIx) (k : Rank) (w : Bool) (a n : Nat) (data : List Byte) (poison : Bool) (s : State) :
    BagKept s (runSend key o k w a n data poison s) := by
  obtain ⟨r, c, ac, id, rs, e, -⟩ := runSend_request (o := o) key k w a n data poison s
  rw [e]
  exact .trans {} (sendReq_bag r _)

theorem runCommit_bag (u : EngRun) (k : Rank) (wrote : List (Nat × List Byte × Bool)) (w : State) :
    BagKept w (runCommit u k wrote w) := by
  obtain ⟨v, rs, hv, e⟩ := runCommit_sends u k wrote w
  have hw : BagKept w v := by rw [hv]; exact {}
  have again : BagKept v (sendAgain u k (Probe.repeats w.probe) v) :=
    .foldl (fun s (q : Nat × Nat) => runSend_bag u.key u.t k false q.1 q.2 [] false s) _ v
  have write (t : State) (x : Nat × List Byte × Bool) : BagKept t (sendWrite u k t x) :=
    .foldl (fun s (q : Nat × Nat) => runSend_bag u.key u.t k true q.1 q.2 _ x.2.2 s) _ t
  rw [e]
  exact ((hw.trans again).trans (.foldl write wrote _)).trans {}

theorem sendReq_enters {r : MemReq} (h : r.addr < directEnd) (s : State) : sendReq r s = enterMesh r s := by
  have hs : spaceOf r.addr = some .direct := if_pos h
  rw [sendReq, hs]

/-- A write within stacked memory is on the bulk network at once, with its bytes. -/
theorem runSend_writes {a : Nat} (h : a < directEnd) (key : Nat) (o : Option SlotIx) (k : Rank) (n : Nat) (data : List Byte) (poison : Bool)
    (s : State) : ∃ x ∈ (runSend key o k true a n data poison s).fabric, x.write = true ∧ x.addr = a ∧ x.data = data := by
  unfold runSend
  dsimp only
  rw [sendReq_enters]
  · exact ⟨_, List.mem_append_right _ (List.mem_singleton_self _), rfl, rfl, rfl⟩
  · exact h

/-- The units of a range cover it. -/
theorem unitParts_cover {u a n x : Nat} (hu : 0 < u) (ha : a ≤ x) (hx : x < a + n) :
    ∃ q ∈ unitParts u a n, a ≤ q.1 ∧ q.1 ≤ x ∧ x < q.1 + q.2 := by
  have hd : a / u ≤ x / u := Nat.div_le_div_right ha
  have hl : x / u ≤ (a + n - 1) / u := Nat.div_le_div_right (by omega)
  have hlo : x / u * u ≤ x := Nat.div_mul_le_self x u
  have hhi : x < (x / u + 1) * u := by
    have hm : x / u * u + x % u = x := Nat.div_add_mod' x u
    have hr : x % u < u := Nat.mod_lt x hu
    rw [Nat.succ_mul]
    omega
  rw [unitParts, if_neg (by omega)]
  refine ⟨_, List.mem_map.mpr ⟨x / u - a / u, List.mem_range.mpr (by omega), rfl⟩, le_max_left .., ?_⟩
  simp only [Nat.add_sub_cancel' hd]
  omega

/-- Every byte of a write to stacked memory is in a write that leaves. -/
theorem sendWrite_bytes {a : Nat} {bs : List Byte} (h : a + bs.length ≤ directEnd) {j : Nat} (hj : j < bs.length) (u : EngRun) (k : Rank)
    (poison : Bool) (s : State) :
    ∃ x ∈ (sendWrite u k s (a, bs, poison)).fabric, x.write = true ∧ x.addr ≤ a + j ∧ x.data[a + j - x.addr]? = bs[j]? := by
  obtain ⟨q, hq, hlo, hle, hlt⟩ := unitParts_cover (u := 256) (a := a) (n := bs.length) (x := a + j) (by decide) (by omega) (by omega)
  refine foldl_sets (P := fun t : State => ∃ x ∈ t.fabric, x.write = true ∧ x.addr ≤ a + j ∧ x.data[a + j - x.addr]? = bs[j]?)
    (p := (· = q)) (fun t r hr => ?_) (fun t r ⟨x, hx, hp⟩ => ⟨x, (runSend_sent ..).fabric x hx, hp⟩) _ s ⟨q, hq, rfl⟩
  subst hr
  obtain ⟨x, hx, hw, ha, hd⟩ := runSend_writes (a := r.1) (by omega) u.key u.t k r.2 ((bs.drop (r.1 - a)).take r.2) poison t
  refine ⟨x, hx, hw, ha ▸ hle, ?_⟩
  rw [hd, ha, List.getElem?_take, if_pos (by omega), List.getElem?_drop]
  congr 1
  omega

theorem runCommit_bytes {a : Nat} {bs : List Byte} (h : a + bs.length ≤ directEnd) {j : Nat} (hj : j < bs.length) (u : EngRun) (k : Rank)
    (poison : Bool) (w : State) :
    ∃ x ∈ (runCommit u k [(a, bs, poison)] w).fabric, x.write = true ∧ x.addr ≤ a + j ∧ x.data[a + j - x.addr]? = bs[j]? := by
  obtain ⟨v, rs, -, e⟩ := runCommit_sends u k [(a, bs, poison)] w
  rw [e]
  exact sendWrite_bytes h hj u k poison _

/-- LEN of a packet that is taken is the length of its payload (R336). -/
theorem payload_length_of_taken {p : Fin 8} {k : Packet} {ty : Byte} (ht : Taken s p k ty) : k.payload.length = k.len.toNat := by
  obtain ⟨-, -, h, -⟩ := ht
  have hl : lenAllowed k = true := by
    by_contra hl
    simp only [refusal, Bool.not_eq_true] at h hl
    rw [hl] at h
    split at h
    · cases h
    · split at h
      · cases h
      · simp at h
  simp only [lenAllowed, Bool.and_eq_true, beq_iff_eq] at hl
  exact hl.1

/-- A MIRROR segment that is taken (R340). -/
theorem mirrorArrives_eq {p : Fin 8} {k : Packet} {i : SlotIx} (ho : s.mir.owner = some i) (hg : k.src = s.mir.guest.setWidth 32)
    (hl : k.addr.toNat + k.len.toNat ≤ slotSize s.tasks[i])
    (hn : (s.mir.guest0 = .committed ∨ s.mir.guest1 = .committed) →
      bit k.arg 32 = otherSlot (committed s.mir.guest0 s.mir.guest0Step) (committed s.mir.guest1 s.mir.guest1Step)) :
    ∃ u w a, mirrorArrives p k s = runCommit u (arrivalRank s p k) [(guestAddr s i k, k.payload, bit k.pflags 0)] w ∧ u.t = none ∧
      w.cores = s.cores ∧ w.tasks = s.tasks ∧ w.dram = s.dram ∧
      w.mir = { setGuest (bit k.arg 32) .filling (loW k.arg) s.mir with guestFresh := false } ∧ w.net.acks = s.net.acks ++ [a] ∧
      a.src = k.src ∧ a.tag = k.tag ∧ a.commit = (if bit k.arg 33 = true then some (bit k.arg 32, loW k.arg) else none) := by
  have hc : (k.src != s.mir.guest.setWidth 32 || decide (slotSize s.tasks[i] < k.addr.toNat + k.len.toNat)
      || ((s.mir.guest0 == .committed || s.mir.guest1 == .committed) &&
        bit k.arg 32 != otherSlot (committed s.mir.guest0 s.mir.guest0Step) (committed s.mir.guest1 s.mir.guest1Step))) = false := by
    simp only [Bool.or_eq_false_iff, bne_eq_false_iff_eq, decide_eq_false_iff_not, Bool.and_eq_false_imp, Bool.or_eq_true, beq_iff_eq]
    exact ⟨⟨hg, Nat.not_lt.mpr hl⟩, hn⟩
  unfold mirrorArrives
  dsimp only
  rw [ho]
  dsimp only
  rw [hc, if_neg Bool.false_ne_true]
  exact ⟨_, _, _, rfl, rfl, rfl, rfl, rfl, rfl, rfl, rfl, rfl, rfl⟩

end Bags

/-! ### Frames -/

/-- A frame's check sequence covers its other fields alone. -/
theorem frameGood_linkOf (x : LinkPort) (n : W16) (k : Packet) : frameGood (x.linkOf n k) k = true := by
  simp only [frameGood, LinkPort.linkOf, sealFrame, Bool.true_and, beq_iff_eq]
  rfl

/-- A frame for which its port has room leaves (R323, R326). -/
theorem sendFrame_leaves {o : Fin 8} {k : Packet} {f : Option (Fin 8)} {s : State} (hw : s.links[o].waiting = [])
    (h : s.links[o].canLeave k = true) : sendFrame o k f s = putFrame o k s := by
  simp only [sendFrame, h, hw, List.any_nil]
  rfl

theorem sendFrame_waits {o : Fin 8} {k : Packet} {f : Option (Fin 8)} {s : State} (h : s.links[o].canLeave k = false) :
    sendFrame o k f s = modLink s o fun x => { x with waiting := x.waiting ++ [(k, f)] } := by
  simp only [sendFrame, h]
  rfl

theorem putFrame_links (o : Fin 8) (k : Packet) (s : State) : (putFrame o k s).links[o] = { s.links[o] with
    replay := s.links[o].replay ++ [(s.links[o].txNext, s.links[o].onHop k)]
    txNext := s.links[o].txNext + 1
    credit0 := if classZero k then s.links[o].credit0 - frameUnits k else s.links[o].credit0
    credit1 := if classZero k then s.links[o].credit1 else s.links[o].credit1 - frameUnits k } := by
  unfold putFrame emit
  rw [modLink_same]
  rfl

/-- A frame takes the credits of its class. -/
theorem putFrame_credits {o : Fin 8} {k : Packet} {s : State} (h : s.links[o].canLeave k = true) :
    (putFrame o k s).links[o].credit0 + (putFrame o k s).links[o].credit1 + frameUnits k = s.links[o].credit0 + s.links[o].credit1 := by
  simp only [LinkPort.canLeave, Bool.and_eq_true, decide_eq_true_eq] at h
  obtain ⟨-, hu⟩ := h
  rw [putFrame_links]
  by_cases hc : classZero k = true
  · simp only [hc, if_true] at hu ⊢
    omega
  · simp only [hc] at hu ⊢
    simp only [Bool.false_eq_true, if_false] at hu ⊢
    omega

end Sys2Proof.Machine

open Sys2Proof Sys2Proof.Machine Sys2Proof.Claims in
/-- Settles O41: a packet that is refused is turned away (`refused_latches`), and one that is taken goes by its type (`typed_taken`);
a frame leaves where its port has room for it and waits where it has not. -/
theorem packetArrivals : Obligations.PacketArrivals := by
  unfold Obligations.PacketArrivals
  refine ⟨fun a ha p k s hup hty hr => ?_, fun p k s h ha => ?_, fun p k s h ha => ?_, fun p k q s h hf hq => ?_, fun p k s h => ?_,
    fun p k i e s h he hg hs => ?_, fun p k s h he hb hk => ?_, fun p k s h => ?_, fun p k i s h ho hg hl hn ha => ?_,
    fun p k s h => ?_, fun p k s h => ?_, fun p o k s hup hr hh hd ho hk => ?_, fun o k f s hw => ⟨fun h => ?_, fun h => ?_⟩⟩
  · rw [exec_arrivalRows ha]
    exact refused_latches hup hty hr
  · obtain ⟨r, hf, hw, hr, hd, -, hg, hs⟩ := remoteAccess_enters (p := p) (s := s) (k := k) true ha
    exact ⟨_, r, typed_taken h, hf, hw, hr, hd, hg, hs⟩
  · obtain ⟨r, hf, hw, hr, -, hl, hg, hs⟩ := remoteAccess_enters (p := p) (s := s) (k := k) false ha
    exact ⟨_, r, typed_taken h, hf, hw, hr, hl, hg, hs⟩
  · have he : exec (.resp p k) s = _ := (typed_taken h).trans (congrArg _ (remoteResponse_answers hf hq))
    refine ⟨fun c i hc => ?_, fun key o hk => ?_⟩
    · rw [answerMem_stream hc] at he
      exact ⟨_, _, he, rfl, rfl, rfl, rfl, rfl, rfl⟩
    · obtain ⟨hn, hc, hd, hr⟩ := answerMem_engine hk ((k.payload.drop (q.2.1.addr % 64)).take q.2.1.len)
        (List.replicate ((granuleSpan q.2.1).2 / 64) (bit k.pflags 0))
        { s with net := { s.net with remote := s.net.remote.erase q, fetching := s.net.fetching.erase k.tag } }
      exact ⟨_, he, hn, hc, hd, hr⟩
  · have he : exec (.signal p k) s = .next (signalArrives p k s) := typed_taken h
    refine ⟨fun hg hz => ?_, fun hg hz => ?_, fun hg => ?_⟩
    · rw [he, signalArrives_held hg, if_pos hz]
    · rw [he, signalArrives_held hg, if_neg hz]
      exact ⟨_, _, rfl, rfl, rfl, rfl, rfl, rfl⟩
    · obtain ⟨v, hv, hc, hs⟩ := refuse_event p k 9 { s with gregs := { s.gregs with dropped := satInc s.gregs.dropped } }
      obtain ⟨hcores, -, hgctr, hgregs, -⟩ :=
        refuse_traffic p k 9 { s with gregs := { s.gregs with dropped := satInc s.gregs.dropped } }
      rw [he, signalArrives_free hg]
      exact ⟨_, v, rfl, by rw [hgregs], hv, hc, hs rfl, hgctr, hcores⟩
  · exact (typed_taken h).trans (congrArg _ (collArrives_open he hg hs))
  · exact ⟨_, _, (typed_taken h).trans (congrArg _ (collArrives_held he hb hk)), rfl, rfl, rfl, rfl⟩
  · obtain ⟨u, hu, ht⟩ := tsyncArrives_eq (s := s) (p := p) (k := k)
    exact ⟨_, u, typed_taken h, hu, ht⟩
  · obtain ⟨u, w, a, he, hu, hcores, htasks, hdram, hmir, hacks, hsrc, htag, hcommit⟩ := mirrorArrives_eq (p := p) ho hg hl hn
    have sent := hu ▸ runCommit_sent u (arrivalRank s p k) [(guestAddr s i k, k.payload, bit k.pflags 0)] w
    have bag := runCommit_bag u (arrivalRank s p k) [(guestAddr s i k, k.payload, bit k.pflags 0)] w
    have hlen : k.payload.length = k.len.toNat := payload_length_of_taken h
    refine ⟨_, a, (typed_taken h).trans (congrArg _ he), sent.cores.trans hcores, sent.tasks.trans htasks,
      (runCommit_frame ..).dram.trans hdram, bag.mir.trans hmir, bag.acks.trans hacks, hsrc, htag, hcommit, fun j hj => ?_⟩
    exact runCommit_bytes (hlen ▸ ha) hj ..
  · exact typed_taken h
  · exact ⟨_, typed_taken h, nakArrives_keeps⟩
  · rw [packetForward_forwards hup hr hh hd]
    simp only [forward, ho, hk, if_true]
  · rw [sendFrame_leaves hw h]
    refine ⟨s.links[o].onHop k, rfl, rfl, rfl, rfl, rfl, frameGood_linkOf .., ?_, ?_, putFrame_credits h, rfl⟩
    · rw [putFrame_links]
    · rw [putFrame_links]
  · rw [sendFrame_waits h]
    refine ⟨?_, rfl⟩
    rw [modLink_same, hw]
    rfl
end
